-- ==== Sys2Proof/Word.lean ====
section
/-! DEFINITION. The words the SQ-40's manual computes with (spec 00_scope R4, R6). -/

namespace Sys2Proof

/-- A 32-bit word: one register, one memory word (R6). -/
abbrev Word := BitVec 32

/-- A byte of memory (R4). -/
abbrev Byte := BitVec 8

/-- A 64-bit address or PC (R75, R170). -/
abbrev Addr := BitVec 64

/-- One bit per lane of a gang of up to 64 lanes, bit `l` for lane `l` (R112). -/
abbrev LaneMask := BitVec 64

end Sys2Proof
end

