-- ==== Sys2Proof/Syntax.lean ====
section
/-! DEFINITION. The rows of spec/opcode_table.json as ONE inductive type: the words of a bundle (spec 04_encoding, 05_opcode_map)
and the steps of the device, its firmware, the host and the fabric. What an event carries is what its environment decides. -/

namespace Sys2Proof

/-- A 9-bit source field (04_encoding R79). -/
inductive Src where
  /-- Vector register `v n` through crossbar pattern `pat` (R81). -/
  | vec (pat : BitVec 2) (n : BitVec 6)
  /-- Uniform register `k n`. -/
  | uni (n : BitVec 7)
  /-- A signed 6-bit immediate. -/
  | imm (i : BitVec 6)
  /-- A special value (R82). -/
  | spec (n : BitVec 5)
  /-- Indirect through index register `x`; `uniform` names the uniform file (R83). -/
  | ind (x : BitVec 3) (uniform : Bool)
  /-- The reserved pattern 11111; the word raises SOURCE. -/
  | rsvd (n : BitVec 4)
deriving DecidableEq, Repr

/-- The fields of a MOD word, C and MAJOR apart (04_encoding R86). -/
structure ModFields where
  pred  : BitVec 3
  pneg  : Bool
  sat   : Bool
  clamp : BitVec 2
  neg   : Bool
  absa  : Bool
  absb  : Bool
  nega  : Bool
  negb  : Bool
  scale : BitVec 4
  rnd   : BitVec 2
  xbb   : BitVec 3
  low   : BitVec 3
deriving DecidableEq, Repr

/-- The fields of the MEM format (04_encoding R84, R85). -/
structure MemFields where
  d     : BitVec 6
  addr  : Src
  width : BitVec 3
  scope : BitVec 3
  space : BitVec 2
  off   : Bool
deriving DecidableEq, Repr

/-- The fields of the ATOM format but the operation (04_encoding R84, 05_opcode_map R109). -/
structure AtomFields where
  d     : BitVec 6
  addr  : Src
  wide  : Bool
  scope : BitVec 3
  sp    : Bool
deriving DecidableEq, Repr

/-- The fields of the CPY format (04_encoding R84, 11_isa_memory R228). -/
structure CpyFields where
  s    : BitVec 6
  addr : Src
  size : BitVec 2
  ss   : BitVec 2
  ds   : BitVec 2
  h    : BitVec 3
deriving DecidableEq, Repr

/-- The two snapshot colours (16_snapshot R301 to R303). -/
inductive Colour where
  | c0
  | c1
deriving DecidableEq, Repr

/-- A firmware image: its bytes, the public key that comes with it, and its LMS signature (19_host_firmware R359; log entry 77, PRESUMED). -/
structure FwImage where
  bytes : List Byte
  key   : List Byte
  sig   : List Byte
deriving DecidableEq, Repr

/-- The kinds of a halyard target (01_device R17, 13_queues R271): a CXL memory window by its first byte and size, a peer package's memory from a
pod-global address on, an NVMe namespace. -/
inductive TargetKind where
  | cxl (base size : Nat)
  | peer (ga : Nat)
  | nvme (ns : Nat)
deriving DecidableEq, Repr

/-- A target descriptor: its kind, and the power domain that the host declares for a window or a namespace (16_snapshot R320). -/
structure TargetDesc where
  kind : TargetKind
  pdom : Option Nat
deriving DecidableEq, Repr

/-- The device identity (01_device R20, 19_host_firmware R359): the 32-bit PHYS of 15_tables_counters R291, and the public keys of the 16 identity trees,
certified at manufacture (log entry 91, DESIGN CHOICE). -/
structure Identity where
  phys : Nat
  keys : List (List Byte)
deriving DecidableEq, Repr

/-- What the start-up sequence meets (19_host_firmware R363): images that service has put into the masthead's banks while the package was without
supply, none where a bank holds what it held (log entry 92, DESIGN CHOICE); the spar images; the bytes of each CXL expander, in the order the host names
(R355); the halyard targets that firmware sets up for each colour (13_queues R271); the number of the first of steps 3 to 7 that fails, 0 for none; and
the fuses and the identity that manufacture gives a package whose fuses are not blown (R359; log entry 85, DESIGN CHOICE). -/
structure BootFacts where
  bankA     : Option FwImage
  bankB     : Option FwImage
  spars     : List FwImage
  expanders : List Nat
  target0   : Option TargetDesc
  target1   : Option TargetDesc
  failStep  : Nat
  fuse      : BitVec 256
  ident     : Identity
deriving DecidableEq, Repr

/-- A context as the physical function creates it (19_host_firmware R354): owning function, page-table root (09_memories R172),
trap vector table (15_tables_counters R290), snapshot group and right with the least time between its requests in microseconds, 0 for no bound
(16_snapshot R300, R301), die windows as (die, ranges in window order) (09_memories R180). -/
structure CtxSpec where
  id      : Nat
  fn      : Nat
  root    : Nat
  trapvec : Nat
  group   : Nat
  right   : Bool
  rate    : Nat
  windows : List (Nat × List Nat)
deriving DecidableEq, Repr

/-- The snapshot right of a context, and the least time between its requests in microseconds, 0 for no bound (16_snapshot R300, R301). -/
structure SnapRight where
  held : Bool
  rate : Nat
deriving DecidableEq, Repr

/-- What a core asks a walker for: a 4 KiB virtual page (09_memories R172, R176). -/
structure PageAsk where
  core : Nat
  page : Nat
deriving DecidableEq, Repr

/-- A command queue as it is created (13_queues R252). -/
structure QueueSpec where
  vf    : Nat
  num   : Nat
  ctx   : Nat
  base  : Nat
  slots : Nat
deriving DecidableEq, Repr

/-- States of a pod-map entry (15_tables_counters R291). -/
inductive PodState where
  | absent
  | live
  | failed
  | retiring
deriving DecidableEq, Repr

/-- One pod-map entry (15_tables_counters R291). -/
structure PodEntry where
  lid   : Nat
  phys  : Nat
  st    : PodState
  pdom  : Nat
  sgrp  : Nat
  epoch : Nat
deriving DecidableEq, Repr

/-- A multicast group descriptor as the host has it written (18_fabric_collectives R346): its 64 bytes, its member array's entries; `agreed`: the other
members' packages find that their ranges are pages of one context with RD and WR. -/
structure GroupWrite where
  desc   : BitVec 512
  array  : List (BitVec 64)
  agreed : Bool
deriving DecidableEq, Repr

/-- The firmware policies (19_host_firmware R356). -/
inductive Policy where
  | powerCeiling
  | lostPeerBound
  | linkInterval
  | killBound
  | stallInterval
  | durabilityBound
  | snapInterval
  | scrubPass
  | spliceCeiling
  | sliceLength
  | sliceWeight
deriving DecidableEq, Repr

/-- Cores chosen for the blocks of one cluster, in block order (02_execution R26; the choice is the SQ-40's own, R1). -/
structure Placement where
  cores : List Nat
deriving DecidableEq, Repr

/-- A unit that a newcomer claims from a pre-empted victim (02_execution R39, 12_isa_tiles R251). -/
inductive ClaimUnit where
  | slice (core part idx : Nat)
  | bank (core idx : Nat)
  | obuf (core unit : Nat)
  | wbuf (core unit : Nat)
  | acc (core bank : Nat)
  | array (core : Nat)
  | rcd (core rcd : Nat)
deriving DecidableEq, Repr

/-- A unit that passes between owner contexts (09_memories R189); a page is its frame and size in bytes. -/
inductive OwnedUnit where
  | page (va frame size : Nat)
  | bank (core idx : Nat)
  | range (die idx : Nat)
  | slice (core part idx : Nat)
  | obuf (core unit : Nat)
  | wbuf (core unit : Nat)
  | acc (core bank : Nat)
deriving DecidableEq, Repr

/-- What an entry of a context save area is of (02_execution R39): gangs and blocks by name, with bank, lane group, record or
index. -/
inductive SaveKey where
  | slice (gid bank grp : Nat)
  | bank (blk idx : Nat)
  | obuf (gid rcd idx : Nat)
  | rcd (gid rcd : Nat)
  | acc (blk bank : Nat)
  | array (gid : Nat)
deriving DecidableEq, Repr

/-- A unit of capture (16_snapshot R306); of a save area, a 128-byte line of an entry. -/
inductive CapUnit where
  | line (ctx va : Nat)
  | bank (core idx : Nat)
  | range (die idx : Nat)
  | slice (core part idx : Nat)
  | l1 (core line : Nat)
  | l2 (line : Nat)
  | save (key : SaveKey) (line : Nat)
deriving DecidableEq, Repr

/-- A cache whose line leaves it of its own accord (10_consistency R211): a core's L1, or the package's L2 slices. -/
inductive CacheName where
  | l1 (core : Nat)
  | l2
deriving DecidableEq, Repr

/-- A member's question after a colour's group state (17_isa_sync_system R340): the member, and its number for the question. -/
structure GroupQuery where
  member : Nat
  tok    : Word
deriving DecidableEq, Repr

/-- A restoration as the host asks for it (16_snapshot R323): the group, the image's id, the logical id this package takes, and
for every logical id its target's physical identity and power domain. `answer`: the stream's bytes as a target outside this package answers them,
none where it answers what was written there (R324; log entry 89, DESIGN CHOICE). -/
structure RestoreSpec where
  group   : Nat
  id      : Word
  lid     : Nat
  targets : List (Nat × Nat × Nat)
  answer  : Option (List Byte)
deriving DecidableEq, Repr

/-- The health monitor's inputs over the last hour (19_host_firmware R361): corrected errors per stack, link retrains, hottest
junction in degrees Celsius; and the microseconds since the last DURABLE colour of `group`. -/
structure HealthInputs where
  ecc      : Nat
  retrains : Nat
  junction : Int
  elapsed  : Nat
  group    : Nat
  id       : Word
deriving DecidableEq, Repr

/-- What a fabric packet carries beside its header (18_fabric_collectives R342: the class's fields and payload; their layout is
not in the manual, log entry 6, DESIGN CHOICE). `tag` names the requester's operation. -/
inductive PktBody where
  | none
  /-- A request for a line (classes 0, 2, 5, 10); `rem` marks a remote acquire (10_consistency R204); `core` a core (class 10). -/
  | req (tag : Nat) (rem : Bool) (core : Nat)
  /-- Line or part data (classes 1, 3, 4, 8): the byte mask and the line's 128 bytes; `psn` marks its poisoned 32-byte granules (R188). -/
  | data (tag : Nat) (mask : BitVec 128) (bytes : List Byte) (psn : BitVec 4)
  /-- An acknowledgement (class 6). -/
  | ack (tag : Nat)
  /-- An atomic group (class 7), or a part of it from its lane `first` of `total`: ATOM operation code, width, and operands (compare or operand,
  new value) in lane order. -/
  | atomic (tag : Nat) (op : BitVec 4) (wide : Bool) (first total : Nat) (operands : List (BitVec 64 × BitVec 64))
  /-- The old values of an atomic group, in lane order (class 1), or a part of them, and the location's poisoned bytes. -/
  | olds (tag : Nat) (first total : Nat) (vals : List (BitVec 64)) (psn : List Nat)
  /-- A multicast load (class 9): bytes asked for. -/
  | mload (tag : Nat) (len : Nat) (acq : Bool)
  /-- The reduced bytes of a multicast load: every member's bytes in rank order as the home port read them, and which bytes were
  poisoned in some member. -/
  | mvals (tag : Nat) (vals : List (List Byte)) (psn : List Nat)
  /-- A telltale: its payload of 128 bits (16_snapshot R313). -/
  | tell (payload : BitVec 128)
  /-- A message between coordinator and members (16_snapshot R321): FREE 0, its acknowledgement 1, COMMIT 2, root digest 3,
  group-state question 4 and answer 5, abort 6, aborted 7. -/
  | coord (kind : Nat) (col : Colour) (digest : BitVec 256) (flag : Bool) (state : Nat) (id : Word)
deriving DecidableEq, Repr

/-- A fabric packet: the header of 18_fabric_collectives R342 and what it carries. -/
structure Packet where
  seq   : Word
  stamp : BitVec 2
  src   : Nat
  dst   : Nat
  cls   : BitVec 4
  len   : Nat
  addr  : Nat
  body  : PktBody
deriving DecidableEq, Repr

/-- The rows of spec/opcode_table.json, one constructor each: first the words of a bundle, then the events. -/
inductive Instr where
  /-- NOP (R76; bits [23:0] are ignored and kept). -/
  | nop (rest : BitVec 24)
  /-- MOD (R86). -/
  | mod (m : ModFields)
  /-- IADD (R128). -/
  | iadd (d : BitVec 6) (a : Src) (b : Src)
  /-- ISUB (R128). -/
  | isub (d : BitVec 6) (a : Src) (b : Src)
  /-- IMUL (R128). -/
  | imul (d : BitVec 6) (a : Src) (b : Src)
  /-- IMULHS (R128). -/
  | imulhs (d : BitVec 6) (a : Src) (b : Src)
  /-- IMULHN (R128). -/
  | imulhn (d : BitVec 6) (a : Src) (b : Src)
  /-- IMAD (R128). -/
  | imad (d : BitVec 6) (a : Src) (b : Src)
  /-- IMINS (R128). -/
  | imins (d : BitVec 6) (a : Src) (b : Src)
  /-- IMINN (R128). -/
  | iminn (d : BitVec 6) (a : Src) (b : Src)
  /-- IMAXS (R128). -/
  | imaxs (d : BitVec 6) (a : Src) (b : Src)
  /-- IMAXN (R128). -/
  | imaxn (d : BitVec 6) (a : Src) (b : Src)
  /-- AND (R128). -/
  | and (d : BitVec 6) (a : Src) (b : Src)
  /-- OR (R128). -/
  | or (d : BitVec 6) (a : Src) (b : Src)
  /-- XOR (R128). -/
  | xor (d : BitVec 6) (a : Src) (b : Src)
  /-- ANDN (R128). -/
  | andn (d : BitVec 6) (a : Src) (b : Src)
  /-- SHL (R128). -/
  | shl (d : BitVec 6) (a : Src) (b : Src)
  /-- SHR (R128). -/
  | shr (d : BitVec 6) (a : Src) (b : Src)
  /-- SAR (R128). -/
  | sar (d : BitVec 6) (a : Src) (b : Src)
  /-- ROT (R128). -/
  | rot (d : BitVec 6) (a : Src) (b : Src)
  /-- BFE (R128). -/
  | bfe (d : BitVec 6) (a : Src) (b : Src)
  /-- BFI (R128). -/
  | bfi (d : BitVec 6) (a : Src) (b : Src)
  /-- FADD (R129). -/
  | fadd (d : BitVec 6) (a : Src) (b : Src)
  /-- FSUB (R129). -/
  | fsub (d : BitVec 6) (a : Src) (b : Src)
  /-- FMUL (R129). -/
  | fmul (d : BitVec 6) (a : Src) (b : Src)
  /-- FFMA (R129). -/
  | ffma (d : BitVec 6) (a : Src) (b : Src)
  /-- FMIN (R129). -/
  | fmin (d : BitVec 6) (a : Src) (b : Src)
  /-- FMAX (R129). -/
  | fmax (d : BitVec 6) (a : Src) (b : Src)
  /-- HADD (R131). -/
  | hadd (d : BitVec 6) (a : Src) (b : Src)
  /-- HMUL (R131). -/
  | hmul (d : BitVec 6) (a : Src) (b : Src)
  /-- HFMA (R131). -/
  | hfma (d : BitVec 6) (a : Src) (b : Src)
  /-- BADD (R131). -/
  | badd (d : BitVec 6) (a : Src) (b : Src)
  /-- BMUL (R131). -/
  | bmul (d : BitVec 6) (a : Src) (b : Src)
  /-- BFMA (R131). -/
  | bfma (d : BitVec 6) (a : Src) (b : Src)
  /-- PADD (R132). -/
  | padd (d : BitVec 6) (a : Src) (b : Src)
  /-- PSUB (R132). -/
  | psub (d : BitVec 6) (a : Src) (b : Src)
  /-- PMUL (R132). -/
  | pmul (d : BitVec 6) (a : Src) (b : Src)
  /-- PMAC (R133). -/
  | pmac (d : BitVec 6) (a : Src) (b : Src)
  /-- PSHR (R132). -/
  | pshr (d : BitVec 6) (a : Src) (b : Src)
  /-- PMIN (R132). -/
  | pmin (d : BitVec 6) (a : Src) (b : Src)
  /-- PMAX (R132). -/
  | pmax (d : BitVec 6) (a : Src) (b : Src)
  /-- PPACK (R132). -/
  | ppack (d : BitVec 6) (a : Src) (b : Src)
  /-- LMUL (R134). -/
  | lmul (d : BitVec 6) (a : Src) (b : Src)
  /-- ICMP (R135). -/
  | icmp (pd : BitVec 3) (cond : BitVec 3) (a : Src) (b : Src)
  /-- FCMP (R135). -/
  | fcmp (pd : BitVec 3) (cond : BitVec 3) (a : Src) (b : Src)
  /-- HCMP (R135). -/
  | hcmp (pd : BitVec 3) (cond : BitVec 3) (a : Src) (b : Src)
  /-- SEL (R136). -/
  | sel (d : BitVec 6) (a : Src) (b : BitVec 6) (p : BitVec 3)
  /-- PLOG (R99, R162). -/
  | plog (pd : BitVec 3) (op : BitVec 3) (a : BitVec 3) (b : BitVec 3)
  /-- VUN_MOV (R137). -/
  | vunMov (d : BitVec 6) (a : Src)
  /-- VUN_NOT (R137). -/
  | vunNot (d : BitVec 6) (a : Src)
  /-- VUN_INEG (R137). -/
  | vunIneg (d : BitVec 6) (a : Src)
  /-- VUN_IABS (R137). -/
  | vunIabs (d : BitVec 6) (a : Src)
  /-- VUN_POPC (R137). -/
  | vunPopc (d : BitVec 6) (a : Src)
  /-- VUN_CLZ (R137). -/
  | vunClz (d : BitVec 6) (a : Src)
  /-- VUN_CTZ (R137). -/
  | vunCtz (d : BitVec 6) (a : Src)
  /-- VUN_BREV (R137). -/
  | vunBrev (d : BitVec 6) (a : Src)
  /-- VUN_BSWAP (R137). -/
  | vunBswap (d : BitVec 6) (a : Src)
  /-- VUN_FRINT (R137). -/
  | vunFrint (d : BitVec 6) (a : Src)
  /-- VUN_FFLOOR (R137). -/
  | vunFfloor (d : BitVec 6) (a : Src)
  /-- VUN_FCEIL (R137). -/
  | vunFceil (d : BitVec 6) (a : Src)
  /-- VUN_FTRUNC (R137). -/
  | vunFtrunc (d : BitVec 6) (a : Src)
  /-- CVT (R101, R138). -/
  | cvt (src : BitVec 4) (dst : BitVec 4) (d : BitVec 6) (a : Src)
  /-- XFN_RCP (R140). -/
  | xfnRcp (d : BitVec 6) (a : Src)
  /-- XFN_RSQ (R140). -/
  | xfnRsq (d : BitVec 6) (a : Src)
  /-- XFN_SQRT (R140). -/
  | xfnSqrt (d : BitVec 6) (a : Src)
  /-- XFN_EXP2 (R140). -/
  | xfnExp2 (d : BitVec 6) (a : Src)
  /-- XFN_LOG2 (R140). -/
  | xfnLog2 (d : BitVec 6) (a : Src)
  /-- XFN_SIN (R140). -/
  | xfnSin (d : BitVec 6) (a : Src)
  /-- XFN_COS (R140). -/
  | xfnCos (d : BitVec 6) (a : Src)
  /-- XFN_TANH (R140). -/
  | xfnTanh (d : BitVec 6) (a : Src)
  /-- SLIDED (R141). -/
  | slided (d : BitVec 6) (a : Src) (b : Src)
  /-- SLIDEU (R141). -/
  | slideu (d : BitVec 6) (a : Src) (b : Src)
  /-- SHFL (R141). -/
  | shfl (d : BitVec 6) (a : Src) (b : Src)
  /-- RED (R103, R142). -/
  | red (op : BitVec 4) (ty : BitVec 3) (d : BitVec 6) (a : Src)
  /-- SCAN (R103, R142). -/
  | scan (op : BitVec 4) (ty : BitVec 3) (d : BitVec 6) (a : Src)
  /-- VOTE_ANY (R143). -/
  | voteAny (d : BitVec 6) (a : Src)
  /-- VOTE_ALL (R143). -/
  | voteAll (d : BitVec 6) (a : Src)
  /-- VOTE_BALLOT (R143). -/
  | voteBallot (d : BitVec 6) (a : Src)
  /-- VOTE_COUNT (R143). -/
  | voteCount (d : BitVec 6) (a : Src)
  /-- RAND (R144). -/
  | rand (d : BitVec 6) (a : Src) (b : Src)
  /-- KOP_MOV (R105, R158). -/
  | kopMov (kd : BitVec 9) (ka : BitVec 9)
  /-- KOP_ADD (R105, R158). -/
  | kopAdd (kd : BitVec 9) (ka : BitVec 9)
  /-- KOP_SUB (R105, R158). -/
  | kopSub (kd : BitVec 9) (ka : BitVec 9)
  /-- KOP_MUL (R105, R158). -/
  | kopMul (kd : BitVec 9) (ka : BitVec 9)
  /-- KOP_AND (R105, R158). -/
  | kopAnd (kd : BitVec 9) (ka : BitVec 9)
  /-- KOP_OR (R105, R158). -/
  | kopOr (kd : BitVec 9) (ka : BitVec 9)
  /-- KOP_XOR (R105, R158). -/
  | kopXor (kd : BitVec 9) (ka : BitVec 9)
  /-- KOP_SHL (R105, R158). -/
  | kopShl (kd : BitVec 9) (ka : BitVec 9)
  /-- KOP_SHR (R105, R158). -/
  | kopShr (kd : BitVec 9) (ka : BitVec 9)
  /-- KOP_SAR (R105, R158). -/
  | kopSar (kd : BitVec 9) (ka : BitVec 9)
  /-- KOP_MINS (R105, R158). -/
  | kopMins (kd : BitVec 9) (ka : BitVec 9)
  /-- KOP_MINN (R105, R158). -/
  | kopMinn (kd : BitVec 9) (ka : BitVec 9)
  /-- KOP_MAXS (R105, R158). -/
  | kopMaxs (kd : BitVec 9) (ka : BitVec 9)
  /-- KOP_MAXN (R105, R158). -/
  | kopMaxn (kd : BitVec 9) (ka : BitVec 9)
  /-- KOP_ADD64 (R105, R158). -/
  | kopAdd64 (kd : BitVec 9) (ka : BitVec 9)
  /-- KOP_MOV64 (R105, R158). -/
  | kopMov64 (kd : BitVec 9) (ka : BitVec 9)
  /-- KMOV_K (R106, R159). -/
  | kmovK (kd : BitVec 9) (a : Src)
  /-- KMOV_V (R106, R159). -/
  | kmovV (kd : BitVec 9) (a : Src)
  /-- KLI_SHORT (R106, R160; H = 1). -/
  | kliShort (kd : BitVec 9) (imm : BitVec 14)
  /-- KLI_PIMM (R106, R160; H = 0). -/
  | kliPimm (kd : BitVec 9) (hi : BitVec 2)
  /-- XSET (R106, R161). -/
  | xset (x : BitVec 3) (a : Src)
  /-- XADD (R106, R161). -/
  | xadd (x : BitVec 3) (a : Src)
  /-- BRA (R148). -/
  | bra (p : BitVec 3) (neg : Bool) (off : BitVec 20)
  /-- BRX (R148). -/
  | brx (ka : BitVec 9)
  /-- CALL (R148, R149). -/
  | call (p : BitVec 3) (neg : Bool) (off : BitVec 20)
  /-- RET (R148). -/
  | ret (n : BitVec 6)
  /-- JOIN (R108, R150). -/
  | join (m : BitVec 6)
  /-- LEAVE (R108, R150). -/
  | leave (m : BitVec 6)
  /-- WAITM (R108, R150). -/
  | waitm (m : BitVec 6)
  /-- YIELD (R153). -/
  | yieldW
  /-- SERB (R154). -/
  | serb
  /-- SERE (R154). -/
  | sere
  /-- ELECT (R155). -/
  | elect (ka : BitVec 9) (pd : BitVec 3)
  /-- EXIT (R156). -/
  | exitW
  /-- TRAP (R167). -/
  | trap (ka : BitVec 9) (n : BitVec 4)
  /-- TRET (R168). -/
  | tret
  /-- WAIT (R157). -/
  | wait (nl : BitVec 6) (ns : BitVec 6) (nc : BitVec 6) (nt : BitVec 6)
  /-- LD (R218). -/
  | ld (f : MemFields)
  /-- ST (R219). -/
  | st (f : MemFields)
  /-- LDL (R220). -/
  | ldl (f : MemFields)
  /-- PSH (R221). -/
  | psh (d : BitVec 6) (width : BitVec 3)
  /-- POP (R221). -/
  | pop (d : BitVec 6) (width : BitVec 3)
  /-- ATOM_ADD (R222). -/
  | atomAdd (f : AtomFields)
  /-- ATOM_MINS (R222). -/
  | atomMins (f : AtomFields)
  /-- ATOM_MINN (R222). -/
  | atomMinn (f : AtomFields)
  /-- ATOM_MAXS (R222). -/
  | atomMaxs (f : AtomFields)
  /-- ATOM_MAXN (R222). -/
  | atomMaxn (f : AtomFields)
  /-- ATOM_AND (R222). -/
  | atomAnd (f : AtomFields)
  /-- ATOM_OR (R222). -/
  | atomOr (f : AtomFields)
  /-- ATOM_XOR (R222). -/
  | atomXor (f : AtomFields)
  /-- ATOM_EXCH (R222). -/
  | atomExch (f : AtomFields)
  /-- ATOM_CAS (R222). -/
  | atomCas (f : AtomFields)
  /-- ATOM_FADD (R222). -/
  | atomFadd (f : AtomFields)
  /-- ATOM_FMIN (R222). -/
  | atomFmin (f : AtomFields)
  /-- ATOM_FMAX (R222). -/
  | atomFmax (f : AtomFields)
  /-- REDM (R223). -/
  | redm (op : BitVec 4) (f : AtomFields)
  /-- FENCE (R224). -/
  | fence (pd : BitVec 3) (scope : BitVec 3)
  /-- CLINE_WB (R226). -/
  | clineWb (addr : Src) (off : Bool)
  /-- CLINE_WBI (R226). -/
  | clineWbi (addr : Src) (off : Bool)
  /-- CLINE_MEM (R226). -/
  | clineMem (addr : Src) (off : Bool)
  /-- ZFILL (R227). -/
  | zfill (addr : Src) (scope : BitVec 3) (space : BitVec 2) (off : Bool)
  /-- CPY (R228). -/
  | cpy (f : CpyFields)
  /-- OBRES (R235). -/
  | obres (kd : BitVec 9) (kq : BitVec 9) (wb : Bool)
  /-- OBREL (R236). -/
  | obrel (kh : BitVec 9)
  /-- OBLD (R237). -/
  | obld (kh : BitVec 9) (kq : BitVec 9) (space : BitVec 2) (cvt : Bool)
  /-- WBLD (R238). -/
  | wbld (kh : BitVec 9) (kq : BitVec 9) (space : BitVec 2)
  /-- ACALLOC (R240). -/
  | acalloc (kd : BitVec 9) (n : BitVec 6)
  /-- ACFREE (R241). -/
  | acfree (km : BitVec 9)
  /-- MMA (R243). -/
  | mma (kp : BitVec 9) (cp : Bool)
  /-- ACMOV_TOGL (R242). -/
  | acmovTogl (kt : BitVec 9) (kq : BitVec 9) (clr : Bool)
  /-- ACMOV_TOSP (R242). -/
  | acmovTosp (kt : BitVec 9) (kq : BitVec 9) (clr : Bool)
  /-- ACMOV_FROMSP (R242). -/
  | acmovFromsp (kt : BitVec 9) (kq : BitVec 9)
  /-- ACMOV_TOREG (R242). -/
  | acmovToreg (kt : BitVec 9) (kq : BitVec 9) (clr : Bool)
  /-- TWSET (R248). -/
  | twset (kw : BitVec 9) (max : Bool)
  /-- TLDW (R249). -/
  | tldw (kq : BitVec 9)
  /-- TLNCH (R249). -/
  | tlnch (v : BitVec 6)
  /-- TCAPT (R249). -/
  | tcapt (v : BitVec 6)
  /-- TRST (R249). -/
  | trst
  /-- TRST_REL (R249). -/
  | trstRel
  /-- BALLOC (R328). -/
  | balloc (kd : BitVec 9) (ke : BitVec 9) (scope : BitVec 3) (pd : BitVec 3)
  /-- BFREE (R329). -/
  | bfree (kh : BitVec 9)
  /-- BARV_ARRIVE (R330). -/
  | barvArrive (kh : BitVec 9) (kb : BitVec 9) (tx : Bool)
  /-- BARV_NOARR (R330; TX = 1). -/
  | barvNoarr (kh : BitVec 9) (kb : BitVec 9)
  /-- BARV_DROP (R330). -/
  | barvDrop (kh : BitVec 9) (kb : BitVec 9) (tx : Bool)
  /-- BWAIT (R331). -/
  | bwait (kh : BitVec 9) (kp : BitVec 9) (pd : BitVec 3)
  /-- RING_CREATE (R334). -/
  | ringCreate (kd : BitVec 9) (kq : BitVec 9)
  /-- RING_REL (R334). -/
  | ringRel (kh : BitVec 9)
  /-- RAWAIT (R335). -/
  | rawait (kh : BitVec 9) (kd : BitVec 9)
  /-- RREL (R336). -/
  | rrel (kh : BitVec 9)
  /-- CSRR (R337). -/
  | csrr (k : BitVec 9) (n : BitVec 12)
  /-- CSRW_WRITE (R337). -/
  | csrwWrite (k : BitVec 9) (n : BitVec 12)
  /-- CSRW_SET (R337). -/
  | csrwSet (k : BitVec 9) (n : BitVec 12)
  /-- CSRW_CLR (R337). -/
  | csrwClr (k : BitVec 9) (n : BitVec 12)
  /-- CSRW_SWAP (R337). -/
  | csrwSwap (k : BitVec 9) (n : BitVec 12)
  /-- SNAP (R338). -/
  | snap (kd : BitVec 9) (kq : BitVec 9) (pd : BitVec 3)
  /-- SNAPQ (R340). -/
  | snapq (kd : BitVec 9) (kc : BitVec 9) (pd : BitVec 3) (grp : Bool)
  /-- RESERVED_MAJOR_OPCODE (R96). -/
  | reservedMajor (major : BitVec 7) (rest : BitVec 24)
  /-- WAIT_RELEASE (R157). -/
  | waitRelease (g : Nat)
  /-- STALL_RELEASE (R42). -/
  | stallRelease (g : Nat)
  /-- WALK_COMPLETE (R176, R216; the walk of a page of context `ctx` that a core asked for ends). -/
  | walkComplete (ctx : Nat) (ask : PageAsk)
  /-- LOAD_COMPLETE (R217; the pieces `ps` of load `op` are read now, and the word completes when all are). -/
  | loadComplete (op : Nat) (ps : List Nat)
  /-- STORE_PERFORMED (R219; the pieces `ps` of store `op` are performed now). -/
  | storePerformed (op : Nat) (ps : List Nat)
  /-- ATOM_COMPLETE (R210; the address groups `ps` of `op` are performed now). -/
  | atomComplete (op : Nat) (ps : List Nat)
  /-- FENCE_COMPLETE (R225). -/
  | fenceComplete (op : Nat)
  /-- LOST_PEER_BOUND (R208; the bound of operation `op` expires). -/
  | lostPeerBound (op : Nat)
  /-- CLINE_COMPLETE (R226). -/
  | clineComplete (op : Nat)
  /-- CPY_COMPLETE (R228). -/
  | cpyComplete (op : Nat)
  /-- ENGINE_RECALL (R205; the pieces `ps` of the recalled access `op` are performed now). -/
  | engineRecall (op : Nat) (ps : List Nat)
  /-- OBRES_GRANT (R235). -/
  | obresGrant (g : Nat)
  /-- OBREL_FREE (R236). -/
  | obrelFree (core : Nat) (rec : Nat)
  /-- OBLD_COMPLETE (R237). -/
  | obldComplete (op : Nat)
  /-- WBLD_COMPLETE (R239). -/
  | wbldComplete (op : Nat)
  /-- WEIGHT_FAULT (R239). -/
  | weightFault (g : Nat)
  /-- ACALLOC_GRANT (R240). -/
  | acallocGrant (g : Nat)
  /-- ACFREE_DONE (R241). -/
  | acfreeDone (g : Nat)
  /-- MMA_BARRIER_WAIT_END (R245). -/
  | mmaBarrierWaitEnd (op : Nat)
  /-- MMA_COMPLETE (R245). -/
  | mmaComplete (op : Nat)
  /-- ACMOV_COMPLETE (R242). -/
  | acmovComplete (op : Nat)
  /-- TWSET_CLAIM (R248). -/
  | twsetClaim (g : Nat)
  /-- TLDW_COMPLETE (R249). -/
  | tldwComplete (op : Nat)
  /-- TLNCH_COMPLETE (R249). -/
  | tlnchComplete (op : Nat)
  /-- TCAPT_COMPLETE (R249). -/
  | tcaptComplete (op : Nat)
  /-- TRST_APPLY (R249). -/
  | trstApply (op : Nat)
  /-- BALLOC_COMPLETE (R328). -/
  | ballocComplete (op : Nat)
  /-- BFREE_APPLY (R329). -/
  | bfreeApply (op : Nat)
  /-- BARV_APPLY (R330). -/
  | barvApply (op : Nat)
  /-- BWAIT_DONE (R331). -/
  | bwaitDone (g : Nat)
  /-- RING_GRANT (R334). -/
  | ringGrant (g : Nat)
  /-- RING_REL_DONE (R334). -/
  | ringRelDone (g : Nat)
  /-- RAWAIT_TAKE (R335). -/
  | rawaitTake (g : Nat)
  /-- RREL_APPLY (R336). -/
  | rrelApply (op : Nat)
  /-- SNAP_COMPLETE (R339). -/
  | snapComplete (op : Nat)
  /-- SNAPQ_COMPLETE (R340). -/
  | snapqComplete (op : Nat)
  /-- POWER_ON_RESET (R363). -/
  | powerOnReset (f : BootFacts)
  /-- CREATE_CONTEXT (R354). -/
  | createContext (fn : Nat) (c : CtxSpec)
  /-- REMOVE_CONTEXT (R354). -/
  | removeContext (fn : Nat) (ctx : Nat)
  /-- CREATE_QUEUE (R252). -/
  | createQueue (fn : Nat) (q : QueueSpec)
  /-- REMOVE_QUEUE (R252). -/
  | removeQueue (fn : Nat) (vf : Nat) (num : Nat)
  /-- ENABLE_QUEUE (R252). -/
  | enableQueue (fn : Nat) (vf : Nat) (num : Nat)
  /-- DISABLE_QUEUE (R252). -/
  | disableQueue (fn : Nat) (vf : Nat) (num : Nat)
  /-- WRITE_POD_MAP (R291; `self` is the logical id that names this package). -/
  | writePodMap (fn : Nat) (entries : List PodEntry) (self : Nat)
  /-- WRITE_GROUP_DESCRIPTOR (R346). -/
  | writeGroupDescriptor (fn : Nat) (idx : Nat) (d : GroupWrite)
  /-- SET_SNAPSHOT_GROUP (R300). -/
  | setSnapshotGroup (fn : Nat) (ctx : Nat) (group : Nat) (right : SnapRight)
  /-- SET_FIRMWARE_POLICY (R356). -/
  | setFirmwarePolicy (fn : Nat) (p : Policy) (vf : Nat) (value : Nat)
  /-- LOAD_SPAR_IMAGE (R362). -/
  | loadSparImage (fn : Nat) (vf : Nat) (img : FwImage)
  /-- MASTHEAD_HANDOVER (R362). -/
  | mastheadHandover (fn : Nat) (img : FwImage)
  /-- READ_ATTESTATION_REPORT (R360). -/
  | readAttestationReport (fn : Nat) (nonce : BitVec 256)
  /-- KILL (R165, R166). -/
  | kill (fn : Nat) (g : Nat)
  /-- KILL_HANDLER_TIMEOUT (R165). -/
  | killHandlerTimeout (g : Nat)
  /-- STALL_WATCHDOG (R357). -/
  | stallWatchdog (g : Nat)
  /-- HOST_SNAPSHOT_REQUEST (R301). -/
  | hostSnapshotRequest (fn : Nat) (ctx : Nat) (group : Nat) (id : Word)
  /-- INVALIDATE_TRANSLATION (R176). -/
  | invalidateTranslation (fn : Nat) (ctx : Nat) (page : Nat)
  /-- INVALIDATION_COMPLETE (R176). -/
  | invalidationComplete (ctx : Nat) (page : Nat)
  /-- QUEUE_SCAN (R254). -/
  | queueScan (vf : Nat) (num : Nat)
  /-- RECORD_ACCEPT (R255). -/
  | recordAccept (vf : Nat) (num : Nat)
  /-- SPLICE_DECIDE (R276). -/
  | spliceDecide (vf : Nat) (num : Nat)
  /-- PLACE_BLOCK (R262). -/
  | placeBlock (launch : Nat) (p : Placement)
  /-- SCRATCHPAD_SHRINK (R30). -/
  | scratchpadShrink (core : Nat) (steps : Nat)
  /-- TIME_SLICE_END (R263; `blocks` are the victims the masthead pre-empts). -/
  | timeSliceEnd (blocks : List Nat)
  /-- SLICE_CLAIM (R39). -/
  | sliceClaim (u : ClaimUnit)
  /-- RESUME_BLOCK (R39). -/
  | resumeBlock (blk : Nat) (p : Placement)
  /-- OWNER_CHANGE_ZERO (R189). -/
  | ownerChangeZero (u : OwnedUnit) (ctx : Nat)
  /-- GANG_END (R156). -/
  | gangEnd (g : Nat)
  /-- LAUNCH_END (R258). -/
  | launchEnd (launch : Nat)
  /-- COLLECTIVE_PUSH (R350). -/
  | collectivePush (launch : Nat) (chunk : Nat)
  /-- COLLECTIVE_PULL (R350; `vals` are the members' bytes in rank order). -/
  | collectivePull (launch : Nat) (chunk : Nat) (parts : List Nat)
  /-- COLLECTIVE_FLAG (R350). -/
  | collectiveFlag (launch : Nat) (chunk : Nat)
  /-- COLLECTIVE_WAITF (R350). -/
  | collectiveWaitf (launch : Nat) (chunk : Nat)
  /-- READ_REQUEST (R342). -/
  | readRequest (p : Packet)
  /-- READ_DATA (R342). -/
  | readData (p : Packet)
  /-- OWNERSHIP_REQUEST (R344). -/
  | ownershipRequest (p : Packet)
  /-- OWNERSHIP_GRANT (R344). -/
  | ownershipGrant (p : Packet)
  /-- STORE_DATA (R344). -/
  | storeData (p : Packet)
  /-- INVALIDATION (R344). -/
  | invalidation (p : Packet)
  /-- ACKNOWLEDGEMENT (R344). -/
  | acknowledgement (p : Packet)
  /-- ATOMIC_REQUEST (R210). -/
  | atomicRequest (p : Packet)
  /-- MULTICAST_STORE (R347). -/
  | multicastStore (p : Packet)
  /-- MULTICAST_LOAD (R348). -/
  | multicastLoad (p : Packet)
  /-- PROMOTION_REQUEST (R204). -/
  | promotionRequest (p : Packet)
  /-- REMOTE_ACQUIRE_ANSWER (R204). -/
  | remoteAcquireAnswer (line : Nat)
  /-- TELLTALE (R314). -/
  | telltale (p : Packet)
  /-- COLLECTIVE_STEP (R342). -/
  | collectiveStep (p : Packet)
  /-- RESERVED_CLASS_PACKET (R342). -/
  | reservedClassPacket (p : Packet)
  /-- SNAPSHOT_REQUEST (R301; the masthead core serves the oldest request, or takes the cut of the one it has accepted). -/
  | snapshotRequest
  /-- HALYARD_SWEEP (R309). -/
  | halyardSweep (c : Colour) (u : CapUnit)
  /-- CAPTURE_QUEUE_ROOM (R271). -/
  | captureQueueRoom (die : Nat) (c : Colour)
  /-- LOCAL_DONE (R319). -/
  | localDone (c : Colour)
  /-- DURABLE_ACK (R320; from the colour's own target, or from one that firmware copied the image to). -/
  | durableAck (c : Colour) (copy : Option TargetDesc)
  /-- FREE (R321). -/
  | free (c : Colour)
  /-- FREE_ACK (R321). -/
  | freeAck (c : Colour) (member : Nat)
  /-- COMMIT (R321). -/
  | commit (c : Colour)
  /-- DURABILITY_BOUND_EXPIRY (R322). -/
  | durabilityBoundExpiry (c : Colour)
  /-- TARGET_WRITE_FAILURE (R322). -/
  | targetWriteFailure (c : Colour)
  /-- LINK_DETECTION_TIMEOUT (R208). -/
  | linkDetectionTimeout (lid : Nat)
  /-- MARK_PACKAGE_FAILED (R208). -/
  | markPackageFailed (lid : Nat)
  /-- START_RESTORATION (R323). -/
  | startRestoration (fn : Nat) (r : RestoreSpec)
  /-- RESTORE_MEMORY (R324). -/
  | restoreMemory
  /-- RESTORE_CHANNELS (R324). -/
  | restoreChannels
  /-- RESTORE_PEER_LINES (R324). -/
  | restorePeerLines
  /-- RESTORE_OBJECTS (R324). -/
  | restoreObjects
  /-- RESTORE_GANGS (R324). -/
  | restoreGangs
  /-- RESTORE_START (R324). -/
  | restoreStart
  /-- POWER_WINDOW (R358). -/
  | powerWindow (watts : Nat) (junction : Int)
  /-- JUNCTION_HOT (R358). -/
  | junctionHot (junction : Int)
  /-- THERMAL_ALARM (R358). -/
  | thermalAlarm (junction : Int)
  /-- THERMAL_SHUTDOWN (R358). -/
  | thermalShutdown (junction : Int)
  /-- HEALTH_MONITOR_TICK (R361). -/
  | healthMonitorTick (h : HealthInputs)
  /-- HBM_SCRUB (R188). -/
  | hbmScrub (stack : Nat)
  /-- HBM_CALIBRATION (R362). -/
  | hbmCalibration (stack : Nat)
  /-- PORT_RETRAIN (R343). -/
  | portRetrain (port : Nat)
  /-- CXL_EXPANDER_LOST (R355). -/
  | cxlExpanderLost (base : Nat) (size : Nat)
  /-- HOST_PCIE_WRITE (R253). -/
  | hostPcieWrite (fn : Nat) (ctx : Nat) (va : Nat) (bytes : List Byte)
  /-- LINE_EVICTION (R211). -/
  | lineEviction (cache : CacheName) (line : Nat)
  /-- POWER_LOSS (R359). -/
  | powerLoss
  /-- RECOVERY_IMAGE_LOAD (R363). -/
  | recoveryImageLoad (img : FwImage)
  /-- GROUP_STATE_QUERY (R340). -/
  | groupStateQuery (q : GroupQuery) (c : Colour)
  /-- ROOT_DIGEST_REPORT (R321). -/
  | rootDigestReport (c : Colour) (member : Nat) (digest : BitVec 256) (durable : Bool)
deriving DecidableEq, Repr

end Sys2Proof
end

