-- ==== Sys2Proof/Machine/Bits.lean ====
section
/-! DEFINITION. Bit-field, sign, byte-order and lane-mask helpers (00_scope R4, R10). -/

namespace Sys2Proof.Machine

/-- `sext(x, n)` of R10: bits [n-1:0] of `x` read as signed. -/
def sextN (x n : Nat) : Int :=
  if n = 0 then 0 else if x % 2 ^ n < 2 ^ (n - 1) then (x % 2 ^ n : Nat) else (x % 2 ^ n : Nat) - (2 ^ n : Nat)

/-- Bits [lo + n - 1 : lo] of `x`. -/
def bitsN (x lo n : Nat) : Nat := (x >>> lo) % 2 ^ n

/-- Bit `i` of `x`. -/
def bitN (x i : Nat) : Bool := (x >>> i) % 2 == 1

/-- `y` modulo 2^32 as a pattern (R10 wrap32). -/
def wrap32 (y : Int) : Word := BitVec.ofInt 32 y

/-- `wrap64`. -/
def wrap64 (y : Int) : BitVec 64 := BitVec.ofInt 64 y

/-- floor(x / 2^n) of an integer. -/
def floorShr (x : Int) (n : Nat) : Int := x / (2 ^ n : Nat)

/-- A 64-bit value from its two words, the even register low (R4). -/
def pair64 (lo hi : Word) : BitVec 64 := hi ++ lo

def lo32 (x : BitVec 64) : Word := x.setWidth 32

def hi32 (x : BitVec 64) : Word := (x >>> 32).setWidth 32

/-- `n` bytes of `v`, little-endian (R4). -/
def leBytes (v : Nat) : Nat → List Byte
  | 0 => []
  | n + 1 => BitVec.ofNat 8 v :: leBytes (v / 256) n

/-- The number that bytes hold, little-endian (R4). -/
def leNat : List Byte → Nat
  | [] => 0
  | b :: bs => b.toNat + 256 * leNat bs

/-- The lanes named by a mask, ascending. -/
def lanesOf (m : LaneMask) : List Nat := (List.range 64).filter (fun l => m.getLsbD l)

/-- The mask that names these lanes. -/
def maskOf : List Nat → LaneMask
  | [] => 0
  | l :: ls => (1#64 <<< l) ||| maskOf ls

/-- The mask of the lanes below `w`. -/
def maskBelow (w : Nat) : LaneMask := BitVec.ofNat 64 (2 ^ w - 1)

/-- The lowest lane of a mask; 0 for none. -/
def lowLane (m : LaneMask) : Nat := (lanesOf m).headD 0

/-- Insert a number into an ascending list without repeats. -/
def insertAsc (n : Nat) : List Nat → List Nat
  | [] => [n]
  | m :: ms => if n < m then n :: m :: ms else if n = m then m :: ms else m :: insertAsc n ms

/-- Ascending order without repeats. -/
def sortAsc : List Nat → List Nat
  | [] => []
  | n :: ns => insertAsc n (sortAsc ns)

/-- Insert by a key, before entries of equal key. -/
def insertBy {α : Type} (key : α → Nat) (x : α) : List α → List α
  | [] => [x]
  | y :: ys => if key x ≤ key y then x :: y :: ys else y :: insertBy key x ys

/-- Stable ascending sort by a key. -/
def sortBy {α : Type} (key : α → Nat) : List α → List α
  | [] => []
  | x :: xs => insertBy key x (sortBy key xs)

/-- Replace entry `i` of a list. -/
def setAt {α : Type} (l : List α) (i : Nat) (v : α) : List α := l.set i v

/-- Remove the first `n` entries, and keep `k`. -/
def slice {α : Type} (l : List α) (n k : Nat) : List α := (l.drop n).take k

/-- Pieces of `n` entries; `fuel` bounds their number. -/
def chunksOf {α : Type} (n : Nat) : Nat → List α → List (List α)
  | 0, _ => []
  | _ + 1, [] => []
  | fuel + 1, l => l.take n :: chunksOf n fuel (l.drop n)

/-- The first `some` that `f` gives over a list. -/
def firstSome {α β : Type} (f : α → Option β) : List α → Option β
  | [] => none
  | x :: xs => match f x with
    | some y => some y
    | none => firstSome f xs

/-- The number of lanes of a mask. -/
def popcount (m : LaneMask) : Nat := (lanesOf m).length

/-- A MOD word that changes nothing (04_encoding R86). -/
def plainMod : ModFields :=
  { pred := 7, pneg := false, sat := false, clamp := 0, neg := false, absa := false, absb := false, nega := false, negb := false,
    scale := 0, rnd := 0, xbb := 0, low := 0 }

end Sys2Proof.Machine
end

