-- ==== Sys2Proof/Decode.lean ====
section
/-! DEFINITION. Words to instructions and back (04_encoding R76 to R87, 05_opcode_map R95 to R110, and the field tables of the
instruction chapters). Bit [31], C, belongs to the bundle and not to the instruction. -/

namespace Sys2Proof

/-- Why a word is no instruction: each is an ILLEGAL at step 3 of 04_encoding R88 when the word issues with an active lane. -/
inductive DecodeErr where
  /-- A function, condition or operation code that 05_opcode_map leaves unassigned (R96). -/
  | reservedCode
  /-- An unused field that is not zero (R97). -/
  | reservedField
  /-- A field value outside the set its instruction accepts (R96, 11_isa_memory R214 and the like). -/
  | badField
deriving DecidableEq, Repr

/-- Bits [lo + n - 1 : lo] of a word. -/
def fieldOf (w : BitVec 32) (lo n : Nat) : BitVec n := w.extractLsb' lo n

/-- A source field (04_encoding R79). -/
def decodeSrc (f : BitVec 9) : Src :=
  if f.getLsbD 8 = false then .vec (f.extractLsb' 6 2) (f.extractLsb' 0 6)
  else if f.getLsbD 7 = false then .uni (f.extractLsb' 0 7)
  else if f.getLsbD 6 = false then .imm (f.extractLsb' 0 6)
  else if f.getLsbD 5 = false then .spec (f.extractLsb' 0 5)
  else if f.getLsbD 4 = false then .ind (f.extractLsb' 1 3) (f.getLsbD 0)
  else .rsvd (f.extractLsb' 0 4)

/-- The field of a source (R79). -/
def encodeSrc : Src → BitVec 9
  | .vec p n => (0#1 ++ p) ++ n
  | .uni n => 2#2 ++ n
  | .imm i => 6#3 ++ i
  | .spec n => 14#4 ++ n
  | .ind x u => (30#5 ++ x) ++ BitVec.ofBool u
  | .rsvd n => 31#5 ++ n

/-- The fields of a MOD word (R86). -/
def decodeMod (w : BitVec 32) : ModFields :=
  { pred := fieldOf w 21 3, pneg := w.getLsbD 20, sat := w.getLsbD 19, clamp := fieldOf w 17 2, neg := w.getLsbD 16,
    absa := w.getLsbD 15, absb := w.getLsbD 14, nega := w.getLsbD 13, negb := w.getLsbD 12, scale := fieldOf w 8 4,
    rnd := fieldOf w 6 2, xbb := fieldOf w 3 3, low := fieldOf w 0 3 }

def encodeMod (m : ModFields) : BitVec 24 :=
  m.pred ++ BitVec.ofBool m.pneg ++ BitVec.ofBool m.sat ++ m.clamp ++ BitVec.ofBool m.neg ++ BitVec.ofBool m.absa ++
    BitVec.ofBool m.absb ++ BitVec.ofBool m.nega ++ BitVec.ofBool m.negb ++ m.scale ++ m.rnd ++ m.xbb ++ m.low

/-- The MEM format (R84). -/
def decodeMem (w : BitVec 32) : MemFields :=
  { d := fieldOf w 18 6, addr := decodeSrc (fieldOf w 9 9), width := fieldOf w 6 3, scope := fieldOf w 3 3, space := fieldOf w 1 2,
    off := w.getLsbD 0 }

def encodeMem (f : MemFields) : BitVec 24 :=
  f.d ++ encodeSrc f.addr ++ f.width ++ f.scope ++ f.space ++ BitVec.ofBool f.off

/-- The ATOM format, its operation apart (R84, R109). -/
def decodeAtom (w : BitVec 32) : AtomFields :=
  { d := fieldOf w 18 6, addr := decodeSrc (fieldOf w 9 9), wide := w.getLsbD 4, scope := fieldOf w 1 3, sp := w.getLsbD 0 }

def encodeAtom (op : BitVec 4) (f : AtomFields) : BitVec 24 :=
  f.d ++ encodeSrc f.addr ++ op ++ BitVec.ofBool f.wide ++ f.scope ++ BitVec.ofBool f.sp

/-- The CPY format (R84). -/
def decodeCpy (w : BitVec 32) : CpyFields :=
  { s := fieldOf w 18 6, addr := decodeSrc (fieldOf w 9 9), size := fieldOf w 7 2, ss := fieldOf w 5 2, ds := fieldOf w 3 2,
    h := fieldOf w 0 3 }

def encodeCpy (f : CpyFields) : BitVec 24 := f.s ++ encodeSrc f.addr ++ f.size ++ f.ss ++ f.ds ++ f.h

/-- A result when a reserved field is zero (R97). -/
def whenZero {n : Nat} (f : BitVec n) (i : Instr) : Except DecodeErr Instr :=
  if f = 0#n then .ok i else .error .reservedField

/-- VV words (R84). -/
def vvWord (w : BitVec 32) (c : BitVec 6 → Src → Src → Instr) : Instr :=
  c (fieldOf w 18 6) (decodeSrc (fieldOf w 9 9)) (decodeSrc (fieldOf w 0 9))

/-- V1 words: d and A (R84). -/
def v1Word (w : BitVec 32) (c : BitVec 6 → Src → Instr) : Instr := c (fieldOf w 18 6) (decodeSrc (fieldOf w 9 9))

/-- CMP words (R84). -/
def cmpWord (w : BitVec 32) (c : BitVec 3 → BitVec 3 → Src → Src → Instr) : Instr :=
  c (fieldOf w 21 3) (fieldOf w 18 3) (decodeSrc (fieldOf w 9 9)) (decodeSrc (fieldOf w 0 9))

/-- Words over two uniform fields (formats K and T, R84). -/
def kkWord (w : BitVec 32) (c : BitVec 9 → BitVec 9 → Instr) : Instr := c (fieldOf w 15 9) (fieldOf w 6 9)

/-- VUN functions (R100). -/
def decodeVun (w : BitVec 32) : Except DecodeErr Instr :=
  match (fieldOf w 0 9).toNat with
  | 0 => .ok (v1Word w .vunMov)
  | 1 => .ok (v1Word w .vunNot)
  | 2 => .ok (v1Word w .vunIneg)
  | 3 => .ok (v1Word w .vunIabs)
  | 4 => .ok (v1Word w .vunPopc)
  | 5 => .ok (v1Word w .vunClz)
  | 6 => .ok (v1Word w .vunCtz)
  | 7 => .ok (v1Word w .vunBrev)
  | 8 => .ok (v1Word w .vunBswap)
  | 16 => .ok (v1Word w .vunFrint)
  | 17 => .ok (v1Word w .vunFfloor)
  | 18 => .ok (v1Word w .vunFceil)
  | 19 => .ok (v1Word w .vunFtrunc)
  | _ => .error .reservedCode

/-- XFN functions (R102). -/
def decodeXfn (w : BitVec 32) : Except DecodeErr Instr :=
  match (fieldOf w 0 9).toNat with
  | 0 => .ok (v1Word w .xfnRcp)
  | 1 => .ok (v1Word w .xfnRsq)
  | 2 => .ok (v1Word w .xfnSqrt)
  | 3 => .ok (v1Word w .xfnExp2)
  | 4 => .ok (v1Word w .xfnLog2)
  | 5 => .ok (v1Word w .xfnSin)
  | 6 => .ok (v1Word w .xfnCos)
  | 7 => .ok (v1Word w .xfnTanh)
  | _ => .error .reservedCode

/-- VOTE functions (R104). -/
def decodeVote (w : BitVec 32) : Except DecodeErr Instr :=
  match (fieldOf w 0 9).toNat with
  | 0 => .ok (v1Word w .voteAny)
  | 1 => .ok (v1Word w .voteAll)
  | 2 => .ok (v1Word w .voteBallot)
  | 3 => .ok (v1Word w .voteCount)
  | _ => .error .reservedCode

/-- KOP functions (R105). -/
def decodeKop (w : BitVec 32) : Except DecodeErr Instr :=
  match (fieldOf w 0 6).toNat with
  | 0 => .ok (kkWord w .kopMov)
  | 1 => .ok (kkWord w .kopAdd)
  | 2 => .ok (kkWord w .kopSub)
  | 3 => .ok (kkWord w .kopMul)
  | 4 => .ok (kkWord w .kopAnd)
  | 5 => .ok (kkWord w .kopOr)
  | 6 => .ok (kkWord w .kopXor)
  | 7 => .ok (kkWord w .kopShl)
  | 8 => .ok (kkWord w .kopShr)
  | 9 => .ok (kkWord w .kopSar)
  | 10 => .ok (kkWord w .kopMins)
  | 11 => .ok (kkWord w .kopMinn)
  | 12 => .ok (kkWord w .kopMaxs)
  | 13 => .ok (kkWord w .kopMaxn)
  | 16 => .ok (kkWord w .kopAdd64)
  | 17 => .ok (kkWord w .kopMov64)
  | _ => .error .reservedCode

/-- ATOM operations (R109). -/
def decodeAtomWord (w : BitVec 32) : Except DecodeErr Instr :=
  match (fieldOf w 5 4).toNat with
  | 0 => .ok (.atomAdd (decodeAtom w))
  | 1 => .ok (.atomMins (decodeAtom w))
  | 2 => .ok (.atomMinn (decodeAtom w))
  | 3 => .ok (.atomMaxs (decodeAtom w))
  | 4 => .ok (.atomMaxn (decodeAtom w))
  | 5 => .ok (.atomAnd (decodeAtom w))
  | 6 => .ok (.atomOr (decodeAtom w))
  | 7 => .ok (.atomXor (decodeAtom w))
  | 8 => .ok (.atomExch (decodeAtom w))
  | 9 => .ok (.atomCas (decodeAtom w))
  | 10 => .ok (.atomFadd (decodeAtom w))
  | 11 => .ok (.atomFmin (decodeAtom w))
  | 12 => .ok (.atomFmax (decodeAtom w))
  | _ => .error .reservedCode

/-- Types and combinations CVT accepts (R101). -/
def cvtOk (src dst : BitVec 4) : Bool :=
  decide (src ≠ dst) && decide (src.toNat < 10) && decide (dst.toNat < 10) &&
    (decide (src ≠ 9#4) || decide (dst = 0#4)) && (decide (dst ≠ 9#4) || decide (src = 0#4))

/-- Operation and type of RED and SCAN (R103). -/
def redOk (op : BitVec 4) (ty : BitVec 3) : Bool :=
  decide (op.toNat < 6) && decide (ty.toNat < 6) && (decide (op.toNat < 3) || decide (ty = 1#3))

/-- The data register of LD and ST by width (11_isa_memory R215). -/
def memDOk (width : BitVec 3) (d : BitVec 6) : Bool :=
  (decide (width ≠ 5#3) || decide (d.toNat % 2 = 0)) && (decide (width ≠ 6#3) || decide (d.toNat % 4 = 0))

/-- The register of ATOM and REDM (11_isa_memory R222). -/
def atomDOk (cas wide : Bool) (d : BitVec 6) : Bool :=
  match cas, wide with
  | false, false => true
  | false, true => decide (d.toNat % 2 = 0)
  | true, false => decide (d.toNat % 2 = 0)
  | true, true => decide (d.toNat % 4 = 0)

/-- Sources that KMOV.k accepts, and KMOV.v (R106). -/
def kmovKOk : Src → Bool
  | .uni _ => true
  | .imm _ => true
  | .spec _ => true
  | .ind _ u => u
  | _ => false

def kmovVOk : Src → Bool
  | .vec _ _ => true
  | .ind _ u => !u
  | _ => false

/-- A source field that names a predicate in PLOG (R99). -/
def plogOk (f : BitVec 9) : Bool := decide (f.toNat ≤ 7)

/-- Major opcodes that 05_opcode_map R95 reserves. -/
def majorReserved (m : Nat) : Bool :=
  [0x15, 0x16, 0x17, 0x2D, 0x2E, 0x2F, 0x35, 0x39, 0x46, 0x47, 0x57, 0x63, 0x7C, 0x7D, 0x7E].contains m

/-- The field values that each instruction's description accepts (R84, R96 to R110, R214, R222, R224, R232, R326). -/
def wordOk : Instr → Bool
  | .icmp pd _ _ _ => decide (pd ≠ 7#3)
  | .fcmp pd _ _ _ => decide (pd ≠ 7#3)
  | .hcmp pd _ _ _ => decide (pd ≠ 7#3)
  | .plog pd _ _ _ => decide (pd ≠ 7#3)
  | .cvt s d _ _ => cvtOk s d
  | .red op ty _ _ => redOk op ty
  | .scan op ty _ _ => redOk op ty
  | .voteBallot d _ => decide (d.toNat % 2 = 0)
  | .rand d _ _ => decide (d.toNat % 2 = 0)
  | .kmovK _ a => kmovKOk a
  | .kmovV _ a => kmovVOk a
  | .join m => decide (m.toNat < 12)
  | .leave m => decide (m.toNat < 12)
  | .waitm m => decide (m.toNat < 12)
  | .elect _ pd => decide (pd ≠ 7#3)
  | .ld f => decide (f.space ≠ 3#2) && memDOk f.width f.d
  | .st f => decide (f.space ≠ 3#2) && memDOk f.width f.d
  | .ldl f => decide (f.space = 3#2) && decide (f.width ≠ 7#3) && memDOk f.width f.d
  | .psh d w => decide (4 ≤ w.toNat) && decide (w.toNat ≤ 6) && memDOk w d
  | .pop d w => decide (4 ≤ w.toNat) && decide (w.toNat ≤ 6) && memDOk w d
  | .atomAdd f => atomDOk false f.wide f.d
  | .atomMins f => atomDOk false f.wide f.d
  | .atomMinn f => atomDOk false f.wide f.d
  | .atomMaxs f => atomDOk false f.wide f.d
  | .atomMaxn f => atomDOk false f.wide f.d
  | .atomAnd f => atomDOk false f.wide f.d
  | .atomOr f => atomDOk false f.wide f.d
  | .atomXor f => atomDOk false f.wide f.d
  | .atomExch f => atomDOk false f.wide f.d
  | .atomCas f => atomDOk true f.wide f.d
  | .atomFadd f => !f.wide
  | .atomFmin f => !f.wide
  | .atomFmax f => !f.wide
  | .redm op f => decide (op.toNat < 13) && decide (op ≠ 9#4) && (decide (op.toNat < 10) || !f.wide) && atomDOk false f.wide f.d
  | .zfill _ _ space _ => decide (space ≠ 3#2)
  | .cpy f => decide (f.size ≠ 3#2) && decide (f.ds ≠ 3#2)
  | .wbld _ _ space => decide (space ≠ 3#2)
  | .acalloc _ n => decide (1 ≤ n.toNat) && decide (n.toNat ≤ 16)
  | .balloc _ _ scope pd => (decide (scope = 2#3) || decide (scope = 3#3) || decide (scope = 5#3)) && decide (pd ≠ 7#3)
  | .barvArrive _ kb tx => tx || decide (kb = 0#9)
  | .barvDrop _ kb tx => tx || decide (kb = 0#9)
  | .snap _ _ pd => decide (pd ≠ 7#3)
  | .reservedMajor m _ => majorReserved m.toNat
  | _ => true

/-- The fields of a word, taken as its format lays them out. -/
def decodeFields (w : BitVec 32) : Except DecodeErr Instr :=
  match (fieldOf w 24 7).toNat with
  | 0 => .ok (.nop (fieldOf w 0 24))
  | 1 => .ok (vvWord w .iadd)
  | 2 => .ok (vvWord w .isub)
  | 3 => .ok (vvWord w .imul)
  | 4 => .ok (vvWord w .imulhs)
  | 5 => .ok (vvWord w .imulhn)
  | 6 => .ok (vvWord w .imad)
  | 7 => .ok (vvWord w .imins)
  | 8 => .ok (vvWord w .iminn)
  | 9 => .ok (vvWord w .imaxs)
  | 10 => .ok (vvWord w .imaxn)
  | 11 => .ok (vvWord w .and)
  | 12 => .ok (vvWord w .or)
  | 13 => .ok (vvWord w .xor)
  | 14 => .ok (vvWord w .andn)
  | 15 => .ok (vvWord w .shl)
  | 16 => .ok (vvWord w .shr)
  | 17 => .ok (vvWord w .sar)
  | 18 => .ok (vvWord w .rot)
  | 19 => .ok (vvWord w .bfe)
  | 20 => .ok (vvWord w .bfi)
  | 24 => .ok (vvWord w .fadd)
  | 25 => .ok (vvWord w .fsub)
  | 26 => .ok (vvWord w .fmul)
  | 27 => .ok (vvWord w .ffma)
  | 28 => .ok (vvWord w .fmin)
  | 29 => .ok (vvWord w .fmax)
  | 30 => .ok (vvWord w .hadd)
  | 31 => .ok (vvWord w .hmul)
  | 32 => .ok (vvWord w .hfma)
  | 33 => .ok (vvWord w .badd)
  | 34 => .ok (vvWord w .bmul)
  | 35 => .ok (vvWord w .bfma)
  | 36 => .ok (vvWord w .padd)
  | 37 => .ok (vvWord w .psub)
  | 38 => .ok (vvWord w .pmul)
  | 39 => .ok (vvWord w .pmac)
  | 40 => .ok (vvWord w .pshr)
  | 41 => .ok (vvWord w .pmin)
  | 42 => .ok (vvWord w .pmax)
  | 43 => .ok (vvWord w .ppack)
  | 44 => .ok (vvWord w .lmul)
  | 48 => .ok (cmpWord w .icmp)
  | 49 => .ok (cmpWord w .fcmp)
  | 50 => .ok (cmpWord w .hcmp)
  | 0x33 => .ok (.sel (fieldOf w 18 6) (decodeSrc (fieldOf w 9 9)) (fieldOf w 3 6) (fieldOf w 0 3))
  | 0x34 => if plogOk (fieldOf w 9 9) && plogOk (fieldOf w 0 9)
      then .ok (.plog (fieldOf w 21 3) (fieldOf w 18 3) (fieldOf w 9 3) (fieldOf w 0 3)) else .error .badField
  | 0x36 => decodeVun w
  | 0x37 => if w.getLsbD 0 then .error .reservedCode
      else .ok (.cvt (fieldOf w 5 4) (fieldOf w 1 4) (fieldOf w 18 6) (decodeSrc (fieldOf w 9 9)))
  | 0x38 => decodeXfn w
  | 0x3A => .ok (vvWord w .slided)
  | 0x3B => .ok (vvWord w .slideu)
  | 0x3C => .ok (vvWord w .shfl)
  | 0x3D => whenZero (fieldOf w 7 2) (.red (fieldOf w 0 4) (fieldOf w 4 3) (fieldOf w 18 6) (decodeSrc (fieldOf w 9 9)))
  | 0x3E => whenZero (fieldOf w 7 2) (.scan (fieldOf w 0 4) (fieldOf w 4 3) (fieldOf w 18 6) (decodeSrc (fieldOf w 9 9)))
  | 0x3F => decodeVote w
  | 0x40 => decodeKop w
  | 0x41 => match (fieldOf w 0 6).toNat with
    | 0 => .ok (.kmovK (fieldOf w 15 9) (decodeSrc (fieldOf w 6 9)))
    | 1 => .ok (.kmovV (fieldOf w 15 9) (decodeSrc (fieldOf w 6 9)))
    | _ => .error .reservedCode
  | 0x42 => if w.getLsbD 14 then .ok (.kliShort (fieldOf w 15 9) (fieldOf w 0 14))
      else whenZero (fieldOf w 2 12) (.kliPimm (fieldOf w 15 9) (fieldOf w 0 2))
  | 0x43 => whenZero (fieldOf w 18 3 ++ fieldOf w 0 9) (.xset (fieldOf w 21 3) (decodeSrc (fieldOf w 9 9)))
  | 0x44 => whenZero (fieldOf w 18 3 ++ fieldOf w 0 9) (.xadd (fieldOf w 21 3) (decodeSrc (fieldOf w 9 9)))
  | 0x45 => .ok (vvWord w .rand)
  | 0x48 => .ok (.bra (fieldOf w 21 3) (w.getLsbD 20) (fieldOf w 0 20))
  | 0x49 => whenZero (fieldOf w 0 15) (.brx (fieldOf w 15 9))
  | 0x4A => .ok (.call (fieldOf w 21 3) (w.getLsbD 20) (fieldOf w 0 20))
  | 0x4B => whenZero (fieldOf w 6 18) (.ret (fieldOf w 0 6))
  | 0x4C => whenZero (fieldOf w 6 18) (.join (fieldOf w 0 6))
  | 0x4D => whenZero (fieldOf w 6 18) (.leave (fieldOf w 0 6))
  | 0x4E => whenZero (fieldOf w 6 18) (.waitm (fieldOf w 0 6))
  | 0x4F => whenZero (fieldOf w 0 24) .yieldW
  | 0x50 => whenZero (fieldOf w 0 24) .serb
  | 0x51 => whenZero (fieldOf w 0 24) .sere
  | 0x52 => whenZero (fieldOf w 3 12) (.elect (fieldOf w 15 9) (fieldOf w 0 3))
  | 0x53 => whenZero (fieldOf w 0 24) .exitW
  | 0x54 => whenZero (fieldOf w 4 11) (.trap (fieldOf w 15 9) (fieldOf w 0 4))
  | 0x55 => whenZero (fieldOf w 0 24) .tret
  | 0x56 => .ok (.wait (fieldOf w 18 6) (fieldOf w 12 6) (fieldOf w 6 6) (fieldOf w 0 6))
  | 0x58 => .ok (.ld (decodeMem w))
  | 0x59 => .ok (.st (decodeMem w))
  | 0x5A => .ok (.ldl (decodeMem w))
  | 0x5B => whenZero (fieldOf w 9 9 ++ fieldOf w 0 6) (.psh (fieldOf w 18 6) (fieldOf w 6 3))
  | 0x5C => whenZero (fieldOf w 9 9 ++ fieldOf w 0 6) (.pop (fieldOf w 18 6) (fieldOf w 6 3))
  | 0x5D => decodeAtomWord w
  | 0x5E => .ok (.redm (fieldOf w 5 4) (decodeAtom w))
  | 0x5F => if 8 ≤ (fieldOf w 6 9).toNat then .error .badField
      else whenZero (fieldOf w 15 9 ++ fieldOf w 3 3) (.fence (fieldOf w 6 3) (fieldOf w 0 3))
  | 0x60 => if fieldOf w 18 6 ++ fieldOf w 1 5 ≠ 0#11 then .error .reservedField
      else match (fieldOf w 6 3).toNat with
        | 0 => .ok (.clineWb (decodeSrc (fieldOf w 9 9)) (w.getLsbD 0))
        | 1 => .ok (.clineWbi (decodeSrc (fieldOf w 9 9)) (w.getLsbD 0))
        | 2 => .ok (.clineMem (decodeSrc (fieldOf w 9 9)) (w.getLsbD 0))
        | _ => .error .reservedCode
  | 0x61 => .ok (.cpy (decodeCpy w))
  | 0x62 => whenZero (fieldOf w 18 6 ++ fieldOf w 6 3) (.zfill (decodeSrc (fieldOf w 9 9)) (fieldOf w 3 3) (fieldOf w 1 2) (w.getLsbD 0))
  | 0x64 => whenZero (fieldOf w 1 5) (.obres (fieldOf w 15 9) (fieldOf w 6 9) (w.getLsbD 0))
  | 0x65 => whenZero (fieldOf w 0 15) (.obrel (fieldOf w 15 9))
  | 0x66 => whenZero (fieldOf w 3 3) (.obld (fieldOf w 15 9) (fieldOf w 6 9) (fieldOf w 0 2) (w.getLsbD 2))
  | 0x67 => whenZero (fieldOf w 2 4) (.wbld (fieldOf w 15 9) (fieldOf w 6 9) (fieldOf w 0 2))
  | 0x68 => whenZero (fieldOf w 6 9) (.acalloc (fieldOf w 15 9) (fieldOf w 0 6))
  | 0x69 => whenZero (fieldOf w 0 15) (.acfree (fieldOf w 15 9))
  | 0x6A => whenZero (fieldOf w 1 14) (.mma (fieldOf w 15 9) (w.getLsbD 0))
  | 0x6B => if fieldOf w 3 3 ≠ 0#3 then .error .reservedField
      else match (fieldOf w 0 2).toNat with
        | 0 => .ok (.acmovTogl (fieldOf w 15 9) (fieldOf w 6 9) (w.getLsbD 2))
        | 1 => .ok (.acmovTosp (fieldOf w 15 9) (fieldOf w 6 9) (w.getLsbD 2))
        | 2 => if w.getLsbD 2 then .error .badField else .ok (.acmovFromsp (fieldOf w 15 9) (fieldOf w 6 9))
        | _ => .ok (.acmovToreg (fieldOf w 15 9) (fieldOf w 6 9) (w.getLsbD 2))
  | 0x6C => whenZero (fieldOf w 1 14) (.twset (fieldOf w 15 9) (w.getLsbD 0))
  | 0x6D => whenZero (fieldOf w 0 15) (.tldw (fieldOf w 15 9))
  | 0x6E => whenZero (fieldOf w 6 18) (.tlnch (fieldOf w 0 6))
  | 0x6F => whenZero (fieldOf w 6 18) (.tcapt (fieldOf w 0 6))
  | 0x70 => if w.getLsbD 0 then whenZero (fieldOf w 1 23) .trstRel else whenZero (fieldOf w 1 23) .trst
  | 0x71 => .ok (.balloc (fieldOf w 15 9) (fieldOf w 6 9) (fieldOf w 3 3) (fieldOf w 0 3))
  | 0x72 => whenZero (fieldOf w 0 15) (.bfree (fieldOf w 15 9))
  | 0x73 => if fieldOf w 3 3 ≠ 0#3 then .error .reservedField
      else match (fieldOf w 0 2).toNat with
        | 0 => .ok (.barvArrive (fieldOf w 15 9) (fieldOf w 6 9) (w.getLsbD 2))
        | 1 => if w.getLsbD 2 then .ok (.barvNoarr (fieldOf w 15 9) (fieldOf w 6 9)) else .error .badField
        | 2 => .ok (.barvDrop (fieldOf w 15 9) (fieldOf w 6 9) (w.getLsbD 2))
        | _ => .error .reservedCode
  | 0x74 => whenZero (fieldOf w 3 3) (.bwait (fieldOf w 15 9) (fieldOf w 6 9) (fieldOf w 0 3))
  | 0x75 => if fieldOf w 1 5 ≠ 0#5 then .error .reservedField
      else if w.getLsbD 0 then whenZero (fieldOf w 6 9) (.ringRel (fieldOf w 15 9))
      else .ok (.ringCreate (fieldOf w 15 9) (fieldOf w 6 9))
  | 0x76 => whenZero (fieldOf w 0 6) (.rawait (fieldOf w 15 9) (fieldOf w 6 9))
  | 0x77 => whenZero (fieldOf w 0 15) (.rrel (fieldOf w 15 9))
  | 0x78 => whenZero (fieldOf w 0 3) (.csrr (fieldOf w 15 9) (fieldOf w 3 12))
  | 0x79 => match (fieldOf w 0 3).toNat with
    | 1 => .ok (.csrwWrite (fieldOf w 15 9) (fieldOf w 3 12))
    | 2 => .ok (.csrwSet (fieldOf w 15 9) (fieldOf w 3 12))
    | 3 => .ok (.csrwClr (fieldOf w 15 9) (fieldOf w 3 12))
    | 4 => .ok (.csrwSwap (fieldOf w 15 9) (fieldOf w 3 12))
    | _ => .error .reservedCode
  | 0x7A => whenZero (fieldOf w 3 3) (.snap (fieldOf w 15 9) (fieldOf w 6 9) (fieldOf w 0 3))
  | 0x7B => whenZero (fieldOf w 4 2) (.snapq (fieldOf w 15 9) (fieldOf w 6 9) (fieldOf w 0 3) (w.getLsbD 3))
  | 0x7F => .ok (.mod (decodeMod w))
  | _ => .ok (.reservedMajor (fieldOf w 24 7) (fieldOf w 0 24))

/-- The instruction a word stands for, or why it is none. Bit [31] is not looked at. -/
def decode (w : BitVec 32) : Except DecodeErr Instr :=
  match decodeFields w with
  | .error e => .error e
  | .ok i => if wordOk i then .ok i else .error .badField

/-- A word with C = 0 from its major opcode and bits [23:0]. -/
def mkWord (major : BitVec 7) (rest : BitVec 24) : BitVec 32 := (0#1 ++ major) ++ rest

/-- The word of an instruction, C = 0; an event has none. -/
def encode : Instr → Option (BitVec 32)
  | .nop r => some (mkWord 0x00#7 (r))
  | .mod m => some (mkWord 0x7F#7 (encodeMod m))
  | .iadd d a b => some (mkWord 0x01#7 (d ++ encodeSrc a ++ encodeSrc b))
  | .isub d a b => some (mkWord 0x02#7 (d ++ encodeSrc a ++ encodeSrc b))
  | .imul d a b => some (mkWord 0x03#7 (d ++ encodeSrc a ++ encodeSrc b))
  | .imulhs d a b => some (mkWord 0x04#7 (d ++ encodeSrc a ++ encodeSrc b))
  | .imulhn d a b => some (mkWord 0x05#7 (d ++ encodeSrc a ++ encodeSrc b))
  | .imad d a b => some (mkWord 0x06#7 (d ++ encodeSrc a ++ encodeSrc b))
  | .imins d a b => some (mkWord 0x07#7 (d ++ encodeSrc a ++ encodeSrc b))
  | .iminn d a b => some (mkWord 0x08#7 (d ++ encodeSrc a ++ encodeSrc b))
  | .imaxs d a b => some (mkWord 0x09#7 (d ++ encodeSrc a ++ encodeSrc b))
  | .imaxn d a b => some (mkWord 0x0A#7 (d ++ encodeSrc a ++ encodeSrc b))
  | .and d a b => some (mkWord 0x0B#7 (d ++ encodeSrc a ++ encodeSrc b))
  | .or d a b => some (mkWord 0x0C#7 (d ++ encodeSrc a ++ encodeSrc b))
  | .xor d a b => some (mkWord 0x0D#7 (d ++ encodeSrc a ++ encodeSrc b))
  | .andn d a b => some (mkWord 0x0E#7 (d ++ encodeSrc a ++ encodeSrc b))
  | .shl d a b => some (mkWord 0x0F#7 (d ++ encodeSrc a ++ encodeSrc b))
  | .shr d a b => some (mkWord 0x10#7 (d ++ encodeSrc a ++ encodeSrc b))
  | .sar d a b => some (mkWord 0x11#7 (d ++ encodeSrc a ++ encodeSrc b))
  | .rot d a b => some (mkWord 0x12#7 (d ++ encodeSrc a ++ encodeSrc b))
  | .bfe d a b => some (mkWord 0x13#7 (d ++ encodeSrc a ++ encodeSrc b))
  | .bfi d a b => some (mkWord 0x14#7 (d ++ encodeSrc a ++ encodeSrc b))
  | .fadd d a b => some (mkWord 0x18#7 (d ++ encodeSrc a ++ encodeSrc b))
  | .fsub d a b => some (mkWord 0x19#7 (d ++ encodeSrc a ++ encodeSrc b))
  | .fmul d a b => some (mkWord 0x1A#7 (d ++ encodeSrc a ++ encodeSrc b))
  | .ffma d a b => some (mkWord 0x1B#7 (d ++ encodeSrc a ++ encodeSrc b))
  | .fmin d a b => some (mkWord 0x1C#7 (d ++ encodeSrc a ++ encodeSrc b))
  | .fmax d a b => some (mkWord 0x1D#7 (d ++ encodeSrc a ++ encodeSrc b))
  | .hadd d a b => some (mkWord 0x1E#7 (d ++ encodeSrc a ++ encodeSrc b))
  | .hmul d a b => some (mkWord 0x1F#7 (d ++ encodeSrc a ++ encodeSrc b))
  | .hfma d a b => some (mkWord 0x20#7 (d ++ encodeSrc a ++ encodeSrc b))
  | .badd d a b => some (mkWord 0x21#7 (d ++ encodeSrc a ++ encodeSrc b))
  | .bmul d a b => some (mkWord 0x22#7 (d ++ encodeSrc a ++ encodeSrc b))
  | .bfma d a b => some (mkWord 0x23#7 (d ++ encodeSrc a ++ encodeSrc b))
  | .padd d a b => some (mkWord 0x24#7 (d ++ encodeSrc a ++ encodeSrc b))
  | .psub d a b => some (mkWord 0x25#7 (d ++ encodeSrc a ++ encodeSrc b))
  | .pmul d a b => some (mkWord 0x26#7 (d ++ encodeSrc a ++ encodeSrc b))
  | .pmac d a b => some (mkWord 0x27#7 (d ++ encodeSrc a ++ encodeSrc b))
  | .pshr d a b => some (mkWord 0x28#7 (d ++ encodeSrc a ++ encodeSrc b))
  | .pmin d a b => some (mkWord 0x29#7 (d ++ encodeSrc a ++ encodeSrc b))
  | .pmax d a b => some (mkWord 0x2A#7 (d ++ encodeSrc a ++ encodeSrc b))
  | .ppack d a b => some (mkWord 0x2B#7 (d ++ encodeSrc a ++ encodeSrc b))
  | .lmul d a b => some (mkWord 0x2C#7 (d ++ encodeSrc a ++ encodeSrc b))
  | .slided d a b => some (mkWord 0x3A#7 (d ++ encodeSrc a ++ encodeSrc b))
  | .slideu d a b => some (mkWord 0x3B#7 (d ++ encodeSrc a ++ encodeSrc b))
  | .shfl d a b => some (mkWord 0x3C#7 (d ++ encodeSrc a ++ encodeSrc b))
  | .rand d a b => some (mkWord 0x45#7 (d ++ encodeSrc a ++ encodeSrc b))
  | .icmp p c a b => some (mkWord 0x30#7 (p ++ c ++ encodeSrc a ++ encodeSrc b))
  | .fcmp p c a b => some (mkWord 0x31#7 (p ++ c ++ encodeSrc a ++ encodeSrc b))
  | .hcmp p c a b => some (mkWord 0x32#7 (p ++ c ++ encodeSrc a ++ encodeSrc b))
  | .sel d a b p => some (mkWord 0x33#7 (d ++ encodeSrc a ++ b ++ p))
  | .plog d c a b => some (mkWord 0x34#7 (d ++ c ++ (0#6 ++ a) ++ (0#6 ++ b)))
  | .vunMov d a => some (mkWord 0x36#7 (d ++ encodeSrc a ++ 0#9))
  | .vunNot d a => some (mkWord 0x36#7 (d ++ encodeSrc a ++ 1#9))
  | .vunIneg d a => some (mkWord 0x36#7 (d ++ encodeSrc a ++ 2#9))
  | .vunIabs d a => some (mkWord 0x36#7 (d ++ encodeSrc a ++ 3#9))
  | .vunPopc d a => some (mkWord 0x36#7 (d ++ encodeSrc a ++ 4#9))
  | .vunClz d a => some (mkWord 0x36#7 (d ++ encodeSrc a ++ 5#9))
  | .vunCtz d a => some (mkWord 0x36#7 (d ++ encodeSrc a ++ 6#9))
  | .vunBrev d a => some (mkWord 0x36#7 (d ++ encodeSrc a ++ 7#9))
  | .vunBswap d a => some (mkWord 0x36#7 (d ++ encodeSrc a ++ 8#9))
  | .vunFrint d a => some (mkWord 0x36#7 (d ++ encodeSrc a ++ 16#9))
  | .vunFfloor d a => some (mkWord 0x36#7 (d ++ encodeSrc a ++ 17#9))
  | .vunFceil d a => some (mkWord 0x36#7 (d ++ encodeSrc a ++ 18#9))
  | .vunFtrunc d a => some (mkWord 0x36#7 (d ++ encodeSrc a ++ 19#9))
  | .cvt s t d a => some (mkWord 0x37#7 (d ++ encodeSrc a ++ (s ++ t ++ 0#1)))
  | .xfnRcp d a => some (mkWord 0x38#7 (d ++ encodeSrc a ++ 0#9))
  | .xfnRsq d a => some (mkWord 0x38#7 (d ++ encodeSrc a ++ 1#9))
  | .xfnSqrt d a => some (mkWord 0x38#7 (d ++ encodeSrc a ++ 2#9))
  | .xfnExp2 d a => some (mkWord 0x38#7 (d ++ encodeSrc a ++ 3#9))
  | .xfnLog2 d a => some (mkWord 0x38#7 (d ++ encodeSrc a ++ 4#9))
  | .xfnSin d a => some (mkWord 0x38#7 (d ++ encodeSrc a ++ 5#9))
  | .xfnCos d a => some (mkWord 0x38#7 (d ++ encodeSrc a ++ 6#9))
  | .xfnTanh d a => some (mkWord 0x38#7 (d ++ encodeSrc a ++ 7#9))
  | .red op t d a => some (mkWord 0x3D#7 (d ++ encodeSrc a ++ (0#2 ++ t ++ op)))
  | .scan op t d a => some (mkWord 0x3E#7 (d ++ encodeSrc a ++ (0#2 ++ t ++ op)))
  | .voteAny d a => some (mkWord 0x3F#7 (d ++ encodeSrc a ++ 0#9))
  | .voteAll d a => some (mkWord 0x3F#7 (d ++ encodeSrc a ++ 1#9))
  | .voteBallot d a => some (mkWord 0x3F#7 (d ++ encodeSrc a ++ 2#9))
  | .voteCount d a => some (mkWord 0x3F#7 (d ++ encodeSrc a ++ 3#9))
  | .kopMov d a => some (mkWord 0x40#7 (d ++ a ++ 0#6))
  | .kopAdd d a => some (mkWord 0x40#7 (d ++ a ++ 1#6))
  | .kopSub d a => some (mkWord 0x40#7 (d ++ a ++ 2#6))
  | .kopMul d a => some (mkWord 0x40#7 (d ++ a ++ 3#6))
  | .kopAnd d a => some (mkWord 0x40#7 (d ++ a ++ 4#6))
  | .kopOr d a => some (mkWord 0x40#7 (d ++ a ++ 5#6))
  | .kopXor d a => some (mkWord 0x40#7 (d ++ a ++ 6#6))
  | .kopShl d a => some (mkWord 0x40#7 (d ++ a ++ 7#6))
  | .kopShr d a => some (mkWord 0x40#7 (d ++ a ++ 8#6))
  | .kopSar d a => some (mkWord 0x40#7 (d ++ a ++ 9#6))
  | .kopMins d a => some (mkWord 0x40#7 (d ++ a ++ 10#6))
  | .kopMinn d a => some (mkWord 0x40#7 (d ++ a ++ 11#6))
  | .kopMaxs d a => some (mkWord 0x40#7 (d ++ a ++ 12#6))
  | .kopMaxn d a => some (mkWord 0x40#7 (d ++ a ++ 13#6))
  | .kopAdd64 d a => some (mkWord 0x40#7 (d ++ a ++ 16#6))
  | .kopMov64 d a => some (mkWord 0x40#7 (d ++ a ++ 17#6))
  | .kmovK d a => some (mkWord 0x41#7 (d ++ encodeSrc a ++ 0#6))
  | .kmovV d a => some (mkWord 0x41#7 (d ++ encodeSrc a ++ 1#6))
  | .kliShort d i => some (mkWord 0x42#7 (d ++ 1#1 ++ i))
  | .kliPimm d h => some (mkWord 0x42#7 (d ++ 0#13 ++ h))
  | .xset x a => some (mkWord 0x43#7 (x ++ 0#3 ++ encodeSrc a ++ 0#9))
  | .xadd x a => some (mkWord 0x44#7 (x ++ 0#3 ++ encodeSrc a ++ 0#9))
  | .bra p n o => some (mkWord 0x48#7 (p ++ BitVec.ofBool n ++ o))
  | .call p n o => some (mkWord 0x4A#7 (p ++ BitVec.ofBool n ++ o))
  | .brx k => some (mkWord 0x49#7 (k ++ 0#15))
  | .ret n => some (mkWord 0x4B#7 (0#18 ++ n))
  | .join m => some (mkWord 0x4C#7 (0#18 ++ m))
  | .leave m => some (mkWord 0x4D#7 (0#18 ++ m))
  | .waitm m => some (mkWord 0x4E#7 (0#18 ++ m))
  | .yieldW => some (mkWord 0x4F#7 (0#24))
  | .serb => some (mkWord 0x50#7 (0#24))
  | .sere => some (mkWord 0x51#7 (0#24))
  | .exitW => some (mkWord 0x53#7 (0#24))
  | .tret => some (mkWord 0x55#7 (0#24))
  | .elect k p => some (mkWord 0x52#7 (k ++ 0#12 ++ p))
  | .trap k n => some (mkWord 0x54#7 (k ++ 0#11 ++ n))
  | .wait a b c d => some (mkWord 0x56#7 (a ++ b ++ c ++ d))
  | .ld f => some (mkWord 0x58#7 (encodeMem f))
  | .st f => some (mkWord 0x59#7 (encodeMem f))
  | .ldl f => some (mkWord 0x5A#7 (encodeMem f))
  | .psh d w => some (mkWord 0x5B#7 (d ++ 0#9 ++ w ++ 0#6))
  | .pop d w => some (mkWord 0x5C#7 (d ++ 0#9 ++ w ++ 0#6))
  | .atomAdd f => some (mkWord 0x5D#7 (encodeAtom 0#4 f))
  | .atomMins f => some (mkWord 0x5D#7 (encodeAtom 1#4 f))
  | .atomMinn f => some (mkWord 0x5D#7 (encodeAtom 2#4 f))
  | .atomMaxs f => some (mkWord 0x5D#7 (encodeAtom 3#4 f))
  | .atomMaxn f => some (mkWord 0x5D#7 (encodeAtom 4#4 f))
  | .atomAnd f => some (mkWord 0x5D#7 (encodeAtom 5#4 f))
  | .atomOr f => some (mkWord 0x5D#7 (encodeAtom 6#4 f))
  | .atomXor f => some (mkWord 0x5D#7 (encodeAtom 7#4 f))
  | .atomExch f => some (mkWord 0x5D#7 (encodeAtom 8#4 f))
  | .atomCas f => some (mkWord 0x5D#7 (encodeAtom 9#4 f))
  | .atomFadd f => some (mkWord 0x5D#7 (encodeAtom 10#4 f))
  | .atomFmin f => some (mkWord 0x5D#7 (encodeAtom 11#4 f))
  | .atomFmax f => some (mkWord 0x5D#7 (encodeAtom 12#4 f))
  | .redm op f => some (mkWord 0x5E#7 (encodeAtom op f))
  | .fence p s => some (mkWord 0x5F#7 (0#9 ++ (0#6 ++ p) ++ 0#3 ++ s))
  | .clineWb a o => some (mkWord 0x60#7 (0#6 ++ encodeSrc a ++ 0#3 ++ 0#5 ++ BitVec.ofBool o))
  | .clineWbi a o => some (mkWord 0x60#7 (0#6 ++ encodeSrc a ++ 1#3 ++ 0#5 ++ BitVec.ofBool o))
  | .clineMem a o => some (mkWord 0x60#7 (0#6 ++ encodeSrc a ++ 2#3 ++ 0#5 ++ BitVec.ofBool o))
  | .cpy f => some (mkWord 0x61#7 (encodeCpy f))
  | .zfill a sc sp o => some (mkWord 0x62#7 (0#6 ++ encodeSrc a ++ 0#3 ++ sc ++ sp ++ BitVec.ofBool o))
  | .obres k q b => some (mkWord 0x64#7 (k ++ q ++ 0#5 ++ BitVec.ofBool b))
  | .obrel k => some (mkWord 0x65#7 (k ++ 0#15))
  | .obld k q s c => some (mkWord 0x66#7 (k ++ q ++ 0#3 ++ BitVec.ofBool c ++ s))
  | .wbld k q s => some (mkWord 0x67#7 (k ++ q ++ 0#4 ++ s))
  | .acalloc k n => some (mkWord 0x68#7 (k ++ 0#9 ++ n))
  | .acfree k => some (mkWord 0x69#7 (k ++ 0#15))
  | .mma k c => some (mkWord 0x6A#7 (k ++ 0#14 ++ BitVec.ofBool c))
  | .acmovTogl k q c => some (mkWord 0x6B#7 (k ++ q ++ 0#3 ++ BitVec.ofBool c ++ 0#2))
  | .acmovTosp k q c => some (mkWord 0x6B#7 (k ++ q ++ 0#3 ++ BitVec.ofBool c ++ 1#2))
  | .acmovFromsp k q => some (mkWord 0x6B#7 (k ++ q ++ 0#4 ++ 2#2))
  | .acmovToreg k q c => some (mkWord 0x6B#7 (k ++ q ++ 0#3 ++ BitVec.ofBool c ++ 3#2))
  | .twset k m => some (mkWord 0x6C#7 (k ++ 0#14 ++ BitVec.ofBool m))
  | .tldw k => some (mkWord 0x6D#7 (k ++ 0#15))
  | .tlnch v => some (mkWord 0x6E#7 (0#18 ++ v))
  | .tcapt v => some (mkWord 0x6F#7 (0#18 ++ v))
  | .trst => some (mkWord 0x70#7 (0#24))
  | .trstRel => some (mkWord 0x70#7 (1#24))
  | .balloc k q s p => some (mkWord 0x71#7 (k ++ q ++ s ++ p))
  | .bfree k => some (mkWord 0x72#7 (k ++ 0#15))
  | .barvArrive k b t => some (mkWord 0x73#7 (k ++ b ++ 0#3 ++ BitVec.ofBool t ++ 0#2))
  | .barvNoarr k b => some (mkWord 0x73#7 (k ++ b ++ 0#3 ++ 1#1 ++ 1#2))
  | .barvDrop k b t => some (mkWord 0x73#7 (k ++ b ++ 0#3 ++ BitVec.ofBool t ++ 2#2))
  | .bwait k q p => some (mkWord 0x74#7 (k ++ q ++ 0#3 ++ p))
  | .ringCreate k q => some (mkWord 0x75#7 (k ++ q ++ 0#6))
  | .ringRel k => some (mkWord 0x75#7 (k ++ 0#9 ++ 1#6))
  | .rawait k q => some (mkWord 0x76#7 (k ++ q ++ 0#6))
  | .rrel k => some (mkWord 0x77#7 (k ++ 0#15))
  | .csrr k n => some (mkWord 0x78#7 (k ++ n ++ 0#3))
  | .csrwWrite k n => some (mkWord 0x79#7 (k ++ n ++ 1#3))
  | .csrwSet k n => some (mkWord 0x79#7 (k ++ n ++ 2#3))
  | .csrwClr k n => some (mkWord 0x79#7 (k ++ n ++ 3#3))
  | .csrwSwap k n => some (mkWord 0x79#7 (k ++ n ++ 4#3))
  | .snap k q p => some (mkWord 0x7A#7 (k ++ q ++ 0#3 ++ p))
  | .snapq k q p g => some (mkWord 0x7B#7 (k ++ q ++ 0#2 ++ BitVec.ofBool g ++ p))
  | .reservedMajor m r => some (mkWord m r)
  | _ => none

/-- A packet's word at its bytes (R72, little-endian under R4). -/
def wordOfBytes (b0 b1 b2 b3 : Byte) : BitVec 32 := b3 ++ b2 ++ b1 ++ b0

/-- The instruction in the first 32 bits of a table word: an SQ-40 word is one 32-bit word. -/
def decodeTableWord (_nbits w : Nat) : Option Instr :=
  match decode (wordOfBytes (BitVec.ofNat 8 w) (BitVec.ofNat 8 (w / 2 ^ 8)) (BitVec.ofNat 8 (w / 2 ^ 16)) (BitVec.ofNat 8 (w / 2 ^ 24))) with
  | .ok i => some i
  | .error _ => none

end Sys2Proof
end

