-- ==== Sys2Proof/Machine/Float.lean ====
section
/-! DEFINITION. Exact arithmetic and its one rounding (03_numbers R44 to R51, R54), on dyadic numbers m * 2^e. -/

namespace Sys2Proof.Machine

/-! ## Flags of GSTAT (R49) -/

def flNX : Word := 1#32
def flUF : Word := 2#32
def flOF : Word := 4#32
def flDZ : Word := 8#32
def flNV : Word := 16#32
def flSAT : Word := 32#32

/-- A result pattern with the flags its word sets. -/
structure Res where
  bits  : Nat
  flags : Word
deriving DecidableEq, Repr

/-- A floating-point format (R44): exponent and fraction bits. -/
structure Fmt where
  ebits : Nat
  fbits : Nat
deriving DecidableEq, Repr

def fmtF32 : Fmt := { ebits := 8, fbits := 23 }
def fmtF16 : Fmt := { ebits := 5, fbits := 10 }
def fmtBf16 : Fmt := { ebits := 8, fbits := 7 }

/-- The exponent bias of a format. -/
def fmtBias (f : Fmt) : Nat := 2 ^ (f.ebits - 1) - 1

def fmtWidth (f : Fmt) : Nat := 1 + f.ebits + f.fbits

/-- The pattern of +infinity. -/
def fmtInf (f : Fmt) : Nat := (2 ^ f.ebits - 1) * 2 ^ f.fbits

/-- The canonical NaN (R44, R45). -/
def fmtNaN (f : Fmt) : Nat := fmtInf f + 2 ^ (f.fbits - 1)

/-- The largest finite value. -/
def fmtMax (f : Fmt) : Nat := fmtInf f - 1

/-- A pattern with its sign bit. -/
def withSign (f : Fmt) (s : Bool) (mag : Nat) : Nat := (if s then 2 ^ (f.ebits + f.fbits) else 0) + mag

/-- An extended real: a NaN (signalling or not), an infinity, or m * 2^e, whose sign `z` counts where m is 0. -/
inductive FVal where
  | nan (sig : Bool)
  | inf (s : Bool)
  | num (m : Int) (e : Int) (z : Bool)
deriving DecidableEq, Repr

/-- The magnitude bits of a pattern. -/
def magOf (f : Fmt) (x : Nat) : Nat := x % 2 ^ (f.ebits + f.fbits)

def signOf (f : Fmt) (x : Nat) : Bool := bitN x (f.ebits + f.fbits)

def isNaN (f : Fmt) (x : Nat) : Bool := decide (fmtInf f < magOf f x)

/-- A NaN whose top fraction bit is 0 (R44). -/
def isSig (f : Fmt) (x : Nat) : Bool := isNaN f x && !bitN x (f.fbits - 1)

/-- The value of a pattern (R44, R46). -/
def fval (f : Fmt) (x : Nat) : FVal :=
  let mag := magOf f x
  let s := signOf f x
  let ex := mag / 2 ^ f.fbits
  let fr := mag % 2 ^ f.fbits
  if fmtInf f < mag then .nan (isSig f x)
  else if mag = fmtInf f then .inf s
  else
    let m : Nat := if ex = 0 then fr else fr + 2 ^ f.fbits
    let q : Int := (if ex = 0 then 1 else (ex : Int)) - (fmtBias f : Int) - (f.fbits : Int)
    .num (if s then - (m : Int) else (m : Int)) q s

/-- The sign of a value. -/
def fneg : FVal → FVal
  | .nan g => .nan g
  | .inf s => .inf (!s)
  | .num m e z => .num (-m) e (!z)

/-- Round sign `s`, magnitude `m` * 2^e, `sticky` saying that the exact magnitude lies a little above it, once to the format in a
mode (R47, R48), with OF, UF and NX (R49). `m` = 0 without sticky is an exact zero. -/
def roundMag (f : Fmt) (mode : Nat) (s : Bool) (m0 : Nat) (e0 : Int) (sticky : Bool) : Res :=
  let m := 4 * m0 + (if sticky then 1 else 0)
  let e := e0 - 2
  if m = 0 then { bits := withSign f s 0, flags := 0 }
  else
    let qmin : Int := 1 - (fmtBias f : Int) - (f.fbits : Int)
    let q : Int := max ((Nat.log2 m : Int) + e - (f.fbits : Int)) qmin
    let d : Int := q - e
    let sh : Nat := d.toNat
    let n : Nat := if d ≤ 0 then m * 2 ^ (-d).toNat else m / 2 ^ sh
    let r : Nat := if d ≤ 0 then 0 else m % 2 ^ sh
    let half : Nat := 2 ^ (sh - 1)
    let up : Bool := match mode with
      | 0 => decide (half < r) || (decide (r = half) && decide (0 < sh) && decide (n % 2 = 1))
      | 1 => false
      | 2 => s && decide (r ≠ 0)
      | _ => !s && decide (r ≠ 0)
    let n1 := if up then n + 1 else n
    let code := (q - qmin).toNat * 2 ^ f.fbits + n1
    if fmtInf f ≤ code then
      let toInf := match mode with
        | 0 => true
        | 1 => false
        | 2 => s
        | _ => !s
      { bits := withSign f s (if toInf then fmtInf f else fmtMax f), flags := flOF ||| flNX }
    else
      { bits := withSign f s code,
        flags := if r = 0 then 0 else if code < 2 ^ f.fbits then flUF ||| flNX else flNX }

/-- Round an extended real (R48). An exact zero keeps the sign `z`. -/
def roundVal (f : Fmt) (mode : Nat) (v : FVal) : Res :=
  match v with
  | .nan g => { bits := fmtNaN f, flags := if g then flNV else 0 }
  | .inf s => { bits := withSign f s (fmtInf f), flags := 0 }
  | .num m e z => roundMag f mode (if m = 0 then z else decide (m < 0)) m.natAbs e false

/-- The exact sum of two numbers as (m, e). -/
def addDy (m1 e1 m2 e2 : Int) : Int × Int :=
  if e1 ≤ e2 then (m1 + m2 * (2 ^ (e2 - e1).toNat : Nat), e1) else (m1 * (2 ^ (e1 - e2).toNat : Nat) + m2, e2)

/-- Exact addition with its special cases (R48). An invalid sum is a signalling NaN. -/
def addVal (mode : Nat) (a b : FVal) : FVal :=
  match a, b with
  | .nan g, .nan h => .nan (g || h)
  | .nan g, _ => .nan g
  | _, .nan h => .nan h
  | .inf s, .inf t => if s = t then .inf s else .nan true
  | .inf s, _ => .inf s
  | _, .inf t => .inf t
  | .num m1 e1 z1, .num m2 e2 z2 =>
    let r := addDy m1 e1 m2 e2
    if r.1 = 0 then
      (if m1 = 0 then .num 0 0 (if z1 = z2 then z1 else decide (mode = 2)) else .num 0 0 (decide (mode = 2)))
    else .num r.1 r.2 (decide (r.1 < 0))

/-- Exact multiplication with its special cases (R48). -/
def mulVal (a b : FVal) : FVal :=
  match a, b with
  | .nan g, .nan h => .nan (g || h)
  | .nan g, _ => .nan g
  | _, .nan h => .nan h
  | .inf s, .inf t => .inf (xor s t)
  | .inf s, .num m _ z => if m = 0 then .nan true else .inf (xor s z)
  | .num m _ z, .inf t => if m = 0 then .nan true else .inf (xor z t)
  | .num m1 e1 z1, .num m2 e2 z2 => .num (m1 * m2) (e1 + e2) (xor z1 z2)

/-- a * b + c with the product exact; 0 * infinity sets NV even when the addend is a NaN (R48). -/
def fmaVal (mode : Nat) (a b c : FVal) : FVal := addVal mode (mulVal a b) c

/-- A key that orders the patterns of a format, -0 below +0 (R50, R54). -/
def fkey (f : Fmt) (x : Nat) : Int := if signOf f x then - (magOf f x : Int) - 1 else (magOf f x : Int)

/-- minimumNumber and maximumNumber (R50). -/
def minNum (f : Fmt) (a b : Nat) : Nat :=
  if isNaN f a then (if isNaN f b then fmtNaN f else b) else if isNaN f b then a else if fkey f b < fkey f a then b else a

def maxNum (f : Fmt) (a b : Nat) : Nat :=
  if isNaN f a then (if isNaN f b then fmtNaN f else b) else if isNaN f b then a else if fkey f a < fkey f b then b else a

/-- 1.0 and -1.0 of a format. -/
def fmtOne (f : Fmt) : Nat := fmtBias f * 2 ^ f.fbits

/-- `clamp_to` on a float pattern (R54, R87): `code` the CLAMP field, `lo` and `hi` the bounds that code 3 names; a NaN bound
leaves its side open, and SAT is set when the value changes. -/
def clampF (f : Fmt) (code : Nat) (lo hi : Nat) (x : Nat) : Res :=
  if code = 0 then { bits := x, flags := 0 }
  else if isNaN f x then { bits := fmtNaN f, flags := 0 }
  else
    let l := match code with
      | 1 => 0
      | 2 => withSign f true (fmtOne f)
      | _ => lo
    let h := if code = 3 then hi else fmtOne f
    let y := if !isNaN f l && decide (fkey f x < fkey f l) then l else x
    let z := if !isNaN f h && decide (fkey f h < fkey f y) then h else y
    { bits := z, flags := if z = x then 0 else flSAT }

/-- What finishing needs of a MOD word and the gang: the fields of R54, the effective mode, the clamp bounds. -/
structure Fin where
  neg   : Bool
  scale : Int
  sat   : Bool
  clamp : Nat
  mode  : Nat
  lo    : Nat
  hi    : Nat
deriving DecidableEq, Repr

/-- Nothing to do, to nearest even. -/
def finPlain : Fin := { neg := false, scale := 0, sat := false, clamp := 0, mode := 0, lo := 0, hi := 0 }

/-- y * 2^k, exactly. -/
def scaleVal (k : Int) : FVal → FVal
  | .num m e z => .num m (e + k) z
  | v => v

def isFiniteV : FVal → Bool
  | .num _ _ _ => true
  | _ => false

/-- `finish_float` (R54) (log entry 19, DEDUCED). -/
def finishFloat (f : Fmt) (q : Fin) (y0 : FVal) : Res :=
  let y := scaleVal q.scale (if q.neg then fneg y0 else y0)
  let z := roundVal f q.mode y
  let w : Res := if q.sat && isFiniteV y && decide (magOf f z.bits = fmtInf f)
    then { bits := withSign f (signOf f z.bits) (fmtMax f), flags := z.flags ||| flSAT } else z
  let c := clampF f q.clamp q.lo q.hi w.bits
  { bits := c.bits, flags := w.flags ||| c.flags }

/-- `finish_int` (R54): `n` bits, signed or natural. -/
def finishInt (n : Nat) (signed : Bool) (q : Fin) (y0 : Int) : Res :=
  let y1 := if q.neg then -y0 else y0
  let y2 := if 0 ≤ q.scale then y1 * (2 ^ q.scale.toNat : Nat)
    else let s := (-q.scale).toNat; floorShr (y1 + (2 ^ (s - 1) : Nat)) s
  let rd := fun x : Nat => if signed then sextN x n else (x % 2 ^ n : Nat)
  let lo : Int := match q.clamp with
    | 2 => if signed then -1 else 0
    | 3 => rd q.lo
    | _ => 0
  let hi : Int := if q.clamp = 3 then rd q.hi else 1
  let y3 := if q.clamp = 0 then y2 else min (max y2 lo) hi
  let f1 := if y3 = y2 then 0 else flSAT
  let mn : Int := if signed then -(2 ^ (n - 1) : Nat) else 0
  let mx : Int := if signed then (2 ^ (n - 1) : Nat) - 1 else (2 ^ n : Nat) - 1
  let y4 := if q.sat then min (max y3 mn) mx else y3
  { bits := (y4 % (2 ^ n : Nat)).toNat, flags := f1 ||| (if y4 = y3 then 0 else flSAT) }

/-! ## Rounding to an integer (R55, R137) -/

/-- The integer nearest m * 2^e in a mode, and whether it is exact. Mode 0 ties to even. -/
def roundInt (mode : Nat) (m e : Int) : Int × Bool :=
  if 0 ≤ e then (m * (2 ^ e.toNat : Nat), true)
  else
    let sh := (-e).toNat
    let n := floorShr m sh
    let r := (m - n * (2 ^ sh : Nat)).toNat
    let half := 2 ^ (sh - 1)
    let up := match mode with
      | 0 => decide (half < r) || (decide (r = half) && decide (n % 2 = 1))
      | 1 => decide (m < 0) && decide (r ≠ 0)
      | 2 => false
      | _ => decide (r ≠ 0)
    (if up then n + 1 else n, decide (r = 0))

/-- Rounding to an integral value of the format, keeping the sign of a zero result (R137). -/
def roundIntegral (f : Fmt) (mode : Nat) (setNX : Bool) (x : Nat) : Res :=
  match fval f x with
  | .nan g => { bits := fmtNaN f, flags := if g then flNV else 0 }
  | .inf s => { bits := withSign f s (fmtInf f), flags := 0 }
  | .num m e z =>
    let r := roundInt mode m e
    let b := roundMag f 0 z r.1.natAbs 0 false
    { bits := b.bits, flags := if setNX && !r.2 then flNX else 0 }

/-! ## Correctly rounded functions (R51) -/

/-- floor of the square root, bit by bit from bit `k`. -/
def isqrtGo (n : Nat) : Nat → Nat → Nat
  | 0, r => r
  | k + 1, r => let t := r + 2 ^ k; if t * t ≤ n then isqrtGo n k t else isqrtGo n k r

def isqrt (n : Nat) : Nat := isqrtGo n (Nat.log2 n / 2 + 1) 0

/-- 1 / (m * 2^e) rounded once, m > 0: the quotient to 128 bits, the rest as sticky. -/
def rcpMag (f : Fmt) (mode : Nat) (s : Bool) (m : Nat) (e : Int) : Res :=
  let k := 128 + Nat.log2 m
  roundMag f mode s (2 ^ k / m) (-e - k) (decide (2 ^ k % m ≠ 0))

/-- The square root of m * 2^e, m > 0. -/
def sqrtMag (f : Fmt) (mode : Nat) (m : Nat) (e : Int) : Res :=
  let m2 := if e % 2 = 0 then m else 2 * m
  let e2 := if e % 2 = 0 then e else e - 1
  let n := m2 * 2 ^ 256
  let r := isqrt n
  roundMag f mode false r (e2 / 2 - 128) (decide (r * r ≠ n))

/-- 1 / the square root of m * 2^e, m > 0. -/
def rsqMag (f : Fmt) (mode : Nat) (m : Nat) (e : Int) : Res :=
  let m2 := if e % 2 = 0 then m else 2 * m
  let e2 := if e % 2 = 0 then e else e - 1
  let n := 2 ^ 512 / m2
  let r := isqrt n
  roundMag f mode false r (- (e2 / 2) - 256) (decide (r * r * m2 ≠ 2 ^ 512))

/-- Fixed-point precision of the functions below: numbers are integers over 2^400. -/
def fxBits : Nat := 400

/-- pi * 2^400 and ln 2 * 2^400, rounded down. -/
def fxPi : Nat := 0x3243f6a8885a308d313198a2e03707344a4093822299f31d0082efa98ec4e6c89452821e638d01377be5466cf34e90c6cc0ac

def fxLn2 : Nat := 0xb17217f7d1cf79abc9e3b39803f2f6af40f343267298b62d8a0d175b8baafa2be7b876206debac98559552fb4afa1b10ed2e

/-- exp of x / 2^400, 0 ≤ x < 2^400, by its series: sum of the terms from `t` = x^k / k! on. -/
def fxExpGo (x : Nat) : Nat → Nat → Nat → Nat → Nat
  | 0, _, _, acc => acc
  | fuel + 1, k, t, acc => fxExpGo x fuel (k + 1) (t * x / (2 ^ fxBits * (k + 1))) (acc + t)

def fxExp (x : Nat) : Nat := fxExpGo x 90 0 (2 ^ fxBits) 0

/-- atanh(z / 2^400) by its series. -/
def fxAtanhGo (z2 : Nat) : Nat → Nat → Nat → Nat → Nat
  | 0, _, _, acc => acc
  | fuel + 1, k, t, acc => fxAtanhGo z2 fuel (k + 2) (t * z2 / 2 ^ fxBits) (acc + t / k)

/-- ln of m / 2^n, 2^n ≤ m < 2^(n+1), over 2^400. -/
def fxLn (m n : Nat) : Nat :=
  let z := (m - 2 ^ n) * 2 ^ fxBits / (m + 2 ^ n)
  2 * fxAtanhGo (z * z / 2 ^ fxBits) 130 1 z 0

/-- The alternating series of sine (first term x, first divisor index 1) and cosine (first term 1, index 0), as an integer. -/
def fxTrigGo (x2 : Nat) : Nat → Nat → Nat → Bool → Int → Int
  | 0, _, _, _, acc => acc
  | fuel + 1, k, t, pos, acc =>
    fxTrigGo x2 fuel (k + 2) (t * x2 / 2 ^ fxBits / ((k + 1) * (k + 2))) (!pos) (if pos then acc + t else acc - t)

def fxSin (x : Nat) : Int := fxTrigGo (x * x / 2 ^ fxBits) 60 1 x true 0

def fxCos (x : Nat) : Int := fxTrigGo (x * x / 2 ^ fxBits) 60 0 (2 ^ fxBits) true 0

/-- Round a result known to lie just above or just below m * 2^e (`below`), for arguments so small that the rest is less than
2^-40 of the last place. -/
def nearRound (f : Fmt) (mode : Nat) (s : Bool) (m : Nat) (e : Int) (below : Bool) : Res :=
  if below then roundMag f mode s (m * 2 ^ 64 - 1) (e - 64) true else roundMag f mode s (m * 2 ^ 64) (e - 64) true

/-- 2^x, x = m * 2^e not zero, finite (R51). -/
def exp2Num (f : Fmt) (mode : Nat) (m e : Int) : Res :=
  if (Nat.log2 m.natAbs : Int) + e < -60 then nearRound f mode false 1 0 (decide (m < 0))
  else if 12 < (Nat.log2 m.natAbs : Int) + e then
    (if m < 0 then roundMag f mode false 1 (-10000) false else roundMag f mode false 1 10000 false)
  else
    let i := if 0 ≤ e then m * (2 ^ e.toNat : Nat) else floorShr m (-e).toNat
    let fr : Nat := if 0 ≤ e then 0 else (m - i * (2 ^ (-e).toNat : Nat)).toNat
    if fr = 0 then roundMag f mode false 1 i false
    else
      let fx := fr * fxLn2 / 2 ^ (-e).toNat
      roundMag f mode false (fxExp fx) (i - fxBits) true

/-- log2 of m * 2^e, m > 0 (R51). -/
def log2Num (f : Fmt) (mode : Nat) (m : Nat) (e : Int) : Res :=
  let n := Nat.log2 m
  let i : Int := (n : Int) + e
  if m = 2 ^ n then roundMag f mode (decide (i < 0)) i.natAbs 0 false
  else
    let l : Nat := fxLn m n * 2 ^ fxBits / fxLn2
    let v : Int := i * (2 ^ fxBits : Nat) + l
    if v < 0 then roundMag f mode true (v.natAbs - 1) (- (fxBits : Int)) true
    else roundMag f mode false v.natAbs (- (fxBits : Int)) true

/-- Sine (`cosine` false) or cosine of m * 2^e, m not 0, with exact argument reduction (R51). -/
def trigNum (f : Fmt) (mode : Nat) (cosine : Bool) (m e : Int) : Res :=
  let a := m.natAbs
  if (Nat.log2 a : Int) + e < -40 then
    (if cosine then nearRound f mode false 1 0 true else nearRound f mode (decide (m < 0)) a e true)
  else
    -- |x| over 2^400, and its quotient by pi / 2
    let x : Nat := if 0 ≤ e + fxBits then a * 2 ^ (e + fxBits).toNat else a / 2 ^ (- (e + fxBits)).toNat
    let h := fxPi / 2
    let q := x / h
    let r := x % h
    -- pi / 2 is known to 2^-400, so for a quotient q the remainder is off by q * 2^-400: below 2^-270 for every f32 argument
    let neg := decide (m < 0) && !cosine
    let k := (if cosine then q + 1 else q) % 4
    let big := decide (h < 2 * r)
    let s1 := if k % 2 = 0 then (if big then fxCos (h - r) else fxSin r) else (if big then fxSin (h - r) else fxCos r)
    let s := xor neg (decide (2 ≤ k))
    roundMag f mode s s1.natAbs (- (fxBits : Int)) true

/-- tanh of m * 2^e, m not 0 (R51): (E - 1) / (E + 1) with E = exp(2|x|). -/
def tanhNum (f : Fmt) (mode : Nat) (m e : Int) : Res :=
  let a := m.natAbs
  let s := decide (m < 0)
  let lg := (Nat.log2 a : Int) + e
  if lg < -40 then nearRound f mode s a e true
  else if 6 ≤ lg then nearRound f mode s 1 0 true
  else
    let y : Nat := if 0 ≤ e + 1 + fxBits then a * 2 ^ (e + 1 + fxBits).toNat else a / 2 ^ (- (e + 1 + fxBits)).toNat
    let i := y / fxLn2
    let ex := fxExp (y % fxLn2) * 2 ^ i
    let one := 2 ^ fxBits
    roundMag f mode s ((ex - one) * 2 ^ 300 / (ex + one)) (-300) true

/-- The eight functions by code (05_opcode_map R102, 03_numbers R51). -/
def xfn (code : Nat) (mode : Nat) (x : FVal) : Res :=
  let f := fmtF32
  let nv : Res := { bits := fmtNaN f, flags := flNV }
  match x with
  | .nan g => { bits := fmtNaN f, flags := if g then flNV else 0 }
  | .inf s => match code with
    | 0 => { bits := withSign f s 0, flags := 0 }
    | 1 => if s then nv else { bits := 0, flags := 0 }
    | 2 => if s then nv else { bits := fmtInf f, flags := 0 }
    | 3 => if s then { bits := 0, flags := 0 } else { bits := fmtInf f, flags := 0 }
    | 4 => if s then nv else { bits := fmtInf f, flags := 0 }
    | 7 => { bits := withSign f s (fmtOne f), flags := 0 }
    | _ => nv
  | .num m e z =>
    if m = 0 then
      match code with
      | 0 => { bits := withSign f z (fmtInf f), flags := flDZ }
      | 1 => { bits := withSign f z (fmtInf f), flags := flDZ }
      | 3 => { bits := fmtOne f, flags := 0 }
      | 4 => { bits := withSign f true (fmtInf f), flags := flDZ }
      | 6 => { bits := fmtOne f, flags := 0 }
      | _ => { bits := withSign f z 0, flags := 0 }
    else
      match code with
      | 0 => rcpMag f mode (decide (m < 0)) m.natAbs e
      | 1 => if m < 0 then nv else rsqMag f mode m.natAbs e
      | 2 => if m < 0 then nv else sqrtMag f mode m.natAbs e
      | 3 => exp2Num f mode m e
      | 4 => if m < 0 then nv else log2Num f mode m.natAbs e
      | 5 => trigNum f mode false m e
      | 6 => trigNum f mode true m e
      | _ => tanhNum f mode m e

/-! ## Atomic and switch arithmetic: to nearest even, no flag (R47, R66, R212) -/

/-- rne_f32 of a sum (R10, R66). -/
def rneAdd (f : Fmt) (a b : Nat) : Nat := (roundVal f 0 (addVal 0 (fval f a) (fval f b))).bits

end Sys2Proof.Machine
end

