-- ==== Sys2Proof/Config.lean ====
section
/-! DEFINITION. What the SQ-40 fixes (R1: the SQ-40's own quantities), what the model fixes in its place (log entries named), and
the FREE VALUES, constants without a body of which nothing can be proved. -/

namespace Sys2Proof

/-- Cores of the package (01_device R12, R13). -/
def Config.cores : Nat := 160

/-- Partitions of a core (R14). -/
def Config.partitions : Nat := 16

/-- End of HBM4 (09_memories R171). -/
def Config.hbmEnd : Nat := 0x6000000000

/-- The region of HBM that firmware reserves at start-up (R171). The manual gives no place: the last 4 GiB (log entry 5, DESIGN CHOICE). -/
def Config.fwBase : Nat := 0x5F00000000

/-- The CXL window (R171). -/
def Config.cxlBase : Nat := 0x100000000000

/-- Start of the local addresses that no context can map above the CXL window (R171). -/
def Config.cxlEnd : Nat := 0x180000000000

/-- Depth of a capture queue (13_queues R271: the SQ-40's own; log entry 14, DESIGN CHOICE). -/
def Config.captureDepth : Nat := 4096

/-- Leaves of one identity tree of LMS height 20, and trees of a package (19_host_firmware R359). -/
def Config.leaves : Nat := 2 ^ 20

def Config.trees : Nat := 16

/-- FREE VALUE. Randomizer, chains and path of an LMS signature, 1,760 bytes, by the tree's public key, the leaf and the message: the manual gives no
private key (R359, R360; log entry 12, DESIGN CHOICE). -/
opaque Config.signature : List Byte → Nat → List Byte → BitVec 14080


/-- FREE VALUE. The bytes of an eager block (16_snapshot R384: laid out as the implementation chooses; log entry 13, DESIGN CHOICE). -/
opaque Config.eagerBytes {α : Type} : α → List Byte

/-- FREE VALUE. The item number in an eager block's LOC field (R384, log entry 13, DESIGN CHOICE). -/
opaque Config.eagerLoc {α : Type} : α → BitVec 64

/-- FREE VALUE. The SQ-40's implementation id and layout version, bytes 0 to 7 of a layout tag (16_snapshot R384, log entry 13, DESIGN CHOICE). -/
opaque Config.layoutTag : BitVec 64

/-- FREE VALUE. The class's fields of a header flit (18_fabric_collectives R342 gives no layout; log entries 6 and 13, DESIGN CHOICE). -/
opaque Config.classFields {α : Type} : α → BitVec 136

end Sys2Proof
end

