-- ==== Sys2Proof/Machine/Sparse.lean ====
section
/-! DEFINITION. Sparse tables in ONE canonical form: keys strictly rising, no entry equal to what an unlisted key reads as.
The zero flags of the register file (06_registers R114) and of the scratchpads (09_memories R189) are this form: a word that is
not listed is zero and occupies no array storage. Memory is such a table of `Host.Cell`. -/

namespace Sys2Proof.Machine

/-- What key `k` holds in table `m`, `d` where it is not listed. -/
def Sparse.get {α : Type} (d : α) (m : List (Nat × α)) (k : Nat) : α :=
  match m with
  | [] => d
  | (j, v) :: rest => if j = k then v else if k < j then d else Sparse.get d rest k

/-- `m` with `v` at key `k`; an entry equal to the default `d` is removed. -/
def Sparse.set {α : Type} [DecidableEq α] (d : α) (m : List (Nat × α)) (k : Nat) (v : α) : List (Nat × α) :=
  match m with
  | [] => if v = d then [] else [(k, v)]
  | (j, w) :: rest =>
    if j = k then (if v = d then rest else (k, v) :: rest)
    else if k < j then (if v = d then (j, w) :: rest else (k, v) :: (j, w) :: rest)
    else (j, w) :: Sparse.set d rest k v

/-- Every key of the table lies above `b`, keys rise strictly, and no entry holds the default. -/
def Sparse.okFrom {α : Type} [DecidableEq α] (d : α) (b : Nat) : List (Nat × α) → Bool
  | [] => true
  | (j, v) :: rest => decide (b ≤ j) && decide (v ≠ d) && Sparse.okFrom d (j + 1) rest

/-- The canonical form of a sparse table with default `d`. -/
def Sparse.wf {α : Type} [DecidableEq α] (d : α) (m : List (Nat × α)) : Bool :=
  Sparse.okFrom d 0 m

/-- `n` keys from `k` on, read in order. -/
def Sparse.read {α : Type} (d : α) (m : List (Nat × α)) (k : Nat) : Nat → List α
  | 0 => []
  | n + 1 => Sparse.get d m k :: Sparse.read d m (k + 1) n

/-- The values `vs` written at keys `k`, `k + 1`, ... in order. -/
def Sparse.write {α : Type} [DecidableEq α] (d : α) (m : List (Nat × α)) (k : Nat) : List α → List (Nat × α)
  | [] => m
  | v :: vs => Sparse.write d (Sparse.set d m k v) (k + 1) vs

/-- The `n` keys from `k` on, at the default again (a unit zeroed through its zero flags). -/
def Sparse.clear {α : Type} (m : List (Nat × α)) (k n : Nat) : List (Nat × α) :=
  m.filter (fun e => decide (e.1 < k) || decide (k + n ≤ e.1))

/-- The entries with keys in `n` keys from `k` on, keys counted from `k`. -/
def Sparse.window {α : Type} (m : List (Nat × α)) (k n : Nat) : List (Nat × α) :=
  (m.filter (fun e => decide (k ≤ e.1) && decide (e.1 < k + n))).map (fun e => (e.1 - k, e.2))

/-- Memory is a sparse table of bytes, an unlisted byte reading as zero (19_host_firmware R363 step 4). -/
abbrev Memory := List Host.Cell

/-- The byte at address `a` (log entry 7, DEDUCED). -/
def Memory.byte (m : Memory) (a : Nat) : Byte := Sparse.get 0#8 m a

/-- The byte at `a` replaced. -/
def Memory.setByte (m : Memory) (a : Nat) (b : Byte) : Memory := Sparse.set 0#8 m a b

/-- The canonical form of a memory. -/
def Memory.wf (m : Memory) : Bool := Sparse.wf 0#8 m

end Sys2Proof.Machine
end

