-- ==== Sys2Proof/Machine/State.lean ====
section
/-! DEFINITION. The state of one SQ-40 package, plain data: everything the manual gives it, and the model's own fields (the agenda,
the issue record, counters) named as such. Rules are cited by file of spec/. -/

namespace Sys2Proof.Machine

/-- Why the model stops. -/
inductive Fault where
  /-- Raised by `step` when the package is without supply or shut down (19_host_firmware R358, R359) and its next turn is not
  POWER_ON_RESET: nothing issues. Safe: the manual gives a stopped package no further step. -/
  | stopped
deriving DecidableEq, Repr

/-- Why the model refuses. -/
inductive Refusal where
  /-- Raised by an arm of `exec` whose row of the opcode table has no meaning yet. Safe: nothing is claimed of it. -/
  | notModelled (mnemonic : String)
deriving DecidableEq, Repr

/-- The memories whose granules ECC guards: 32 bytes of local memory, 4 bytes of a scratchpad, a die scratchpad, a tile buffer, an
accumulator, a word of the register file (09_memories R188). -/
inductive EccPlace where
  | mem
  | scr
  | dsc
  | buf
  | acc
  | vrf
  /-- A 4-byte granule of a core's L1 line, a 32-byte granule of another package's line in L2. -/
  | l1 (core : Nat) (peer : Bool) (line : Nat)
  | l2 (line : Nat)
  /-- An entry of a core's temporal array: its matrix, its outputs. -/
  | arrayW (core : Nat)
  | arrayO (core : Nat)
deriving DecidableEq, Repr

/-- An error that the environment brings on a granule, and whether ECC can correct it (09_memories R188; log entry 72, DESIGN CHOICE). -/
structure Upset where
  at_  : EccPlace
  g    : Nat
  hard : Bool
deriving DecidableEq, Repr

/-! ## Lanes and gangs -/

/-- The state of a lane (02_execution R32). -/
inductive LaneSt where
  | eligible
  | waiting (m : Nat)
  | held
  | exited
deriving DecidableEq, Repr

/-- A thread's own state but its vector registers (06_registers R111); `num` is the lane number that `%lane` reads, a continuation thread's as its
record gives it (04_encoding R82). -/
structure Lane where
  num   : Nat
  pc    : Addr
  st    : LaneSt
  yield : Bool
  x     : List (BitVec 24)
  p     : BitVec 7
deriving DecidableEq, Repr

/-- A serial section's group (08_isa_control R154): the lane inside it, and the lanes held, ascending. -/
structure SerialGroup where
  cur  : Nat
  held : List Nat
deriving DecidableEq, Repr

/-- The CSRs that a gang holds (06_registers R117). -/
structure Csrs where
  gstat   : Word
  xbar    : Word
  rmode   : Word
  fltcode : Word
  fltmask : BitVec 64
  fltaddr : BitVec 64
  fltpc   : Word
  fltorg  : Word
  tretpc  : Word
  twin    : Word
  fenstat : Word
deriving DecidableEq, Repr

/-- A register or CSR that a pending result names (02_execution R41); `xcur` is the CURSOR field alone (08_isa_control R161). -/
inductive Dest where
  | v (lane n : Nat)
  | x (lane n : Nat)
  | xcur (lane n : Nat)
  | p (lane n : Nat)
  | k (n : Nat)
  | csr (n : Nat)
deriving DecidableEq, Repr

/-- What a pending result does when it becomes visible: write its destination, or set sticky flags
(03_numbers R49). -/
inductive PendAct where
  | write (d : Dest) (v : Word)
  | flags (bits : Word)
deriving DecidableEq, Repr

/-- One entry of the pending-result record (06_registers R112): visible to bundles at tick `vis` or later. -/
structure Pend where
  vis : Nat
  act : PendAct
deriving DecidableEq, Repr

/-- What a blocked gang waits for (02_execution R32, 08_isa_control R166). -/
inductive Blocked where
  | wait (nl ns nc nt : Nat)
  /-- `res`: the phase has completed (true), the object was freed (false), neither. -/
  | bwait (h : Word) (pd : Nat) (lanes : LaneMask) (res : Option Bool)
  | rawait (h : Word) (kd : Nat) (lanes : LaneMask)
  | ring (kd : Nat) (q0 q1 : Word)
  | ringRel (h : Word)
  | obres (kd : Nat) (q0 q1 : Word) (wb : Bool)
  | acalloc (kd n : Nat)
  /-- ACFREE: its banks, and the number that operations issued before it lie below. -/
  | acfree (mask : BitVec 16) (upto : Nat)
  | twset (win : Nat) (max : Bool)
  /-- A bundle stalled on a full outstanding counter (02_execution R42): what it would add to each. -/
  | full (nl ns nc nt : Nat)
  /-- A bundle held until these virtual pages of its context are translated (11_isa_memory R216). -/
  | xlate (pages : List Nat)
deriving DecidableEq, Repr

/-- A deferred WEIGHT fault (12_isa_tiles R239). -/
structure WeightFault where
  pc        : Addr
  off       : Nat
  lane      : Nat
deriving DecidableEq, Repr

/-- The side map of a gang (14_splicer R286), and the ids of the two sides' kernels and their snapshot rights (R284, R285). -/
structure SideMap where
  spl   : Bool
  np    : Nat
  up    : Nat
  arena : Nat
  npkt  : Nat
  kidP  : Nat
  kidC  : Nat
  snapP : Bool
  snapC : Bool
deriving DecidableEq, Repr

/-- A forwarding entry (14_splicer R281): bytes per lane, and the entry's bytes. -/
structure FwdEntry where
  b     : Nat
  bytes : List Byte
deriving DecidableEq, Repr

/-- Per-gang performance counters (15_tables_counters R299). -/
structure GangPerf where
  bundles   : Nat
  packed    : Nat
  fullstall : Nat
  blocked   : Nat
  zwords    : Nat
  l1hit     : Nat
  l1miss    : Nat
  kblocks   : Nat
  preempts  : Nat
deriving DecidableEq, Repr

/-- The four outstanding counters of a gang (02_execution R42). -/
structure Counts where
  ld : Nat
  st : Nat
  cp : Nat
  tl : Nat
deriving DecidableEq, Repr

/-- A gang (06_registers R112, 02_execution R27, R28), its vector registers apart: they stand in the register file of its
partition, named by `smap`. `gid` is the model's name of the gang. -/
structure Gang where
  gid       : Nat
  core      : Nat
  slot      : Nat
  part      : Nat
  launch    : Nat
  blk       : Nat
  ctx       : Nat
  width     : Nat
  banks     : Nat
  index     : Nat
  linear    : Nat
  entry     : Addr
  lanes     : List Lane
  k         : List (Nat × Word)
  m         : List LaneMask
  smap      : List (List Nat)
  tick      : Nat
  cnt       : Counts
  pend      : List Pend
  csr       : Csrs
  handler   : Bool
  trapLanes : LaneMask
  serial    : List SerialGroup
  blocked   : Option Blocked
  since     : Nat
  weight    : List WeightFault
  ssp       : Nat
  spillBase : Nat
  spillSize : Nat
  side      : SideMap
  fwd       : List FwdEntry
  perf      : GangPerf
  latch     : Option Word
  lastIssue : Nat
  /-- Stopped fatally (08_isa_control R165), pre-empted (02_execution R39), KILL delivered (R165), restored and not yet started. -/
  dead      : Bool
  away      : Bool
  killed    : Bool
  parked    : Bool
  /-- The vector registers of its continuation records are still to be loaded (06_registers R113). -/
  load      : Bool
deriving DecidableEq, Repr

/-! ## Operations in flight -/

/-- Where an access goes: local physical memory (`va` beside it), another package's memory by pod-global address, a multicast
aperture, a block's scratchpad, a context's window on a die. -/
inductive Place where
  | mem (pa va : Nat)
  | peer (ga va : Nat)
  | mcast (grp off va : Nat)
  | scr (blk off : Nat)
  | die (ctx die off : Nat)
deriving DecidableEq, Repr

/-- How far a piece of an access has come: not performed, sent to another package, performed. -/
inductive PieceSt where
  | todo
  | sent
  | done
deriving DecidableEq, Repr

/-- One granule of a lane's access (10_consistency R194): `off` is its place in the lane's bytes, `psn` its poisoned bytes; of a
store to an aperture, `psn` lists the members that have acknowledged it, and 2048 or 2049 where its packet is post-cut of colour 0 or 1; of a
ZFILL, the further lanes that name the line. -/
structure Piece where
  lane   : Nat
  off    : Nat
  place  : Place
  len    : Nat
  st     : PieceSt
  data   : List Byte
  psn    : List Nat
deriving DecidableEq, Repr

/-- The lanes of an atomic word that address one location, ascending, with their operands and old values (10_consistency R210); `late0`,
`late1`: performed for a pre-cut operation by a request numbered after the cut (11_isa_memory R231). -/
structure AtomGroup where
  place : Place
  lanes : List Nat
  opnds : List (BitVec 64 × BitVec 64)
  olds  : List (BitVec 64)
  st    : PieceSt
  psn    : List Nat
  late0  : Bool
  late1  : Bool
deriving DecidableEq, Repr

/-- The ordering of an access (10_consistency R193). -/
inductive Order where
  | relaxed
  | acquire
  | release
  | acqrel
deriving DecidableEq, Repr

/-- The parameter block of an MMA as read at issue (12_isa_tiles R243), the phase of its wait barrier then, whether that phase has completed
(`waited`), and whether the MMA proceeds (`go`). -/
structure MmaBlock where
  acc    : Bool
  half   : Nat
  bank   : Nat
  ah     : Nat
  bh     : Nat
  aoff   : Nat
  bgrp   : Nat
  nkb    : Nat
  wv     : Bool
  wh     : Word
  phase  : Bool
  waited : Bool
  go     : Bool
  av     : Bool
  ahb    : Word
  akind  : Bool
  acount : Nat
deriving DecidableEq, Repr

/-- A lane of a copy: source and destination. -/
structure CpyLane where
  lane : Nat
  src  : Place
  dst  : Place
deriving DecidableEq, Repr

/-- What an operation in flight still has to do (06_registers R122, 11_isa_memory R231, 12_isa_tiles R251, 17 R341). -/
inductive OpKind where
  /-- LD, LDL, POP: first register, width code, l6 block length, scope, order, remote. -/
  | load (d width n scope : Nat) (ord : Order) (rem : Bool)
  /-- A forwarded LD (14_splicer R281): its bytes were read at issue. -/
  | fwdLoad (d width n : Nat) (vals : List (Nat × List Byte))
  /-- ST, PSH: scope, order. -/
  | store (scope : Nat) (ord : Order)
  /-- ATOM (ret) and REDM: operation code, width 64, scope, order, remote, register. -/
  | atom (aop : Nat) (wide : Bool) (scope : Nat) (ord : Order) (rem ret : Bool) (d : Nat) (groups : List AtomGroup)
  /-- FENCE; `lost` lists lane * 2048 + logical id of lost peers (10_consistency R208). -/
  | fence (scope pd : Nat) (lost : List Nat)
  | cline (which : Nat)
  | zfill (scope : Nat)
  /-- CPY: size, handle, ring slot, and the lanes. -/
  | cpy (size : Nat) (h : Word) (slot : Option (Nat × Nat)) (cancelled : Bool) (lanes : List CpyLane)
  /-- OBLD from memory: record, offset, source parts. -/
  | obldMem (rcd off : Nat)
  /-- OBLD from registers: record, offset, conversion, words in element order. -/
  | obldReg (rcd off : Nat) (cvt : Bool) (ws : List Word)
  /-- A forwarded OBLD (14_splicer R281). -/
  | obldFwd (rcd off : Nat) (bytes : List Byte)
  | wbld (rcd count g : Nat) (sc : Bool) (hdr : Word)
  | mma (b : MmaBlock)
  /-- ACMOV: operation, bank, half, .clr, first register, row, count, column. -/
  | acmov (aop bank half : Nat) (clr : Bool) (d rowa c cola : Nat)
  | tldw (off : Nat)
  /-- TLNCH: the input codes, and the mode and window as they stood at issue. -/
  | tlnch (codes : List Nat) (max : Bool) (win : Nat)
  | tcapt (d : Nat)
  | trst (rel : Bool)
  | balloc (kd pd scope exp : Nat)
  | bfree (h : Word)
  | barv (h : Word) (mode : Nat) (tx : Bool) (kb : Word)
  | rrel (h : Word)
  /-- SNAP: destination, predicate, id, group, and the answer once it is served. -/
  | snap (kd pd : Nat) (id : Word) (group : Nat) (ans : Option Word)
  /-- SNAPQ: destination, predicate, colour, .grp, and the answer (group state) once it has arrived. -/
  | snapq (kd pd : Nat) (col : Colour) (grp : Bool) (ans : Option Nat)
deriving DecidableEq, Repr

/-- The outstanding-counter class of an operation (02_execution R42); TRST counts in none. -/
inductive OpCls where
  | ld
  | st
  | cp
  | tl
  | none
deriving DecidableEq, Repr

/-- An operation in flight; `id` rises in issue order. `pre0`, `pre1`: issued before the last cut of that colour and not complete
at it (16_snapshot R304). `hnd`: issued in handler mode. -/
structure Op where
  id     : Nat
  gid    : Nat
  core   : Nat
  ctx    : Nat
  blk    : Nat
  cls    : OpCls
  kind   : OpKind
  lanes  : LaneMask
  pieces : List Piece
  pre0   : Bool
  pre1   : Bool
  hnd    : Bool
  pc     : Addr
deriving DecidableEq, Repr

/-! ## Tables of cores, clusters and dies -/

/-- Ownership of a register bank slice that is not Free (06_registers R115). -/
inductive SliceSt where
  | held (gid : Nat)
  | claimed (victim newcomer : Nat)
deriving DecidableEq, Repr

structure SliceRow where
  core : Nat
  part : Nat
  idx  : Nat
  st   : SliceSt
deriving DecidableEq, Repr

/-- A scratchpad bank in use: its block, and the context that owned it last (09_memories R179, R189). -/
structure BankRow where
  core : Nat
  idx  : Nat
  blk  : Nat
  ctx  : Nat
deriving DecidableEq, Repr

/-- States of a reservation record that is not Free (15_tables_counters R288). -/
inductive RecSt where
  | live
  | dead
deriving DecidableEq, Repr

/-- A reservation record (15_tables_counters R288); its IFLIGHT is the count of operations in flight that name it. -/
structure RecRow where
  core   : Nat
  idx    : Nat
  st     : RecSt
  wb     : Bool
  gid    : Nat
  blk    : Nat
  hnd    : Bool
  fmt    : Nat
  blen   : Nat
  bound  : Nat
  scale  : Nat
  units  : List Nat
  g      : Nat
  sc     : Bool
  badv   : Bool
  badoff : Nat
deriving DecidableEq, Repr

/-- A claimed accumulator bank (12_isa_tiles R240, R250): its block, and the gang whose handler claimed it. -/
structure AccRow where
  core : Nat
  bank : Nat
  blk  : Nat
  hnd  : Option Nat
deriving DecidableEq, Repr

/-- A temporal array (12_isa_tiles R247): matrix and outputs list the codes other than 255, `wpsn` and `opsn` their poisoned
entries (09_memories R188); `hnd`: claimed in the running handler
(R250). -/
structure ArrayRow where
  core   : Nat
  holder : Option Nat
  max    : Bool
  win    : Nat
  w      : List (Nat × Nat)
  out    : List (Nat × Nat)
  wpsn   : List Nat
  opsn   : List Nat
  hnd    : Bool
deriving DecidableEq, Repr

/-- Slot states of a copy ring (13_queues R267). -/
inductive SlotSt where
  | free
  | filling
  | full
  | held
deriving DecidableEq, Repr

/-- A ring object (13_queues R265, 17_isa_sync_system R333). MODEL'S OWN: `rnd` counts the moves of the fill pointer, `rel` the
releases applied; a slot's round `n` may be written once `n < rel + nslot`. -/
structure RingRow where
  core   : Nat
  obj    : Nat
  inuse  : Bool
  blk    : Nat
  gen    : Nat
  base   : Nat
  ssize  : Nat
  nslot  : Nat
  fill   : Nat
  fillP  : Nat
  asgn   : Nat
  counts : List Nat
  wp     : Nat
  rp     : Nat
  lp     : Nat
  st     : List SlotSt
  rpend  : Nat
  rnd    : Nat
  rel    : Nat
deriving DecidableEq, Repr

/-- A barrier object (15_tables_counters R293) that has left its reset values. -/
structure BarRow where
  clu   : Nat
  slot  : Nat
  valid : Bool
  owner : Nat
  scope : Nat
  exp   : Nat
  arr   : Nat
  txb   : Int
  phase : Bool
  ref   : Nat
  gen   : Nat
deriving DecidableEq, Repr

/-- A line of a core's L1 (09_memories R184): physical line, other package's line, virtual line, data, dirty bytes, scope tag,
the threads (gang, lane) whose stores stand in it, its poisoned 4-byte granules (R188), marks, and for each colour the Dirty bytes that are
pre-cut (16_snapshot R310). -/
structure L1Line where
  core  : Nat
  peer  : Bool
  line  : Nat
  ctx   : Nat
  va    : Nat
  data  : List Byte
  dirty : BitVec 128
  tag   : Nat
  who   : List (Nat × Nat)
  psn   : BitVec 32
  cap0  : Bool
  cap1  : Bool
  pre0  : BitVec 128
  pre1  : BitVec 128
deriving DecidableEq, Repr

/-- A line of the L2 slices (09_memories R186). `filled`: every byte is present (a posted store to a peer line may stand alone,
10_consistency R207); `owned`: the home has granted ownership; `psn`: poisoned granules; `who`: the threads whose posted stores wait for
ownership (R208). An engine's ownership of a line stands with its operation in flight or its chunk (R205; log entry 11). -/
structure L2Line where
  peer   : Bool
  line   : Nat
  ctx    : Nat
  va     : Nat
  data   : List Byte
  dirty  : BitVec 128
  filled : Bool
  owned  : Bool
  zero   : Bool
  psn    : BitVec 4
  who    : List (Nat × Nat)
  cap0   : Bool
  cap1   : Bool
deriving DecidableEq, Repr

/-- A request that waits at a line's home (18_fabric_collectives R344, 10_consistency R204). -/
structure DirReq where
  src : Nat
  own : Bool
  tag : Nat
  rem : Bool
  core : Nat
deriving DecidableEq, Repr

/-- The home directory's entry of a local line: packages that hold it, the one that owns it, the release note (package, core) of
R204, holders whose acknowledgement and whose data are awaited, requests waiting, whether a promotion has been acknowledged, and the threads
(gang, lane) whose bytes an L1 wrote back while those holders still had the line (10_consistency R201). -/
structure DirLine where
  line   : Nat
  shared : List Nat
  owner  : Option Nat
  note   : Option (Nat × Nat)
  acks   : List Nat
  datas  : List Nat
  reqs   : List DirReq
  prom   : Option Nat
  promOk : Bool
  pend   : List (Nat × Nat)
deriving DecidableEq, Repr

/-- A translation-buffer entry (09_memories R176): the buffer (a core's by its number, die `d`'s second-level one as 160 + d), the context, the
4 KiB virtual page, what its walk found (the leaf's 128 bits and level, or a failed walk), and the leaf entry's address, 0 for a failed one. -/
structure TlbRow where
  buf  : Nat
  ctx  : Nat
  page : Nat
  leaf : Option (BitVec 128 × Nat)
  pte  : Nat
deriving DecidableEq, Repr

/-- The zero map of a zero-pending page (09_memories R178): frame, lines, the lines whose bit is clear, and the addresses of the
page's leaf entries, whose ZP it is. -/
structure ZeroMap where
  frame : Nat
  lines : Nat
  clear : List Nat
  ptes  : List Nat
deriving DecidableEq, Repr

/-! ## Launches, blocks, queues, contexts -/

/-- A continuation record (13_queues R259), its vector registers as listed words: `num` is its LANE field, `lane` the lane it takes (02_execution R38). -/
structure PoolRec where
  pc    : Addr
  gkey  : Nat
  lane  : Nat
  num   : Nat
  pred  : BitVec 7
  gang  : Nat
  bx    : Nat
  by_   : Nat
  bz    : Nat
  x     : List (BitVec 24)
  v     : List Word
deriving DecidableEq, Repr

/-- What a fused launch keeps of its consumer record (14_splicer R284), with Np, Up, the arena, the fused packet count, and the bytes of
each pair's forwarding entry per lane (R281). -/
structure Fused where
  queueC : Nat
  kidC   : Nat
  snapC  : Bool
  cplaC  : Nat
  wvC    : Bool
  avC    : Bool
  ahbC   : Word
  paramC : Nat
  np     : Nat
  up     : Nat
  arena  : Nat
  npkt   : Nat
  pairs  : List Nat
deriving DecidableEq, Repr

/-- The first fatal fault of a launch, with its clock (13_queues R258). -/
structure Fatal where
  status : Nat
  code   : Nat
  block  : Nat
  pc     : Nat
  clock  : Nat
deriving DecidableEq, Repr

/-- A collective binding as read at acceptance (18_fabric_collectives R349). -/
structure CollBind where
  rtab  : Nat
  rbase : Nat
  trec  : BitVec 128
  epoch : Word
deriving DecidableEq, Repr

/-- An accepted launch (13_queues R256, R262). `next` is the first cluster not yet placed; `ended` counts
blocks ended; `stopped`: a fatal fault has stopped its gangs (R258). -/
structure Launch where
  id      : Nat
  ctx     : Nat
  vf      : Nat
  queue   : Nat
  pool    : Bool
  kid     : Nat
  width   : Nat
  banks   : Nat
  gangs   : Nat
  cshape  : Nat
  prio    : Nat
  snap    : Bool
  split   : Nat
  entry   : Addr
  param   : Nat
  gx      : Nat
  gy      : Nat
  gz      : Nat
  spbytes : Nat
  spillKb : Nat
  spillB  : Nat
  wv      : Bool
  wh      : Word
  av      : Bool
  ahb     : Word
  coll    : Option CollBind
  cpla    : Nat
  recs    : List (List PoolRec)
  next    : Nat
  ended   : Nat
  fatal   : Option Fatal
  stopped : Bool
  fused   : Option Fused
deriving DecidableEq, Repr

/-- A block that is resident or pre-empted (02_execution R25, R26, R29, R39): coordinates, cluster, bank map (an entry is none
while the bank is spilled). -/
structure Block where
  id      : Nat
  launch  : Nat
  index   : Nat
  bx      : Nat
  by_     : Nat
  bz      : Nat
  cluster : Nat
  core    : Nat
  ctx     : Nat
  bytes   : Nat
  banks   : List (Option Nat)
  away    : Bool
deriving DecidableEq, Repr

/-- An entry of a context save area: the spilled unit's owner and place, and its listed contents; of an accumulator bank, `hnd` is the gang whose
handler claimed it (02_execution R39, 12_isa_tiles R251). -/
structure Saved where
  key   : SaveKey
  ctx   : Nat
  words : List (Nat × Word)
  bytes : List (Nat × Byte)
  psn   : List Nat
  marks : List (Nat × Option Addr)
  array : Option ArrayRow
  rcd   : Option RecRow
  hnd   : Option Nat
deriving DecidableEq, Repr

/-- A step of a route table (18_fabric_collectives R350): KIND, GRP, SRC, DST, LEN. -/
structure RouteStep where
  kind : Nat
  grp  : Nat
  src  : Nat
  dst  : Nat
  len  : Nat
deriving DecidableEq, Repr

/-- A fusion that the splicer has decided and holds (14_splicer R276, R283): the partner's queue and the number of its record there, which the splicer
holds too, the image and map in 16-byte units with their arena, the launch, the consumer's SERIAL, the barriers that each record of the pair names. -/
structure SplicePlan where
  partner : Nat
  record  : Nat
  serialC : Bool
  arena   : Nat
  units   : List (List Byte)
  launch  : Launch
deriving DecidableEq, Repr

/-- A collective chunk (18_fabric_collectives R351, R352). `steps`: its row of the route table, read as it fires (15_tables_counters R292). `dests`: the destination ranges that its PULL step owns (10_consistency R205).
`core`: the block's core (R206). Of the step that has been sent (`closed`): the first of its packets' tags, the answers of a PULL's loads by number
(bytes and poisoned ones), and whether they were sent before the last cut of a colour (R352). -/
structure Chunk where
  launch : Nat
  chunk  : Nat
  step   : Nat
  busy   : List Nat
  closed : Bool
  steps  : Option (List RouteStep)
  dests  : List (Place × Nat)
  core   : Nat
  tag0   : Nat
  got    : List (Nat × List Byte × List Nat)
  cut0   : Bool
  cut1   : Bool
deriving DecidableEq, Repr

/-- A queue descriptor (13_queues R252, R254, R255). `qerr` 0 none; `seen` the head record's wait barrier since the record was first
read, and whether its phase has completed; `asis`: the head record has been refused as a splice partner and is an ordinary record
(14_splicer R275); `plan`: what the splicer has decided of the head record and holds. -/
structure QueueRow where
  vf      : Nat
  num     : Nat
  ctx     : Nat
  base    : Nat
  slots   : Nat
  enabled : Bool
  head    : Nat
  tail    : Nat
  qerr    : Nat
  seen    : Option (Word × Bool)
  asis    : Bool
  plan    : Option SplicePlan
deriving DecidableEq, Repr

/-- A context on this package (09_memories R172, R180; 15_tables_counters R290, R299; 16_snapshot R300). `rate` is the least time between its snapshot
requests in microseconds, and `recent` says that it has not passed since the last one accepted (R301; log entry 44, DESIGN CHOICE). -/
structure CtxRow where
  id       : Nat
  fn       : Nat
  root     : Nat
  trapvec  : Nat
  group    : Nat
  right    : Bool
  rate     : Nat
  recent   : Bool
  windows  : List (Nat × List Nat)
  spliced  : Nat
  refusals : List Nat
  captures : Nat
  swept    : Nat
  ecccorr  : Nat
  walks    : Nat
  barovf   : Nat
deriving DecidableEq, Repr

/-! ## Fabric and snapshots -/

/-- A multicast group descriptor (18_fabric_collectives R346): its fields, and its member array read out as (logical id, BASE). -/
structure GroupSpec where
  op      : BitVec 2
  switch  : BitVec 16
  port    : BitVec 6
  size    : Nat
  trec    : BitVec 128
  mema    : Nat
  members : List (Nat × Nat)
deriving DecidableEq, Repr

/-- Channel state toward and from one peer (13_queues R269, R270). `got` lists sequence numbers received above the mark. -/
structure Chan where
  peer : Nat
  send : Word
  pre0 : Word
  pre1 : Word
  mark : Word
  got  : List Word
  tel0 : Option Word
  tel1 : Option Word
  log0 : Bool
  log1 : Bool
  hold : Bool
deriving DecidableEq, Repr

/-- The gateway (18_fabric_collectives R342, R343; 13_queues R269). `lid` is this package's logical id, `phys` its identity. `parts`: packets of an
atomic request or answer whose other packets have not come, a packet holding four payload flits at most; `wbs`: peer lines whose write-back is
on its way to their home; `mlost`: threads (gang, lane) with a lost member that has not performed an aperture store of theirs (10_consistency
R208). Of peer lines (R207; log entry 86, DEDUCED): `reads` lists the reads asked of their homes by line and tag, and whether the answer may still
be kept; `owns` the ownership asked for; `mine` the ownership held. `down`: packages whose links stay down past the detection interval (R208). -/
structure Fabric where
  lid       : Nat
  phys      : Nat
  member    : Bool
  par0      : Bool
  par1      : Bool
  chans     : List Chan
  out       : List Packet
  held      : List Packet
  discarded : Nat
  ports     : List Nat
  parts     : List Packet
  wbs       : List Nat
  mlost     : List (Nat × Nat × Nat)
  reads     : List (Nat × Nat × Bool)
  owns      : List Nat
  mine      : List Nat
  down      : List Nat
deriving DecidableEq, Repr

/-- States of a colour (16_snapshot R302). -/
inductive ColSt where
  | free
  | capturing
  | localDone
  | durable
  | coPowered
  | freePending
  | aborted
deriving DecidableEq, Repr

/-- An item of the eager state (16_snapshot R305), as it stood in the cut clock. -/
inductive EagerItem where
  | gang (g : Gang)
  | block (b : Block)
  | launch (l : Launch)
  | op (o : Op)
  | rcd (r : RecRow)
  | unit (wb : Bool) (core idx : Nat) (bytes : List (Nat × Byte)) (psn : List Nat)
  | acc (r : AccRow) (bytes : List (Nat × Byte)) (psn : List Nat)
  | array (a : ArrayRow)
  | ring (r : RingRow)
  | bar (b : BarRow)
  | queue (q : QueueRow)
  | chan (c : Chan)
  | parity (p0 p1 : Bool)
  | ctx (c : CtxRow)
  | snids (i0 i1 : Word)
  | cutSeq (group : Nat) (seq : Word)
  | split (core n : Nat)
  | sliceRow (r : SliceRow)
  | page (ctx va : Nat) (leaf : BitVec 128) (level : Nat)
  | chunk (c : Chunk)
deriving DecidableEq, Repr

/-- A record of an image (16_snapshot R317, R384). Units list their nonzero words as (word index, word); `psn` lists poisoned
words (a slice's with the addresses of their marks); a patch carries its unit and LOC, the words it names, and which of their bytes were written
(R310); a save-area record is one 128-byte line of an entry (R306). -/
inductive SnapRec where
  | eager (ctx : Nat) (e : EagerItem)
  | line (ctx va : Nat) (words : List (Nat × Word)) (psn : List Nat) (zmap : Bool)
  | bank (ctx blk idx : Nat) (words : List (Nat × Word)) (psn : List Nat)
  | range (ctx die idx loc : Nat) (words : List (Nat × Word)) (psn : List Nat)
  | slice (ctx gid bank grp : Nat) (words : List (Nat × Word)) (psn : List (Nat × Option Addr))
  | patch (ctx : Nat) (u : CapUnit) (loc : Nat) (words : List (Nat × Word)) (bytes : List (Nat × Byte))
  | packet (src : Nat) (seq : Word) (p : Packet) (whole : Bool)
  | l1 (ctx va : Nat) (mask : BitVec 128) (bytes : List Byte) (psn : List Nat)
  | l2 (ctx va ga : Nat) (mask : BitVec 128) (bytes : List Byte) (psn : List Nat)
  | save (ctx line : Nat) (s : Saved)
  | fin
deriving DecidableEq, Repr

/-- A tag of a unit other than a page (09_memories R179, R180; 06_registers R115; 09 R184). -/
structure Tag where
  col  : Colour
  unit : CapUnit
deriving DecidableEq, Repr

/-- A tagged page: CT(c) of the leaf entry at `pte`, and the page's capture bitmap, as the lines already captured (16_snapshot
R306). -/
structure PageTag where
  col   : Colour
  ctx   : Nat
  pte   : Nat
  va    : Nat
  frame : Nat
  lines : Nat
  done  : List Nat
deriving DecidableEq, Repr

/-- What a member, and its coordinator, knows of a colour (16_snapshot R302, R304, R314, R319, R321, R340). `inits` lists the members
known to have cut by request, with their ids; `reports` and `acks` are the members' reports and their acknowledgements of FREE, `aborts` the members
known to hold the colour ABORTED; `grp` is the coordinator's record of the snapshot (0, 1, 3 or 6). -/
structure ColourRow where
  st      : ColSt
  snid    : Word
  group   : Nat
  seq     : Word
  ever    : Bool
  init    : Bool
  inits   : List (Nat × Word)
  stream  : List SnapRec
  root    : Option (BitVec 256)
  aborts  : List Nat
  reports : List (Nat × BitVec 256 × Bool)
  acks    : List Nat
  grp     : Nat
deriving DecidableEq, Repr

/-- A complete or incomplete image as its targets hold it (16_snapshot R318, R321): `size` bytes of stream and trailer, from an offset at each
target on. -/
structure Image where
  group    : Nat
  id       : Word
  lid      : Nat
  recs     : List SnapRec
  chunks   : List (BitVec 256)
  root     : BitVec 256
  complete : Bool
  size     : Nat
  places   : List (TargetKind × Nat)
deriving DecidableEq, Repr

/-- Who asked for a snapshot (16_snapshot R301). -/
inductive SnapSrc where
  | op (id : Nat)
  | host (ctx : Nat)
  | policy
deriving DecidableEq, Repr

structure SnapReq where
  src   : SnapSrc
  group : Nat
  id    : Word
deriving DecidableEq, Repr

/-- A restoration in progress (16_snapshot R324): the last phase finished, the image, the request. -/
structure Restore where
  phase : Nat
  img   : Image
  spec  : RestoreSpec
deriving DecidableEq, Repr

/-- MODEL'S OWN. What happens next: a partition's turn to issue, an event of the opcode table, an error on a granule, the end of a
context's least time between snapshot requests (16_snapshot R301; log entry 44, DESIGN CHOICE), another package's image that its targets hold (R323;
log entry 89, DESIGN CHOICE), or a clock in which nothing happens. The environment chooses (R1, R71; log entry 1, DESIGN CHOICE). -/
inductive Turn where
  | issue (core part : Nat)
  | event (i : Instr)
  | upset (u : Upset)
  | paced (ctx : Nat)
  | stored (m : Image)
  | idle
deriving DecidableEq, Repr

/-! ## Device, firmware, host -/

/-- Power and clock (01_device R18, R19; 19_host_firmware R358). Reef 0 is 2.25 GHz, 3 is 1.5 GHz; `cool` counts cool windows in a row;
`risk` is the health monitor's level (R361), `ecc` the corrected errors reported to it
(09_memories R188). -/
structure Power where
  on    : Bool
  reef  : Nat
  cool  : Nat
  alarm : Bool
  shut  : Bool
  risk  : Nat
  ecc   : Nat
deriving DecidableEq, Repr

/-- What a die's halyard engine holds for a colour (13_queues R271): its target, and the entries of its submission and completion queues, where the
target is a namespace; with a peer's memory `subm` counts the writes not yet performed there. `copy`: the target to which firmware is copying a
CO_POWERED image (16_snapshot R320). -/
structure HalRow where
  die  : Nat
  col  : Colour
  desc : TargetDesc
  copy : Option TargetDesc
  subm : Nat
  comp : Nat
deriving DecidableEq, Repr

/-- Start-up and firmware images (19_host_firmware R359, R362, R363), which the private SRAMs of the masthead core and the 16 spar cores hold, 1 MiB
each (01_device R20). `step` is the last step done (8 ready), `failed` the step that
stopped the sequence, 0 for none; `bankA`, `bankB` are the masthead's banks, `inB` says which of them the running image came from; `fuse` is the digest of
the image-signing key, 0 until manufacture blows them; `expanders` are the CXL expanders mapped, in the host's order, as (first byte, bytes), `cxlLost` those of them that are lost. -/
structure Boot where
  step      : Nat
  failed    : Nat
  recovery  : Bool
  masthead  : Option FwImage
  bankA     : Option FwImage
  bankB     : Option FwImage
  inB       : Bool
  spars     : List FwImage
  fuse      : BitVec 256
  ident     : Identity
  tree      : Nat
  leaf      : Nat
  cxlBytes  : Nat
  expanders : List (Nat × Nat)
  cxlLost   : List (Nat × Nat)
deriving DecidableEq, Repr

/-- The policies of 19_host_firmware R356, times in microseconds, per-function ones as 17 entries. -/
structure Policies where
  powerCeiling    : Nat
  lostPeerBound   : Nat
  linkInterval    : Nat
  killBound       : Nat
  stallInterval   : Nat
  durabilityBound : Nat
  snapInterval    : Nat
  scrubPass       : Nat
  spliceCeiling   : Nat
  sliceLength     : List Nat
  sliceWeight     : List Nat
deriving DecidableEq, Repr

/-- What the device or firmware reports to a function's host (log entry 59, DESIGN CHOICE). -/
inductive HostMsg where
  | refused (fn : Nat) (what : String)
  | done (fn : Nat) (what : String)
  | queueStopped (vf num qerr : Nat)
  | completionDropped (launch status : Nat)
  | stalled (launch blk : Nat) (pc : Addr)
  | alarm
  | lost (lid : Nat)
  | bootFailed (step : Nat)
  | report (fn : Nat) (nonce : BitVec 256) (tree leaf : Nat) (digests : List (BitVec 256)) (epoch reef ceiling : Nat) (sig : List Byte)
  | keyExhausted (fn : Nat)
  | snapshot (ctx : Nat) (status : Word)
  | restore (status : String) (lid chunk : Nat)
deriving DecidableEq, Repr

/-- A word of the bundle being issued, with the MOD word before it. -/
structure BundleWord where
  slot : Nat
  word : Option Instr
  mod  : Option ModFields
deriving DecidableEq, Repr

/-- MODEL'S OWN. The bundle being issued: the gang, the PC and issuing lanes (02_execution R33, R9), the packet immediate (R78), the
word whose turn it is, whether the bundle has passed its checks (R88), what the packet's PC map entry says (14_splicer R283), and
the lanes a transfer word has taken with their targets (08_isa_control R147). -/
structure Issue where
  gid     : Nat
  busy    : Bool
  pc      : Addr
  lanes   : LaneMask
  pimm    : BitVec 30
  slot    : Nat
  last    : Nat
  mod     : Option ModFields
  solo    : Bool
  checked : Bool
  cons    : Bool
  kinds   : BitVec 6
  pair    : Nat
  taken   : List (Nat × Addr)
  words   : List BundleWord
deriving DecidableEq, Repr

/-- The state of one SQ-40 package (log entry 10, DESIGN CHOICE). -/
structure State where
  /-- MODEL'S OWN: turns to come, in the environment's order. -/
  agenda    : List Turn
  /-- MODEL'S OWN: the bundle being issued. -/
  cur       : Issue
  /-- MODEL'S OWN: turns taken; orders issues (R35) and waiting requests. -/
  clock     : Nat
  /-- MODEL'S OWN: names for new gangs, blocks, launches, operations. -/
  fresh     : Nat
  power     : Power
  boot      : Boot
  policies  : Policies
  host      : List HostMsg
  /-- HBM4 and the CXL window by local physical address (09_memories R171), and poisoned 32-byte granules (R188). -/
  mem       : List Host.Cell
  memPsn    : List Nat
  /-- Errors that ECC can correct, on granules not read since (R188). -/
  upsets    : List Upset
  /-- Core scratchpads: byte `(core * 192 + bank) * 4096 + offset`; poisoned 4-byte granules. -/
  scr       : List Host.Cell
  scrPsn    : List Nat
  /-- Die scratchpads: byte `(die * 6144 + range) * 4096 + offset`; poisoned 4-byte granules. -/
  dsc       : List Host.Cell
  dscPsn    : List Nat
  /-- Operand and weight buffers: byte `(core * 256 + unit) * 1024 + offset`; poisoned 4-byte granules. -/
  obuf      : List Host.Cell
  wbuf      : List Host.Cell
  bufPsn    : List Nat
  /-- Accumulator memory: byte `(core * 16 + bank) * 32768 + offset`; poisoned 4-byte granules. -/
  acc       : List Host.Cell
  accPsn    : List Nat
  /-- The vector register file: word `((core * 16 + partition) * 128 + slice) * 128 + row * 8 + lane mod 8` (02_execution R28), and
  the poison marks (11_isa_memory R217) with their addresses. -/
  vrf       : List (Nat × Word)
  vmark     : List (Nat × Option Addr)
  slices    : List SliceRow
  banks     : List BankRow
  /-- Die ranges and pages with an owner other than none: (die, range, context). -/
  ranges    : List (Nat × Nat × Nat)
  /-- Local frames with an owner: first byte, bytes, context; 0 names a context that has ended (09_memories R189). -/
  owners    : List (Nat × Nat × Nat)
  /-- Scratchpad portion of a core in 64 KiB steps (02_execution R30). -/
  splits    : List (Nat × Nat)
  recs      : List RecRow
  accs      : List AccRow
  arrays    : List ArrayRow
  rings     : List RingRow
  bars      : List BarRow
  l1        : List L1Line
  l2        : List L2Line
  dir       : List DirLine
  tlb       : List TlbRow
  /-- Invalidations begun and not complete (09_memories R176): context and page. -/
  invals    : List (Nat × Nat)
  zmaps     : List ZeroMap
  gangs     : List Gang
  ops       : List Op
  blocks    : List Block
  saved     : List Saved
  launches  : List Launch
  chunks    : List Chunk
  queues    : List QueueRow
  ctxs      : List CtxRow
  pod       : List PodEntry
  groups    : List (Nat × GroupSpec)
  fab       : Fabric
  col0      : ColourRow
  col1      : ColourRow
  tags      : List Tag
  ptags     : List PageTag
  /-- Records in each die's capture queue of each colour (13_queues R271). -/
  capQ      : List (Nat × Colour × Nat)
  /-- Cut sequence of each snapshot group (15_tables_counters R297). -/
  cutSeqs   : List (Nat × Word)
  snapReqs  : List SnapReq
  /-- The request that the masthead core has accepted and whose cut is still to come, with its colour (16_snapshot R301). -/
  snapAcc   : Option (SnapReq × Colour)
  /-- The halyard engines' target descriptors and queues (13_queues R271). -/
  halyard   : List HalRow
  images    : List Image
  restore   : Option Restore
deriving DecidableEq, Repr

/-! ## Reset -/

/-- No bundle is being issued. -/
def Issue.none : Issue :=
  { gid := 0, busy := false, pc := 0#64, lanes := 0#64, pimm := 0#30, slot := 0, last := 0, mod := Option.none, solo := false,
    checked := false, cons := false, kinds := 0#6, pair := 0, taken := [], words := [] }

/-- A colour before any cut (16_snapshot R302); SNID 0 is the model's choice (log entry 3, DESIGN CHOICE). -/
def ColourRow.reset : ColourRow :=
  { st := .free, snid := 0#32, group := 0, seq := 0#32, ever := false, init := false, inits := [], stream := [], root := Option.none,
    aborts := [], reports := [], acks := [], grp := 0 }

/-- The policies at their defaults (19_host_firmware R356), times in microseconds. -/
def Policies.reset : Policies :=
  { powerCeiling := 3000, lostPeerBound := 2000, linkInterval := 10000, killBound := 100000, stallInterval := 60000000,
    durabilityBound := 120000000, snapInterval := 0, scrubPass := 24, spliceCeiling := 2048,
    sliceLength := List.replicate 17 10000, sliceWeight := List.replicate 17 1 }

/-- The gateway before the host writes the pod map (19_host_firmware R363 step 7, 13_queues R269). -/
def Fabric.reset : Fabric :=
  { lid := 0, phys := 0, member := false, par0 := false, par1 := false, chans := [], out := [], held := [], discarded := 0, ports := [], parts := [], wbs := [], mlost := [],
    reads := [], owns := [], mine := [], down := [] }

/-- Start-up before its first step, in a package whose fuses are not blown yet and read 0, its banks empty (log entries 85, 91, 92, DESIGN CHOICE). -/
def Boot.reset : Boot :=
  { step := 0, failed := 0, recovery := false, masthead := none, bankA := none, bankB := none, inB := false, spars := [], fuse := 0,
    ident := { phys := 0, keys := [] }, tree := 0, leaf := 0, cxlBytes := 0, expanders := [],
    cxlLost := [] }

/-- The package at power-on reset, before its start-up sequence (19_host_firmware R363): supply on, nothing resident, every
memory zero and unowned, every queue, context and pod-map entry absent, every policy at its default. Items without a stated reset
value are 0 (log entries 2, 3 and 4, DESIGN CHOICE). -/
def State.reset : State :=
  { agenda := [], cur := Issue.none, clock := 0, fresh := 1,
    power := { on := true, reef := 0, cool := 0, alarm := false, shut := false, risk := 0, ecc := 0 },
    boot := Boot.reset,
    policies := Policies.reset, host := [], mem := [], memPsn := [], upsets := [], scr := [], scrPsn := [], dsc := [], dscPsn := [],
    obuf := [], wbuf := [], bufPsn := [], acc := [], accPsn := [], vrf := [], vmark := [], slices := [], banks := [], ranges := [], owners := [],
    splits := [], recs := [], accs := [], arrays := [], rings := [], bars := [], l1 := [], l2 := [], dir := [], tlb := [],
    invals := [], zmaps := [], gangs := [], ops := [], blocks := [], saved := [], launches := [], chunks := [], queues := [], ctxs := [],
    pod := [], groups := [], fab := Fabric.reset, col0 := ColourRow.reset, col1 := ColourRow.reset, tags := [], ptags := [],
    capQ := [], cutSeqs := [], snapReqs := [], snapAcc := none, halyard := [], images := [], restore := none }

end Sys2Proof.Machine
end

