-- ==== Sys2Proof/Machine/Mem.lean ====
section
/-! DEFINITION. The memories of 09_memories below the words that reach them: the directory's value of a line, L1 and L2 lines, zero
maps, scratchpads, poison; and capture before a post-cut write (16_snapshot R308 to R311). -/

namespace Sys2Proof.Machine

/-! ## Colours and streams -/

def colRow (s : State) : Colour → ColourRow
  | .c0 => s.col0
  | .c1 => s.col1

def setCol (s : State) (c : Colour) (r : ColourRow) : State :=
  match c with
  | .c0 => { s with col0 := r }
  | .c1 => { s with col1 := r }

def modCol (s : State) (c : Colour) (f : ColourRow → ColourRow) : State := setCol s c (f (colRow s c))

/-- Append a record to a colour's image stream (R317). -/
def emitRec (s : State) (c : Colour) (r : SnapRec) : State := modCol s c (fun row => { row with stream := row.stream ++ [r] })

/-- Cut taken and the image still under way (R302). -/
def capturing (s : State) (c : Colour) : Bool := decide ((colRow s c).st = .capturing)

def ctxRow (s : State) (ctx : Nat) : Option CtxRow := s.ctxs.find? (fun r => r.id == ctx)

def modCtx (s : State) (ctx : Nat) (f : CtxRow → CtxRow) : State :=
  { s with ctxs := s.ctxs.map (fun r => if r.id = ctx then f r else r) }

def ctxGroup (s : State) (ctx : Nat) : Nat := match ctxRow s ctx with
  | some r => r.group
  | none => 0

/-- Who writes, for capture: the context, whether the writing operation was issued before the last cut of each colour, and the threads. -/
structure Wr where
  ctx  : Nat
  pre0 : Bool
  pre1 : Bool
  who  : List (Nat × Nat)
deriving DecidableEq, Repr

/-- A write that counts as post-cut of both colours (R308). -/
def wrPost (ctx : Nat) : Wr := { ctx := ctx, pre0 := false, pre1 := false, who := [] }

def wrPre (w : Wr) : Colour → Bool
  | .c0 => w.pre0
  | .c1 => w.pre1

/-- The writer that an operation in flight is. -/
def wrOf (o : Op) : Wr := { ctx := o.ctx, pre0 := o.pre0, pre1 := o.pre1, who := [] }

/-- The writer that lanes of an operation are (R208: whose stores they are). -/
def wrAt (o : Op) (ls : List Nat) : Wr := { wrOf o with who := ls.map (fun l => (o.gid, l)) }

def capCount (s : State) (die : Nat) (c : Colour) : Nat :=
  match s.capQ.find? (fun e => e.1 == die && decide (e.2.1 = c)) with
  | some e => e.2.2
  | none => 0

def setCapCount (s : State) (die : Nat) (c : Colour) (n : Nat) : State :=
  let rest := s.capQ.filter (fun e => !(e.1 == die && decide (e.2.1 = c)))
  { s with capQ := if n = 0 then rest else (die, c, n) :: rest }

/-- Room in the capture queue of a die (13_queues R271). -/
def capRoom (s : State) (die : Nat) (c : Colour) : Bool := decide (capCount s die c < Config.captureDepth)

/-- A unit sent by a first post-cut write: its record, the queue's count, the context's CAPTURES (R308, R299). -/
def sendCapture (s : State) (die : Nat) (ctx : Nat) (c : Colour) (r : SnapRec) : State :=
  modCtx (setCapCount (emitRec s c r) die c (capCount s die c + 1)) ctx (fun x => { x with captures := x.captures + 1 })

/-! ## Words of a unit -/

/-- The nonzero words among `n` words given by a function of the word index. -/
def nonzeroWords (f : Nat → Word) (n : Nat) : List (Nat × Word) :=
  (List.range n).filterMap (fun i => if f i = 0 then none else some (i, f i))

/-- Word `i` of bytes given by a function. -/
def wordAt (f : Nat → Byte) (i : Nat) : Word := f (4 * i + 3) ++ f (4 * i + 2) ++ f (4 * i + 1) ++ f (4 * i)

/-! ## Memory lines -/

/-- The die of a local physical address: two stacks to a die; the CXL window is on the gateway side, counted to die 0. -/
def dieOfPa (pa : Nat) : Nat := if pa < Config.hbmEnd then pa / 0x1800000000 else 0

def zeroMapOf (s : State) (pa : Nat) : Option ZeroMap :=
  s.zmaps.find? (fun z => decide (z.frame ≤ pa) && decide (pa < z.frame + 128 * z.lines))

/-- The line at `pa` reads as zero by its zero map (R178). -/
def zeroPending (s : State) (pa : Nat) : Bool :=
  match zeroMapOf s pa with
  | some z => !z.clear.contains ((pa - z.frame) / 128)
  | none => false

def l2Line (s : State) (peer : Bool) (line : Nat) : Option L2Line :=
  s.l2.find? (fun r => r.line == line && r.peer == peer)

def setL2 (s : State) (r : L2Line) : State :=
  if s.l2.any (fun x => x.line == r.line && x.peer == r.peer) then
    { s with l2 := s.l2.map (fun x => if x.line == r.line && x.peer == r.peer then r else x) }
  else { s with l2 := r :: s.l2 }

def dropL2 (s : State) (peer : Bool) (line : Nat) : State :=
  { s with l2 := s.l2.filter (fun x => !(x.line == line && x.peer == peer)) }

/-- A byte of memory proper, its zero map honoured. -/
def memByte (s : State) (pa : Nat) : Byte := if zeroPending s pa then 0#8 else Memory.byte s.mem pa

/-- The value the package directory holds for a local byte: the L2 copy, memory otherwise (R186, R306). -/
def dirByte (s : State) (pa : Nat) : Byte :=
  match l2Line s false (pa / 128) with
  | some r => r.data.getD (pa % 128) 0
  | none => memByte s pa

def dirBytes (s : State) (pa n : Nat) : List Byte := (List.range n).map (fun i => dirByte s (pa + i))

/-- Poison of a local byte, by 32-byte granules (R188); a lost expander's memory reads poisoned (19_host_firmware R355) (log entry 58, DEDUCED). -/
def memPoisoned (s : State) (pa : Nat) : Bool :=
  s.memPsn.contains (pa / 32) || s.boot.cxlLost.any (fun e => decide (e.1 ≤ pa) && decide (pa < e.1 + e.2))

/-- A bit of a leaf entry written by the device (R173: CT0 107, CT1 108, ZP 109): in memory, in L2's copy, and in every buffer that holds the
entry, at one instant (R176). -/
def putPteBit (s : State) (pte bit : Nat) (v : Bool) : State :=
  let b := pte + bit / 8
  let m : Byte := 1#8 <<< (bit % 8)
  let put := fun x : Byte => if v then x ||| m else x &&& ~~~m
  let leaf := fun p : BitVec 128 => if v then p ||| (1#128 <<< bit) else p &&& ~~~(1#128 <<< bit)
  let s1 := { s with mem := Memory.setByte s.mem b (put (Memory.byte s.mem b)),
                     tlb := s.tlb.map (fun r => if r.pte = pte then { r with leaf := r.leaf.map (fun e => (leaf e.1, e.2)) } else r) }
  match l2Line s1 false (b / 128) with
  | some r => setL2 s1 { r with data := setAt r.data (b % 128) (put (r.data.getD (b % 128) 0)) }
  | none => s1

/-- The last bit of a zero map cleared clears ZP in the leaf entries (R178). -/
def clearZp (s : State) (ptes : List Nat) : State := ptes.foldl (fun s a => putPteBit s a 109 false) s

/-- The first write to a zero-pending line: it becomes a zero line in memory and its bit clears (R178). -/
def zeroMapWrite (s : State) (pa : Nat) : State :=
  match zeroMapOf s pa with
  | some z =>
    let i := (pa - z.frame) / 128
    if z.clear.contains i then s
    else
      let s1 := { s with mem := Sparse.clear s.mem (pa / 128 * 128) 128 }
      let z1 := { z with clear := insertAsc i z.clear }
      if z1.clear.length = z.lines then
        clearZp { s1 with zmaps := s1.zmaps.filter (fun x => x.frame != z.frame) } z.ptes
      else { s1 with zmaps := s1.zmaps.map (fun x => if x.frame = z.frame then z1 else x) }
  | none => s

/-- The page tags of colour `c` over the local line at `pa` that have not reached the image yet (R306). -/
def pageTagsOf (s : State) (c : Colour) (pa : Nat) : List PageTag :=
  s.ptags.filter (fun t => decide (t.col = c) && decide (t.frame ≤ pa) && decide (pa < t.frame + 128 * t.lines) &&
    !t.done.contains ((pa - t.frame) / 128))

/-- The first of them. -/
def pageTagOf (s : State) (c : Colour) (pa : Nat) : Option PageTag := (pageTagsOf s c pa).head?

def ctBit : Colour → Nat
  | .c0 => 107
  | .c1 => 108

/-- Line `i` of a tagged page is in the image; the page's tag falls with the last line (R308). -/
def pageLineDone (s : State) (t : PageTag) (i : Nat) : State :=
  let t1 := { t with done := insertAsc i t.done }
  let same := fun x : PageTag => decide (x.col = t.col) && x.pte == t.pte && x.frame == t.frame
  if t1.done.length = t.lines then
    putPteBit { s with ptags := s.ptags.filter (fun x => !same x) } t.pte (ctBit t.col) false
  else { s with ptags := s.ptags.map (fun x => if same x then t1 else x) }

/-- The record of a memory line as it stands (R317): zero-map lines without bytes. -/
def lineRec (s : State) (t : PageTag) (i : Nat) : SnapRec :=
  let base := t.frame + 128 * i
  let zp := zeroPending s base
  .line t.ctx (t.va + 128 * i) (if zp then [] else nonzeroWords (fun w => wordAt (fun k => dirByte s (base + k)) w) 32)
    ((List.range 32).filter (fun w => memPoisoned s (base + 4 * w))) zp

/-- Before a write of `w` reaches a local line: its old value to each colour that still tags it and for which the write is
post-cut (R308). -/
def captureLineFor (w : Wr) (c : Colour) (pa : Nat) (s : State) : State :=
  if wrPre w c then s else
  (pageTagsOf s c pa).foldl (fun s t =>
    let i := (pa - t.frame) / 128
    pageLineDone (sendCapture s (dieOfPa pa) t.ctx c (lineRec s t i)) t i) s

/-- A write of `w` is a late pre-cut write of colour `c` to a unit, of a captured context, that the image already holds (R310). -/
def lateWrite (w : Wr) (c : Colour) (tagged : Bool) (s : State) : Bool :=
  wrPre w c && capturing s c && !tagged && decide (ctxGroup s w.ctx = (colRow s c).group)

/-- The patch of such a write: its unit with LOC as the unit's own record has it (R317), the words it touches, and the bytes written. -/
def patchFor (w : Wr) (c : Colour) (tagged : Bool) (u : CapUnit) (loc : Nat) (ws : List (Nat × Word)) (bs : List (Nat × Byte)) (s : State) : State :=
  if lateWrite w c tagged s then emitRec s c (.patch w.ctx u loc ws bs) else s

/-- The package of a logical id takes part in a group. -/
def inGroup (s : State) (grp lid : Nat) : Bool := s.pod.any (fun e => e.lid == lid && e.sgrp == grp && decide (e.st ≠ .absent))

/-- The bytes of a line that a mask names. -/
def maskBytes (mask : BitVec 128) (data : List Byte) : List (Nat × Byte) :=
  (List.range 128).filterMap (fun i => if mask.getLsbD i then some (i, data.getD i 0) else none)

/-- Words of a cached line under a mask. -/
def maskWords (mask : BitVec 128) (data : List Byte) : List (Nat × Word) :=
  (List.range 32).filterMap (fun i => if mask.extractLsb' (4 * i) 4 = 0#4 then none else some (i, wordAt (fun k => data.getD k 0) i))

/-- The patch of a late pre-cut write to a peer line that the image already holds, or that was clean at the cut (R310); `data` is the line after
the write. -/
def lateL2 (w : Wr) (c : Colour) (tagged : Bool) (va line : Nat) (mask : BitVec 128) (data : List Byte) (s : State) : State :=
  if inGroup s (colRow s c).group (line * 128 / 2 ^ 45) then
    patchFor w c tagged (.l2 line) va (maskWords mask data) (maskBytes mask data) s else s

/-- The patch of such a write in an L1. -/
def lateL1 (w : Wr) (c : Colour) (tagged : Bool) (core : Nat) (peer : Bool) (va line : Nat) (mask : BitVec 128) (data : List Byte) (s : State) : State :=
  if !peer || inGroup s (colRow s c).group (line * 128 / 2 ^ 45) then
    patchFor w c tagged (.l1 core line) va (maskWords mask data) (maskBytes mask data) s else s

/-- Words of a local line as the directory holds them. -/
def lineWords (s : State) (line : Nat) (mask : BitVec 128) : List (Nat × Word) :=
  (List.range 32).filterMap (fun i => if mask.extractLsb' (4 * i) 4 = 0#4 then none
    else some (i, wordAt (fun k => dirByte s (128 * line + k)) i))

/-- Poison of 32-byte granules `g0` to `g0 + 3` after bytes `mask` of their line are written whole (R188). -/
def wholeGranules (mask : BitVec 128) : List Nat :=
  (List.range 4).filter (fun g => decide (mask.extractLsb' (32 * g) 32 = BitVec.allOnes 32))

/-- Bytes merged under a mask. -/
def mergeBytes (mask : BitVec 128) (new old : List Byte) : List Byte :=
  (List.range 128).map (fun i => if mask.getLsbD i then new.getD i 0 else old.getD i 0)

/-- Exactly a line's bytes. -/
def fitLine (bs : List Byte) : List Byte := (List.range 128).map (fun i => bs.getD i 0)

/-- A line of L2 with the directory's bytes, clean. -/
def freshL2 (s : State) (line : Nat) (ctx va : Nat) : L2Line :=
  { peer := false, line := line, ctx := ctx, va := va, data := dirBytes s (128 * line) 128, dirty := 0, filled := true, owned := true,
    zero := (dirBytes s (128 * line) 128).all (· == 0#8), psn := 0, who := [], cap0 := false, cap1 := false }

/-- Bytes `mask` of a local line written in L2, under the package directory (R186, R202): captures first, then the zero map, then
the bytes, Dirty, or, as the first write of a zero-pending line, the whole line in memory too (R178); whole poisoned granules written become
sound. -/
def writeLine (w : Wr) (line : Nat) (va : Nat) (mask : BitVec 128) (data : List Byte) (s : State) : State :=
  let pa := 128 * line
  let t0 := (pageTagOf s .c0 pa).isSome
  let t1 := (pageTagOf s .c1 pa).isSome
  let s := captureLineFor w .c1 pa (captureLineFor w .c0 pa s)
  let base := match l2Line s false line with
    | some r => r
    | none => freshL2 s line w.ctx va
  let first := zeroPending s pa
  let s := zeroMapWrite s pa
  let merged := mergeBytes mask data base.data
  let s := if first then { s with mem := Sparse.write 0#8 s.mem pa merged } else s
  let s := setL2 s { base with data := merged, dirty := if first then 0 else base.dirty ||| mask, zero := merged.all (· == 0#8) }
  let s := { s with memPsn := s.memPsn.filter (fun g => !((wholeGranules mask).map (· + 4 * line)).contains g) }
  let loc := va / 128 * 128
  let u : CapUnit := .line w.ctx loc
  patchFor w .c1 t1 u loc (lineWords s line mask) (maskBytes mask data) (patchFor w .c0 t0 u loc (lineWords s line mask) (maskBytes mask data) s)

/-- A fill: L2 holds the line, a zero line where the zero map says so (R178, R186). -/
def fillL2 (s : State) (line ctx va : Nat) : State :=
  match l2Line s false line with
  | some _ => s
  | none => setL2 s (freshL2 s line ctx va)

/-- A room test for the captures that `writeLine` would need (R271). -/
def lineRoom (w : Wr) (line : Nat) (s : State) : Bool :=
  let pa := 128 * line
  [Colour.c0, Colour.c1].all (fun c => wrPre w c || (pageTagOf s c pa).isNone || capRoom s (dieOfPa pa) c)

/-- L2's Dirty bytes of a local line written to memory; the copy stays, clean (R226). -/
def l2ToMem (s : State) (line : Nat) : State :=
  match l2Line s false line with
  | some r =>
    if r.dirty = 0 then s
    else
      let s1 := { s with mem := Sparse.write 0#8 s.mem (128 * line) (mergeBytes r.dirty r.data (dirBytes s (128 * line) 128)) }
      setL2 s1 { r with dirty := 0 }
  | none => s

/-- Bytes written across local lines, all by one writer: (address, byte). -/
def writePhys (w : Wr) (pa va : Nat) (bytes : List Byte) (s : State) : State :=
  let n := bytes.length
  if n = 0 then s else
  (List.range ((pa + n - 1) / 128 - pa / 128 + 1)).foldl (fun s k =>
    let line := pa / 128 + k
    let data := (List.range 128).map (fun i => bytes.getD (128 * line + i - pa) 0)
    let mask : BitVec 128 := (List.range 128).foldl (fun m i =>
      if pa ≤ 128 * line + i && 128 * line + i < pa + n then m ||| (1#128 <<< i) else m) 0#128
    writeLine w line (va + 128 * k) mask data s) s

/-! ## L1 (R184, R185) -/

def l1Line (s : State) (core : Nat) (peer : Bool) (line : Nat) : Option L1Line :=
  s.l1.find? (fun r => r.core == core && r.line == line && r.peer == peer)

def setL1 (s : State) (r : L1Line) : State :=
  if s.l1.any (fun x => x.core == r.core && x.line == r.line && x.peer == r.peer) then
    { s with l1 := s.l1.map (fun x => if x.core == r.core && x.line == r.line && x.peer == r.peer then r else x) }
  else { s with l1 := r :: s.l1 }

def l1Mark (r : L1Line) : Colour → Bool
  | .c0 => r.cap0
  | .c1 => r.cap1

/-- Poisoned words of an L1 line that hold Dirty bytes (R188). -/
def dirtyPsn (r : L1Line) : List Nat := (List.range 32).filter (fun k => r.psn.getLsbD k && decide (r.dirty.extractLsb' (4 * k) 4 ≠ 0#4))

/-- The record of an L1 line's Dirty bytes as they stand, with their poison marks (R306, R384). -/
def l1Rec (r : L1Line) : SnapRec := .l1 r.ctx (r.va / 128 * 128) r.dirty ((maskBytes r.dirty r.data).map (·.2)) (dirtyPsn r)

/-- They go to the image, and the mark off. -/
def captureL1 (c : Colour) (r : L1Line) (s : State) : State :=
  if l1Mark r c then
    let s1 := sendCapture s (r.core / 40) r.ctx c (l1Rec r)
    { s1 with l1 := s1.l1.map (fun x => if x.core == r.core && x.line == r.line && x.peer == r.peer then
        (match c with | .c0 => { x with cap0 := false } | .c1 => { x with cap1 := false }) else x) }
  else s

/-- The record of a Dirty peer line in L2: the whole line, and which of its bytes are Dirty (16_snapshot R317; log entry 90, DEDUCED). -/
def l2Rec (r : L2Line) : SnapRec :=
  .l2 r.ctx (r.va / 128 * 128) (128 * r.line) r.dirty (fitLine r.data) ((List.range 32).filter (fun k => r.psn.getLsbD (k / 8)))

/-- The L2 line of a peer line; Dirty bytes of it are captured by marks (R306), in die 0's queue (log entry 96, DESIGN CHOICE). -/
def captureL2 (c : Colour) (r : L2Line) (s : State) : State :=
  let m := match c with | .c0 => r.cap0 | .c1 => r.cap1
  if m then
    let s1 := sendCapture s 0 r.ctx c (l2Rec r)
    { s1 with l2 := s1.l2.map (fun x => if x.line == r.line && x.peer == r.peer then
        (match c with | .c0 => { x with cap0 := false } | .c1 => { x with cap1 := false }) else x) }
  else s

/-- The fabric's work list of this package: packets sent, in order; the gateway numbers and stamps them (R342). -/
def pktOf (s : State) (dst : Nat) (cls : BitVec 4) (len addr : Nat) (body : PktBody) : Packet :=
  { seq := 0, stamp := 0, src := s.fab.lid, dst := dst, cls := cls, len := len, addr := addr, body := body }

def chanOf (s : State) (peer : Nat) : Chan :=
  match s.fab.chans.find? (fun c => c.peer == peer) with
  | some c => c
  | none => { peer := peer, send := 0, pre0 := 0, pre1 := 0, mark := 0, got := [], tel0 := none, tel1 := none, log0 := false,
              log1 := false, hold := false }

def setChan (s : State) (c : Chan) : State :=
  let chs := if s.fab.chans.any (fun x => x.peer == c.peer) then s.fab.chans.map (fun x => if x.peer = c.peer then c else x)
    else s.fab.chans ++ [c]
  { s with fab := { s.fab with chans := chs } }

/-- Cut parities as stamp bits, colour 1 high (R269, R342). -/
def stampOf (s : State) : BitVec 2 := BitVec.ofBool s.fab.par1 ++ BitVec.ofBool s.fab.par0

/-- The gateway sends a packet: SEQ and STAMP are assigned now (R342, R269). -/
def sendPkt (s : State) (p : Packet) : State :=
  let c := chanOf s p.dst
  let f := (setChan s { c with send := c.send + 1 }).fab
  { s with fab := if s.fab.member then { f with out := f.out ++ [{ p with seq := c.send, stamp := stampOf s }] } else s.fab }

/-! ## The home directory of local lines (18_fabric_collectives R344) -/

def noDir (line : Nat) : DirLine :=
  { line := line, shared := [], owner := none, note := none, acks := [], datas := [], reqs := [], prom := none, promOk := false, pend := [] }

def dirLine (s : State) (line : Nat) : DirLine :=
  match s.dir.find? (fun d => d.line == line) with
  | some d => d
  | none => noDir line

def setDir (s : State) (d : DirLine) : State :=
  let rest := s.dir.filter (fun x => x.line != d.line)
  { s with dir := if d = noDir d.line then rest else d :: rest }

/-- The pod-global address of a local line. -/
def gaOf (s : State) (line : Nat) : Nat := s.fab.lid * 2 ^ 45 + 128 * line

/-- Invalidate the holders of a line other than `keep`, the owner by tag 1; the data of an owner and every acknowledgement are awaited (R344). -/
def invalidateHolders (s : State) (line keep : Nat) : State :=
  let d := dirLine s line
  let hs := (d.shared ++ d.owner.toList).dedup.filter (fun h => h != keep && !d.acks.contains h)
  let own := match d.owner with
    | some p => if p = keep then [] else [p]
    | none => []
  let s1 := hs.foldl (fun s h => sendPkt s (pktOf s h 5 0 (gaOf s line) (.ack (if own.contains h then 1 else 0)))) s
  setDir s1 { d with acks := d.acks ++ hs, datas := d.datas ++ own.filter (fun p => !d.datas.contains p) }

/-- Whether the home holds a line free of other packages' copies for a write, or of another's ownership for a read. -/
def homeFree (s : State) (line : Nat) (write : Bool) : Bool :=
  let d := dirLine s line
  decide (d.acks = []) && decide (d.datas = []) && d.owner.isNone && (!write || decide (d.shared = []))

/-- The home asks the holders that stand in the way. -/
def homeAsk (s : State) (line : Nat) : State := invalidateHolders s line s.fab.lid

/-- A read of a peer line asked of its home (class 0, R342): once for a tag while its answer is out. -/
def askRead (s : State) (line tag : Nat) (rem : Bool) (core : Nat) : State :=
  if !s.fab.member || s.fab.reads.any (fun e => e.1 == line && e.2.1 == tag) then s
  else sendPkt { s with fab := { s.fab with reads := (line, tag, true) :: s.fab.reads } }
    (pktOf s (line * 128 / 2 ^ 45) 0 0 (128 * line) (.req tag rem core))

/-- Ownership of a peer line asked of its home (class 2, R342): once while the grant is out, and not of a line owned already. -/
def askOwn (s : State) (line core : Nat) : State :=
  if !s.fab.member || s.fab.owns.contains line || s.fab.mine.contains line then s
  else sendPkt { s with fab := { s.fab with owns := line :: s.fab.owns } }
    (pktOf s (line * 128 / 2 ^ 45) 2 0 (128 * line) (.req 0 false core))

/-- What is next to be asked of a peer line: its bytes, then its ownership. -/
def askLine (s : State) (line core : Nat) : State :=
  if (l2Line s true line).any (fun r => r.filled) then askOwn s line core else askRead s line 0 false core

/-- What a write in L2 lacks of a peer line: its bytes, its ownership. -/
def askBoth (s : State) (line core : Nat) : State :=
  askOwn (if (l2Line s true line).any (fun r => r.filled) then s else askRead s line 0 false core) line core

/-- Bytes of a peer line go to its home, or another package's may have: answers to reads asked before may be older, and are kept no longer
(10_consistency R198, R199; log entry 86, DEDUCED). -/
def staleReads (line : Nat) (s : State) : State :=
  { s with fab := { s.fab with reads := s.fab.reads.map (fun e => if e.1 = line then (e.1, e.2.1, false) else e) } }

/-- No copy of a peer line. -/
def noPeerLine (s : State) (line ctx va : Nat) : L2Line :=
  { peer := true, line := line, ctx := ctx, va := va, data := List.replicate 128 0, dirty := 0, filled := false,
    owned := s.fab.mine.contains line, zero := false, psn := 0, who := [], cap0 := false, cap1 := false }

/-- Bytes of a peer line stored in L2: posted (10_consistency R207); L2 asks the line's home for ownership (class 2). -/
def writePeerLine (w : Wr) (line : Nat) (va : Nat) (mask : BitVec 128) (data : List Byte) (s : State) : State :=
  let r0 : L2Line := match l2Line s true line with
    | some r => if r.dirty = 0 ∧ w.ctx ≠ 0 then { r with ctx := w.ctx, va := va } else r
    | none => noPeerLine s line w.ctx va
  let s := if wrPre w .c0 then s else captureL2 .c0 r0 s
  let s := if wrPre w .c1 then s else captureL2 .c1 r0 s
  let r1 := { r0 with cap0 := ((l2Line s true line).getD r0).cap0, cap1 := ((l2Line s true line).getD r0).cap1 }
  let whole := (wholeGranules mask).foldl (fun x g => x ||| (1#4 <<< g)) 0#4
  let merged := mergeBytes mask data r1.data
  let full := r1.filled || decide (r1.dirty ||| mask = BitVec.allOnes 128)
  let s := setL2 s { r1 with data := merged, dirty := r1.dirty ||| mask, filled := full, zero := full && merged.all (· == 0#8),
                             psn := r1.psn &&& ~~~whole,
                             who := if r1.owned then [] else r1.who ++ w.who.filter (fun x => !r1.who.contains x) }
  let s := lateL2 w .c1 r1.cap1 (va / 128 * 128) line mask merged (lateL2 w .c0 r1.cap0 (va / 128 * 128) line mask merged s)
  if r1.owned then s else askOwn s line 0

/-- Bytes written across peer lines. -/
def writePeerBytes (w : Wr) (ga va : Nat) (bytes : List Byte) (s : State) : State :=
  let n := bytes.length
  if n = 0 then s else
  (List.range ((ga + n - 1) / 128 - ga / 128 + 1)).foldl (fun s k =>
    let l := ga / 128 + k
    let lo := max ga (128 * l)
    let hi := min (ga + n) (128 * (l + 1))
    writePeerLine w l ((va + (lo - ga)) / 128 * 128) (BitVec.ofNat 128 ((2 ^ (hi - lo) - 1) * 2 ^ (lo % 128)))
      (List.replicate (lo % 128) 0 ++ slice bytes (lo - ga) (hi - lo)) s) s

/-- Bytes that an L1 wrote back while other packages hold the line: they are recalled, and the threads' bytes are performed beyond this package
once they have answered (10_consistency R201, R202). -/
def shareOut (line : Nat) (who : List (Nat × Nat)) (s : State) : State :=
  if homeFree s line true then s
  else
    let s1 := invalidateHolders s line s.fab.lid
    let d := dirLine s1 line
    setDir s1 { d with pend := d.pend ++ who.filter (fun x => !d.pend.contains x) }

/-- An owned peer line's Dirty bytes to its home; the copy stays, clean, and until the home acknowledges, the write-back counts as on its way
(18_fabric_collectives R344). -/
def writeBackPeer (tag : Nat) (r : L2Line) (s : State) : State :=
  let s1 := staleReads r.line (captureL2 .c1 r (captureL2 .c0 r s))
  let s2 := sendPkt s1 (pktOf s1 (r.line * 128 / 2 ^ 45) 4 4 (128 * r.line) (.data tag r.dirty r.data r.psn))
  setL2 { s2 with fab := { s2.fab with wbs := r.line :: s2.fab.wbs } } { r with dirty := 0, cap0 := false, cap1 := false }

/-- Nothing is awaited of a line any more: the bytes written meanwhile are performed everywhere. -/
def settleDir (d : DirLine) : DirLine := if d.acks = [] ∧ d.datas = [] then { d with pend := [] } else d

/-- Poison of a written-back line's granules in L2 (R188). -/
def poisonBack (r : L1Line) (s : State) : State :=
  (dirtyPsn r).foldl (fun s k =>
    if r.peer then (match l2Line s true r.line with
      | some x => setL2 s { x with psn := x.psn ||| (1#4 <<< (k / 8)) }
      | none => s)
    else
      let g := 4 * r.line + k / 8
      { s with memPsn := g :: s.memPsn.filter (fun x => x != g) }) s

/-- The Dirty bytes of an L1 line by what they are to each colour's cut, those pre-cut of both first (R310). -/
def dirtyClasses (r : L1Line) : List (Bool × Bool × BitVec 128) :=
  [(true, true, r.dirty &&& r.pre0 &&& r.pre1), (true, false, r.dirty &&& r.pre0 &&& ~~~r.pre1), (false, true, r.dirty &&& ~~~r.pre0 &&& r.pre1),
   (false, false, r.dirty &&& ~~~r.pre0 &&& ~~~r.pre1)].filter (fun e => decide (e.2.2 ≠ 0))

/-- Some Dirty bytes of an L1 line written to L2. -/
def writeBackClass (r : L1Line) (s : State) (e : Bool × Bool × BitVec 128) : State :=
  let w : Wr := { ctx := r.ctx, pre0 := e.1, pre1 := e.2.1, who := r.who }
  if r.peer then writePeerLine w r.line r.va e.2.2 r.data s else writeLine w r.line r.va e.2.2 r.data s

/-- A core's Dirty bytes of a line written back to L2, the copy valid and clean (R185), pre-cut bytes as such (R310); their poison goes with
them. -/
def writeBackL1 (r : L1Line) (s : State) : State :=
  if r.dirty = 0 then s
  else
    let s := captureL1 .c1 r (captureL1 .c0 r s)
    let s := (dirtyClasses r).foldl (writeBackClass r) s
    let s := if r.peer then s else shareOut r.line r.who s
    let s := poisonBack r s
    { s with l1 := s.l1.map (fun x => if x.core == r.core && x.line == r.line && x.peer == r.peer then
        { x with dirty := 0, who := [], pre0 := 0, pre1 := 0 } else x) }

/-- Write back the Dirty lines of a core whose tag lies below scope `sc`; 8 writes back every Dirty line (R185). -/
def writeBackBelow (core sc : Nat) (s : State) : State :=
  (s.l1.filter (fun r => r.core == core && decide (r.dirty ≠ 0) && (decide (3 ≤ sc) || decide (r.tag < sc)))).foldl
    (fun s r => writeBackL1 r s) s

/-- An acquire at cluster scope or wider: every Dirty line back, every L1 line of the core invalid (R203). -/
def acquireL1 (core sc : Nat) (s : State) : State :=
  if sc < 3 then s
  else let s1 := writeBackBelow core 8 s; { s1 with l1 := s1.l1.filter (fun r => r.core != core) }

/-! ## Scratchpads, tile memories: words of a unit, capture, poison -/

/-- Byte key of a core scratchpad bank. -/
def scrKey (core bank off : Nat) : Nat := (core * 192 + bank) * 4096 + off

def dscKey (die range off : Nat) : Nat := (die * 6144 + range) * 4096 + off

def bufKey (core unit off : Nat) : Nat := (core * 256 + unit) * 1024 + off

def accKey (core bank off : Nat) : Nat := (core * 16 + bank) * 32768 + off

def tagged (s : State) (c : Colour) (u : CapUnit) : Bool := s.tags.any (fun t => decide (t.col = c) && decide (t.unit = u))

def untag (s : State) (c : Colour) (u : CapUnit) : State :=
  { s with tags := s.tags.filter (fun t => !(decide (t.col = c) && decide (t.unit = u))) }

/-- The gang that owns a slice: of a Claimed one the victim (06_registers R115). -/
def sliceOwner : SliceSt → Nat
  | .held g => g
  | .claimed v _ => v

/-- The gang that owns a register bank slice, with the bank and lane group under which its slice map names it. -/
def sliceHolder (s : State) (core part idx : Nat) : Option (Gang × Nat × Nat) :=
  match s.slices.find? (fun r => r.core == core && r.part == part && r.idx == idx) with
  | some r => firstSome (fun g : Gang => if g.gid = sliceOwner r.st then
      firstSome (fun b => match (g.smap.getD b []).findIdx? (· == idx) with
        | some k => some (g, b, k)
        | none => none) (List.range 16)
      else none) s.gangs
  | none => none

/-- The block whose bank map names a scratchpad bank, with the entry's index. -/
def bankHolder (s : State) (core idx : Nat) : Option (Block × Nat) :=
  firstSome (fun b : Block => if b.core = core then
    (match b.banks.findIdx? (· == some idx) with
     | some k => some (b, k)
     | none => none) else none) s.blocks

def sliceKey (core part idx : Nat) : Nat := ((core * 16 + part) * 128 + idx) * 128

/-- LOC of a bank: its offset in the scratchpad of the block whose map names it (R317). -/
def bankLoc (s : State) (core bank : Nat) : Nat :=
  match bankHolder s core bank with
  | some (_, k) => 4096 * k
  | none => 0

/-- LOC of a die range: its offset in the window of the context that owns it (R317). -/
def rangeLoc (s : State) (die range : Nat) : Nat :=
  match s.ranges.find? (fun e => e.1 == die && e.2.1 == range) with
  | some e => match ctxRow s e.2.2 with
    | some r => match r.windows.find? (fun w => w.1 == die) with
      | some w => 4096 * (w.2.findIdx? (· == range)).getD 0
      | none => 0
    | none => 0
  | none => 0

/-- Lines of a save-area entry of a kind (R306): a slice's words, a bank's, a unit's and an accumulator bank's bytes; a record and the temporal array are
one line each (log entry 78, DESIGN CHOICE). -/
def saveLines : SaveKey → Nat
  | .slice _ _ _ => 4
  | .bank _ _ => 32
  | .obuf _ _ _ => 8
  | .rcd _ _ => 1
  | .acc _ _ => 256
  | .array _ => 1

/-- Line `i` of an entry. -/
def savePart (x : Saved) (i : Nat) : Saved :=
  let inW := fun k : Nat => k / 32 == i
  { x with words := x.words.filter (fun e => inW e.1), bytes := x.bytes.filter (fun e => e.1 / 128 == i), psn := x.psn.filter inW,
           marks := x.marks.filter (fun e => inW e.1), array := if i = 0 then x.array else none, rcd := if i = 0 then x.rcd else none,
           hnd := if i = 0 then x.hnd else none }

/-- The units of capture of a save-area entry. -/
def saveUnits (key : SaveKey) : List CapUnit := (List.range (saveLines key)).map (.save key)

/-- The context, die and record of a unit other than a memory line, as it stands (R317). -/
def unitRec (s : State) (u : CapUnit) : Option (Nat × Nat × SnapRec) :=
  match u with
  | .bank core idx =>
    match bankHolder s core idx with
    | some (b, k) =>
      let base := scrKey core idx 0
      some (b.ctx, core / 40, .bank b.ctx b.id k (nonzeroWords (fun i => wordAt (fun j => Memory.byte s.scr (base + j)) i) 1024)
        ((List.range 1024).filter (fun i => s.scrPsn.contains (base / 4 + i))))
    | none => none
  | .range die idx =>
    match s.ranges.find? (fun e => e.1 == die && e.2.1 == idx) with
    | some e =>
      let base := dscKey die idx 0
      some (e.2.2, die, .range e.2.2 die idx (rangeLoc s die idx) (nonzeroWords (fun i => wordAt (fun j => Memory.byte s.dsc (base + j)) i) 1024)
        ((List.range 1024).filter (fun i => s.dscPsn.contains (base / 4 + i))))
    | none => none
  | .slice core part idx =>
    match sliceHolder s core part idx with
    | some (g, b, k) =>
      let base := sliceKey core part idx
      some (g.ctx, core / 40, .slice g.ctx g.gid b k (nonzeroWords (fun i => Sparse.get 0#32 s.vrf (base + i)) 128)
        ((s.vmark.filter (fun e => decide (base ≤ e.1) && decide (e.1 < base + 128))).map (fun e => (e.1 - base, e.2))))
    | none => none
  | .save key i =>
    match s.saved.find? (fun x => decide (x.key = key)) with
    | some v => some (v.ctx, 0, .save v.ctx i (savePart v i))
    | none => none
  | _ => none

/-- Before a write reaches a tagged bank, range or slice (R308): old value sent, tag off. -/
def captureUnitFor (w : Wr) (c : Colour) (u : CapUnit) (s : State) : State :=
  if wrPre w c || !tagged s c u then s else
  match unitRec s u with
  | some (ctx, die, r) => untag (sendCapture s die ctx c r) c u
  | none => untag s c u

def captureUnit (w : Wr) (u : CapUnit) (s : State) : State := captureUnitFor w .c1 u (captureUnitFor w .c0 u s)

/-- Both colours' copies of a unit sent, whoever writes (owner change, claims, a unit falling Free; R312). -/
def captureAll (u : CapUnit) (s : State) : State := captureUnit (wrPost 0) u s

def unitRoom (w : Wr) (u : CapUnit) (die : Nat) (s : State) : Bool :=
  [Colour.c0, Colour.c1].all (fun c => wrPre w c || !tagged s c u || capRoom s die c)

/-- 4-byte granules that `n` bytes from `k` cover whole, and those they touch. -/
def coveredGranules (k n : Nat) : List Nat := (List.range (n / 4 + 1)).filterMap (fun i =>
  let g := (k + 3) / 4 + i; if 4 * g + 4 ≤ k + n then some g else none)

def touchedGranules (k n : Nat) : List Nat := if n = 0 then [] else (List.range ((k + n - 1) / 4 - k / 4 + 1)).map (· + k / 4)

/-- Patch words of a bank or range after a late pre-cut write of `n` bytes at offset `off`. -/
def patchWords (mem : Memory) (base off n : Nat) : List (Nat × Word) :=
  (touchedGranules off n).map (fun i => (i, wordAt (fun j => Memory.byte mem (base + j)) i))

/-- Bytes written in one scratchpad bank, with capture, poison of granules written whole cleared, patches (R308, R310, R188). -/
def writeBank (w : Wr) (core bank off : Nat) (bytes : List Byte) (s : State) : State :=
  let u : CapUnit := .bank core bank
  let t0 := tagged s .c0 u
  let t1 := tagged s .c1 u
  let s := captureUnit w u s
  let k := scrKey core bank off
  let s := { s with scr := Sparse.write 0#8 s.scr k bytes, scrPsn := s.scrPsn.filter (fun g => !(coveredGranules k bytes.length).contains g) }
  let ws := patchWords s.scr (scrKey core bank 0) off bytes.length
  let bs := bytes.mapIdx (fun i b => (off + i, b))
  let loc := bankLoc s core bank
  patchFor w .c1 t1 u loc ws bs (patchFor w .c0 t0 u loc ws bs s)

def writeRange (w : Wr) (die range off : Nat) (bytes : List Byte) (s : State) : State :=
  let u : CapUnit := .range die range
  let t0 := tagged s .c0 u
  let t1 := tagged s .c1 u
  let s := captureUnit w u s
  let k := dscKey die range off
  let s := { s with dsc := Sparse.write 0#8 s.dsc k bytes, dscPsn := s.dscPsn.filter (fun g => !(coveredGranules k bytes.length).contains g) }
  let ws := patchWords s.dsc (dscKey die range 0) off bytes.length
  let bs := bytes.mapIdx (fun i b => (off + i, b))
  let loc := rangeLoc s die range
  patchFor w .c1 t1 u loc ws bs (patchFor w .c0 t0 u loc ws bs s)

/-! ## A block's scratchpad and a context's die window (R179, R180) -/

def blockOf (s : State) (id : Nat) : Option Block := s.blocks.find? (fun b => b.id == id)

/-- Byte count of a block's scratchpad, rounded up to whole banks (R29, R31). -/
def blockBytes (b : Block) : Nat := 4096 * b.banks.length

/-- The byte at offset `off` of a block's scratchpad. -/
def scrByte (s : State) (b : Block) (off : Nat) : Byte :=
  match b.banks.getD (off / 4096) none with
  | some bank => Memory.byte s.scr (scrKey b.core bank (off % 4096))
  | none => 0#8

def scrPoisoned (s : State) (b : Block) (off : Nat) : Bool :=
  match b.banks.getD (off / 4096) none with
  | some bank => s.scrPsn.contains (scrKey b.core bank (off % 4096) / 4)
  | none => false

/-- Bytes written at offset `off` of a block's scratchpad, bank by bank (an access crosses at most one bank boundary; a longer run
takes more steps). -/
def writeScr (w : Wr) (b : Block) (off : Nat) (bytes : List Byte) (s : State) : State :=
  if bytes.length = 0 then s else
  (List.range ((off + bytes.length - 1) / 4096 - off / 4096 + 1)).foldl (fun s k =>
    let bi := off / 4096 + k
    let lo := max off (4096 * bi)
    let hi := min (off + bytes.length) (4096 * (bi + 1))
    match b.banks.getD bi none with
    | some bank => writeBank w b.core bank (lo % 4096) (slice bytes (lo - off) (hi - lo)) s
    | none => s) s

/-- The die window of a context: its ranges in window order. -/
def windowOf (s : State) (ctx die : Nat) : List Nat :=
  match ctxRow s ctx with
  | some r => match r.windows.find? (fun e => e.1 == die) with
    | some e => e.2
    | none => []
  | none => []

def dieByte (s : State) (ctx die off : Nat) : Byte :=
  match (windowOf s ctx die)[off / 4096]? with
  | some r => Memory.byte s.dsc (dscKey die r (off % 4096))
  | none => 0#8

def diePoisoned (s : State) (ctx die off : Nat) : Bool :=
  match (windowOf s ctx die)[off / 4096]? with
  | some r => s.dscPsn.contains (dscKey die r (off % 4096) / 4)
  | none => false

def writeDie (w : Wr) (ctx die off : Nat) (bytes : List Byte) (s : State) : State :=
  if bytes.length = 0 then s else
  (List.range ((off + bytes.length - 1) / 4096 - off / 4096 + 1)).foldl (fun s k =>
    let bi := off / 4096 + k
    let lo := max off (4096 * bi)
    let hi := min (off + bytes.length) (4096 * (bi + 1))
    match (windowOf s ctx die)[bi]? with
    | some r => writeRange w die r (lo % 4096) (slice bytes (lo - off) (hi - lo)) s
    | none => s) s

end Sys2Proof.Machine
end

