-- ==== Sys2Proof/Machine/Xlate.lean ====
section
/-! DEFINITION. Page tables, walks and translation (09_memories R171 to R176), and instruction fetch's page (R183). -/

namespace Sys2Proof.Machine

/-- Fault codes (15_tables_counters R298). -/
def fcIllegal : Nat := 0x01
def fcPoolEntry : Nat := 0x02
def fcChain : Nat := 0x03
def fcSource : Nat := 0x04
def fcIndex : Nat := 0x05
def fcBank : Nat := 0x06
def fcUnwaited : Nat := 0x07
def fcCsr : Nat := 0x08
def fcXlate : Nat := 0x10
def fcProtect : Nat := 0x11
def fcAlign : Nat := 0x12
def fcSpace : Nat := 0x13
def fcOpbuf : Nat := 0x20
def fcAccum : Nat := 0x21
def fcWeight : Nat := 0x22
def fcParked : Nat := 0x23
def fcTemporal : Nat := 0x28
def fcBarrier : Nat := 0x30
def fcRing : Nat := 0x31
def fcSnapRight : Nat := 0x38
def fcPoison : Nat := 0x60
def fcKill : Nat := 0x70

/-- The class of a fault code, which names its trap vector entry (R290, R298). -/
def faultClass (code : Nat) : Nat :=
  if code < 0x10 then 0 else if code < 0x20 then 1 else if code < 0x28 then 2 else if code < 0x30 then 3
  else if code < 0x38 then 4 else if code < 0x60 then 5 else if code < 0x70 then 6 else if code < 0x80 then 7
  else 16 + (code - 0x80)

/-! ## Entries (R173) -/

/-- The 16 bytes of a page-table entry, as the directory holds them. -/
def pteRead (s : State) (a : Nat) : BitVec 128 := BitVec.ofNat 128 (leNat (dirBytes s a 16))

def pteV (p : BitVec 128) : Bool := p.getLsbD 0
def pteRD (p : BitVec 128) : Bool := p.getLsbD 2
def pteWR (p : BitVec 128) : Bool := p.getLsbD 3
def pteEX (p : BitVec 128) : Bool := p.getLsbD 4
def pteLeaf (p : BitVec 128) : Bool := p.getLsbD 6
def pteSize (p : BitVec 128) : Nat := (p.extractLsb' 7 2).toNat
def pteFrame (p : BitVec 128) : Nat := (p.extractLsb' 12 44).toNat * 4096
def pteKind (p : BitVec 128) : Nat := (p.extractLsb' 110 2).toNat
def pteOwner (p : BitVec 128) : Nat := (p.extractLsb' 112 16).toNat

/-- Bytes of a page of SIZE code (R173). -/
def pageBytes (size : Nat) : Nat :=
  match size with
  | 0 => 0x1000
  | 1 => 0x10000
  | 2 => 0x200000
  | _ => 0x40000000

/-- Bytes one leaf entry translates: each entry of a 64 KiB page translates its own 4 KiB part (R172). -/
def leafBytes (size : Nat) : Nat := if size = 1 then 0x1000 else pageBytes size

/-- A local frame of `n` bytes is memory that a context may map (R171). -/
def frameOk (s : State) (local_ n : Nat) : Bool :=
  decide (local_ + n ≤ Config.fwBase) ||
    (decide (Config.cxlBase ≤ local_) && decide (local_ + n ≤ Config.cxlBase + s.boot.cxlBytes))

/-- A frame of another package: its HBM that contexts may map (R171); its CXL window is cached by that package alone, so no entry here maps it
(R187; log entry 73, DEDUCED). -/
def peerFrameOk (local_ n : Nat) : Bool := decide (local_ + n ≤ Config.fwBase)

def podEntry (s : State) (lid : Nat) : Option PodEntry := s.pod.find? (fun e => e.lid == lid)

/-- A package that is lost: failed in the pod map, or its links down past the detection interval (10_consistency R208). -/
def lostPkg (s : State) (lid : Nat) : Bool :=
  s.fab.down.contains lid || (match podEntry s lid with
    | some e => decide (e.st = .failed)
    | none => false)

/-- The pod map names the package, neither absent nor failed (R291). -/
def podReachable (s : State) (lid : Nat) : Bool :=
  match podEntry s lid with
  | some e => decide (e.st = .live) || decide (e.st = .retiring)
  | none => false

def groupDesc (s : State) (i : Nat) : Option GroupSpec :=
  match s.groups.find? (fun e => e.1 == i) with
  | some e => some e.2
  | none => none

/-- A leaf entry met at `level` passes the tests of a walk (R174, R175, R345). -/
def leafOk (s : State) (p : BitVec 128) (level : Nat) : Bool :=
  let sz := pteSize p
  let sizeOk := match level with
    | 3 => decide (sz = 3)
    | 2 => decide (sz = 2)
    | 1 => decide (sz ≤ 1)
    | _ => false
  let fr := pteFrame p
  let n := pageBytes sz
  sizeOk && match pteKind p with
    | 0 => decide (fr % 2 ^ 45 % n = 0) && frameOk s (fr % 2 ^ 45) n
    | 1 => decide (fr % 2 ^ 32 % n = 0) && (groupDesc s (fr / 2 ^ 32 % 4096)).isSome
    | 2 => decide (fr % 2 ^ 45 % n = 0) &&
        (if fr / 2 ^ 45 = s.fab.lid then frameOk s (fr % 2 ^ 45) n else podReachable s (fr / 2 ^ 45) && peerFrameOk (fr % 2 ^ 45) n)
    | _ => false

/-- A leaf maps local memory. -/
def leafLocal (s : State) (p : BitVec 128) : Bool :=
  decide (pteKind p = 0) || (decide (pteKind p = 2) && decide (pteFrame p / 2 ^ 45 = s.fab.lid))

/-- Local address of the first byte that a leaf at a virtual address translates. -/
def leafFrame (va : Nat) (p : BitVec 128) : Nat := pteFrame p % 2 ^ 45 + va % pageBytes (pteSize p)

/-! ## Frames and their owners (R189) -/

/-- A range of local memory that another context, or one that has ended, still owns: it is zeroed before this one's first access (log entry 84,
DEDUCED). -/
def framePending (s : State) (ctx base n : Nat) : Bool :=
  s.owners.any (fun e => e.2.2 != ctx && decide (e.1 < base + n) && decide (base < e.1 + e.2.1))

/-- What is left of an owned range without the bytes from `base` to `base + n - 1`. -/
def cutOwner (base n : Nat) (e : Nat × Nat × Nat) : List (Nat × Nat × Nat) :=
  if e.1 + e.2.1 ≤ base ∨ base + n ≤ e.1 then [e]
  else (if e.1 < base then [(e.1, base - e.1, e.2.2)] else []) ++
    (if base + n < e.1 + e.2.1 then [(base + n, e.1 + e.2.1 - (base + n), e.2.2)] else [])

/-- A context owns a range from now on. -/
def setOwner (s : State) (ctx base n : Nat) : State := { s with owners := (base, n, ctx) :: s.owners.flatMap (cutOwner base n) }

/-- A context's first access to a range that nobody owns. -/
def firstOwner (s : State) (ctx base n : Nat) : State :=
  if framePending s ctx base n || s.owners.any (fun e => decide (e.1 ≤ base) && decide (base + n ≤ e.1 + e.2.1)) then s else setOwner s ctx base n

/-- The frame that a leaf at a virtual address gives a context that owns the page: first byte and bytes. -/
def ownedFrame (s : State) (ctx va : Nat) (p : BitVec 128) : Option (Nat × Nat) :=
  let n := leafBytes (pteSize p)
  if leafLocal s p && pteOwner p == ctx then some (leafFrame (va / n * n) p, n) else none

/-- Table index of a level (R172). -/
def walkIndex (va level : Nat) : Nat :=
  match level with
  | 4 => bitsN va 39 17
  | 3 => bitsN va 30 9
  | 2 => bitsN va 21 9
  | _ => bitsN va 12 9

/-- The walk from a table at `level`: the leaf's address, bits and level, or none where it raises XLATE (R172, R174). -/
def walkFrom (s : State) (va : Nat) : Nat → Nat → Option (Nat × BitVec 128 × Nat)
  | 0, _ => none
  | level + 1, base =>
    let a := base + 16 * walkIndex va (level + 1)
    let p := pteRead s a
    if !pteV p then none
    else if pteLeaf p then (if leafOk s p (level + 1) then some (a, p, level + 1) else none)
    else walkFrom s va level (pteFrame p % 2 ^ 45)

def walk (s : State) (ctx va : Nat) : Option (Nat × BitVec 128 × Nat) :=
  match ctxRow s ctx with
  | some r => walkFrom s va 4 r.root
  | none => none

/-- What an access asks of a page (R175). -/
inductive Acc where
  | rd
  | wr
  | atomic
  | ex
  /-- Any of them: the page alone. -/
  | any
deriving DecidableEq, Repr

def accOk (p : BitVec 128) : Acc → Bool
  | .rd => pteRD p
  | .wr => pteWR p
  | .atomic => pteRD p && pteWR p
  | .ex => pteEX p
  | .any => true

/-- What a translation gives. -/
inductive Xl where
  | place (p : Place)
  /-- No buffer holds the page: a walk is needed (11_isa_memory R216). -/
  | hold (page : Nat)
  | fault (code : Nat)
deriving DecidableEq, Repr

/-- Where an address goes under a leaf entry (R171, R175, 18_fabric_collectives R345). -/
def leafPlace (s : State) (ctx va : Nat) (p : BitVec 128) (acc : Acc) : Xl :=
  let off := va % pageBytes (pteSize p)
  let fr := pteFrame p
  if !(match pteKind p with
      | 2 => decide (fr / 2 ^ 45 = s.fab.lid) || podReachable s (fr / 2 ^ 45)
      | 1 => (groupDesc s (fr / 2 ^ 32 % 4096)).isSome
      | _ => true) then .fault fcXlate
  else if pteOwner p ≠ ctx || !accOk p acc then .fault fcProtect
  else match pteKind p with
    | 0 => .place (.mem (fr % 2 ^ 45 + off) va)
    | 1 => .place (.mcast (fr / 2 ^ 32 % 4096) (fr % 2 ^ 32 + off) va)
    | _ => if fr / 2 ^ 45 = s.fab.lid then .place (.mem (fr % 2 ^ 45 + off) va) else .place (.peer (fr + off) va)

/-- The second-level buffer of a core's die (R176). -/
def dieBuf (core : Nat) : Nat := 160 + core / 40

def tlbRow (s : State) (buf ctx page : Nat) : Option TlbRow := s.tlb.find? (fun r => r.buf == buf && r.ctx == ctx && r.page == page)

/-- What the buffers that serve a core hold of a page: its own first, then its die's. -/
def coreRow (s : State) (core ctx page : Nat) : Option TlbRow :=
  match tlbRow s core ctx page with
  | some r => some r
  | none => tlbRow s (dieBuf core) ctx page

/-- Where a buffer's row sends an address. -/
def rowPlace (s : State) (ctx va : Nat) (r : TlbRow) (acc : Acc) : Xl :=
  match r.leaf with
  | none => .fault fcXlate
  | some (p, _) => leafPlace s ctx va p acc

/-- Translation of one address of a context that runs on a core, through the buffers (R176, R216). -/
def translate (s : State) (core ctx va : Nat) (acc : Acc) : Xl :=
  match coreRow s core ctx (va / 4096) with
  | none => .hold (va / 4096)
  | some r => rowPlace s ctx va r acc

/-- Translation by a walk at once: the front end's and the device's own reads. -/
def translateNow (s : State) (ctx va : Nat) (acc : Acc) : Xl :=
  match walk s ctx va with
  | none => .fault fcXlate
  | some (_, p, _) => leafPlace s ctx va p acc

/-- Translation of a fetch: the buffers, then a walk at once (log entry 16, DEDUCED). -/
def translateFetch (s : State) (core ctx va : Nat) (acc : Acc) : Xl :=
  match coreRow s core ctx (va / 4096) with
  | some r => rowPlace s ctx va r acc
  | none => translateNow s ctx va acc

/-! ## What the device reads and writes itself in a context's space (10_consistency R192, R202: system-scope accesses) -/

/-- A range by 4 KiB pages: first address and bytes of each part. -/
def pageParts (va n : Nat) : List (Nat × Nat) :=
  (List.range ((va + n - 1) / 4096 - va / 4096 + 1)).map (fun k =>
    let a := if k = 0 then va else (va / 4096 + k) * 4096
    (a, min (va + n) ((a / 4096 + 1) * 4096) - a))

/-- A line is there for a system-scope access of the device: no other package's copy stands in the way of a local one; L2 holds a peer one,
with its ownership for a write. -/
def lineReady (s : State) (write : Bool) (e : Bool × Nat) : Bool :=
  if e.1 then (match l2Line s true e.2 with
    | some r => r.filled && (!write || r.owned)
    | none => false)
  else homeFree s e.2 write

/-- The lines of ranges of a context (peer or local, and number) that must come first, those of frames still to be zeroed among them (R189); a page
that does not translate has none. -/
def ctxGaps (s : State) (ctx : Nat) (write : Bool) (rs : List (Nat × Nat)) : List (Bool × Nat) :=
  (rs.flatMap (fun r => if r.2 = 0 then [] else (pageParts r.1 r.2).flatMap (fun e =>
    let lines := fun (peer : Bool) (pa : Nat) => (List.range ((pa + e.2 - 1) / 128 - pa / 128 + 1)).map (fun k => (peer, pa / 128 + k))
    match translateNow s ctx e.1 .any with
    | .place (.mem pa _) => lines false pa
    | .place (.peer ga _) => lines true ga
    | _ => []))).filter (fun e => !lineReady s write e || (!e.1 && framePending s ctx (128 * e.2) 128))

/-- The first stage of reads that must wait for lines: a later stage's addresses are read in the earlier ones. -/
def firstGaps : List (List (Bool × Nat)) → List (Bool × Nat)
  | [] => []
  | [] :: gs => firstGaps gs
  | g :: _ => g

/-- The lines asked for: a local one recalled, a peer one filled, then owned; whatever waits for them is tried again (log entry 74, DEDUCED). -/
def awaitLines (s : State) (ls : List (Bool × Nat)) : State :=
  ls.foldl (fun s e =>
    if e.1 then askLine s e.2 0 else homeAsk s e.2) s

/-- What needs lines asks for them, and happens once they have come. -/
def withLines (gs : List (Bool × Nat)) (f : State → State) (s : State) : State := if gs = [] then f s else awaitLines s gs

/-- A stage of reads of a context. -/
def readGaps (s : State) (ctx : Nat) (rs : List (Nat × Nat)) : List (Bool × Nat) := ctxGaps s ctx false rs

/-- Room for the captures that a write of ranges would need (13_queues R271). -/
def ctxRoom (s : State) (ctx : Nat) (rs : List (Nat × Nat)) : Bool :=
  rs.all (fun r => r.2 == 0 || (pageParts r.1 r.2).all (fun e => match translateNow s ctx e.1 .wr with
    | .place (.mem pa _) => (List.range ((pa + e.2 - 1) / 128 - pa / 128 + 1)).all (fun k => lineRoom (wrPost ctx) (pa / 128 + k) s)
    | _ => true))

/-- Bytes of a peer line as L2 holds them. -/
def peerBytes (s : State) (ga n : Nat) : List Byte :=
  (List.range n).map (fun i => match l2Line s true ((ga + i) / 128) with
    | some r => r.data.getD ((ga + i) % 128) 0
    | none => 0#8)

/-- Bytes of a context's space as the device reads them itself, its lines being there: none where a page does not translate with the
permission, or is an aperture's. -/
def ctxBytes (s : State) (ctx va n : Nat) (acc : Acc) : Option (List Byte) :=
  if 2 ^ 56 < va + n then none else
  let pages := (pageParts va n).map (fun e => match translateNow s ctx e.1 acc with
    | .place (.mem pa _) => some (dirBytes s pa e.2)
    | .place (.peer ga _) => some (peerBytes s ga e.2)
    | _ => none)
  if pages.all (·.isSome) then some (pages.filterMap id).flatten else none

/-- A number of `n` bytes of a context's space. -/
def ctxNat (s : State) (ctx va n : Nat) (acc : Acc) : Option Nat := (ctxBytes s ctx va n acc).map leNat

/-- Bytes that the device writes in a context's space at system scope, its lines being there; none beyond the space or where a page does not
translate with WR. -/
def ctxWrite (s : State) (ctx va : Nat) (bytes : List Byte) : Option State :=
  let n := bytes.length
  if 2 ^ 56 < va + n then none else
  (pageParts va n).foldl (fun acc e =>
    match acc with
    | none => none
    | some s => match translateNow s ctx e.1 .wr with
      | .place (.mem pa _) => some (writePhys (wrPost ctx) pa e.1 (slice bytes (e.1 - va) e.2) (firstOwner s ctx pa e.2))
      | .place (.peer ga _) => some (writePeerBytes (wrPost ctx) ga e.1 (slice bytes (e.1 - va) e.2) s)
      | _ => none) (some s)

/-! ## Packets of code (R72, R73, R183) -/

/-- A wait for another package's line stands among the pages of a hold under this number. -/
def linePage (line : Nat) : Nat := 2 ^ 44 + line

/-- The same for a line of this package's own memory that another package holds. -/
def homePage (s : State) (line : Nat) : Nat := linePage (gaOf s line / 128)

/-- The number under which a hold lists a line. -/
def gapPage (s : State) (e : Bool × Nat) : Nat := if e.1 then linePage e.2 else homePage s e.2

/-- The 16 bytes of the packet at `va` and its words' poison, or the fault code of the page; a number from `linePage` on is a line
that must come first (log entry 16, DEDUCED). -/
def fetchPacket (s : State) (core ctx va : Nat) : Except Nat (List Byte × Bool × Bool × Bool × Bool) :=
  match translateFetch s core ctx va .ex with
  | .place (.mem pa _) =>
    let psn := fun i : Nat => memPoisoned s (pa + 4 * i)
    if homeFree s (pa / 128) false && ((coreRow s core ctx (va / 4096)).isSome || !framePending s ctx pa 16) then .ok (dirBytes s pa 16, psn 0, psn 1, psn 2, psn 3) else .error (homePage s (pa / 128))
  | .place (.peer ga _) =>
    match l2Line s true (ga / 128) with
    | some r => if r.filled then
        let p := r.psn.getLsbD (ga % 128 / 32)
        .ok (slice r.data (ga % 128) 16, p, p, p, p)
      else .error (linePage (ga / 128))
    | none => .error (linePage (ga / 128))
  | .place _ => .error fcProtect
  | .hold _ => .error fcXlate
  | .fault c => .error c

/-- A 32-bit word of bytes at offset `o`. -/
def wordOf (bs : List Byte) (o : Nat) : Word := wordAt (fun i => bs.getD (o + i) 0) 0

/-- A byte that the core's L1 holds Dirty where an address goes. -/
def dirtyByte (s : State) (core ctx va : Nat) : Option Byte :=
  let own := fun (peer : Bool) (a : Nat) => match l1Line s core peer (a / 128) with
    | some r => if r.dirty.getLsbD (a % 128) then some (r.data.getD (a % 128) 0) else none
    | none => none
  match translateFetch s core ctx va .ex with
  | .place (.mem pa _) => own false pa
  | .place (.peer ga _) => own true ga
  | _ => none

/-- KIND of the packet that holds `va` (R72) as the core's reads find it, or the line that must arrive first. -/
def packetKind (s : State) (core ctx va : Nat) : Except Nat Nat :=
  let pkt := va / 16 * 16
  match fetchPacket s core ctx pkt with
  | .ok (bs, _) => .ok (((dirtyByte s core ctx (pkt + 15)).getD (bs.getD 15 0)).toNat / 64)
  | .error p => if p < 2 ^ 44 then .ok 3 else .error p

end Sys2Proof.Machine
end

