-- ==== Sys2Proof/Machine/Ops.lean ====
section
/-! DEFINITION. The named operations over a gang, its registers and its pending results, and taking an exception and returning from
one (02_execution, 06_registers, 08_isa_control R163 to R168). -/

namespace Sys2Proof.Machine

/-! ## Gangs, launches, blocks by name -/

def gangOf (s : State) (gid : Nat) : Option Gang := s.gangs.find? (fun g => g.gid == gid)

/-- The gang of that name replaced. -/
def setGang (s : State) (g : Gang) : State := { s with gangs := s.gangs.map (fun x => if x.gid = g.gid then g else x) }

def modGang (s : State) (gid : Nat) (f : Gang → Gang) : State :=
  { s with gangs := s.gangs.map (fun x => if x.gid = gid then f x else x) }

def launchOf (s : State) (id : Nat) : Option Launch := s.launches.find? (fun l => l.id == id)

def modLaunch (s : State) (id : Nat) (f : Launch → Launch) : State :=
  { s with launches := s.launches.map (fun x => if x.id = id then f x else x) }

def modBlock (s : State) (id : Nat) (f : Block → Block) : State :=
  { s with blocks := s.blocks.map (fun x => if x.id = id then f x else x) }

def opOf (s : State) (id : Nat) : Option Op := s.ops.find? (fun o => o.id == id)

def setOp (s : State) (o : Op) : State := { s with ops := s.ops.map (fun x => if x.id = o.id then o else x) }

/-- The gang of the bundle being issued, `none` between bundles. -/
def curGang (s : State) : Option Gang := if s.cur.busy then gangOf s s.cur.gid else none

/-- A lane of a gang; one that is absent counts as Exited (R38). -/
def noLane : Lane := { num := 0, pc := 0, st := .exited, yield := false, x := [], p := 0 }

def laneAt (g : Gang) (l : Nat) : Lane := g.lanes.getD l noLane

def modLane (g : Gang) (l : Nat) (f : Lane → Lane) : Gang := { g with lanes := g.lanes.modify l f }

/-- Lanes of a mask changed. -/
def modLanes (g : Gang) (m : LaneMask) (f : Lane → Lane) : Gang :=
  { g with lanes := g.lanes.mapIdx (fun i x => if m.getLsbD i then f x else x) }

/-- The lanes of a gang that meet a test. -/
def lanesWhere (g : Gang) (f : Lane → Bool) : LaneMask :=
  maskOf ((List.range g.width).filter (fun l => f (laneAt g l)))

/-! ## Registers -/

/-- Predicate `p` of a lane; 7 is always true (R84, R86). -/
def predOf (g : Gang) (l p : Nat) : Bool := p == 7 || (laneAt g l).p.getLsbD p

/-- Uniform register `n`. -/
def rdK (g : Gang) (n : Nat) : Word := Sparse.get 0#32 g.k n

/-- The 64-bit value of k(n):k(n+1) (R4). -/
def rdK64 (g : Gang) (n : Nat) : BitVec 64 := pair64 (rdK g n) (rdK g (n + 1))

def wrK (g : Gang) (n : Nat) (v : Word) : Gang := { g with k := Sparse.set 0#32 g.k n v }

/-- Place of v(n) of lane `l` in the register file (R28), none beyond the gang's banks. -/
def vKey (g : Gang) (l n : Nat) : Option Nat :=
  match (g.smap.getD (n / 16) [])[l / 8]? with
  | some idx => if idx < 128 then some (sliceKey g.core g.part idx + n % 16 * 8 + l % 8) else none
  | none => none

/-- The number that stands in a slice map for a slice that is spilled (R39) (log entry 39, DEDUCED). -/
def spilledSlice : Nat := 128

/-- The number that stands there for a slice that the gang has not claimed yet (R39; log entry 39). -/
def unclaimedSlice : Nat := 129

/-- A spilled slice's entry in the context save area written. -/
def writeSpilled (s0 : State) (g : Gang) (l n : Nat) (v : Word) (mark : Option (Option Addr)) : State :=
  let s := captureUnit (wrPost g.ctx) (.save (.slice g.gid (n / 16) (l / 8)) ((n % 16 * 8 + l % 8) / 32)) s0
  let w := n % 16 * 8 + l % 8
  let put := fun ms : List (Nat × Option Addr) =>
    let rest := ms.filter (fun e => e.1 != w)
    match mark with
    | some a => (w, a) :: rest
    | none => rest
  { s with saved := s.saved.map (fun x => if x.key = .slice g.gid (n / 16) (l / 8) then
      { x with words := Sparse.set 0#32 x.words w v, marks := put x.marks } else x) }

/-- v(n) of lane `l` as it stands. -/
def rdV (s : State) (g : Gang) (l n : Nat) : Word :=
  match vKey g l n with
  | some k => Sparse.get 0#32 s.vrf k
  | none => 0#32

/-- The poison mark of v(n) of lane `l` (11_isa_memory R217): its address, none for a mark without one. -/
def vMarkOf (s : State) (g : Gang) (l n : Nat) : Option (Option Addr) :=
  match vKey g l n with
  | some k => match s.vmark.find? (fun e => e.1 == k) with
    | some e => some e.2
    | none => none
  | none => none

/-- v(n) of lane `l` written, with a poison mark (its address, or none) or clearing one: the slice's tags are captured first (R115, R122). -/
def wrV (s : State) (g : Gang) (l n : Nat) (v : Word) (mark : Option (Option Addr)) : State :=
  match (g.smap.getD (n / 16) [])[l / 8]? with
  | some idx =>
    if idx = spilledSlice then writeSpilled s g l n v mark
    else if idx = unclaimedSlice then s else
    let s := captureUnit (wrPost g.ctx) (.slice g.core g.part idx) s
    let k := sliceKey g.core g.part idx + n % 16 * 8 + l % 8
    let rest := s.vmark.filter (fun e => e.1 != k)
    { s with vrf := Sparse.set 0#32 s.vrf k v, vmark := match mark with
      | some a => (k, a) :: rest
      | none => rest }
  | none => s

/-- ZWORDS counts a register word that takes the value zero: its flag is set and the array is not written (06_registers R114, 15_tables_counters R299). -/
def countZero (gid : Nat) (v : Word) (s : State) : State :=
  if v = 0 then modGang s gid (fun g => { g with perf := { g.perf with zwords := g.perf.zwords + 1 } }) else s

/-- A result written in v(n) of lane `l`, counted where it is zero. -/
def putV (s : State) (g : Gang) (l n : Nat) (v : Word) (mark : Option (Option Addr)) : State :=
  countZero g.gid v (wrV s g l n v mark)

/-- Writable bits of the CSRs that CSRW may write (R117, R118, R5). -/
def csrMask (n : Nat) : Word :=
  match n with
  | 0x000 => 0x3F#32
  | 0x001 => 0x7FFFF#32
  | 0x002 => 3#32
  | 0x017 => 0xFFFFFFFF#32
  | 0x040 => 0x07FF0003#32
  | _ => 0#32

/-- A gang CSR's word (R117); the derived ones are read by `csrValue`. -/
def csrGet (c : Csrs) (n : Nat) : Word :=
  match n with
  | 0x000 => c.gstat
  | 0x001 => c.xbar
  | 0x002 => c.rmode
  | 0x010 => c.fltcode
  | 0x011 => lo32 c.fltmask
  | 0x012 => hi32 c.fltmask
  | 0x013 => lo32 c.fltaddr
  | 0x014 => hi32 c.fltaddr
  | 0x015 => c.fltpc
  | 0x016 => c.fltorg
  | 0x017 => c.tretpc
  | 0x020 => c.twin
  | 0x040 => c.fenstat
  | _ => 0#32

def csrPut (c : Csrs) (n : Nat) (v : Word) : Csrs :=
  match n with
  | 0x000 => { c with gstat := v }
  | 0x001 => { c with xbar := v }
  | 0x002 => { c with rmode := v }
  | 0x017 => { c with tretpc := v }
  | 0x020 => { c with twin := v }
  | 0x040 => { c with fenstat := v }
  | _ => c

/-! ## Pending results (R41, R43) -/

/-- One pending result takes effect. -/
def applyPend (gid : Nat) (s : State) (p : Pend) : State :=
  match p.act with
  | .write (.v l n) v => match gangOf s gid with
    | some g => putV s g l n v none
    | none => s
  | .write (.x l n) v => modGang s gid (fun g => modLane g l (fun y => { y with x := setAt y.x n (v.setWidth 24) }))
  | .write (.xcur l n) v => modGang s gid (fun g => modLane g l (fun y =>
      { y with x := setAt y.x n ((y.x.getD n 0 &&& 0x00FFFF#24) ||| ((v.setWidth 24) <<< 16)) }))
  | .write (.p l n) v => modGang s gid (fun g => modLane g l (fun y =>
      { y with p := if v = 0 then y.p &&& ~~~(1#7 <<< n) else y.p ||| (1#7 <<< n) }))
  | .write (.k n) v => modGang s gid (fun g => wrK g n v)
  | .write (.csr n) v => modGang s gid (fun g => { g with csr := csrPut g.csr n v })
  | .flags f => modGang s gid (fun g => { g with csr := { g.csr with gstat := g.csr.gstat ||| f } })

/-- The results visible at `tick` or earlier take effect, in order of visibility tick, then of issue (R41, R119, R124). -/
def retire (s : State) (gid tick : Nat) : State :=
  match gangOf s gid with
  | some g =>
    let due := sortBy (·.vis) (g.pend.filter (fun p => p.vis ≤ tick))
    due.foldl (applyPend gid) (modGang s gid (fun g => { g with pend := g.pend.filter (fun p => !decide (p.vis ≤ tick)) }))
  | none => s

/-- A drain: every pending result settles (R43). -/
def drain (s : State) (gid : Nat) : State :=
  match gangOf s gid with
  | some g => (sortBy (·.vis) g.pend).foldl (applyPend gid) (modGang s gid (fun g => { g with pend := [] }))
  | none => s

/-- Fixed-latency results of latency `L` of the bundle being issued. -/
def pushPend (s : State) (g : Gang) (lat : Nat) (acts : List PendAct) : State :=
  modGang s g.gid (fun x => { x with pend := x.pend ++ acts.map (fun a => { vis := g.tick + lat, act := a }) })

/-- Sticky flags set now, at a variable-latency completion (R49). -/
def setFlagsNow (s : State) (gid : Nat) (f : Word) : State :=
  modGang s gid (fun g => { g with csr := { g.csr with gstat := g.csr.gstat ||| f } })

/-! ## PCs (R75, R120) -/

/-- The PC after slot `last` of the bundle at `pc` (R75). -/
def fallPc (pc : Addr) (last : Nat) : Addr :=
  let pkt := pc &&& ~~~0xF#64
  if last < 2 then pkt + BitVec.ofNat 64 (4 * (last + 1)) else pkt + 16#64

/-- A PC whose slot bits are valid (R75) and which lies in the gang's region (R120). -/
def pcOk (g : Gang) (pc : Addr) : Bool :=
  decide (pc.extractLsb' 0 2 = 0#2) && decide (pc.extractLsb' 2 2 ≠ 3#2) && decide (pc >>> 34 = g.entry >>> 34)

/-- The PC from bits [33:2] and the gang's region (R120). -/
def pcFrom (g : Gang) (w : Word) : Addr := ((g.entry >>> 34) <<< 34) ||| (w.setWidth 64 <<< 2)

def pcBits (pc : Addr) : Word := (pc >>> 2).setWidth 32

/-! ## The PC map of a fused gang (14_splicer R283, R286) -/

/-- What the map says of a packet: KINDS, consumer side, original packet, PAIR. -/
structure MapEntry where
  kinds : BitVec 6
  cons  : Bool
  opkt  : Addr
  pair  : Nat
deriving DecidableEq, Repr

/-- The address of the map entry of the packet at `pc`, none outside the fused image and for a gang that runs none. -/
def mapAddr (g : Gang) (pc : Addr) : Option Nat :=
  let a := pc.toNat / 16 * 16
  if !g.side.spl || decide (a < g.side.arena) || decide (g.side.arena + 16 * g.side.npkt ≤ a) then none
  else some (g.side.arena + 16 * g.side.npkt + (a - g.side.arena))

/-- Lines that must come before the map entry can be read. -/
def mapGaps (s : State) (g : Gang) (pc : Addr) : List (Bool × Nat) :=
  match mapAddr g pc with
  | some e => ctxGaps s g.ctx false [(e, 16)]
  | none => []

/-- The map entry of the packet at `pc`, none for a packet outside the fused image or a gang that runs none. -/
def mapEntry (s : State) (g : Gang) (pc : Addr) : Option MapEntry :=
  match mapAddr g pc with
  | some e => (ctxNat s g.ctx e 16 .any).map (fun n =>
    let w := BitVec.ofNat 128 n
    { kinds := w.extractLsb' 57 6, cons := w.getLsbD 56, opkt := (w.extractLsb' 4 52).setWidth 64 <<< 4, pair := (w.extractLsb' 0 4).toNat })
  | none => none

/-- FLTPC's PC and FLTORG of a fault at `pc` (R285, R286, R118). -/
def origin (s : State) (g : Gang) (pc : Addr) : Addr × Word :=
  if !g.side.spl then (pc, 0#32)
  else match mapEntry s g pc with
    | some e => (e.opkt + (pc &&& 0xF#64),
        0x80000000#32 ||| (if e.cons then 0x40000000#32 else 0#32) ||| BitVec.ofNat 32 (if e.cons then g.side.kidC else g.side.kidP))
    | none => (pc, 0x80000000#32 ||| BitVec.ofNat 32 g.side.kidP)

/-! ## Taking an exception (R164, R165) and returning (R168) -/

/-- The trap vector table entry of a class: none where its page cannot be read, 0 where there is none (R290). -/
def vectorEntry (s : State) (ctx cls : Nat) : Option Nat :=
  match ctxRow s ctx with
  | some r => if r.trapvec = 0 then some 0 else ctxNat s ctx (r.trapvec + 8 * cls) 8 .rd
  | none => some 0

/-- Lines that must come before the vector table's entry can be read (R290: a system-scope acquire). -/
def vectorGaps (s : State) (ctx cls : Nat) : List (Bool × Nat) :=
  match ctxRow s ctx with
  | some r => if r.trapvec = 0 then [] else ctxGaps s ctx false [(r.trapvec + 8 * cls, 8)]
  | none => []

/-- Lines that must come before a trap can be entered: the PC map's, the vector table's. -/
def trapGaps (s : State) (g : Gang) (code : Nat) (pc : Addr) : List (Bool × Nat) :=
  firstGaps [mapGaps s g pc, if g.handler then [] else vectorGaps s g.ctx (faultClass code)]

/-- A fatal fault takes the place of a launch's recorded one: none is recorded, or that of a block of a higher index in this same clock (R258). -/
def fatalFirst (clock bi : Nat) (old : Option Fatal) : Bool :=
  match old with
  | some f => decide (f.clock = clock) && decide (bi < f.block)
  | none => true

/-- The launch's first fatal fault is recorded, and every gang of it stops between bundles (R165, 13_queues R258). -/
def stopLaunch (s : State) (g : Gang) (status code : Nat) (pc : Addr) : State :=
  let bi := match blockOf s g.blk with
    | some b => b.index
    | none => 0
  let f : Fatal := { status := status, code := code, block := bi, pc := pc.toNat, clock := s.clock }
  let s1 := modLaunch s g.launch (fun l => { l with stopped := true, fatal := if fatalFirst s.clock bi l.fatal then some f else l.fatal })
  { s1 with gangs := s1.gangs.map (fun x => if x.launch = g.launch then { x with dead := true, blocked := none } else x) }

/-- Parking at trap entry: the gang's reservations and its block's banks lose the mark of the handler that claimed them (12_isa_tiles
R250, 15_tables_counters R288). -/
def park (s : State) (g : Gang) : State :=
  { s with recs := s.recs.map (fun r => if r.gid = g.gid then { r with hnd := false } else r),
           accs := s.accs.map (fun a => if a.hnd = some g.gid then { a with hnd := none } else a),
           arrays := s.arrays.map (fun a => if a.holder = some g.gid then { a with hnd := false } else a) }

/-- `trap_entry` (R164) with its other outcomes (R165). `flpc` is the PC that FLTPC reports before the PC map, `ret` the one TRETPC
takes, `lanes` the trap lanes. -/
def trapEntry (s0 : State) (gid code : Nat) (bad : LaneMask) (addr : BitVec 64) (flpc ret : Addr) (lanes : LaneMask) : State :=
  let s := drain s0 gid
  match gangOf s gid with
  | none => s
  | some g =>
    let org := origin s g flpc
    if g.handler then stopLaunch s g 2 code org.1
    else match vectorEntry s g.ctx (faultClass code) with
      | none => stopLaunch s g 2 code org.1
      | some h =>
        if h = 0 then stopLaunch s g 1 code org.1
        else if !pcOk g (BitVec.ofNat 64 h) || decide (2 ^ 64 ≤ h) then stopLaunch s g 2 code org.1
        else
          let c := { g.csr with fltcode := BitVec.ofNat 32 code, fltmask := bad, fltaddr := addr, fltpc := pcBits org.1,
                                fltorg := org.2, tretpc := pcBits ret }
          let g1 := modLanes { g with csr := c, trapLanes := lanes, handler := true, blocked := none } lanes
            (fun x => { x with pc := BitVec.ofNat 64 h })
          park (setGang s g1) g

/-- A gang ends at once: every lane Exited, its masks and serial sections empty (R165, R166). -/
def exitAll (g : Gang) : Gang :=
  { g with lanes := g.lanes.map (fun x => { x with st := .exited }), m := g.m.map (fun _ => 0), serial := [], blocked := none, handler := false }

/-- TRET in handler mode 1 at a valid PC (R168); a gang that KILL entered ends (R165). Trap lanes made Eligible are Held in no group any more;
a group formed in the handler and not closed keeps its proceeding lane (R154; log entry 65, DESIGN CHOICE). -/
def trapReturn (g : Gang) : Gang :=
  if g.killed then exitAll g
  else
    let pc := pcFrom g g.csr.tretpc
    let serial := g.serial.map (fun x => { x with held := x.held.filter (fun l => !g.trapLanes.getLsbD l) })
    modLanes { g with handler := false, serial := serial } g.trapLanes (fun x => if x.st = .exited then x else { x with pc := pc, st := .eligible })

/-! ## Selecting lanes (R33) -/

/-- The lanes that may be candidates: in handler mode the trap lanes only (R163). -/
def poolOf (g : Gang) : LaneMask := if g.handler then g.trapLanes &&& maskBelow g.width else maskBelow g.width

def candOf (g : Gang) : LaneMask := lanesWhere g (fun x => decide (x.st = .eligible)) &&& poolOf g

/-- The least PC among lanes of a mask. -/
def leastPc (g : Gang) : List Nat → Option Addr
  | [] => none
  | l :: ls => match leastPc g ls with
    | none => some (laneAt g l).pc
    | some p => if (laneAt g l).pc.toNat ≤ p.toNat then some (laneAt g l).pc else some p

/-- `select_lanes` (R33): the gang with its yield bits as the rule leaves them, the PC, and the issuing lanes; none where no lane of
the pool is Eligible. -/
def selectLanes (g : Gang) : Option (Gang × Addr × LaneMask) :=
  let cand := candOf g
  if cand = 0 then none
  else
    let open0 := cand &&& lanesWhere g (fun x => !x.yield)
    let g1 := if open0 = 0 then modLanes g (poolOf g) (fun x => { x with yield := false }) else g
    let open1 := if open0 = 0 then cand else open0
    match leastPc g1 (lanesOf open1) with
    | none => none
    | some pc => some (g1, pc, open1 &&& lanesWhere g1 (fun x => decide (x.pc = pc)))

/-- A gang that may issue: resident, not stopped, not blocked, some lane Eligible (R32, R33). -/
def canIssue (g : Gang) : Bool := !g.dead && !g.away && !g.parked && g.blocked.isNone && decide (candOf g ≠ 0)

/-! ## Masks and serial sections (R151, R154) -/

/-- Masks whose set lanes all wait on them release together; their waiting lanes become Eligible (R151), those outside the trap lanes of a
running handler too (R163; log entry 66, DEDUCED). -/
def releaseMasks (g : Gang) : Gang :=
  let rel := (List.range 12).filter (fun m =>
    let waits := lanesWhere g (fun x => decide (x.st = .waiting m))
    decide (waits ≠ 0) && decide (g.m.getD m 0 &&& ~~~waits = 0))
  { g with lanes := g.lanes.map (fun x => match x.st with
    | .waiting m => if rel.contains m then { x with st := .eligible } else x
    | _ => x) }

/-- The innermost group in which `l` proceeds is closed: its lowest Held lane becomes Eligible and proceeds, or it is empty (R154). -/
def serialStep (g : Gang) (l : Nat) : Gang :=
  match g.serial.findIdx? (fun x => x.cur == l) with
  | none => g
  | some i =>
    match g.serial[i]? with
    | none => g
    | some grp => match grp.held.filter (fun j => decide ((laneAt g j).st = .held)) with
      | [] => { g with serial := g.serial.eraseIdx i }
      | h :: hs => modLane { g with serial := g.serial.set i { cur := h, held := hs } } h (fun x => { x with st := .eligible })

/-- Every group in which `l` proceeds closes, innermost first; `fuel` bounds their number (R154, R156). -/
def serialExit (l : Nat) : Nat → Gang → Gang
  | 0, g => g
  | fuel + 1, g => if g.serial.any (fun x => x.cur == l) then serialExit l fuel (serialStep g l) else g

/-! ## Counters and operations in flight (R42) -/

def cntAdd (c : Counts) (k : OpCls) : Counts :=
  match k with
  | .ld => { c with ld := c.ld + 1 }
  | .st => { c with st := c.st + 1 }
  | .cp => { c with cp := c.cp + 1 }
  | .tl => { c with tl := c.tl + 1 }
  | .none => c

def cntSub (c : Counts) (k : OpCls) : Counts :=
  match k with
  | .ld => { c with ld := c.ld - 1 }
  | .st => { c with st := c.st - 1 }
  | .cp => { c with cp := c.cp - 1 }
  | .tl => { c with tl := c.tl - 1 }
  | .none => c

/-- An operation of the bundle being issued enters flight, and its counter rises (R42). -/
def startOp (s : State) (g : Gang) (cls : OpCls) (kind : OpKind) (lanes : LaneMask) (pieces : List Piece) : State :=
  let o : Op := { id := s.fresh, gid := g.gid, core := g.core, ctx := g.ctx, blk := g.blk, cls := cls, kind := kind, lanes := lanes,
                  pieces := pieces, pre0 := false, pre1 := false, hnd := g.handler, pc := s.cur.pc }
  modGang { s with fresh := s.fresh + 1, ops := s.ops ++ [o] } g.gid (fun x => { x with cnt := cntAdd x.cnt cls })

/-- What a held bundle lists where it waits for an operation (12_isa_tiles R233, 10_consistency R206). -/
def opPage (id : Nat) : Nat := 2 ^ 60 + id

/-- A hold once page, line or operation `page` is there. -/
def heldAfter (page : Nat) (b : Option Blocked) : Option Blocked :=
  match b with
  | some (.xlate ps) =>
    let rest := ps.filter (fun p => p != page)
    if rest = [] then none else some (.xlate rest)
  | _ => b

/-- An operation is complete: it leaves flight, its counter falls (R42), and a bundle of its gang that waited for it waits no longer. -/
def endOp (s : State) (o : Op) : State :=
  modGang { s with ops := s.ops.filter (fun x => x.id != o.id) } o.gid
    (fun x => { x with cnt := cntSub x.cnt o.cls, blocked := heldAfter (opPage o.id) x.blocked })

/-- The gang blocks on a word; requests are served in order of arrival (R32, R235). -/
def blockOn (s : State) (gid : Nat) (b : Blocked) : State :=
  modGang s gid (fun g => { g with blocked := some b, since := s.clock })

def unblock (s : State) (gid : Nat) : State := modGang s gid (fun g => { g with blocked := none })

/-- Resident gangs blocked as `p` says, in arrival order, ties to the lower slot (R235, R240, R248, R334, R335). -/
def waitOrder (s : State) (p : Gang → Bool) : List Gang :=
  sortBy (fun g => g.since) (sortBy (fun g => g.slot) (s.gangs.filter (fun g => p g && !g.away)))

/-- First in that order. -/
def firstWaiting (s : State) (gid : Nat) (p : Gang → Bool) : Bool :=
  match waitOrder s p with
  | g :: _ => g.gid == gid
  | [] => false

/-- A message to a function's host. -/
def tellHost (s : State) (m : HostMsg) : State := { s with host := s.host ++ [m] }

end Sys2Proof.Machine
end

