-- ==== Sys2Proof/Machine/Operands.lean ====
section
/-! DEFINITION. Every operand form: source fields, immediates by type, special values, crossbar patterns, indirect sources, address
operands (04_encoding R79 to R83, 11_isa_memory R215), and what registers each word names. -/

namespace Sys2Proof.Machine

/-- The type that an immediate takes (R80). -/
inductive ITy where
  | int
  | f32
  | f16x2
  | bf16x2
  | s16x2
  | l6
deriving DecidableEq, Repr

/-- An integer as the exact pattern of a format. -/
def intTo (f : Fmt) (i : Int) : Nat := (roundMag f 0 (decide (i < 0)) i.natAbs 0 false).bits

/-- The same 16-bit element in both halves. -/
def both16 (x : Nat) : Word := BitVec.ofNat 32 (x % 65536 + 65536 * (x % 65536))

/-- A 6-bit immediate as a 32-bit operand (R80). -/
def immVal (ty : ITy) (i : BitVec 6) : Word :=
  match ty with
  | .int => i.signExtend 32
  | .f32 => BitVec.ofNat 32 (intTo fmtF32 i.toInt)
  | .f16x2 => both16 (intTo fmtF16 i.toInt)
  | .bf16x2 => both16 (intTo fmtBf16 i.toInt)
  | .s16x2 => both16 (i.signExtend 16).toNat
  | .l6 => BitVec.ofNat 32 (i.toNat * 0x01010101)

/-- The lane that a crossbar pattern reads (R81). -/
def xbarLane (g : Gang) (pat : Nat) (l : Nat) : Nat :=
  let x := g.csr.xbar.toNat
  let w := g.width
  match pat with
  | 0 => l
  | 1 => bitsN x 0 6 % w
  | 2 => (l + bitsN x 6 6) % w
  | _ => if bitN x 18 then w - 1 - l else Nat.xor l (bitsN x 12 6 % w)

/-- The MOD XBB code as a pattern (R86). -/
def xbbPat (m : ModFields) : Nat := m.xbb.toNat

/-- Fields of an index register (R116). -/
def xBase (x : BitVec 24) : Nat := (x.extractLsb' 0 8).toNat
def xLen (x : BitVec 24) : Nat := (x.extractLsb' 8 8).toNat
def xCur (x : BitVec 24) : Nat := (x.extractLsb' 16 8).toNat

def xReg (g : Gang) (l n : Nat) : BitVec 24 := (laneAt g l).x.getD n 0

/-- Index of an indirect source in lane `l`, the consumer side of a fused gang renumbered (R83, 14_splicer R278, R279); none where it
raises INDEX_BOUND. -/
def indIndex (g : Gang) (cons : Bool) (l : Nat) (x : Nat) (uniform : Bool) : Option Nat :=
  let r := xReg g l x
  let i := xBase r + xCur r
  if xLen r ≤ xCur r then none
  else if uniform then
    (if cons && i < 120 then (if 119 < i + g.side.up then none else some (i + g.side.up)) else some i)
  else
    let j := if cons then i + g.side.np else i
    if 16 * g.banks ≤ j then none else some j

/-- The special values (R82). -/
def specVal (s : State) (g : Gang) (l n : Nat) : Word :=
  let blk := blockOf s g.blk
  let ofBlk := fun f : Block → Nat => match blk with
    | some b => BitVec.ofNat 32 (f b)
    | none => 0#32
  match n with
  | 0x01 => BitVec.ofNat 32 (laneAt g l).num
  | 0x02 => BitVec.ofNat 32 g.index
  | 0x03 => ofBlk (·.bx)
  | 0x04 => ofBlk (·.by_)
  | 0x05 => ofBlk (·.bz)
  | 0x06 => ofBlk (·.cluster)
  | 0x07 => BitVec.ofNat 32 (g.core / 20)
  | 0x08 => BitVec.ofNat 32 (g.core / 40)
  | 0x09 => BitVec.ofNat 32 s.fab.lid
  | 0x0A => BitVec.ofNat 32 g.width
  | 0x0B => s.cur.pimm.signExtend 32
  | 0x0C => s.cur.pimm.setWidth 32
  | 0x0D => s.cur.pimm.setWidth 32 <<< 2
  | 0x0E => BitVec.ofNat 32 g.tick
  | 0x0F => 0xFFFFFFFF#32
  | _ => 0#32

/-- Where a source stands: a register word, or a value. -/
inductive Ref where
  | v (lane n : Nat)
  | k (n : Nat)
  | val (w : Word)
deriving DecidableEq, Repr

/-- The 32-bit source of lane `l` (R79 to R83). -/
def refOf (s : State) (g : Gang) (ty : ITy) (src : Src) (l : Nat) : Ref :=
  match src with
  | .vec p n => .v (xbarLane g p.toNat l) n.toNat
  | .uni n => .k n.toNat
  | .imm i => .val (immVal ty i)
  | .spec n => .val (specVal s g l n.toNat)
  | .ind x u => match indIndex g s.cur.cons l x.toNat u with
    | some i => if u then .k i else .v l i
    | none => .val 0#32
  | .rsvd _ => .val 0#32

def refVal (s : State) (g : Gang) : Ref → Word
  | .v l n => rdV s g l n
  | .k n => rdK g n
  | .val w => w

/-- Operand A of lane `l`. -/
def opA (s : State) (g : Gang) (ty : ITy) (src : Src) (l : Nat) : Word := refVal s g (refOf s g ty src l)

/-- Operand B of lane `l`: the MOD's XBB pattern carries the value of another lane (R87). -/
def opB (s : State) (g : Gang) (m : ModFields) (ty : ITy) (src : Src) (l : Nat) : Word :=
  opA s g ty src (xbarLane g (xbbPat m) l)

/-- The 64-bit operand of lane `l` (R80). -/
def op64 (s : State) (g : Gang) (src : Src) (l : Nat) : BitVec 64 :=
  match src with
  | .vec p n => let j := xbarLane g p.toNat l; pair64 (rdV s g j n.toNat) (rdV s g j (n.toNat + 1))
  | .uni n => rdK64 g n.toNat
  | .imm i => i.signExtend 64
  | .spec n => if n = 0x0B#5 ∨ n = 0x0F#5 then (specVal s g l n.toNat).signExtend 64 else (specVal s g l n.toNat).setWidth 64
  | _ => 0#64

/-- `mem_address` (11_isa_memory R215): the address of lane `l`. -/
def memAddr (s : State) (g : Gang) (src : Src) (off : Bool) (l : Nat) : BitVec 64 :=
  let base : BitVec 64 := match src with
    | .ind x u => match indIndex g s.cur.cons l x.toNat u with
      | some i => (rdV s g l i).setWidth 64
      | none => 0#64
    | _ => op64 s g src l
  if off then base + s.cur.pimm.signExtend 64 else base

/-- An address field that names no address: SOURCE (R215). -/
def addrBad : Src → Bool
  | .vec _ n => decide (n.toNat % 2 = 1)
  | .uni n => decide (n.toNat % 2 = 1)
  | .ind _ u => u
  | _ => true

/-- A 32-bit or 64-bit source field that raises SOURCE (R79, R80, R82, R83). -/
def srcBad (wide : Bool) : Src → Bool
  | .vec _ n => wide && decide (n.toNat % 2 = 1)
  | .uni n => wide && decide (n.toNat % 2 = 1)
  | .imm _ => false
  | .spec n => decide (16 ≤ n.toNat)
  | .ind _ _ => wide
  | .rsvd _ => true

/-! ## What a word names -/

/-- A register by number, as UNWAITED knows it (R42: in any lane). -/
inductive Reg where
  | v (n : Nat)
  | k (n : Nat)
  | p (n : Nat)
deriving DecidableEq, Repr

/-- The source fields, direct vector registers, uniforms and predicates that a word reads and writes. `ka` lists uniform fields with
the multiple that they must be of (pairs 2, quads 4). -/
structure Shape where
  a    : Option (Src × Bool)
  b    : Option (Src × Bool)
  addr : Option Src
  vr   : List Nat
  vw   : List Nat
  kr   : List Nat
  kw   : List Nat
  pr   : List Nat
  pw   : List Nat
  ka   : List (Nat × Nat)
  odd  : List Nat
deriving DecidableEq, Repr

def noShape : Shape :=
  { a := none, b := none, addr := none, vr := [], vw := [], kr := [], kw := [], pr := [], pw := [], ka := [], odd := [] }

/-- Block length of an l6 access, from k124; the code 11 names none (R215, R218). -/
def l6Len (g : Gang) : Nat :=
  match bitsN (rdK g 124).toNat 0 2 with
  | 0 => 16
  | 1 => 32
  | 2 => 64
  | _ => 0

def widthRegs (g : Gang) (width : Nat) : Nat :=
  match width with
  | 5 => 2
  | 6 => 4
  | 7 => l6Len g / 4
  | _ => 1

def regRun (d n : Nat) : List Nat := (List.range n).map (d + ·)

/-- Registers of an atomic (11_isa_memory R222). -/
def atomRegs (cas wide : Bool) : Nat := (if cas then 2 else 1) * (if wide then 2 else 1)

def predNo (p : BitVec 3) : List Nat := if p = 7#3 then [] else [p.toNat]

def vvShape (wide : Bool) (d : BitVec 6) (a b : Src) (acc : Bool) : Shape :=
  { noShape with a := some (a, wide), b := some (b, wide), vr := if acc then [d.toNat] else [],
                 vw := if wide then [d.toNat, d.toNat + 1] else [d.toNat] }

def v1Shape (d : BitVec 6) (a : Src) : Shape := { noShape with a := some (a, false), vw := [d.toNat] }

def kShape (kr kw : List Nat) (ka : List (Nat × Nat)) : Shape := { noShape with kr := kr, kw := kw, ka := ka }

def atomShape (cas ret : Bool) (f : AtomFields) : Shape :=
  { noShape with addr := some f.addr, vr := regRun f.d.toNat (atomRegs cas f.wide),
                 vw := if ret then regRun f.d.toNat (if f.wide then 2 else 1) else [] }

def run (k : BitVec 9) (n : Nat) : List Nat := (List.range n).map (k.toNat + ·)

/-- What each word names, in a gang (l6 words depend on k124, OBLD.reg and ACMOV.toreg on their uniforms). -/
def shapeOf (g : Gang) (cons : Bool) (i : Instr) : Shape :=
  let np := if cons then g.side.np else 0
  match i with
  | .iadd d a b => vvShape false d a b false
  | .isub d a b => vvShape false d a b false
  | .imul d a b => vvShape false d a b false
  | .imulhs d a b => vvShape false d a b false
  | .imulhn d a b => vvShape false d a b false
  | .imad d a b => vvShape false d a b true
  | .imins d a b => vvShape false d a b false
  | .iminn d a b => vvShape false d a b false
  | .imaxs d a b => vvShape false d a b false
  | .imaxn d a b => vvShape false d a b false
  | .and d a b => vvShape false d a b false
  | .or d a b => vvShape false d a b false
  | .xor d a b => vvShape false d a b false
  | .andn d a b => vvShape false d a b false
  | .shl d a b => vvShape false d a b false
  | .shr d a b => vvShape false d a b false
  | .sar d a b => vvShape false d a b false
  | .rot d a b => vvShape false d a b false
  | .bfe d a b => vvShape false d a b false
  | .bfi d a b => vvShape false d a b true
  | .fadd d a b => vvShape false d a b false
  | .fsub d a b => vvShape false d a b false
  | .fmul d a b => vvShape false d a b false
  | .ffma d a b => vvShape false d a b true
  | .fmin d a b => vvShape false d a b false
  | .fmax d a b => vvShape false d a b false
  | .hadd d a b => vvShape false d a b false
  | .hmul d a b => vvShape false d a b false
  | .hfma d a b => vvShape false d a b true
  | .badd d a b => vvShape false d a b false
  | .bmul d a b => vvShape false d a b false
  | .bfma d a b => vvShape false d a b true
  | .padd d a b => vvShape false d a b false
  | .psub d a b => vvShape false d a b false
  | .pmul d a b => vvShape false d a b false
  | .pmac d a b => vvShape false d a b true
  | .pshr d a b => vvShape false d a b false
  | .pmin d a b => vvShape false d a b false
  | .pmax d a b => vvShape false d a b false
  | .ppack d a b => vvShape false d a b false
  | .lmul d a b => vvShape false d a b false
  | .slided d a b => vvShape false d a b false
  | .slideu d a b => vvShape false d a b false
  | .shfl d a b => vvShape false d a b false
  | .rand d a b => vvShape true d a b false
  | .icmp pd _ a b => { noShape with a := some (a, false), b := some (b, false), pw := [pd.toNat] }
  | .fcmp pd _ a b => { noShape with a := some (a, false), b := some (b, false), pw := [pd.toNat] }
  | .hcmp pd _ a b => { noShape with a := some (a, false), b := some (b, false), pw := [pd.toNat] }
  | .sel d a b p => { noShape with a := some (a, false), b := some (.vec 0#2 b, false), vw := [d.toNat], pr := predNo p }
  | .plog pd _ a b => { noShape with pr := predNo a ++ predNo b, pw := [pd.toNat] }
  | .vunMov d a => v1Shape d a
  | .vunNot d a => v1Shape d a
  | .vunIneg d a => v1Shape d a
  | .vunIabs d a => v1Shape d a
  | .vunPopc d a => v1Shape d a
  | .vunClz d a => v1Shape d a
  | .vunCtz d a => v1Shape d a
  | .vunBrev d a => v1Shape d a
  | .vunBswap d a => v1Shape d a
  | .vunFrint d a => v1Shape d a
  | .vunFfloor d a => v1Shape d a
  | .vunFceil d a => v1Shape d a
  | .vunFtrunc d a => v1Shape d a
  | .cvt sr ds d a => { v1Shape d a with kr := if sr = 9#4 ∨ ds = 9#4 then [125] else [] }
  | .xfnRcp d a => v1Shape d a
  | .xfnRsq d a => v1Shape d a
  | .xfnSqrt d a => v1Shape d a
  | .xfnExp2 d a => v1Shape d a
  | .xfnLog2 d a => v1Shape d a
  | .xfnSin d a => v1Shape d a
  | .xfnCos d a => v1Shape d a
  | .xfnTanh d a => v1Shape d a
  | .red _ _ d a => v1Shape d a
  | .scan _ _ d a => v1Shape d a
  | .voteAny d a => v1Shape d a
  | .voteAll d a => v1Shape d a
  | .voteBallot d a => { v1Shape d a with vw := [d.toNat, d.toNat + 1] }
  | .voteCount d a => v1Shape d a
  | .kopMov d a => kShape [a.toNat] [d.toNat] []
  | .kopAdd d a => kShape [a.toNat, d.toNat] [d.toNat] []
  | .kopSub d a => kShape [a.toNat, d.toNat] [d.toNat] []
  | .kopMul d a => kShape [a.toNat, d.toNat] [d.toNat] []
  | .kopAnd d a => kShape [a.toNat, d.toNat] [d.toNat] []
  | .kopOr d a => kShape [a.toNat, d.toNat] [d.toNat] []
  | .kopXor d a => kShape [a.toNat, d.toNat] [d.toNat] []
  | .kopShl d a => kShape [a.toNat, d.toNat] [d.toNat] []
  | .kopShr d a => kShape [a.toNat, d.toNat] [d.toNat] []
  | .kopSar d a => kShape [a.toNat, d.toNat] [d.toNat] []
  | .kopMins d a => kShape [a.toNat, d.toNat] [d.toNat] []
  | .kopMinn d a => kShape [a.toNat, d.toNat] [d.toNat] []
  | .kopMaxs d a => kShape [a.toNat, d.toNat] [d.toNat] []
  | .kopMaxn d a => kShape [a.toNat, d.toNat] [d.toNat] []
  | .kopAdd64 d a => kShape (run a 2 ++ run d 2) (run d 2) [(a.toNat, 2), (d.toNat, 2)]
  | .kopMov64 d a => kShape (run a 2) (run d 2) [(a.toNat, 2), (d.toNat, 2)]
  | .kmovK d a => { noShape with a := some (a, false), kw := [d.toNat] }
  | .kmovV d a => { noShape with a := some (a, false), kw := [d.toNat] }
  | .kliShort d _ => kShape [] [d.toNat] []
  | .kliPimm d _ => kShape [] [d.toNat] []
  | .xset _ a => { noShape with a := some (a, false) }
  | .xadd _ a => { noShape with a := some (a, false) }
  | .bra p _ _ => { noShape with pr := predNo p }
  | .brx k => kShape (run k 2) [] [(k.toNat, 2)]
  | .call p _ _ => { noShape with pr := predNo p, vw := [np, np + 1] }
  | .ret n => { noShape with vr := [n.toNat, n.toNat + 1], odd := [n.toNat] }
  | .elect k pd => { noShape with kw := [k.toNat], pw := [pd.toNat] }
  | .trap k _ => kShape (run k 2) [] [(k.toNat, 2)]
  | .ld f => { noShape with addr := some f.addr, vw := regRun f.d.toNat (widthRegs g f.width.toNat),
                            kr := if f.width = 7#3 then [124] else [] }
  | .st f => { noShape with addr := some f.addr, vr := regRun f.d.toNat (widthRegs g f.width.toNat),
                            kr := if f.width = 7#3 then [124] else [] }
  | .ldl f => { noShape with addr := some f.addr, vw := regRun f.d.toNat (widthRegs g f.width.toNat) }
  | .psh d w => { noShape with vr := regRun d.toNat (widthRegs g w.toNat) }
  | .pop d w => { noShape with vw := regRun d.toNat (widthRegs g w.toNat) }
  | .atomAdd f => atomShape false true f
  | .atomMins f => atomShape false true f
  | .atomMinn f => atomShape false true f
  | .atomMaxs f => atomShape false true f
  | .atomMaxn f => atomShape false true f
  | .atomAnd f => atomShape false true f
  | .atomOr f => atomShape false true f
  | .atomXor f => atomShape false true f
  | .atomExch f => atomShape false true f
  | .atomCas f => atomShape true true f
  | .atomFadd f => atomShape false true f
  | .atomFmin f => atomShape false true f
  | .atomFmax f => atomShape false true f
  | .redm _ f => atomShape false false f
  | .fence p _ => { noShape with pw := predNo p }
  | .clineWb a _ => { noShape with addr := some a }
  | .clineWbi a _ => { noShape with addr := some a }
  | .clineMem a _ => { noShape with addr := some a }
  | .zfill a _ _ _ => { noShape with addr := some a }
  | .cpy f => { noShape with addr := some f.addr, vr := [f.s.toNat, f.s.toNat + 1], odd := [f.s.toNat], kr := [f.h.toNat] }
  | .obres d q _ => kShape (run q 2) [d.toNat] [(q.toNat, 2)]
  | .obrel h => kShape [h.toNat] [] []
  | .obld h q sp _ => { kShape (h.toNat :: run q 4) [] [(q.toNat, 4)] with
      vr := if sp = 3#2 then regRun (bitsN (rdK g q.toNat).toNat 0 8 + np) (bitsN (rdK g q.toNat).toNat 8 8) else [] }
  | .wbld h q _ => kShape (h.toNat :: run q 4) [] [(q.toNat, 4)]
  | .acalloc d _ => kShape [] [d.toNat] []
  | .acfree m => kShape [m.toNat] [] []
  | .mma p _ => kShape (run p 2) [] [(p.toNat, 2)]
  | .acmovTogl t q _ => kShape (t.toNat :: run q 2) [] [(q.toNat, 2)]
  | .acmovTosp t q _ => kShape (t.toNat :: run q 2) [] [(q.toNat, 2)]
  | .acmovFromsp t q => kShape (t.toNat :: run q 2) [] [(q.toNat, 2)]
  | .acmovToreg t q _ => { kShape [t.toNat, q.toNat] [] [] with
      vw := regRun (bitsN (rdK g q.toNat).toNat 0 8 + np) (bitsN (rdK g q.toNat).toNat 14 7) }
  | .twset k _ => kShape [k.toNat] [] []
  | .tldw q => kShape (run q 2) [] [(q.toNat, 2)]
  | .tlnch v => { noShape with vr := [v.toNat] }
  | .tcapt v => { noShape with vw := [v.toNat] }
  | .balloc d e _ pd => { kShape [e.toNat] [d.toNat] [] with pw := predNo pd }
  | .bfree h => kShape [h.toNat] [] []
  | .barvArrive h b tx => kShape (h.toNat :: if tx then [b.toNat] else []) [] []
  | .barvNoarr h b => kShape [h.toNat, b.toNat] [] []
  | .barvDrop h b tx => kShape (h.toNat :: if tx then [b.toNat] else []) [] []
  | .bwait h p pd => { kShape [h.toNat, p.toNat] [] [] with pw := predNo pd }
  | .ringCreate d q => kShape (run q 2) [d.toNat] [(q.toNat, 2)]
  | .ringRel h => kShape [h.toNat] [] []
  | .rawait h d => kShape [h.toNat] (run d 2) [(d.toNat, 2)]
  | .rrel h => kShape [h.toNat] [] []
  | .csrr k _ => kShape [] [k.toNat] []
  | .csrwWrite k _ => kShape [k.toNat] [] []
  | .csrwSet k _ => kShape [k.toNat] [] []
  | .csrwClr k _ => kShape [k.toNat] [] []
  | .csrwSwap k _ => kShape [k.toNat] [k.toNat] []
  | .snap d q pd => { kShape (run q 2) [d.toNat] [(q.toNat, 2)] with pw := predNo pd }
  | .snapq d c pd _ => { kShape [c.toNat] (run d 2) [(d.toNat, 2)] with pw := predNo pd }
  | _ => noShape

/-- Registers under UNWAITED while an operation is in flight (R42, R225, R242, R249, R327). -/
def locks (o : Op) : List Reg :=
  match o.kind with
  | .load d width n _ _ _ => (regRun d (match width with | 5 => 2 | 6 => 4 | 7 => n / 4 | _ => 1)).map .v
  | .fwdLoad d width n _ => (regRun d (match width with | 5 => 2 | 6 => 4 | 7 => n / 4 | _ => 1)).map .v
  | .atom _ wide _ _ _ ret d _ => if ret then (regRun d (if wide then 2 else 1)).map .v else []
  | .fence _ pd _ => if pd = 7 then [] else [.p pd]
  | .acmov aop _ _ _ d _ c _ => if aop = 3 then (regRun d c).map .v else []
  | .tcapt d => [.v d]
  | .balloc kd pd _ _ => [.k kd, .p pd]
  | .snap kd pd _ _ _ => [.k kd, .p pd]
  | .snapq kd pd _ _ _ => .k kd :: .k (kd + 1) :: (if pd = 7 then [] else [.p pd])
  | _ => []

def locked (s : State) (gid : Nat) (r : Reg) : Bool := s.ops.any (fun o => o.gid == gid && (locks o).contains r)

end Sys2Proof.Machine
end

