-- ==== Sys2Proof/Machine/Check.lean ====
section
/-! DEFINITION. The checks of a bundle at issue, steps 0 to 7 (04_encoding R77, R87, R88; 07_isa_lane R126; 11_isa_memory R193), and
the poison marks of step 8 (R127, R217). -/

namespace Sys2Proof.Machine

/-- A fault found: its code, FLTMASK, FLTADDR. -/
structure Flt where
  code : Nat
  mask : LaneMask
  addr : BitVec 64
deriving DecidableEq, Repr

/-- A check's outcome; `hold` waits for the translation of pages (11_isa_memory R216). -/
inductive Chk where
  | ok
  | fault (f : Flt)
  | hold (pages : List Nat)
deriving DecidableEq, Repr

/-! ## Pipes and CHAIN (R77, R95) -/

inductive Pipe where
  | none
  | s
  | v
  | x
  | m
  | t
deriving DecidableEq, Repr

/-- The pipe of a word by its major opcode, and KMOV's function; a KMOV whose function code is reserved counts as S (R95, R106, log entry 63, DEDUCED). -/
def pipeOf (w : BitVec 32) : Pipe :=
  let mj := (fieldOf w 24 7).toNat
  if mj = 0 then .none
  else if mj ≤ 0x36 then .v
  else if mj ≤ 0x3F then .x
  else if mj = 0x41 then (if fieldOf w 0 6 = 1#6 then .x else .s)
  else if mj ≤ 0x44 then .s
  else if mj = 0x45 then .v
  else if mj ≤ 0x4B then .s
  else if mj ≤ 0x51 then .t
  else if mj ≤ 0x55 then .s
  else if mj ≤ 0x57 then .t
  else if mj ≤ 0x63 then .m
  else if mj ≤ 0x77 then .t
  else if mj ≤ 0x79 then .s
  else if mj ≤ 0x7E then .t
  else .none

/-- Pipes of reserved majors count for nothing: no pipe is assigned (R95). -/
def pipeOfWord (w : BitVec 32) : Pipe := if majorReserved (fieldOf w 24 7).toNat then .none else pipeOf w

def isModWord (w : BitVec 32) : Bool := decide (fieldOf w 24 7 = 0x7F#7)

def isNopWord (w : BitVec 32) : Bool := decide (fieldOf w 24 7 = 0#7)

/-- The words of the bundle at a slot: up to the first word with C = 0 (R77). -/
def bundleWords : Nat → List (BitVec 32) → List (Nat × BitVec 32)
  | _, [] => []
  | i, w :: ws => if w.getLsbD 31 then (i, w) :: bundleWords (i + 1) ws else [(i, w)]

/-- Two words of one pipe. -/
def pipeClash : List Pipe → Bool
  | [] => false
  | p :: ps => (decide (p ≠ .none) && ps.contains p) || pipeClash ps

/-- CHAIN (R77). -/
def chainBad (ws : List (Nat × BitVec 32)) : Bool :=
  (match ws.getLast? with
    | some (_, w) => w.getLsbD 31
    | none => true)
  || pipeClash (ws.map (fun e => pipeOfWord e.2))
  || ws.any (fun e => isModWord e.2 && !e.2.getLsbD 31)
  || (ws.zip (ws.drop 1)).any (fun e => isModWord e.1.2 && (isModWord e.2.2 || isNopWord e.2.2))

/-- Each word that is no MOD, with the MOD before it (R86). -/
def withMods : Option ModFields → List (Nat × BitVec 32) → List BundleWord
  | _, [] => []
  | m, (i, w) :: ws =>
    if isModWord w then withMods (some (decodeMod w)) ws
    else { slot := i, word := (match decode w with | .ok ins => some ins | .error _ => none), mod := m } :: withMods none ws

/-! ## Active lanes (R9, R87, R42) -/

def isBr : Instr → Bool
  | .bra _ _ _ => true
  | .call _ _ _ => true
  | _ => false

def isBrWord : Option Instr → Bool
  | some i => isBr i
  | none => false

/-- The guarding predicate's number, if the word has one. -/
def guardOf (w : Option Instr) (m : Option ModFields) : Option ModFields := if isBrWord w then none else m

/-- The active lanes of a word among the issuing lanes. -/
def activeOf (g : Gang) (lanes : LaneMask) (w : Option Instr) (m : Option ModFields) : LaneMask :=
  match guardOf w m with
  | none => lanes
  | some md => lanes &&& lanesWhere' g md
where
  /-- Lanes whose guarding predicate is true. -/
  lanesWhere' (g : Gang) (md : ModFields) : LaneMask :=
    maskOf ((List.range g.width).filter (fun l => xor (predOf g l md.pred.toNat) md.pneg))

/-- The guarding predicate is the destination of an incomplete operation (R42). -/
def guardLocked (s : State) (g : Gang) (w : Option Instr) (m : Option ModFields) : Bool :=
  match guardOf w m with
  | some md => decide (md.pred ≠ 7#3) && locked s g.gid (.p md.pred.toNat)
  | none => false

/-- The active lanes that steps 3 to 7 take (R42). -/
def checkLanes (s : State) (g : Gang) (lanes : LaneMask) (w : Option Instr) (m : Option ModFields) : LaneMask :=
  if guardLocked s g w m then lanes else activeOf g lanes w m

/-! ## Step 3: ILLEGAL -/

/-- Which MOD fields a word accepts (R126, R145, R193, R214, R232, R326). -/
structure ModOk where
  sat   : Bool
  clamp : Bool
  neg   : Bool
  abs   : Bool
  negab : Bool
  aOnly : Bool
  scale : Bool
  rnd   : Bool
  xbb   : Bool
deriving DecidableEq, Repr

def modNone : ModOk :=
  { sat := false, clamp := false, neg := false, abs := false, negab := false, aOnly := false, scale := false, rnd := false, xbb := false }

def modXbb : ModOk := { modNone with xbb := true }

def modInt : ModOk := { modXbb with sat := true, clamp := true, neg := true, abs := true, negab := true, scale := true }

def modFloat : ModOk := { modInt with rnd := true }

def modMinMax : ModOk := { modXbb with clamp := true, neg := true, abs := true, negab := true }

def modPacked : ModOk := { modXbb with sat := true, clamp := true, scale := true }

def isFloatTy (t : BitVec 4) : Bool := decide (t.toNat ≤ 2)

def modAccepts : Instr → ModOk
  | .iadd _ _ _ => modInt
  | .isub _ _ _ => modInt
  | .imul _ _ _ => modInt
  | .imad _ _ _ => modInt
  | .imulhs _ _ _ => modXbb
  | .imulhn _ _ _ => modXbb
  | .imins _ _ _ => modXbb
  | .iminn _ _ _ => modXbb
  | .imaxs _ _ _ => modXbb
  | .imaxn _ _ _ => modXbb
  | .and _ _ _ => modXbb
  | .or _ _ _ => modXbb
  | .xor _ _ _ => modXbb
  | .andn _ _ _ => modXbb
  | .shl _ _ _ => modXbb
  | .shr _ _ _ => modXbb
  | .sar _ _ _ => modXbb
  | .rot _ _ _ => modXbb
  | .bfe _ _ _ => modXbb
  | .bfi _ _ _ => modXbb
  | .fadd _ _ _ => modFloat
  | .fsub _ _ _ => modFloat
  | .fmul _ _ _ => modFloat
  | .ffma _ _ _ => modFloat
  | .hadd _ _ _ => modFloat
  | .hmul _ _ _ => modFloat
  | .hfma _ _ _ => modFloat
  | .badd _ _ _ => modFloat
  | .bmul _ _ _ => modFloat
  | .bfma _ _ _ => modFloat
  | .fmin _ _ _ => modMinMax
  | .fmax _ _ _ => modMinMax
  | .padd _ _ _ => modPacked
  | .psub _ _ _ => modPacked
  | .pmul _ _ _ => modPacked
  | .ppack _ _ _ => modPacked
  | .pmac _ _ _ => { modXbb with clamp := true, scale := true }
  | .pshr _ _ _ => modXbb
  | .pmin _ _ _ => modXbb
  | .pmax _ _ _ => modXbb
  | .lmul _ _ _ => modXbb
  | .icmp _ _ _ _ => modXbb
  | .fcmp _ _ _ _ => { modXbb with abs := true, negab := true }
  | .hcmp _ _ _ _ => { modXbb with abs := true, negab := true }
  | .sel _ _ _ _ => modXbb
  | .vunIneg _ _ => { modNone with sat := true }
  | .vunIabs _ _ => { modNone with sat := true }
  | .vunFrint _ _ => { modNone with rnd := true }
  | .cvt s d _ _ => { modNone with sat := !isFloatTy s && !isFloatTy d && decide (s ≠ 9#4) && decide (d ≠ 9#4), scale := true,
                                   rnd := isFloatTy s || isFloatTy d }
  | .xfnRcp _ _ => { modNone with aOnly := true, rnd := true }
  | .xfnRsq _ _ => { modNone with aOnly := true, rnd := true }
  | .xfnSqrt _ _ => { modNone with aOnly := true, rnd := true }
  | .xfnExp2 _ _ => { modNone with aOnly := true, rnd := true }
  | .xfnLog2 _ _ => { modNone with aOnly := true, rnd := true }
  | .xfnSin _ _ => { modNone with aOnly := true, rnd := true }
  | .xfnCos _ _ => { modNone with aOnly := true, rnd := true }
  | .xfnTanh _ _ => { modNone with aOnly := true, rnd := true }
  | .slided _ _ _ => modXbb
  | .slideu _ _ _ => modXbb
  | .shfl _ _ _ => modXbb
  | .rand _ _ _ => modXbb
  | .red op ty _ _ => { modNone with sat := decide (op = 0#4) && (decide (ty = 0#3) || decide (ty = 5#3)),
                                     rnd := decide (2 ≤ ty.toNat) && decide (ty.toNat ≤ 4) }
  | .scan op ty _ _ => { modNone with sat := decide (op = 0#4) && (decide (ty = 0#3) || decide (ty = 5#3)),
                                      rnd := decide (2 ≤ ty.toNat) && decide (ty.toNat ≤ 4) }
  | _ => modNone

/-- B is a direct vector source with a crossbar pattern of its own (R87). -/
def bPattern (g : Gang) (i : Instr) : Bool :=
  match (shapeOf g false i).b with
  | some (.vec p _, _) => decide (p ≠ 0#2)
  | _ => false

/-- Ordering and remote qualifier of a memory word (11_isa_memory, 10_consistency R193): `acq`, `rel`, `both` say which orderings the
word takes. -/
def orderOk (acq rel both rem : Bool) (scope : Nat) (m : ModFields) : Bool :=
  (match m.rnd.toNat with
    | 0 => !m.neg
    | 1 => acq && decide (scope ≠ 0) && (!m.neg || (rem && (decide (scope = 5) || decide (scope = 6))))
    | 2 => rel && decide (scope ≠ 0) && !m.neg
    | _ => both && decide (scope ≠ 0) && !m.neg)
  && !m.sat && decide (m.clamp = 0#2) && !m.absa && !m.absb && !m.nega && !m.negb && decide (m.scale = 0#4) && decide (m.xbb = 0#3)
  && decide (m.low = 0#3)

def modMemOk (i : Instr) (m : ModFields) : Option Bool :=
  match i with
  | .ld f => some (orderOk true false false true f.scope.toNat m)
  | .st f => some (orderOk false true false false f.scope.toNat m)
  | .atomAdd f => some (orderOk true true true true f.scope.toNat m)
  | .atomMins f => some (orderOk true true true true f.scope.toNat m)
  | .atomMinn f => some (orderOk true true true true f.scope.toNat m)
  | .atomMaxs f => some (orderOk true true true true f.scope.toNat m)
  | .atomMaxn f => some (orderOk true true true true f.scope.toNat m)
  | .atomAnd f => some (orderOk true true true true f.scope.toNat m)
  | .atomOr f => some (orderOk true true true true f.scope.toNat m)
  | .atomXor f => some (orderOk true true true true f.scope.toNat m)
  | .atomExch f => some (orderOk true true true true f.scope.toNat m)
  | .atomCas f => some (orderOk true true true true f.scope.toNat m)
  | .atomFadd f => some (orderOk true true true true f.scope.toNat m)
  | .atomFmin f => some (orderOk true true true true f.scope.toNat m)
  | .atomFmax f => some (orderOk true true true true f.scope.toNat m)
  | .redm _ f => some (orderOk false true false false f.scope.toNat m)
  | _ => none

/-- A MOD word is admitted before a word (R87, R126, R145, R193). -/
def modOk (g : Gang) (i : Instr) (m : ModFields) : Bool :=
  if isBr i then decide (m = plainMod)
  else match modMemOk i m with
    | some ok => ok
    | none =>
      let a := modAccepts i
      (!m.sat || a.sat) && (decide (m.clamp = 0#2) || a.clamp) && (!m.neg || a.neg) && (!m.absa || a.abs || a.aOnly) &&
        (!m.absb || a.abs) && (!m.nega || a.negab || a.aOnly) && (!m.negb || a.negab) && (decide (m.scale = 0#4) || a.scale) &&
        (decide (m.rnd = 0#2) || a.rnd) && decide (m.low = 0#3) &&
        (decide (m.xbb = 0#3) || (a.xbb && decide (m.xbb.toNat < 4) && !bPattern g i))

/-- Step 3 of a word: reserved encodings, MOD fields, TRAP's company (R88, R96, R97, R167). -/
def illegalWord (g : Gang) (solo : Bool) (w : Option Instr) (m : Option ModFields) : Bool :=
  match w with
  | none => true
  | some (.reservedMajor _ _) => true
  | some i =>
    (match m with
      | some md => !modOk g i md
      | none => false) ||
    (match i with
      | .trap _ _ => !solo
      | _ => false)

/-! ## Steps 4 and 5: SOURCE, CSR -/

def sourceBad (g : Gang) (cons : Bool) (i : Instr) : Bool :=
  let sh := shapeOf g cons i
  (match sh.a with
    | some (src, w) => srcBad w src
    | none => false) ||
  (match sh.b with
    | some (src, w) => srcBad w src
    | none => false) ||
  (match sh.addr with
    | some src => addrBad src
    | none => false) ||
  sh.ka.any (fun e => decide (e.1 % e.2 ≠ 0)) || sh.odd.any (fun n => decide (n % 2 = 1))

/-- A CSR number that 06_registers R117 assigns. -/
def csrAssigned (n : Nat) : Bool :=
  [0x000, 0x001, 0x002, 0x010, 0x011, 0x012, 0x013, 0x014, 0x015, 0x016, 0x017, 0x020, 0x030, 0x031, 0x032, 0x040].contains n ||
    (decide (0x060 ≤ n) && decide (n ≤ 0x06F)) || (decide (0x100 ≤ n) && decide (n ≤ 0x1FF))

def csrWritable (n : Nat) : Bool := [0x000, 0x001, 0x002, 0x017, 0x040].contains n

def csrBad : Instr → Bool
  | .csrr _ n => !csrAssigned n.toNat
  | .csrwWrite _ n => !csrWritable n.toNat
  | .csrwSet _ n => !csrWritable n.toNat
  | .csrwClr _ n => !csrWritable n.toNat
  | .csrwSwap _ n => !csrWritable n.toNat
  | _ => false

/-! ## Step 6: BANK, INDEX_BOUND -/

/-- Words whose register range step 8 checks among their own faults (12_isa_tiles R233, R237, R242). -/
def rangeAtStep8 : Instr → Bool
  | .obld _ _ _ _ => true
  | .acmovToreg _ _ _ => true
  | _ => false

def directRegs (sh : Shape) : List Nat :=
  let ofSrc := fun (o : Option (Src × Bool)) => match o with
    | some (.vec _ n, w) => if w then [n.toNat, n.toNat + 1] else [n.toNat]
    | _ => []
  let ofAddr := match sh.addr with
    | some (.vec _ n) => [n.toNat, n.toNat + 1]
    | _ => []
  ofSrc sh.a ++ ofSrc sh.b ++ ofAddr ++ sh.vr ++ sh.vw

/-- BANK: a direct register beyond v63 or the gang's banks (R28, R215). -/
def bankBad (g : Gang) (cons : Bool) (i : Instr) : Bool :=
  let sh := shapeOf g cons i
  let regs := if rangeAtStep8 i then [] else directRegs sh
  regs.any (fun n => decide (16 * g.banks ≤ n)) ||
    (match i with
      | .ld f => decide (64 < f.d.toNat + widthRegs g f.width.toNat)
      | .st f => decide (64 < f.d.toNat + widthRegs g f.width.toNat)
      | _ => false)

/-- Lanes whose A and B operands lane `l` of a word reads: its own, B's through XBB (R87); slides and SHFL read another lane's A, and a
slide's end lane B alone (07_isa_lane R141). -/
def abLanes (s : State) (g : Gang) (i : Instr) (m : ModFields) (l : Nat) : Option Nat × Option Nat :=
  let x := xbarLane g (xbbPat m)
  match i with
  | .slided _ _ _ => if l + 1 = g.width then (none, some (x 0)) else (some (l + 1), none)
  | .slideu _ _ _ => if l = 0 then (none, some (x (g.width - 1))) else (some (l - 1), none)
  | .shfl _ _ b => (some ((opB s g m .int b l).toNat % g.width), some (x l))
  | _ => (some l, some (x l))

/-- Registers that a source names in lane `j`, an indirect one resolved. -/
def srcRegs (g : Gang) (cons : Bool) (o : Option (Src × Bool)) (j : Option Nat) : List Reg :=
  match j with
  | none => []
  | some j => match o with
    | some (.vec _ n, w) => if w then [Reg.v n.toNat, Reg.v (n.toNat + 1)] else [Reg.v n.toNat]
    | some (.uni n, w) => if w then [Reg.k n.toNat, Reg.k (n.toNat + 1)] else [Reg.k n.toNat]
    | some (.ind x u, _) => match indIndex g cons j x.toNat u with
      | some r => if u then [Reg.k r] else [Reg.v r]
      | none => []
    | _ => []

/-- An indirect source has no index that stands in lane `j` (R83). -/
def srcIndexBad (g : Gang) (cons : Bool) (o : Option (Src × Bool)) (j : Option Nat) : Bool :=
  match o, j with
  | some (.ind x u, _), some j => (indIndex g cons j x.toNat u).isNone
  | _, _ => false

/-- The shuffle index of a SHFL's lane is the destination of an incomplete operation: its source lane is not known (R42). -/
def shuffleLocked (s : State) (g : Gang) (i : Instr) (b : Option (Src × Bool)) (j : Option Nat) : Bool :=
  match i with
  | .shfl _ _ _ => (srcRegs g s.cur.cons b j).any (locked s g.gid)
  | _ => false

/-- A lane that reads an indirect source without an index that stands, its own or that of the lane it reads (R83, R87, R141; log entry 18,
DEDUCED). -/
def indexBadLane (s : State) (g : Gang) (i : Instr) (m : ModFields) (l : Nat) : Bool :=
  let sh := shapeOf g s.cur.cons i
  let e := abLanes s g i m l
  (srcIndexBad g s.cur.cons sh.a e.1 && !shuffleLocked s g i sh.b e.2) || srcIndexBad g s.cur.cons sh.b e.2 ||
    srcIndexBad g s.cur.cons (sh.addr.map (fun a => (a, false))) (some l)

/-- Gang words that read the lowest active lane only (08_isa_control R146, R159). -/
def lowestOnly : Instr → Bool
  | .kmovK _ _ => true
  | .kmovV _ _ => true
  | _ => false

/-! ## Step 7: UNWAITED -/

/-- The address operand as a source: a pair, or an indirect 32-bit one (11_isa_memory R215). -/
def addrSrc (sh : Shape) : Option (Src × Bool) :=
  match sh.addr with
  | some (.ind x u) => some (.ind x u, false)
  | some src => some (src, true)
  | none => none

/-- A source whose register differs between lanes. -/
def laneSource (o : Option (Src × Bool)) : Bool :=
  match o with
  | some (.vec _ _, _) => true
  | some (.ind _ _, _) => true
  | _ => false

/-- Registers that lane `l` of a word reads or writes, indirect ones resolved in the lane that is read (07_isa_lane R141, log entry 18, DEDUCED);
a KMOV reads its lane's source in the lowest active lane `low` alone (08_isa_control R159). -/
def laneRegs (s : State) (g : Gang) (i : Instr) (m : ModFields) (low l : Nat) : List Reg :=
  let sh := shapeOf g s.cur.cons i
  let e := abLanes s g i m l
  let a := if (lowestOnly i && laneSource sh.a && l != low) || shuffleLocked s g i sh.b e.2 then none else e.1
  srcRegs g s.cur.cons sh.a a ++ srcRegs g s.cur.cons sh.b e.2 ++ srcRegs g s.cur.cons (addrSrc sh) (some l) ++
    sh.vr.map .v ++ sh.vw.map .v ++ sh.kr.map .k ++ sh.kw.map .k ++
    sh.pr.map .p ++ sh.pw.map .p ++ (if m.clamp = 3#2 then [Reg.k 126, Reg.k 127] else [])

def unwaitedLane (s : State) (g : Gang) (i : Instr) (m : ModFields) (low l : Nat) : Bool :=
  (laneRegs s g i m low l).any (locked s g.gid)

/-! ## POISON marks (step 8; R127, R217) -/

/-- Register words that lane `l` of a word reads: (lane, register). -/
def laneReads (s : State) (g : Gang) (i : Instr) (m : ModFields) (l : Nat) : List (Nat × Nat) :=
  let sh := shapeOf g s.cur.cons i
  let ofSrc := fun (o : Option (Src × Bool)) (j : Option Nat) => match o, j with
    | some (.vec p n, w), some j => let t := xbarLane g p.toNat j
      if w then [(t, n.toNat), (t, n.toNat + 1)] else [(t, n.toNat)]
    | some (.ind x false, _), some j => match indIndex g s.cur.cons j x.toNat false with
      | some r => [(j, r)]
      | none => []
    | _, _ => []
  let e := abLanes s g i m l
  ofSrc sh.a e.1 ++ ofSrc sh.b e.2 ++ ofSrc (addrSrc sh) (some l) ++ sh.vr.map (fun n => (l, n))

/-- The first mark among the words lane `l` reads. -/
def markRead (s : State) (g : Gang) (i : Instr) (m : ModFields) (l : Nat) : Option (Option Addr) :=
  firstSome (fun e => vMarkOf s g e.1 e.2) (laneReads s g i m l)

/-- The fault that a set of failing lanes gives. -/
def laneFault (code : Nat) (bad : List Nat) : Option Flt :=
  if bad = [] then none else some { code := code, mask := maskOf bad, addr := 0 }

/-- Which of the active lanes read poison marks, as POISON (R127, R217). -/
def poisonCheck (s : State) (g : Gang) (i : Instr) (m : ModFields) (act : LaneMask) : Chk :=
  let bad := (lanesOf (if lowestOnly i then 1#64 <<< lowLane act else act)).filter (fun l => (markRead s g i m l).isSome)
  match bad with
  | [] => .ok
  | l :: _ => .fault { code := fcPoison, mask := maskOf bad, addr := match markRead s g i m l with
    | some (some a) => a
    | _ => 0 }

/-- Steps 3 to 7 of one word (R88); of BANK and INDEX_BOUND in one word, BANK is reported, in every active lane (log entry 64, DESIGN CHOICE). -/
def stepFault (s : State) (g : Gang) (bw : BundleWord) (step : Nat) : Option Flt :=
  let act := checkLanes s g s.cur.lanes bw.word bw.mod
  let m := bw.mod.getD plainMod
  if act = 0 then none else
  match bw.word with
  | none => if step = 3 then some { code := fcIllegal, mask := act, addr := 0 } else none
  | some i =>
    match step with
    | 3 => if illegalWord g s.cur.solo bw.word bw.mod then some { code := fcIllegal, mask := act, addr := 0 } else none
    | 4 => if sourceBad g s.cur.cons i then some { code := fcSource, mask := act, addr := 0 } else none
    | 5 => if csrBad i then some { code := fcCsr, mask := act, addr := 0 } else none
    | 6 =>
      if bankBad g s.cur.cons i then some { code := fcBank, mask := act, addr := 0 }
      else laneFault fcIndex ((lanesOf (if lowestOnly i then 1#64 <<< lowLane act else act)).filter (indexBadLane s g i m))
    | 7 =>
      if guardLocked s g bw.word bw.mod then some { code := fcUnwaited, mask := act, addr := 0 }
      else laneFault fcUnwaited ((lanesOf act).filter (unwaitedLane s g i m (lowLane act)))
    | _ => none

end Sys2Proof.Machine
end

