-- ==== Sys2Proof/Machine/Flags.lean ====
section
/-! DEFINITION. Every flag and condition computation: finishing fields of a MOD word (03_numbers R54, 04_encoding R87), conditions
and predicate logic (05_opcode_map R98, R99), and the results of lane words as pending results (07_isa_lane R123, R124). -/

namespace Sys2Proof.Machine

/-- The gang's effective rounding mode under a MOD word (R47). -/
def effMode (g : Gang) (m : ModFields) : Nat := if m.rnd = 0#2 then bitsN g.csr.rmode.toNat 0 2 else m.rnd.toNat

/-- Finishing fields of a word; `lo` and `hi` read k126 and k127 (R87). -/
def finOf (g : Gang) (m : ModFields) : Fin :=
  { neg := m.neg, scale := m.scale.toInt, sat := m.sat, clamp := m.clamp.toNat, mode := effMode g m,
    lo := (rdK g 126).toNat, hi := (rdK g 127).toNat }

/-- Half `j` of a packed word (R53). -/
def halfOf (x : Word) (j : Nat) : Nat := bitsN x.toNat (16 * j) 16

/-- The finishing fields of element `j` of a packed word. -/
def finHalf (q : Fin) (j : Nat) : Fin := { q with lo := bitsN q.lo (16 * j) 16, hi := bitsN q.hi (16 * j) 16 }

/-- A packed result of its two elements. -/
def packHalves (f : Nat → Res) : Res :=
  { bits := (f 0).bits % 65536 + 65536 * ((f 1).bits % 65536), flags := (f 0).flags ||| (f 1).flags }

/-- The flags of several results. -/
def flagsOf (rs : List Res) : Word := rs.foldl (fun acc r => acc ||| r.flags) 0

def flagAct (f : Word) : List PendAct := if f = 0 then [] else [.flags f]

/-- Results of one register for the active lanes, visible `lat` ticks on, with the flags of all of them (R49, R123). -/
def laneResults (s : State) (g : Gang) (lat d : Nat) (act : LaneMask) (f : Nat → Res) : State :=
  let rs := (lanesOf act).map (fun l => (l, f l))
  pushPend s g lat (rs.map (fun e => .write (.v e.1 d) (BitVec.ofNat 32 e.2.bits)) ++ flagAct (flagsOf (rs.map (·.2))))

/-- Results of a register pair, no flags. -/
def lanePairs (s : State) (g : Gang) (lat d : Nat) (act : LaneMask) (f : Nat → BitVec 64) : State :=
  pushPend s g lat ((lanesOf act).flatMap (fun l => [.write (.v l d) (lo32 (f l)), .write (.v l (d + 1)) (hi32 (f l))]))

/-- Predicate results of the active lanes. -/
def predResults (s : State) (g : Gang) (lat p : Nat) (act : LaneMask) (f : Nat → Bool) : State :=
  pushPend s g lat ((lanesOf act).map (fun l => .write (.p l p) (if f l then 1 else 0)))

/-- A uniform result (08_isa_control R146). -/
def uniResult (s : State) (g : Gang) (lat k : Nat) (v : Word) : State := pushPend s g lat [.write (.k k) v]

/-- ICMP's conditions (R98). -/
def intCond (c : Nat) (a b : Word) : Bool :=
  match c with
  | 0 => a == b
  | 1 => a != b
  | 2 => decide (a.toInt < b.toInt)
  | 3 => decide (a.toInt ≤ b.toInt)
  | 4 => decide (a.toNat < b.toNat)
  | 5 => decide (a.toNat ≤ b.toNat)
  | 6 => decide (b.toInt < a.toInt)
  | _ => decide (b.toNat < a.toNat)

/-- A key that orders a format's numbers with -0 equal to +0 (R98). -/
def numKey (f : Fmt) (x : Nat) : Int := if signOf f x then - (magOf f x : Int) else (magOf f x : Int)

/-- FCMP's and HCMP's conditions (R98). -/
def floatCond (f : Fmt) (c a b : Nat) : Bool :=
  let un := isNaN f a || isNaN f b
  let x := numKey f a
  let y := numKey f b
  match c with
  | 0 => !un && decide (x = y)
  | 1 => un || decide (x ≠ y)
  | 2 => !un && decide (x < y)
  | 3 => !un && decide (x ≤ y)
  | 4 => !un && decide (y < x)
  | 5 => !un && decide (y ≤ x)
  | 6 => un
  | _ => !un

/-- PLOG's operations (R99). -/
def predLogic (op : Nat) (a b : Bool) : Bool :=
  match op with
  | 0 => a && b
  | 1 => a || b
  | 2 => xor a b
  | 3 => a && !b
  | 4 => a || !b
  | 5 => !(a && b)
  | 6 => !(a || b)
  | _ => !(xor a b)

/-- `opmod` of an integer operand: the absolute value, then the negation, exactly (R54). -/
def intOp (abs neg : Bool) (x : Word) : Int :=
  let a := if abs then (x.toInt.natAbs : Int) else x.toInt
  if neg then -a else a

/-- `opmod` of a float operand's pattern (07_isa_lane R129). -/
def floatOp (f : Fmt) (abs neg : Bool) (x : Nat) : Nat :=
  let a := if abs then magOf f x else x
  if neg then (if signOf f a then magOf f a else withSign f true (magOf f a)) else a

end Sys2Proof.Machine
end

