-- ==== Sys2Proof/Machine/Access.lean ====
section
/-! DEFINITION. Where the lanes of a memory word go (09_memories R169, R170, R191; 10_consistency R194), the reads and writes of one
granule at the place its scope selects (R202 to R204, R207), and what must come before them (R199 to R201, R205). -/

namespace Sys2Proof.Machine

/-! ## Placing an access -/

/-- The outcome of one lane's address tests (11_isa_memory R216). -/
inductive LaneChk where
  | ok (ps : List Piece)
  | hold (pages : List Nat)
  | bad (code : Nat) (addr : Nat)
deriving DecidableEq, Repr

/-- A place some bytes on. -/
def placeAdd (p : Place) (k : Nat) : Place :=
  match p with
  | .mem pa va => .mem (pa + k) (va + k)
  | .peer ga va => .peer (ga + k) (va + k)
  | .mcast g o va => .mcast g (o + k) (va + k)
  | .scr b o => .scr b (o + k)
  | .die c d o => .die c d (o + k)

/-- Byte length of a MEM width (11_isa_memory R218). -/
def widthBytes (g : Gang) (width : Nat) : Nat :=
  match width with
  | 0 => 1
  | 1 => 1
  | 2 => 2
  | 3 => 2
  | 4 => 4
  | 5 => 8
  | 6 => 16
  | _ => 6 * l6Len g / 8

/-- Parts of an access: an l6 block may cross a line (R191). -/
def partsOf (va n : Nat) (l6 : Bool) : List (Nat × Nat) :=
  if l6 && decide (va % 128 + n > 128) then [(va, 128 - va % 128), (va + (128 - va % 128), n - (128 - va % 128))] else [(va, n)]

/-- Granule of an access (10_consistency R194). -/
def granule (n : Nat) (l6 : Bool) : Nat := if l6 then 4 else if n = 16 then 8 else n

/-- A part as pieces. -/
def piecesOf (lane off : Nat) (p : Place) (len gr : Nat) : List Piece :=
  (List.range (len / gr)).map (fun i =>
    { lane := lane, off := off + i * gr, place := placeAdd p (i * gr), len := gr, st := .todo, data := [], psn := [] })

/-- Element bytes of a multicast group's format (15_tables_counters R289). -/
def groupElem (d : GroupSpec) : Nat :=
  match (d.trec.extractLsb' 0 3).toNat with
  | 0 => 2
  | 1 => 2
  | 2 => 1
  | 3 => 1
  | _ => 4

/-- What may be done on a multicast page (11_isa_memory R230, 18_fabric_collectives R345, R347, R348). -/
inductive McUse where
  | load
  | store
  | none
deriving DecidableEq, Repr

def mcastCheck (s : State) (grp off n : Nat) (l6 : Bool) (u : McUse) : Option Nat :=
  match groupDesc s grp with
  | Option.none => some fcXlate
  | some d =>
    if d.size < off + n then some fcSpace
    else match u with
      | .none => some fcProtect
      | .store => Option.none
      | .load => if l6 || decide (d.op = 0#2) || decide (n % groupElem d ≠ 0) then some fcProtect else Option.none

/-- A byte range lies within its space (R169, R170). -/
def spaceOk (s : State) (g : Gang) (space va n : Nat) : Bool :=
  match space with
  | 1 => match blockOf s g.blk with
    | some b => decide (va + n ≤ blockBytes b)
    | none => false
  | 2 => decide (va + n ≤ 4096 * (windowOf s g.ctx (g.core / 40)).length)
  | _ => decide (va + n ≤ 2 ^ 56)

/-- Translation and permission of one part (R174, R175, R183). -/
def placePart (s : State) (g : Gang) (space va n : Nat) (l6 : Bool) (acc : Acc) (u : McUse) : Xl :=
  match space with
  | 1 => .place (.scr g.blk va)
  | 2 => .place (.die g.ctx (g.core / 40) va)
  | _ => match translate s g.core g.ctx va acc with
    | .place (.mcast grp off va) => match mcastCheck s grp off n l6 u with
      | some c => .fault c
      | none => .place (.mcast grp off va)
    | x => x

/-- Kinds of the packets that a byte range touches (R183). -/
def poolKinds (s : State) (core ctx va n : Nat) : List (Except Nat Nat) :=
  (List.range ((va + n - 1) / 16 - va / 16 + 1)).map (fun k => packetKind s core ctx ((va / 16 + k) * 16))

/-- The order of R170: SPACE, ALIGN, XLATE, PROTECT. -/
def memRank (code : Nat) : Nat :=
  if code = fcSpace then 0 else if code = fcAlign then 1 else if code = fcXlate then 2 else 3

/-- The first of some faults in that order, the earliest among equals. -/
def firstRanked : List (Nat × Nat) → Option (Nat × Nat)
  | [] => none
  | x :: xs => match firstRanked xs with
    | none => some x
    | some y => if memRank y.1 < memRank x.1 then some y else some x

/-- The faults of the parts, each with its address. -/
def partFaults (xs : List ((Nat × Nat) × Xl)) : List (Nat × Nat) :=
  xs.filterMap (fun e => match e.2 with
    | .fault c => some (c, e.1.1)
    | _ => none)

/-- The tests of one lane, in the order of R170 and R216: SPACE, ALIGN, translation, permission, the code-pool test. Nothing is reported
while a part still waits for its walk; where both parts fail, the first of the two faults in that order, at the first byte of the block (R191;
log entry 70, DEDUCED). -/
def laneAccess (s : State) (g : Gang) (space va n align : Nat) (l6 : Bool) (acc : Acc) (u : McUse) (lane : Nat) : LaneChk :=
  let parts := partsOf va n l6
  match parts.find? (fun e => !spaceOk s g space e.1 e.2) with
  | some e => .bad fcSpace (if l6 then e.1 else va)
  | none =>
    if va % align ≠ 0 then .bad fcAlign va
    else
      let xs := parts.map (fun e => (e, placePart s g space e.1 e.2 l6 acc u))
      let holds := xs.filterMap (fun e => match e.2 with | .hold p => some p | _ => none)
      if holds ≠ [] then .hold holds
      else match firstRanked (partFaults xs) with
        | some (c, _) => .bad c (((partFaults xs).map (·.2)).headD va)
        | none =>
          let kinds := if space = 3 then poolKinds s g.core g.ctx va n else []
          let waits := kinds.filterMap (fun k => match k with
            | .error p => some p
            | .ok _ => none)
          if waits ≠ [] then .hold waits
          else if kinds.any (fun k => match k with
            | .ok q => q != 1 && q != 2
            | .error _ => false) then .bad fcSpace va
          else .ok (xs.flatMap (fun e => match e.2 with
          | .place p => piecesOf lane (e.1.1 - va) p e.1.2 (granule n l6)
          | _ => []))

/-- The outcome of all lanes (R216): hold until all are translated, then the lowest failing lane's fault. -/
def gatherLanes (xs : List (Nat × LaneChk)) : Chk :=
  let holds := xs.flatMap (fun e => match e.2 with | .hold p => p | _ => [])
  if holds ≠ [] then .hold holds
  else match firstSome (fun e : Nat × LaneChk => match e.2 with | .bad c a => some (c, a) | _ => none) xs with
    | some (c, a) =>
      let fails := xs.filter (fun e => match e.2 with
        | .bad c2 _ => c2 == c
        | _ => false)
      .fault { code := c, addr := BitVec.ofNat 64 a, mask := maskOf (fails.map (·.1)) }
    | none => .ok

/-- The pieces of all lanes. -/
def lanePieces (xs : List (Nat × LaneChk)) : List Piece := xs.flatMap (fun e => match e.2 with | .ok ps => ps | _ => [])

/-! ## What must come before (10_consistency R199 to R201, R205) -/

def placesMeet (p : Place) (n : Nat) (q : Place) (m : Nat) : Bool :=
  match p, q with
  | .mem a _, .mem b _ => decide (a < b + m) && decide (b < a + n)
  | .peer a _, .peer b _ => decide (a < b + m) && decide (b < a + n)
  | .mcast g a _, .mcast h b _ => g == h && decide (a < b + m) && decide (b < a + n)
  | .scr g a, .scr h b => g == h && decide (a < b + m) && decide (b < a + n)
  | .die c d a, .die c2 d2 b => c == c2 && d == d2 && decide (a < b + m) && decide (b < a + n)
  | _, _ => false

/-- The whole 128-byte line or range that holds a place. -/
def lineStart (p : Place) : Place :=
  match p with
  | .mem a v => .mem (a / 128 * 128) (v / 128 * 128)
  | .peer a v => .peer (a / 128 * 128) (v / 128 * 128)
  | .mcast g o v => .mcast g (o / 128 * 128) (v / 128 * 128)
  | .scr b o => .scr b (o / 128 * 128)
  | .die c d o => .die c d (o / 128 * 128)

/-- A copy may write its ring slot: the slot has been freed for its round (13_queues R266). -/
def slotReady (s : State) (core : Nat) (slot : Option (Nat × Nat)) : Bool :=
  match slot with
  | none => true
  | some (obj, round) => match s.rings.find? (fun r => r.core == core && r.obj == obj) with
    | some r => decide (round < r.rel + r.nslot)
    | none => true

/-- Destinations that an engine operation in flight owns (R205), as (place, bytes); a copy that waits for its ring slot owns none. -/
def engineDests (s : State) (o : Op) : List (Place × Nat) :=
  match o.kind with
  | .cpy size _ slot c lanes => if slotReady s o.core slot && !c then lanes.map (fun c => (c.dst, size)) else []
  | .acmov aop _ _ _ _ _ _ _ => if aop = 0 ∨ aop = 1 then o.pieces.map (fun p => (p.place, p.len)) else []
  | _ => []

/-- Lines and ranges of 128 bytes that `n` bytes at a place touch, whole. -/
def linesOf (p : Place) (n : Nat) : List Place :=
  let k := match p with
    | .mem a _ => a % 128
    | .peer a _ => a % 128
    | .mcast _ o _ => o % 128
    | .scr _ o => o % 128
    | .die _ _ o => o % 128
  (List.range ((k + n - 1) / 128 + 1)).map (fun i => placeAdd (lineStart p) (128 * i))

/-- A destination range of an engine shares a line with a place. -/
def ownsLine (d : Place × Nat) (p : Place) (n : Nat) : Bool :=
  (linesOf p n).any (fun x => (linesOf d.1 d.2).any (fun y => placesMeet x 128 y 128))

/-- A chunk's PULL in flight owns the line of a place (R205). -/
def chunkOwns (s : State) (p : Place) (n : Nat) : Bool := s.chunks.any (fun k => k.dests.any (fun d => ownsLine d p n))

/-- An engine operation in flight owns the line of a place that an operation is to access: one issued before it (R205; log entry 87, DEDUCED). -/
def engineOwns (s : State) (self : Op) (p : Place) (n : Nat) : Bool :=
  chunkOwns s p n || s.ops.any (fun o => decide (o.id < self.id) && (engineDests s o).any (fun d => ownsLine d p n))

/-- An engine of this package owns a line of its memory: another package's access to it waits (R205). -/
def engineHolds (s : State) (line : Nat) : Bool :=
  let p : Place := .mem (128 * line) 0
  chunkOwns s p 128 || s.ops.any (fun o => (engineDests s o).any (fun d => ownsLine d p 128))

def isMemOp (o : Op) : Bool :=
  match o.kind with
  | .load _ _ _ _ _ _ => true
  | .store _ _ => true
  | .atom _ _ _ _ _ _ _ _ => true
  | .zfill _ => true
  | .cline _ => true
  | .cpy _ _ _ _ _ => true
  | .fence _ _ _ => true
  | _ => false

def isLoadOp (o : Op) : Bool :=
  match o.kind with
  | .load _ _ _ _ _ _ => true
  | .atom _ _ _ _ _ ret _ _ => ret
  | _ => false

def isAcq : Order → Bool
  | .acquire => true
  | .acqrel => true
  | _ => false

def isRel : Order → Bool
  | .release => true
  | .acqrel => true
  | _ => false

def opOrder (o : Op) : Order :=
  match o.kind with
  | .load _ _ _ _ ord _ => ord
  | .store _ ord => ord
  | .atom _ _ _ ord _ _ _ _ => ord
  | _ => .relaxed

/-- A ZFILL's piece that stands for other lanes too, which its `psn` lists: lanes that name one line zero it once (11_isa_memory R227). -/
def sharesPiece (k : OpKind) (p : Piece) (l : Nat) : Bool :=
  match k with
  | .zfill _ => p.psn.contains l
  | _ => false

/-- Pieces of an operation that lane `l` has not performed. -/
def undone (o : Op) (l : Nat) : List (Place × Nat) :=
  (o.pieces.filter (fun p => (p.lane == l || sharesPiece o.kind p l) && decide (p.st ≠ .done))).map (fun p => (p.place, p.len)) ++
    (match o.kind with
     | .atom _ wide _ _ _ _ _ gs => (gs.filter (fun x => x.lanes.contains l && decide (x.st ≠ .done))).map (fun x => (x.place, if wide then 8 else 4))
     | _ => [])

/-- Earlier operations of the same thread. -/
def earlier (s : State) (o : Op) (l : Nat) : List Op :=
  s.ops.filter (fun x => x.gid == o.gid && decide (x.id < o.id) && x.lanes.getLsbD l && isMemOp x)

/-- An access of lane `l` at a place may be performed now: no incomplete FENCE or acquire before it (R201, 11_isa_memory R224), no
undone access of the thread to the same granule (R199), no engine on its line (R205), and for a store no undone load (R200). -/
def mayPerform (s : State) (o : Op) (l : Nat) (p : Place) (n : Nat) (writes : Bool) : Bool :=
  let es := earlier s o l
  es.all (fun e =>
    (match e.kind with
      | .fence _ _ _ => false
      | _ => true) &&
    !(isAcq (opOrder e) && decide (undone e l ≠ [])) &&
    !(undone e l).any (fun u => placesMeet p n u.1 u.2) &&
    !(writes && isLoadOp e && decide (undone e l ≠ []))) &&
  !engineOwns s o p n

/-- Homes of the thread's earlier stores to peer memory that have not got ownership, and lost members that have not performed its aperture stores
(R207, R208, 18_fabric_collectives R347). -/
def unownedPeers (s : State) (gid l : Nat) : List Nat :=
  (s.l2.filter (fun r => r.peer && decide (r.dirty ≠ 0) && !r.owned && r.who.contains (gid, l))).map (fun r => r.line * 128 / 2 ^ 45) ++
    (s.fab.mlost.filter (fun e => e.1 == gid && e.2.1 == l)).map (fun e => e.2.2)

/-- Lanes that a piece of an operation writes for (R192, 11_isa_memory R227). -/
def pieceLanes (k : OpKind) (p : Piece) : List Nat :=
  match k with
  | .zfill _ => p.lane :: p.psn
  | _ => [p.lane]

/-- Every earlier access of lane `l` has been performed where its own scope puts it (R201). -/
def accessesDone (s : State) (o : Op) (l : Nat) : Bool :=
  (earlier s o l).all (fun e => decide (undone e l = []) && (match e.kind with
    | .cpy _ _ _ _ _ => false
    | .cline _ => false
    | _ => true))

/-- Every earlier memory word of lane `l`, and every FENCE (R201, 11_isa_memory R224). -/
def laneDone (s : State) (o : Op) (l : Nat) : Bool :=
  accessesDone s o l && (earlier s o l).all (fun e => match e.kind with
    | .fence _ _ _ => false
    | _ => true)

/-! ## One granule (R202) -/

/-- The place an access is performed at, by its scope: 0 L1, 1 L2, 2 home. On scratchpads there is one place. -/
def scopePlace (scope : Nat) : Nat := if scope < 3 then 0 else if scope < 6 then 1 else 2

/-- Poison of a line's 4-byte granules from that of its 32-byte ones (R188). -/
def spreadPsn (p : Nat → Bool) : BitVec 32 := (List.range 32).foldl (fun m k => if p (k / 8) then m ||| (1#32 <<< k) else m) 0

/-- The 4-byte granules that a mask covers whole. -/
def wholeWords (mask : BitVec 128) : BitVec 32 :=
  (List.range 32).foldl (fun m k => if mask.extractLsb' (4 * k) 4 = 0xF#4 then m ||| (1#32 <<< k) else m) 0

/-- The L1 copy of a line, filled from L2 where it is absent; none for a peer line that L2 does not hold. -/
def l1Filled (s : State) (core ctx : Nat) (peer : Bool) (line va : Nat) : Option (L1Line × State) :=
  match l1Line s core peer line with
  | some r => some (r, s)
  | none =>
    let mk := fun (s : State) (data : List Byte) (psn : BitVec 32) =>
      let r : L1Line := { core := core, peer := peer, line := line, ctx := ctx, va := va, data := data, dirty := 0, tag := 0, who := [],
                          psn := psn, cap0 := false, cap1 := false, pre0 := 0, pre1 := 0 }
      some (r, setL1 s r)
    if peer then
      match l2Line s true line with
      | some r => if r.filled then mk s r.data (spreadPsn (fun g => r.psn.getLsbD g)) else none
      | none => none
    else mk (fillL2 s line ctx va) (dirBytes s (128 * line) 128) (spreadPsn (fun g => memPoisoned s (128 * line + 32 * g)))

/-- L1 copies of a line brought up to L2's bytes where they are not Dirty: of one core, or of all (R199: no later read there is older). -/
def freshenL1 (core : Option Nat) (peer : Bool) (line : Nat) (s : State) : State :=
  let fresh : Option (List Byte × BitVec 32) :=
    if peer then (match l2Line s true line with
      | some r => if r.filled then some (r.data, spreadPsn (fun g => r.psn.getLsbD g)) else none
      | none => none)
    else some (dirBytes s (128 * line) 128, spreadPsn (fun g => memPoisoned s (128 * line + 32 * g)))
  match fresh with
  | some (data, psn) => { s with l1 := s.l1.map (fun x =>
      if x.peer == peer && x.line == line && (match core with
          | some c => x.core == c
          | none => true) then
        { x with data := mergeBytes x.dirty x.data data, psn := (x.psn &&& wholeWords x.dirty) ||| (psn &&& ~~~wholeWords x.dirty) } else x) }
  | none => s

/-- Drop the core's copy of a line after writing back its Dirty bytes (R202). -/
def flushL1 (s : State) (core : Nat) (peer : Bool) (line : Nat) : State :=
  match l1Line s core peer line with
  | some r =>
    let s1 := writeBackL1 r s
    { s1 with l1 := s1.l1.filter (fun x => !(x.core == core && x.line == line && x.peer == peer)) }
  | none => s

/-- A place in a peer line. -/
def onLine (line : Nat) : Place → Bool
  | .peer ga _ => ga / 128 == line
  | _ => false

/-- Another operation's store or atomic of pod or system scope is on its way to a peer line's home: what follows it here waits, and reads the
line again (R199, R200, R211). -/
def homeBusy (s : State) (self line : Nat) : Bool :=
  s.ops.any (fun o => o.id != self && (match o.kind with
    | .store scope _ => decide (6 ≤ scope) && o.pieces.any (fun p => decide (p.st = .sent) && onLine line p.place)
    | .zfill scope => decide (6 ≤ scope) && o.pieces.any (fun p => decide (p.st = .sent) && onLine line p.place)
    | .atom _ _ scope _ _ _ _ gs => decide (6 ≤ scope) && gs.any (fun x => decide (x.st = .sent) && onLine line x.place)
    | _ => false))

/-- This package has bytes posted to a peer line whose ownership has not come (R207). -/
def posted (s : State) (line : Nat) : Bool :=
  match l2Line s true line with
  | some r => decide (r.dirty ≠ 0) && !r.owned
  | none => false

/-- A store performed at a peer line's home has passed this package's copies by: the core's goes, and L2's is whole no longer. -/
def passBy (core line : Nat) (s : State) : State :=
  let t := staleReads line (flushL1 s core true line)
  match l2Line t true line with
  | some r => if r.dirty = 0 && !r.owned then dropL2 t true line else setL2 t { r with filled := false, zero := false }
  | none => t

/-- What reading one granule gives: the bytes and the poisoned ones, or a request sent, or nothing yet. -/
inductive Rd where
  | got (bytes : List Byte) (psn : List Nat) (s : State)
  | sent (s : State)
  | wait (s : State)

/-- Poisoned ones of `n` bytes of a peer line in L2. -/
def peerPsn (s : State) (ga n : Nat) : List Nat :=
  match l2Line s true (ga / 128) with
  | some r => (List.range n).filter (fun i => r.psn.getLsbD ((ga + i) % 128 / 32))
  | none => []

/-- The granule as an L1 line holds it. -/
def l1Read (r : L1Line) (off n : Nat) (s : State) : Rd :=
  .got (slice r.data off n) ((List.range n).filter (fun i => r.psn.getLsbD ((off + i) / 4))) s

/-- The core's own Dirty bytes of a line written back (R202). -/
def settleOwn (s : State) (core : Nat) (peer : Bool) (line : Nat) : State :=
  match l1Line s core peer line with
  | some r => writeBackL1 r s
  | none => s

/-- Read `n` bytes at a place for an operation of a core (its id in `tag`), at a scope; `acq` goes with a multicast load. -/
def readPlace (s : State) (core ctx tag : Nat) (scope : Nat) (acq : Bool) (p : Place) (n : Nat) : Rd :=
  match p with
  | .scr b off => match blockOf s b with
    | some blk => .got ((List.range n).map (fun i => scrByte s blk (off + i))) ((List.range n).filter (fun i => scrPoisoned s blk (off + i))) s
    | none => .got (List.replicate n 0) [] s
  | .die c d off => .got ((List.range n).map (fun i => dieByte s c d (off + i))) ((List.range n).filter (fun i => diePoisoned s c d (off + i))) s
  | .mem pa va =>
    let line := pa / 128
    if !homeFree s line false then .wait (homeAsk s line)
    else if scopePlace scope = 0 then
      match l1Filled s core ctx false line (va / 128 * 128) with
      | some (r, s1) => l1Read r (pa % 128) n s1
      | none => .wait s
    else
      let s1 := fillL2 (settleOwn s core false line) line ctx (va / 128 * 128)
      .got (dirBytes s1 pa n) ((List.range n).filter (fun i => memPoisoned s1 (pa + i))) (freshenL1 (some core) false line s1)
  | .peer ga va =>
    let line := ga / 128
    if scopePlace scope = 0 then
      match l1Filled s core ctx true line (va / 128 * 128) with
      | some (r, s1) => l1Read r (ga % 128) n s1
      | none => .sent (askRead s line tag false core)
    else if homeBusy s (tag / 4096) line then .wait s
    else
      let s1 := settleOwn s core true line
      match l2Line s1 true line with
      | some r =>
        if r.filled && (r.owned || decide (scopePlace scope = 1)) then
          .got (slice r.data (ga % 128) n) (peerPsn s1 ga n) (freshenL1 (some core) true line s1)
        else .sent (askRead s1 line tag false core)
      | none => .sent (askRead s1 line tag false core)
  | .mcast grp off _ => match groupDesc s grp with
    | some d => .sent (sendPkt s (pktOf s ((d.members.map (·.1)).headD 0) 9 0 (grp * 2 ^ 32 + off) (.mload tag n acq)))
    | none => .wait s

/-- A mask of bytes `off` to `off + n - 1` of a line. -/
def byteMask (off n : Nat) : BitVec 128 := BitVec.ofNat 128 ((2 ^ n - 1) * 2 ^ off)

/-- Bytes placed at offset `off` of a line. -/
def lineBytes (off : Nat) (bytes : List Byte) : List Byte := List.replicate off 0 ++ bytes ++ List.replicate (128 - off - bytes.length) 0

/-- What writing one granule gives: performed, a packet sent, or nothing yet. -/
inductive Wt where
  | done (s : State)
  | sent (s : State)
  | wait (s : State)

/-- A store below cluster scope in the core's L1 (R184, R202), with the line's colour marks and its pre-cut bytes (R306, R308, R310). -/
def writeL1 (s : State) (w : Wr) (core : Nat) (r : L1Line) (off scope : Nat) (bytes : List Byte) : State :=
  let s := if wrPre w .c0 then s else captureL1 .c0 r s
  let s := if wrPre w .c1 then s else captureL1 .c1 r s
  let r1 := (l1Line s core r.peer r.line).getD r
  let mask := byteMask off bytes.length
  let data := mergeBytes mask (lineBytes off bytes) r1.data
  let pre := fun (old : BitVec 128) (c : Colour) => if wrPre w c then old ||| mask else old &&& ~~~mask
  let s := setL1 s { r1 with data := data, dirty := r1.dirty ||| mask,
                             psn := r1.psn &&& ~~~wholeWords mask, tag := if r1.dirty = 0 then scope else min r1.tag scope,
                             who := r1.who ++ w.who.filter (fun x => !r1.who.contains x), pre0 := pre r1.pre0 .c0, pre1 := pre r1.pre1 .c1 }
  lateL1 w .c1 r1.cap1 core r1.peer (r1.va / 128 * 128) r1.line mask data
    (lateL1 w .c0 r1.cap0 core r1.peer (r1.va / 128 * 128) r1.line mask data s)

/-- The release note of a gang- or block-scope release, to the line's home (R204). -/
def releaseNote (s : State) (core : Nat) (p : Place) : State :=
  match p with
  | .mem pa _ => setDir s { dirLine s (pa / 128) with note := some (s.fab.lid, core) }
  | .peer ga _ => sendPkt s (pktOf s (ga / 2 ^ 45) 4 0 (ga / 128 * 128) (.req (ga / 128) true core))
  | _ => s

/-- Write bytes at a place for an operation of a core (its id in `tag`), at a scope (R202, R207, 18_fabric_collectives R347). A store of pod or
system scope to a peer line goes to its home, unless this package owns the line; it waits for the ownership of bytes posted before it. -/
def writePlace (s : State) (w : Wr) (core tag scope : Nat) (p : Place) (bytes : List Byte) : Wt :=
  match p with
  | .scr b off => match blockOf s b with
    | some blk => .done (writeScr w blk off bytes s)
    | none => .done s
  | .die c d off => .done (writeDie w c d off bytes s)
  | .mem pa va =>
    let line := pa / 128
    if !homeFree s line true then .wait (homeAsk s line)
    else if scopePlace scope = 0 then
      match l1Filled s core w.ctx false line (va / 128 * 128) with
      | some (r, s1) => .done (writeL1 s1 w core r (pa % 128) scope bytes)
      | none => .wait s
    else if !lineRoom w line s then .wait s
    else
      let s1 := writeLine w line (va / 128 * 128) (byteMask (pa % 128) bytes.length) (lineBytes (pa % 128) bytes) (settleOwn s core false line)
      .done (freshenL1 (some core) false line s1)
  | .peer ga va =>
    let line := ga / 128
    let mask := byteMask (ga % 128) bytes.length
    let data := lineBytes (ga % 128) bytes
    if scopePlace scope = 0 then
      match l1Filled s core w.ctx true line (va / 128 * 128) with
      | some (r, s1) => .done (writeL1 s1 w core r (ga % 128) scope bytes)
      | none => .sent (askRead s line tag false core)
    else if homeBusy s (tag / 4096) line then .wait s
    else
      let s1 := settleOwn s core true line
      let owned := match l2Line s1 true line with
        | some r => r.owned
        | none => false
      if scopePlace scope = 1 || owned then
        .done (freshenL1 (some core) true line (writePeerLine w line (va / 128 * 128) mask data { s1 with l1 := s1.l1.map (fun x =>
          if x.core == core && x.line == line && x.peer then { x with data := mergeBytes mask data x.data, psn := x.psn &&& ~~~wholeWords mask }
          else x) }))
      else if posted s1 line then .wait s1
      else
        let s2 := lateL2 w .c1 false (va / 128 * 128) line mask data (lateL2 w .c0 false (va / 128 * 128) line mask data (passBy core line s1))
        .sent (sendPkt s2 (pktOf s2 (ga / 2 ^ 45) 4 ((bytes.length + 31) / 32) ga (.data tag mask data 0)))
  | .mcast grp off _ => match groupDesc s grp with
    | some d => .sent (sendPkt s (pktOf s ((d.members.map (·.1)).headD 0) 8 ((bytes.length + 31) / 32) (grp * 2 ^ 32 + off)
        (.data tag (byteMask (off % 128) bytes.length) (lineBytes (off % 128) bytes) 0)))
    | none => .wait s

end Sys2Proof.Machine
end

