-- ==== Sys2Proof/Machine/Objects.lean ====
section
/-! DEFINITION. Barrier objects (15_tables_counters R293 to R296), copy rings (13_queues R265 to R267, 17_isa_sync_system R333),
reservation records and accumulator banks by name (15_tables_counters R288, 12_isa_tiles R237, R242, R250). -/

namespace Sys2Proof.Machine

/-! ## Barrier objects -/

def hClu (h : Word) : Nat := bitsN h.toNat 24 6
def hSlot (h : Word) : Nat := bitsN h.toNat 14 10
def hGen (h : Word) : Nat := bitsN h.toNat 0 14

/-- The handle of an object (R294). -/
def barHandle (clu slot gen : Nat) : Word := BitVec.ofNat 32 (clu * 2 ^ 24 + slot * 2 ^ 14 + gen)

/-- An object at its reset values (R293). -/
def noBar (clu slot : Nat) : BarRow :=
  { clu := clu, slot := slot, valid := false, owner := 0, scope := 0, exp := 0, arr := 0, txb := 0, phase := false, ref := 0, gen := 1 }

def barAt (s : State) (clu slot : Nat) : BarRow :=
  (s.bars.find? (fun b => b.clu == clu && b.slot == slot)).getD (noBar clu slot)

def setBar (s : State) (b : BarRow) : State :=
  { s with bars := b :: s.bars.filter (fun x => !(x.clu == b.clu && x.slot == b.slot)) }

/-- The object of a live handle (R294), by its low 31 bits. -/
def barLive (s : State) (ctx : Nat) (h : Word) : Option BarRow :=
  if h.getLsbD 31 || h.getLsbD 30 || decide (39 < hClu h) then none
  else
    let b := barAt s (hClu h) (hSlot h)
    if b.valid && b.owner == ctx && b.gen == hGen h then some b else none

/-- The object a handle names, whoever asks, while it is valid. -/
def barNamed (s : State) (h : Word) : Option BarRow :=
  let b := barAt s (hClu h) (hSlot h)
  if b.valid && b.gen == hGen h then some b else none

/-- `barrier_update` (R296): phases complete while arrivals suffice and no bytes pend; `fuel` bounds their number. The flag says
whether one completed. -/
def barPhases : Nat → BarRow → Bool → BarRow × Bool
  | 0, b, t => (b, t)
  | fuel + 1, b, t =>
    if b.exp ≤ b.arr ∧ b.txb = 0 ∧ 0 < b.exp then barPhases fuel { b with arr := b.arr - b.exp, phase := !b.phase } true else (b, t)

/-- Waiters of an object: BWAITs, MMAs and queue heads that name it (R245, R255, R331, R332). -/
def barTell (s : State) (h : Word) (done : Bool) : State :=
  { s with
    gangs := s.gangs.map (fun g => match g.blocked with
      | some (.bwait h2 pd lanes none) => if h2 = h then { g with blocked := some (.bwait h2 pd lanes (some done)) } else g
      | _ => g),
    ops := s.ops.map (fun o => match o.kind with
      | .mma b => if b.wv && decide (b.wh = h) then { o with kind := .mma { b with waited := true } } else o
      | _ => o),
    queues := s.queues.map (fun q => match q.seen with
      | some (h2, _) => if h2 = h then { q with seen := if done then some (h2, true) else none } else q
      | none => q) }

/-- A change to ARR, TXB or EXP stored, saturating its fields (R296, BAROVF of R299), and the phases it completes. -/
def barStore (s : State) (b : BarRow) : State :=
  let arr := min b.arr (2 ^ 21 - 1)
  let txb := max (-0x80000000) (min b.txb 0x7FFFFFFF)
  let ovf := decide (arr ≠ b.arr) || decide (txb ≠ b.txb)
  let s := if ovf then modCtx s b.owner (fun r => { r with barovf := r.barovf + 1 }) else s
  let r := barPhases (arr + 1) { b with arr := arr, txb := txb } false
  let s := setBar s r.1
  if r.2 then barTell s (barHandle b.clu b.slot b.gen) true else s

/-- Bytes completed into an object (R229). -/
def barBytes (s : State) (h : Word) (n : Nat) : State :=
  match barNamed s h with
  | some b => barStore s { b with txb := b.txb - n }
  | none => s

/-- Arrivals on an object (R245, R258). -/
def barArrive (s : State) (h : Word) (n : Nat) : State :=
  match barNamed s h with
  | some b => barStore s { b with arr := b.arr + n }
  | none => s

/-- An object freed: VALID clears, GEN moves on, waiters are told (R295, R331). -/
def barFree (s : State) (b : BarRow) : State :=
  let gen := if b.gen = 16383 then 1 else b.gen + 1
  barTell (setBar s { noBar b.clu b.slot with gen := gen }) (barHandle b.clu b.slot b.gen) false

/-- One reference more. -/
def barRef (s : State) (h : Word) : State :=
  match barNamed s h with
  | some b => setBar s { b with ref := b.ref + 1 }
  | none => s

/-- One reference less; the last frees the object (R295). -/
def barUnref (s : State) (h : Word) : State :=
  match barNamed s h with
  | some b => if b.ref ≤ 1 then barFree s b else setBar s { b with ref := b.ref - 1 }
  | none => s

/-- REF at its limit: one more raises BARRIER (R295). -/
def refFull (b : BarRow) (n : Nat) : Bool := decide (65535 < b.ref + n)

/-! ## Copy rings -/

def ringHandle (gen obj : Nat) : Word := BitVec.ofNat 32 (2 ^ 31 + gen * 32 + obj)

def noRing (core obj : Nat) : RingRow :=
  { core := core, obj := obj, inuse := false, blk := 0, gen := 0, base := 0, ssize := 0, nslot := 0, fill := 0, fillP := 0, asgn := 0,
    counts := [], wp := 0, rp := 0, lp := 0, st := [], rpend := 0, rnd := 0, rel := 0 }

def ringAt (s : State) (core obj : Nat) : RingRow :=
  (s.rings.find? (fun r => r.core == core && r.obj == obj)).getD (noRing core obj)

def setRing (s : State) (r : RingRow) : State :=
  { s with rings := r :: s.rings.filter (fun x => !(x.core == r.core && x.obj == r.obj)) }

/-- The ring of a live handle (R333). -/
def ringLive (s : State) (g : Gang) (h : Word) : Option RingRow :=
  if !h.getLsbD 31 || decide (bitsN h.toNat 19 12 ≠ 0) then none
  else
    let r := ringAt s g.core (bitsN h.toNat 0 5)
    if r.inuse && r.blk == g.blk && r.gen == bitsN h.toNat 5 14 then some r else none

/-- Slots at the write pointer become Full while their counts reach FILL (R267); `fuel` bounds their number. -/
def ringFull : Nat → RingRow → RingRow
  | 0, r => r
  | fuel + 1, r =>
    if r.st.getD r.wp .free = .filling ∧ r.fill ≤ r.counts.getD r.wp 0 then
      ringFull fuel { r with st := setAt r.st r.wp .full, wp := (r.wp + 1) % r.nslot }
    else r

/-- A Free slot is Filling once the fill pointer reaches it, or a CPY is assigned to it (R267). -/
def slotFilling (st : List SlotSt) (i : Nat) : List SlotSt := if st.getD i .free = .free then setAt st i .filling else st

/-- A CPY of `bytes` assigned to the slot at the fill pointer (R266): the ring after it, and the round it belongs to. -/
def ringAssign (r : RingRow) (bytes : Nat) : RingRow × Nat :=
  let n := r.rnd
  let i := r.fillP
  let st := if n < r.rel + r.nslot then slotFilling r.st i else r.st
  let a := r.asgn + bytes
  let j := (i + 1) % r.nslot
  (if r.fill ≤ a then { r with st := slotFilling st j, fillP := j, asgn := 0, rnd := n + 1 } else { r with st := st, asgn := a }, n)

/-- Bytes completed into the slot of a round (R266, R267). -/
def ringCount (r : RingRow) (round bytes : Nat) : RingRow :=
  let i := round % r.nslot
  ringFull r.nslot { r with counts := setAt r.counts i (r.counts.getD i 0 + bytes) }

/-- The slot at the release pointer is freed (R336); it is Filling at once where words wait for it (R266). -/
def ringRelease (r : RingRow) (waiting : Bool) : RingRow :=
  { r with counts := setAt r.counts r.lp 0, st := setAt r.st r.lp (if waiting then .filling else .free), lp := (r.lp + 1) % r.nslot,
           rel := r.rel + 1, rpend := r.rpend - 1 }

/-! ## Reservation records -/

def recOf (s : State) (core idx : Nat) : Option RecRow := s.recs.find? (fun r => r.core == core && r.idx == idx)

def setRec (s : State) (r : RecRow) : State := { s with recs := s.recs.map (fun x => if x.core = r.core ∧ x.idx = r.idx then r else x) }

/-- The live record that a handle names for the gang (R237). -/
def recLive (s : State) (g : Gang) (h : Nat) : Option RecRow :=
  match recOf s g.core h with
  | some r => if r.st = .live ∧ r.gid = g.gid then some r else none
  | none => none

def recBytes (r : RecRow) : Nat := 1024 * r.units.length

/-- Records an operation names (R236). -/
def opRecs (o : Op) : List Nat :=
  match o.kind with
  | .obldMem r _ => [r]
  | .obldReg r _ _ _ => [r]
  | .obldFwd r _ _ => [r]
  | .wbld r _ _ _ _ => [r]
  | .mma b => [b.ah, b.bh]
  | _ => []

/-- IFLIGHT of a record (R288). -/
def inFlight (s : State) (core idx : Nat) : Nat := (s.ops.filter (fun o => o.core == core && (opRecs o).contains idx)).length

/-- A word in handler mode that names a reservation the handler did not claim (R250). -/
def recParked (g : Gang) (r : RecRow) : Bool := g.handler && !r.hnd

/-- Byte `o` of a record: its key in the buffer (R288). -/
def recKey (r : RecRow) (o : Nat) : Nat := bufKey r.core (r.units.getD (o / 1024) 0) (o % 1024)

/-- Poison keys of the two buffers stand apart: the weight buffer's lie above. -/
def bufPsnKey (r : RecRow) (o : Nat) : Nat := recKey r o / 4 + (if r.wb then 160 * 256 * 256 else 0)

def recByte (s : State) (r : RecRow) (o : Nat) : Byte := Memory.byte (if r.wb then s.wbuf else s.obuf) (recKey r o)

def recBytesAt (s : State) (r : RecRow) (o n : Nat) : List Byte := (List.range n).map (fun i => recByte s r (o + i))

/-- Bytes written in a reservation: whole granules become sound, those of poisoned bytes `psn` are poisoned (R188). -/
def writeRec (s : State) (r : RecRow) (o : Nat) (bytes : List Byte) (psn : List Nat) : State :=
  let put := fun m : Memory => (List.range bytes.length).foldl (fun m i => Memory.setByte m (recKey r (o + i)) (bytes.getD i 0)) m
  let whole := (coveredGranules o bytes.length).map (fun gr => bufPsnKey r (4 * gr))
  let bad := psn.map (fun i => bufPsnKey r (o + i))
  let p := sortAsc (bad ++ s.bufPsn.filter (fun k => !whole.contains k))
  if r.wb then { s with wbuf := put s.wbuf, bufPsn := p } else { s with obuf := put s.obuf, bufPsn := p }

def recPoisoned (s : State) (r : RecRow) (o n : Nat) : Bool :=
  (touchedGranules o n).any (fun gr => s.bufPsn.contains (bufPsnKey r (4 * gr)))

/-- Unit bytes zeroed and sound (R181, R235). -/
def zeroUnit (s : State) (wb : Bool) (core idx : Nat) : State :=
  let k := bufKey core idx 0
  let pk := k / 4 + (if wb then 160 * 256 * 256 else 0)
  let p := s.bufPsn.filter (fun x => decide (x < pk) || decide (pk + 256 ≤ x))
  if wb then { s with wbuf := Sparse.clear s.wbuf k 1024, bufPsn := p } else { s with obuf := Sparse.clear s.obuf k 1024, bufPsn := p }

/-! ## Accumulator banks -/

def accOf (s : State) (core bank : Nat) : Option AccRow := s.accs.find? (fun a => a.core == core && a.bank == bank)

/-- The block of a gang holds the bank (R242). -/
def accHeld (s : State) (g : Gang) (bank : Nat) : Bool :=
  match accOf s g.core bank with
  | some a => a.blk == g.blk
  | none => false

def accParked (s : State) (g : Gang) (bank : Nat) : Bool :=
  g.handler && (match accOf s g.core bank with
    | some a => decide (a.hnd ≠ some g.gid)
    | none => false)

/-- Bank and half of a tile an operation works on. -/
def opTiles (o : Op) : List (Nat × Nat) :=
  match o.kind with
  | .mma b => [(b.bank, b.half)]
  | .acmov _ bank half _ _ _ _ _ => [(bank, half)]
  | _ => []

/-- Word (m, n) of a tile stands at this byte (R242). -/
def tileKey (core bank half m n : Nat) : Nat := accKey core bank (16384 * half + 256 * m + 4 * n)

def tileWord (s : State) (core bank half m n : Nat) : Word :=
  wordAt (fun i => Memory.byte s.acc (tileKey core bank half m n + i)) 0

/-! ## The temporal array -/

def arrayOf (s : State) (core : Nat) : ArrayRow :=
  (s.arrays.find? (fun a => a.core == core)).getD { core := core, holder := none, max := false, win := 0, w := [], out := [], wpsn := [], opsn := [], hnd := false }

def setArray (s : State) (a : ArrayRow) : State := { s with arrays := a :: s.arrays.filter (fun x => x.core != a.core) }

/-- The gang has issued TRST.rel and the release is still to come (R249). -/
def releasing (s : State) (g : Gang) : Bool := s.ops.any (fun o => o.gid == g.gid && (match o.kind with
  | .trst r => r
  | _ => false))

/-- The gang holds the array for its own words (R249). -/
def holdsArray (s : State) (g : Gang) : Bool := decide ((arrayOf s g.core).holder = some g.gid) && !releasing s g

end Sys2Proof.Machine
end

