-- ==== Sys2Proof/Machine/ChkMem.lean ====
section
/-! DEFINITION. Step 8 of R88 for transfers and TRAP (08_isa_control R147, R148, R167, R168), and for the memory words: where each
active lane's access goes, and the tests of 11_isa_memory R216. -/

namespace Sys2Proof.Machine

/-! ## Transfers -/

/-- The target of BRA and CALL: slot 0 of a packet, counted from the bundle's (R148). -/
def branchTarget (pc : Addr) (off : BitVec 20) : Addr := (pc &&& ~~~0xF#64) + (off.signExtend 64 <<< 4)

/-- A BRA or CALL takes the lane (R148). -/
def brTakes (g : Gang) (p : BitVec 3) (neg : Bool) (l : Nat) : Bool := xor (predOf g l p.toNat) neg

/-- Lanes a transfer word takes, with their targets (R148). -/
def transferOf (s : State) (g : Gang) (i : Instr) (act : LaneMask) : List (Nat × Addr) :=
  match i with
  | .bra p neg off => ((lanesOf act).filter (brTakes g p neg)).map (fun l => (l, branchTarget s.cur.pc off))
  | .call p neg off => ((lanesOf act).filter (brTakes g p neg)).map (fun l => (l, branchTarget s.cur.pc off))
  | .brx k => (lanesOf act).map (fun l => (l, rdK64 g k.toNat))
  | .ret n => (lanesOf act).map (fun l => (l, pair64 (rdV s g l n.toNat) (rdV s g l (n.toNat + 1))))
  | .tret => if g.killed then [] else (lanesOf s.cur.lanes).map (fun l => (l, pcFrom g g.csr.tretpc))
  | _ => []

/-- A transfer to an invalid PC is ILLEGAL, FLTADDR the whole target of the lowest failing lane (R75, R120), FLTMASK the lanes whose own
target is invalid (log entry 69, DEDUCED). -/
def transferChk (s : State) (g : Gang) (i : Instr) (act : LaneMask) : Chk :=
  match (transferOf s g i act).filter (fun e => !pcOk g e.2) with
  | [] => .ok
  | e :: es => .fault { code := fcIllegal, mask := maskOf (e.1 :: es.map (·.1)), addr := e.2 }

def tretChk (s : State) (g : Gang) (act : LaneMask) : Chk :=
  if !g.handler then .fault { code := fcIllegal, mask := act, addr := 0 }
  else if g.killed || pcOk g (pcFrom g g.csr.tretpc) then .ok
  else transferChk s g .tret act

/-! ## What this word's packet is in a fused image (14_splicer R281, R283) -/

/-- KINDS of the word being issued: 0 ordinary, 1 matched store, 2 elided store, 3 forwarded load (log entry 23, DEDUCED). -/
def fwdKind (s : State) (g : Gang) : Nat := if g.side.spl then bitsN s.cur.kinds.toNat (2 * s.cur.slot) 2 else 0

/-! ## Lanes of a memory word -/

def spillAddr (g : Gang) : Nat := g.spillBase + g.linear * g.spillSize

/-- Bytes per lane of PSH and POP. -/
def spillWidth (w : BitVec 3) : Nat :=
  match w.toNat with
  | 4 => 4
  | 5 => 8
  | _ => 16

def l6Bad (g : Gang) (width : BitVec 3) : Bool := decide (width = 7#3) && decide (bitsN (rdK g 124).toNat 0 2 = 3)

/-- An access of MEM format in one lane. -/
def memLane (s : State) (g : Gang) (f : MemFields) (acc : Acc) (u : McUse) (l : Nat) : LaneChk :=
  let n := widthBytes g f.width.toNat
  let l6 := decide (f.width = 7#3)
  laneAccess s g f.space.toNat (memAddr s g f.addr f.off l).toNat n (if l6 then 4 else n) l6 acc u l

def atomLane (s : State) (g : Gang) (f : AtomFields) (l : Nat) : LaneChk :=
  let n := if f.wide then 8 else 4
  laneAccess s g (if f.sp then 1 else 0) (memAddr s g f.addr false l).toNat n n false .atomic .none l

def atomFieldsOf : Instr → Option AtomFields
  | .atomAdd f => some f
  | .atomMins f => some f
  | .atomMinn f => some f
  | .atomMaxs f => some f
  | .atomMaxn f => some f
  | .atomAnd f => some f
  | .atomOr f => some f
  | .atomXor f => some f
  | .atomExch f => some f
  | .atomCas f => some f
  | .atomFadd f => some f
  | .atomFmin f => some f
  | .atomFmax f => some f
  | .redm _ f => some f
  | _ => none

/-- The line operations' address: any byte of the line, no alignment rule (R226). -/
def clineLane (s : State) (g : Gang) (addr : Src) (off : Bool) (l : Nat) : LaneChk :=
  laneAccess s g 0 (memAddr s g addr off l).toNat 1 1 false .wr .none l

/-- The outcome of each active lane's tests 1 to 4 of R216, for words that make one access a lane. -/
def laneAccesses (s : State) (g : Gang) (i : Instr) (act : LaneMask) : List (Nat × LaneChk) :=
  let each := fun f : Nat → LaneChk => (lanesOf act).map (fun l => (l, f l))
  match i with
  | .ld f => each (memLane s g f .rd .load)
  | .st f => each (memLane s g f .wr .store)
  | .ldl f => each (memLane s g { f with space := 3#2 } .ex .none)
  | .psh _ w => each (fun l => laneAccess s g 0 (spillAddr g + g.ssp + spillWidth w * l) (spillWidth w) (spillWidth w) false .wr .none l)
  | .pop _ w => each (fun l => laneAccess s g 0 (spillAddr g + (g.ssp - spillWidth w * g.width) + spillWidth w * l) (spillWidth w)
      (spillWidth w) false .rd .none l)
  | .clineWb a o => each (clineLane s g a o)
  | .clineWbi a o => each (clineLane s g a o)
  | .clineMem a o => each (clineLane s g a o)
  | .zfill a _ sp o => each (fun l => laneAccess s g sp.toNat (memAddr s g a o l).toNat 128 128 false .wr .none l)
  | _ => match atomFieldsOf i with
    | some f => each (atomLane s g f)
    | none => []

/-! ## CPY (R228, R229) -/

def cpySize (f : CpyFields) : Nat :=
  match f.size.toNat with
  | 0 => 4
  | 1 => 8
  | _ => 16

/-- The ring that a CPY's handle names, if one. -/
def cpyRing (s : State) (g : Gang) (f : CpyFields) : Option RingRow :=
  let h := rdK g f.h.toNat
  if h.getLsbD 31 then ringLive s g h else none

def cpySrc (s : State) (g : Gang) (f : CpyFields) (l : Nat) : LaneChk :=
  let n := cpySize f
  let va := (pair64 (rdV s g l f.s.toNat) (rdV s g l (f.s.toNat + 1))).toNat
  laneAccess s g (if f.ss = 3#2 then 0 else f.ss.toNat) va n n false (if f.ss = 3#2 then .ex else .rd) .none l

/-- The destination, an offset within the ring's fill slot where the handle names a ring: at or beyond the slot size it raises SPACE, then a
misaligned one ALIGN (R229); slot sizes are multiples of 16 bytes. Under a handle that names no live ring it is an address of its space (log entry 20,
DEDUCED). -/
def cpyDst (s : State) (g : Gang) (f : CpyFields) (l : Nat) : LaneChk :=
  let n := cpySize f
  let va := (memAddr s g f.addr false l).toNat
  match cpyRing s g f with
  | some r =>
    if f.ds = 1#2 then
      (if r.ssize ≤ va then .bad fcSpace va
       else if va % n ≠ 0 then .bad fcAlign va
       else .ok (piecesOf l 0 (.scr g.blk (r.base + r.fillP * r.ssize + va)) n n))
    else laneAccess s g f.ds.toNat va n n false .wr .none l
  | none => laneAccess s g f.ds.toNat va n n false .wr .none l

/-- Both addresses of one lane, the source's fault first among equals (log entry 20, DEDUCED), then the code-pool test. -/
def cpyLane (s : State) (g : Gang) (f : CpyFields) (l : Nat) : LaneChk :=
  match cpySrc s g f l, cpyDst s g f l with
  | .hold p, .hold q => .hold (p ++ q)
  | .hold p, _ => .hold p
  | _, .hold q => .hold q
  | .bad c a, .bad c2 a2 => if memRank c ≤ memRank c2 then .bad c a else .bad c2 a2
  | .bad c a, _ => .bad c a
  | _, .bad c a => .bad c a
  | .ok p, .ok q =>
    if f.ss = 3#2 then laneAccess s g 3 (pair64 (rdV s g l f.s.toNat) (rdV s g l (f.s.toNat + 1))).toNat (cpySize f) (cpySize f) false .ex .none l
    else .ok (p ++ q)

/-- Test 5 of R216: the handle (R229). -/
def cpyHandle (s : State) (g : Gang) (f : CpyFields) (act : LaneMask) : Chk :=
  let h := rdK g f.h.toNat
  if h = 0 then .ok
  else if h.getLsbD 31 then
    (match ringLive s g h with
     | some _ => if f.ds = 1#2 then .ok else .fault { code := fcRing, mask := act, addr := 0 }
     | none => .fault { code := fcRing, mask := act, addr := 0 })
  else match barLive s g.ctx h with
    | some b => if refFull b 1 then .fault { code := fcBarrier, mask := act, addr := 0 } else .ok
    | none => .fault { code := fcBarrier, mask := act, addr := 0 }

/-! ## The tests together -/

/-- PSH beyond the spill size and POP below 0 (R221). -/
def spillChk (g : Gang) (i : Instr) (act : LaneMask) : Chk :=
  let bad : Chk := .fault { code := fcSpace, mask := act, addr := BitVec.ofNat 64 (spillAddr g + g.ssp) }
  match i with
  | .psh _ w => if g.spillSize < g.ssp + spillWidth w * g.width then bad else .ok
  | .pop _ w => if g.ssp < spillWidth w * g.width then bad else .ok
  | _ => .ok

def andThen (a : Chk) (b : Chk) : Chk :=
  match a with
  | .ok => b
  | x => x

/-- Tests 1 to 5 of a memory word; a CPY's handle once every lane has passed the others (log entry 20, DEDUCED). -/
def memChk (s : State) (g : Gang) (i : Instr) (act : LaneMask) : Chk :=
  match i with
  | .ld f =>
    if l6Bad g f.width then .fault { code := fcIllegal, mask := act, addr := 0 }
    else if fwdKind s g = 3 then .ok
    else gatherLanes (laneAccesses s g i act)
  | .st f =>
    if l6Bad g f.width then .fault { code := fcIllegal, mask := act, addr := 0 } else gatherLanes (laneAccesses s g i act)
  | .cpy f => andThen (gatherLanes ((lanesOf act).map (fun l => (l, cpyLane s g f l)))) (cpyHandle s g f act)
  | _ => andThen (spillChk g i act) (gatherLanes (laneAccesses s g i act))

end Sys2Proof.Machine
end

