-- ==== Sys2Proof/Machine/Engine.lean ====
section
/-! DEFINITION. What the copy, matrix, temporal and collective engines read and write (10_consistency R205, R206; 12_isa_tiles R234):
byte ranges of a context's spaces, their tests at issue, their lines kept by other packages. -/

namespace Sys2Proof.Machine

/-- A range of global space by 4 KiB pages; a scratchpad range is one part. -/
def rangeParts (space va n : Nat) : List (Nat × Nat) :=
  if space = 0 then
    (List.range ((va + n - 1) / 4096 - va / 4096 + 1)).map (fun k =>
      let a := if k = 0 then va else (va / 4096 + k) * 4096
      (a, min (va + n) ((a / 4096 + 1) * 4096) - a))
  else [(va, n)]

/-- The tests of a byte range that an engine word names: SPACE, ALIGN, translation, permission (R233), in the order of R170 over the whole
range. The lowest address that fails so is reported (log entry 52, DEDUCED). -/
def rangeAccess (s : State) (g : Gang) (space va n align : Nat) (acc : Acc) (lane : Nat) : LaneChk :=
  if n = 0 then .ok []
  else if !spaceOk s g space va n then .bad fcSpace va
  else if va % align ≠ 0 then .bad fcAlign va
  else
    let xs := (rangeParts space va n).map (fun e => (e, placePart s g space e.1 e.2 false acc .none))
    let holds := xs.filterMap (fun e => match e.2 with
      | .hold p => some p
      | _ => none)
    if holds ≠ [] then .hold holds
    else match firstRanked (partFaults xs) with
      | some (c, a) => .bad c a
      | none => .ok (xs.flatMap (fun e => match e.2 with
        | .place p => piecesOf lane (e.1.1 - va) p e.1.2 e.1.2
        | _ => []))

/-- A byte as the core's engines read it: the core's own Dirty L1 byte over the directory's (R206). -/
def engineByte (s : State) (core pa : Nat) : Byte :=
  match l1Line s core false (pa / 128) with
  | some r => if r.dirty.getLsbD (pa % 128) then r.data.getD (pa % 128) 0 else dirByte s pa
  | none => dirByte s pa

/-- The same of another package's byte, which L2 holds. -/
def enginePeer (s : State) (core ga : Nat) : Byte :=
  let l2 := match l2Line s true (ga / 128) with
    | some r => r.data.getD (ga % 128) 0
    | none => 0#8
  match l1Line s core true (ga / 128) with
  | some r => if r.dirty.getLsbD (ga % 128) then r.data.getD (ga % 128) 0 else l2
  | none => l2

/-- Poison of such a byte: of its 4-byte granule where the core's L1 holds it Dirty, of its 32-byte granule otherwise (R188). -/
def enginePoison (s : State) (core : Nat) (peer : Bool) (a : Nat) : Bool :=
  let low := if peer then (match l2Line s true (a / 128) with
      | some r => r.psn.getLsbD (a % 128 / 32)
      | none => false) else memPoisoned s a
  match l1Line s core peer (a / 128) with
  | some r => if r.dirty.getLsbD (a % 128) then r.psn.getLsbD (a % 128 / 4) else low
  | none => low

/-! ## Errors that ECC corrects (09_memories R188; the events that 95_what_each_step_holds names) -/

/-- Granules of 32 or 4 bytes that `n` bytes at a place lie in. -/
def placeGranules (s : State) (p : Place) (n : Nat) : List (EccPlace × Nat) :=
  let words := fun (e : EccPlace) (k n : Nat) => (touchedGranules k n).map (fun g => (e, g))
  match p with
  | .mem pa _ => (List.range ((pa + n - 1) / 32 - pa / 32 + 1)).map (fun i => (.mem, pa / 32 + i))
  | .scr b off => match blockOf s b with
    | some blk => (pageParts off n).flatMap (fun e => match blk.banks.getD (e.1 / 4096) none with
      | some bank => words .scr (scrKey blk.core bank (e.1 % 4096)) e.2
      | none => [])
    | none => []
  | .die c d off => (pageParts off n).flatMap (fun e => match (windowOf s c d)[e.1 / 4096]? with
    | some r => words .dsc (dscKey d r (e.1 % 4096)) e.2
    | none => [])
  | _ => []

/-- The errors on some granules corrected: none of them stands any longer, the context's ECCCORR and the health monitor count them (R299). -/
def eccCorrect (ctx : Nat) (hit : Upset → Bool) (s : State) : State :=
  let n := (s.upsets.filter hit).length
  if n = 0 then s
  else modCtx { s with upsets := s.upsets.filter (fun u => !hit u), power := { s.power with ecc := s.power.ecc + n } } ctx
    (fun r => { r with ecccorr := r.ecccorr + n })

/-- An access of a context meets the errors on the granules it touches. -/
def eccAt (ctx : Nat) (p : Place) (n : Nat) (s : State) : State :=
  let gs := placeGranules s p n
  eccCorrect ctx (fun u => gs.contains (u.at_, u.g)) s

def eccAccess (o : Op) (p : Place) (n : Nat) (s : State) : State := eccAt o.ctx p n s

/-- An engine's accesses do likewise. -/
def eccPlaces (ctx : Nat) (ps : List (Place × Nat)) (s : State) : State := ps.foldl (fun s e => eccAt ctx e.1 e.2 s) s

/-! ## Bytes that an engine reads -/

/-- The bytes of one piece, and which of them are poisoned. -/
def engineBytes (s : State) (core : Nat) (p : Place) (n : Nat) : List Byte × List Nat :=
  match p with
  | .mem pa _ => ((List.range n).map (fun i => engineByte s core (pa + i)), (List.range n).filter (fun i => enginePoison s core false (pa + i)))
  | .peer ga _ => ((List.range n).map (fun i => enginePeer s core (ga + i)), (List.range n).filter (fun i => enginePoison s core true (ga + i)))
  | .scr b off => match blockOf s b with
    | some blk => ((List.range n).map (fun i => scrByte s blk (off + i)), (List.range n).filter (fun i => scrPoisoned s blk (off + i)))
    | none => (List.replicate n 0, [])
  | .die c d off => ((List.range n).map (fun i => dieByte s c d (off + i)), (List.range n).filter (fun i => diePoisoned s c d (off + i)))
  | .mcast _ _ _ => (List.replicate n 0, List.range n)

/-- The bytes of all pieces in order, and which of them are poisoned. -/
def engineRead (s : State) (core : Nat) : List Piece → List Byte × List Nat
  | [] => ([], [])
  | p :: ps =>
    let a := engineBytes s core p.place p.len
    let r := engineRead s core ps
    (a.1 ++ r.1, a.2 ++ r.2.map (· + p.len))

/-- The lines of a piece in another package's memory. -/
def peerLines (p : Place) (n : Nat) : List Nat :=
  match p with
  | .peer ga _ => (List.range ((ga + n - 1) / 128 - ga / 128 + 1)).map (ga / 128 + ·)
  | _ => []

def localLines (p : Place) (n : Nat) : List Nat :=
  match p with
  | .mem pa _ => (List.range ((pa + n - 1) / 128 - pa / 128 + 1)).map (pa / 128 + ·)
  | _ => []

/-- Peer lines that must arrive, with their ownership to be written (R205), and local lines that other packages must give back. -/
def missingLines (s : State) (write : Bool) (ps : List (Place × Nat)) : List Nat :=
  (ps.flatMap (fun e => peerLines e.1 e.2)).filter (fun l => !lineReady s write (true, l))

def heldLines (s : State) (write : Bool) (ps : List (Place × Nat)) : List Nat :=
  (ps.flatMap (fun e => localLines e.1 e.2)).filter (fun l => !homeFree s l write)

/-- Ask for what is missing. -/
def askLines (s : State) (core : Nat) (missing held : List Nat) : State :=
  held.foldl homeAsk (missing.foldl (fun s l => askLine s l core) s)

/-- The ownership of destinations asked for, at issue (R205): their lines' bytes and ownership of other packages' homes, this home's recalled. -/
def askDests (core : Nat) (ds : List (Place × Nat)) (s : State) : State :=
  (heldLines s true ds).foldl homeAsk ((missingLines s true ds).foldl (fun s l => askBoth s l core) s)

/-- A peer line is a destination of an engine operation that has the ownership of all its destinations: the line's recall waits for its completion
(R205; log entry 87, DEDUCED). -/
def engineKeeps (s : State) (line : Nat) : Bool :=
  s.ops.any (fun o => (engineDests s o).any (fun d => ownsLine d (.peer (128 * line) 0) 128) &&
    decide (missingLines s true (engineDests s o) = [])) ||
  s.chunks.any (fun k => k.dests.any (fun d => ownsLine d (.peer (128 * line) 0) 128) && decide (missingLines s true k.dests = []))

def placesOf (ps : List Piece) : List (Place × Nat) := ps.map (fun p => (p.place, p.len))

/-- The core's L1 copies of a place's lines: their Dirty bytes written back, the copies dropped where `drop` (R205, R206). -/
def settleL1 (core : Nat) (drop : Bool) (s : State) (e : Place × Nat) : State :=
  let one := fun (peer : Bool) (s : State) (l : Nat) =>
    if drop then flushL1 s core peer l
    else match l1Line s core peer l with
      | some r => writeBackL1 r s
      | none => s
  (peerLines e.1 e.2).foldl (one true) ((localLines e.1 e.2).foldl (one false) s)

/-- The granule that holds byte `i` of a written place poisoned (R188). -/
def poisonByte (p : Place) (s : State) (i : Nat) : State :=
  let add := fun (k : Nat) (ks : List Nat) => k :: ks.filter (fun x => x != k)
  match p with
  | .mem pa _ => { s with memPsn := add ((pa + i) / 32) s.memPsn }
  | .peer ga _ => match l2Line s true ((ga + i) / 128) with
    | some r => setL2 s { r with psn := r.psn ||| (1#4 <<< ((ga + i) % 128 / 32)) }
    | none => s
  | .scr b off => match blockOf s b with
    | some blk => match blk.banks.getD ((off + i) / 4096) none with
      | some bank => { s with scrPsn := add (scrKey blk.core bank ((off + i) % 4096) / 4) s.scrPsn }
      | none => s
    | none => s
  | .die c d off => match (windowOf s c d)[(off + i) / 4096]? with
    | some r => { s with dscPsn := add (dscKey d r ((off + i) % 4096) / 4) s.dscPsn }
    | none => s
  | .mcast _ _ _ => s

/-- An engine's write of bytes at a place (R205). -/
def engineWrite (w : Wr) (core : Nat) (p : Place) (bytes : List Byte) (psn : List Nat) (s : State) : State :=
  let s := settleL1 core true s (p, bytes.length)
  let s := match p with
    | .mem pa va => writePhys w pa va bytes s
    | .peer ga va => writePeerBytes w ga va bytes s
    | .scr b off => match blockOf s b with
      | some blk => writeScr w blk off bytes s
      | none => s
    | .die c d off => writeDie w c d off bytes s
    | .mcast _ _ _ => s
  psn.foldl (poisonByte p) s

/-- Room in the capture queues for an engine's write (13_queues R271). -/
def writeRoom (w : Wr) (s : State) (p : Place) (n : Nat) : Bool :=
  match p with
  | .mem _ _ => (localLines p n).all (fun l => lineRoom w l s)
  | .scr b off => match blockOf s b with
    | some blk => (List.range ((off + n - 1) / 4096 - off / 4096 + 1)).all (fun k => match blk.banks.getD (off / 4096 + k) none with
      | some bank => unitRoom w (.bank blk.core bank) (blk.core / 40) s
      | none => true)
    | none => true
  | .die c d off => (List.range ((off + n - 1) / 4096 - off / 4096 + 1)).all (fun k => match (windowOf s c d)[off / 4096 + k]? with
    | some r => unitRoom w (.range d r) d s
    | none => true)
  | _ => true

end Sys2Proof.Machine
end

