-- ==== Sys2Proof/Machine/ChkTile.lean ====
section
/-! DEFINITION. Step 8 of R88 for the tile and temporal words, in the order of 12_isa_tiles R233. -/

namespace Sys2Proof.Machine

/-- A tile word's fault: FLTMASK its active lanes (R233). -/
def tileFlt (code : Nat) (act : LaneMask) (off : Nat) : Chk := .fault { code := code, mask := act, addr := BitVec.ofNat 64 off }

/-- The outcome of a range test as a gang word's. -/
def rangeChk (act : LaneMask) : LaneChk → Chk
  | .ok _ => .ok
  | .hold p => .hold p
  | .bad c a => tileFlt c act a

def failIf (b : Bool) (c : Chk) : Chk := if b then c else .ok

/-- All checks in order; the first that does not pass. -/
def firstChk : List Chk → Chk
  | [] => .ok
  | c :: cs => andThen c (firstChk cs)

/-- Bits of an element of a reservation's format (R235, R57). -/
def fmtBits (fmt : Nat) : Nat :=
  match fmt with
  | 0 => 16
  | 1 => 16
  | 2 => 8
  | 3 => 8
  | _ => 6

/-- Block length of a BLEN code (R57). -/
def blenOf (b : Nat) : Nat :=
  match b with
  | 0 => 16
  | 1 => 32
  | _ => 64

/-- OPBUF for a dead, foreign or wrong-buffer handle, where no offset applies, then PARKED (R233, R237, R250). -/
def recChk (s : State) (g : Gang) (h : Nat) (wb : Option Bool) (act : LaneMask) : Chk :=
  match recLive s g h with
  | none => tileFlt fcOpbuf act 0
  | some r =>
    if (match wb with
      | some b => r.wb != b
      | none => false) then tileFlt fcOpbuf act 0
    else failIf (recParked g r) (tileFlt fcParked act 0)

/-- ACCUM for banks the block does not hold, then PARKED (R241, R242, R250). -/
def accChk (s : State) (g : Gang) (banks : List Nat) (act : LaneMask) : Chk :=
  if banks.any (fun b => !accHeld s g b) then tileFlt fcAccum act 0
  else failIf (banks.any (accParked s g)) (tileFlt fcParked act 0)

/-! ## OBRES -/

def obresBad (q : Word) : Bool :=
  let u := bitsN q.toNat 0 9
  decide (u = 0) || decide (256 < u) || decide (4 < bitsN q.toNat 9 3) || decide (bitsN q.toNat 12 2 = 3)

/-! ## OBLD and WBLD -/

/-- A byte count an OBLD accepts (R237). -/
def obldCountOk (n : Nat) : Bool := decide (n % 4 = 0) && decide (4 ≤ n) && decide (n ≤ 262144)

/-- The memory an OBLD reads; a count that R237 does not admit names its first word alone (log entry 21, DEDUCED). -/
def obldRange (s : State) (g : Gang) (q : Nat) (space : Nat) : LaneChk :=
  let n := (rdK g (q + 3)).toNat
  rangeAccess s g space (rdK64 g q).toNat (if obldCountOk n then n else 4) 4 .rd 0

/-- First register and count of OBLD.reg, the consumer side of a fused gang renumbered (14_splicer R278). -/
def obldRegs (s : State) (g : Gang) (q : Nat) : Nat × Nat :=
  (bitsN (rdK g q).toNat 0 8 + (if s.cur.cons then g.side.np else 0), bitsN (rdK g q).toNat 8 8)

/-- The offset rules of OBLD.reg (R237). -/
def obldRegBad (g : Gang) (r : RecRow) (cvt : Bool) (off c : Nat) : Bool :=
  let unit := if !cvt then 4 else match r.fmt with
    | 0 => 2
    | 1 => 2
    | 2 => 1
    | 3 => 1
    | _ => 48
  let bits := if cvt then fmtBits r.fmt else 32
  let last := off * 8 / bits + c * g.width - 1
  decide (c = 0) || decide (64 < c) || decide (off % unit ≠ 0) || decide (8 * recBytes r < 8 * off + c * g.width * bits) ||
    (cvt && decide (r.fmt = 4) && decide (recBytes r ≤ r.scale + last / blenOf r.blen))

def obldChk (s : State) (g : Gang) (kh kq : Nat) (space : Nat) (cvt : Bool) (act : LaneMask) : Chk :=
  let h := bitsN (rdK g kh).toNat 0 6
  let off := (rdK g (kq + 2)).toNat
  let n := (rdK g (kq + 3)).toNat
  let fwd := fwdKind s g = 3
  let rc := obldRegs s g kq
  firstChk [
    failIf' (decide (space ≠ 3) && !fwd) (rangeChk act (obldRange s g kq space)),
    failIf (decide (space = 3) && !fwd && decide (16 * g.banks < rc.1 + rc.2)) (tileFlt fcBank act 0),
    recChk s g h (some false) act,
    match recLive s g h with
    | none => .ok
    | some r =>
      if fwd then
        (match g.fwd[s.cur.pair]? with
         | some e => failIf (decide (off % 4 ≠ 0) || decide (recBytes r < off + e.bytes.length)) (tileFlt fcOpbuf act off)
         | none => .ok)
      else if space = 3 then failIf (obldRegBad g r cvt off rc.2) (tileFlt fcOpbuf act off)
      else failIf (cvt || decide (off % 4 ≠ 0) || !obldCountOk n || decide (recBytes r < off + n)) (tileFlt fcOpbuf act off)]
where
  /-- A check made only under a condition. -/
  failIf' (b : Bool) (c : Chk) : Chk := if b then c else .ok

/-- The memory a WBLD names, its header at least (R238). -/
def wbldRange (s : State) (g : Gang) (kq space : Nat) : LaneChk :=
  let n := (rdK g (kq + 3)).toNat
  rangeAccess s g space (rdK64 g kq).toNat (max n 4) 1 .rd 0

/-- Lines that a word must have before it issues, as a hold (R233): other packages' filled, own ones given back. -/
def lineHold (s : State) (ps : List Piece) : Chk :=
  match (missingLines s false (placesOf ps)).map linePage ++ (heldLines s false (placesOf ps)).map (homePage s) with
  | [] => .ok
  | ls => .hold ls

/-- A memory access in flight; a FENCE holds no tile word (11_isa_memory R224). -/
def isAccess (o : Op) : Bool :=
  match o.kind with
  | .load _ _ _ _ _ _ => true
  | .fwdLoad _ _ _ _ => true
  | .store _ _ => true
  | .atom _ _ _ _ _ _ _ _ => true
  | .cline _ => true
  | .zfill _ => true
  | .cpy _ _ _ _ _ => true
  | .acmov _ _ _ _ _ _ _ _ => decide (o.pieces ≠ [])
  | _ => false

/-- Earlier accesses of the lanes of an engine's word, which reads memory at issue after them, as a hold (R233, 10_consistency R206) (log entry 25, DEDUCED). -/
def earlierHold (s : State) (g : Gang) (act : LaneMask) : Chk :=
  match s.ops.filter (fun o => o.gid == g.gid && decide (o.lanes &&& act ≠ 0) && isAccess o) with
  | [] => .ok
  | os => .hold (os.map (fun o => opPage o.id))

/-- Step 8 of WBLD: a count beyond the reservation raises OPBUF at the count itself (log entry 21, DEDUCED). -/
def wbldChk (s : State) (g : Gang) (kh kq : Nat) (space : Nat) (act : LaneMask) : Chk :=
  let h := bitsN (rdK g kh).toNat 0 6
  let n := (rdK g (kq + 3)).toNat
  firstChk [
    rangeChk act (wbldRange s g kq space),
    (match rangeAccess s g space (rdK64 g kq).toNat 4 1 .rd 0 with
     | .ok ps => andThen (earlierHold s g act) (lineHold s ps)
     | _ => .ok),
    recChk s g h (some true) act,
    match recLive s g h with
    | some r => failIf (decide (recBytes r < n)) (tileFlt fcOpbuf act n)
    | none => .ok]

/-! ## MMA -/

/-- The parameter block's place: scratchpad, or memory with EX under .cp (R243). -/
def mmaPlace (s : State) (g : Gang) (kp : Nat) (cp : Bool) : LaneChk :=
  rangeAccess s g (if cp then 0 else 1) (rdK64 g kp).toNat 64 64 (if cp then .ex else .rd) 0

/-- The 64 bytes of the parameter block as the engine reads them (10_consistency R206). -/
def mmaBytes (s : State) (g : Gang) (kp : Nat) (cp : Bool) : List Byte :=
  match mmaPlace s g kp cp with
  | .ok ps => (engineRead s g.core ps).1
  | _ => []

/-- A packet of a block in the code pool is not of kind 0b10 (R243). -/
def mmaKindBad (bs : List Byte) : Bool := (List.range 4).any (fun i => (bs.getD (16 * i + 15) 0).toNat / 64 != 2)

/-- The 16 words of the parameter block, bits [31:30] of words 3, 7, 11 and 15 cleared (R73, R243). -/
def mmaWords (s : State) (g : Gang) (kp : Nat) (cp : Bool) : List Word :=
  (List.range 16).map (fun i => let w := wordOf (mmaBytes s g kp cp) (4 * i); if i % 4 = 3 then w &&& 0x3FFFFFFF#32 else w)

def wordBits (ws : List Word) (i lo n : Nat) : Nat := bitsN (ws.getD i 0).toNat lo n

/-- A nonzero reserved field, or NKB of 0 (R243). -/
def mmaIllegal (ws : List Word) : Bool :=
  decide (wordBits ws 0 18 14 ≠ 0) || decide (wordBits ws 1 18 14 ≠ 0) || decide (wordBits ws 2 16 16 ≠ 0) ||
    decide (wordBits ws 3 8 22 ≠ 0) || decide (wordBits ws 3 0 8 = 0) || decide (wordBits ws 6 25 7 ≠ 0) ||
    (List.range 9).any (fun i => decide (ws.getD (7 + i) 0 ≠ 0))

/-- The block's fields; phase and waits are filled in at issue. -/
def mmaBlock (ws : List Word) : MmaBlock :=
  { acc := bitN (ws.getD 0 0).toNat 17, half := wordBits ws 0 16 1, bank := wordBits ws 0 12 4, ah := wordBits ws 0 0 6,
    bh := wordBits ws 0 6 6, aoff := wordBits ws 1 0 18, bgrp := wordBits ws 2 0 16, nkb := wordBits ws 3 0 8,
    wv := bitN (ws.getD 4 0).toNat 31, wh := ws.getD 4 0 &&& 0x7FFFFFFF#32, phase := false, waited := false, go := false,
    av := bitN (ws.getD 5 0).toNat 31, ahb := ws.getD 5 0 &&& 0x7FFFFFFF#32, akind := bitN (ws.getD 6 0).toNat 24,
    acount := wordBits ws 6 0 24 }

/-- Products of R244. -/
inductive Product where
  | float (f : Fmt)
  | int8
  | lns6
deriving DecidableEq, Repr

def productOf (fa fb : Nat) : Option Product :=
  match fa, fb with
  | 0, 0 => some (.float fmtBf16)
  | 1, 1 => some (.float fmtF16)
  | 4, 4 => some .lns6
  | _, _ => if (fa = 2 ∨ fa = 3) ∧ (fb = 2 ∨ fb = 3) then some .int8 else none

def kbOf : Product → Nat
  | .float _ => 32
  | .int8 => 64
  | .lns6 => 128

/-- A's place fails the tests of R244. -/
def mmaABad (b : MmaBlock) (ra : RecRow) (p : Product) : Bool :=
  let bits := fmtBits ra.fmt
  let unit := if ra.fmt = 4 then 48 else bits / 8
  let last := b.aoff * 8 / bits + b.nkb * 64 * kbOf p
  decide (b.aoff % unit ≠ 0) || decide (8 * recBytes ra < last * bits) ||
    (decide (ra.fmt = 4) && decide (recBytes ra ≤ ra.scale + (last - 1) / blenOf ra.blen))

/-- The OPBUF tests of R244, with FLTADDR: AOFF for A's place, 0 where no offset of a reservation applies (R233; log entry 21, DEDUCED). -/
def mmaOpbuf (b : MmaBlock) (ra rb : RecRow) : Option Nat :=
  match productOf ra.fmt rb.fmt with
  | none => some 0
  | some p => if mmaABad b ra p then some b.aoff else if rb.g < b.bgrp + b.nkb * kbOf p then some 0 else none

/-- BARRIER of an MMA: the wait handle before the arrive handle (R233, R245, R295). -/
def mmaBarriers (s : State) (g : Gang) (b : MmaBlock) (act : LaneMask) : Chk :=
  let one := fun (v : Bool) (h : Word) (n : Nat) => if !v then Chk.ok else match barLive s g.ctx h with
    | some r => failIf (refFull r n) (tileFlt fcBarrier act 0)
    | none => tileFlt fcBarrier act 0
  firstChk [one b.wv b.wh 1, one b.av b.ahb (if b.wv && decide (b.wh = b.ahb) then 2 else 1)]

def mmaChk (s : State) (g : Gang) (kp : Nat) (cp : Bool) (act : LaneMask) : Chk :=
  match mmaPlace s g kp cp with
  | .hold p => .hold p
  | .bad c a => tileFlt c act a
  | .ok ps =>
    match andThen (earlierHold s g act) (lineHold s ps) with
    | .ok =>
      let ws := mmaWords s g kp cp
      let b := mmaBlock ws
      if cp && mmaKindBad (mmaBytes s g kp cp) then tileFlt fcSpace act (rdK64 g kp).toNat
      else if mmaIllegal ws then tileFlt fcIllegal act 0
      else firstChk [
        recChk s g b.ah (some false) act,
        recChk s g b.bh (some true) act,
        (match recLive s g b.ah, recLive s g b.bh with
         | some ra, some rb => match mmaOpbuf b ra rb with
           | some a => tileFlt fcOpbuf act a
           | none => .ok
         | _, _ => .ok),
        accChk s g [b.bank] act,
        mmaBarriers s g b act]
    | c => c

/-! ## ACMOV and the temporal words -/

/-- The memory side of ACMOV (R242). -/
def acmovRange (s : State) (g : Gang) (aop kq : Nat) : LaneChk :=
  rangeAccess s g (if aop = 0 then 0 else 1) (rdK64 g kq).toNat 16384 128 (if aop = 2 then .rd else .wr) 0

/-- ACMOV.toreg: first register (renumbered), first row, count, first column. -/
def acmovRegs (s : State) (g : Gang) (kq : Nat) : Nat × Nat × Nat × Nat :=
  let q := (rdK g kq).toNat
  (bitsN q 0 8 + (if s.cur.cons then g.side.np else 0), bitsN q 8 6, bitsN q 14 7, bitsN q 21 6)

def acmovChk (s : State) (g : Gang) (aop kt kq : Nat) (act : LaneMask) : Chk :=
  let bank := bitsN (rdK g kt).toNat 0 4
  if aop = 3 then
    let (d, rowa, c, cola) := acmovRegs s g kq
    firstChk [
      failIf (decide (16 * g.banks < d + c)) (tileFlt fcBank act 0),
      accChk s g [bank] act,
      failIf (decide (c = 0) || decide (64 < rowa + c) || decide (64 < cola + g.width)) (tileFlt fcAccum act 0)]
  else andThen (rangeChk act (acmovRange s g aop kq)) (accChk s g [bank] act)

/-- TEMPORAL unless the gang holds the array, PARKED when the handler has not claimed it (R249, R250). -/
def arrayChk (s : State) (g : Gang) (act : LaneMask) : Chk :=
  if !holdsArray s g then tileFlt fcTemporal act 0
  else failIf (g.handler && !(arrayOf s g.core).hnd) (tileFlt fcParked act 0)

def tldwRange (s : State) (g : Gang) (kq : Nat) : LaneChk := rangeAccess s g 1 (rdK64 g kq).toNat 4096 128 .rd 0

def twsetChk (s : State) (g : Gang) (kw : Nat) (act : LaneMask) : Chk :=
  let w := bitsN (rdK g kw).toNat 0 8
  if w = 0 ∨ w = 255 then tileFlt fcTemporal act 0
  else failIf (g.handler && holdsArray s g && !(arrayOf s g.core).hnd) (tileFlt fcParked act 0)

/-- Step 8 of the tile and temporal words. -/
def tileChk (s : State) (g : Gang) (i : Instr) (act : LaneMask) : Chk :=
  match i with
  | .obres _ q _ => failIf (obresBad (rdK g q.toNat)) (tileFlt fcOpbuf act 0)
  | .obrel h => recChk s g (bitsN (rdK g h.toNat).toNat 0 6) none act
  | .obld h q sp cvt => obldChk s g h.toNat q.toNat sp.toNat cvt act
  | .wbld h q sp => wbldChk s g h.toNat q.toNat sp.toNat act
  | .acalloc _ n => failIf (decide (16 < n.toNat + (s.accs.filter (fun a => a.core == g.core && a.blk == g.blk)).length)) (tileFlt fcAccum act 0)
  | .acfree m => accChk s g ((List.range 16).filter (fun b => bitN (rdK g m.toNat).toNat b)) act
  | .mma p cp => mmaChk s g p.toNat cp act
  | .acmovTogl t q _ => acmovChk s g 0 t.toNat q.toNat act
  | .acmovTosp t q _ => acmovChk s g 1 t.toNat q.toNat act
  | .acmovFromsp t q => acmovChk s g 2 t.toNat q.toNat act
  | .acmovToreg t q _ => acmovChk s g 3 t.toNat q.toNat act
  | .twset w _ => twsetChk s g w.toNat act
  | .tldw q => andThen (rangeChk act (tldwRange s g q.toNat)) (arrayChk s g act)
  | .tlnch _ => arrayChk s g act
  | .tcapt _ => arrayChk s g act
  | .trst => arrayChk s g act
  | .trstRel => arrayChk s g act
  | _ => .ok

end Sys2Proof.Machine
end

