-- ==== Sys2Proof/Machine/ChkSync.lean ====
section
/-! DEFINITION. Step 8 of R88 for the words on barriers, rings and snapshots (17_isa_sync_system R327, R328, R333, R334, R336,
R338). -/

namespace Sys2Proof.Machine

/-- A fault of these words: FLTMASK the active lanes, FLTADDR 0 (R327). -/
def syncFlt (code : Nat) (act : LaneMask) : Chk := .fault { code := code, mask := act, addr := 0 }

/-- The liveness test of a barrier handle (R294, R327). -/
def barChk (s : State) (g : Gang) (h : Word) (act : LaneMask) : Chk :=
  match barLive s g.ctx h with
  | some _ => .ok
  | none => syncFlt fcBarrier act

/-- The liveness test of a ring handle (R333, R327). -/
def ringChk (s : State) (g : Gang) (h : Word) (act : LaneMask) : Chk :=
  match ringLive s g h with
  | some _ => .ok
  | none => syncFlt fcRing act

/-- Geometry of a RING (R334): BASE, SSIZE and FILL in bytes, NSLOT. -/
def ringBase (q0 : Word) : Nat := bitsN q0.toNat 0 20

def ringSsize (q1 : Word) : Nat := 128 * bitsN q1.toNat 0 10

def ringNslot (q1 : Word) : Nat := bitsN q1.toNat 10 6 + 1

def ringFill (q1 : Word) : Nat := if bitsN q1.toNat 16 15 = 0 then ringSsize q1 else 4 * bitsN q1.toNat 16 15

/-- Bytes of the gang's block's scratchpad. -/
def blockSpace (s : State) (g : Gang) : Nat :=
  match blockOf s g.blk with
  | some b => blockBytes b
  | none => 0

def ringCreateChk (s : State) (g : Gang) (q0 q1 : Word) (act : LaneMask) : Chk :=
  if ringBase q0 % 128 ≠ 0 then syncFlt fcAlign act
  else if ringSsize q1 = 0 ∨ 65536 < ringSsize q1 then syncFlt fcIllegal act
  else if ringSsize q1 < ringFill q1 then syncFlt fcIllegal act
  else failIf (decide (blockSpace s g < ringBase q0 + ringNslot q1 * ringSsize q1)) (syncFlt fcSpace act)

def heldSlots (r : RingRow) : Nat := (r.st.filter (fun x => decide (x = .held))).length

def rrelChk (s : State) (g : Gang) (h : Word) (act : LaneMask) : Chk :=
  match ringLive s g h with
  | some r => failIf (decide (heldSlots r ≤ r.rpend)) (syncFlt fcRing act)
  | none => syncFlt fcRing act

/-- The gang's snapshot right: its launch's, or its side's in a fused gang (R338, 14_splicer R284). -/
def snapRight (s : State) (g : Gang) : Bool :=
  if g.side.spl then (if s.cur.cons then g.side.snapC else g.side.snapP)
  else match launchOf s g.launch with
    | some l => l.snap
    | none => false

/-- Step 8 of the synchronisation words. -/
def syncChk (s : State) (g : Gang) (i : Instr) (act : LaneMask) : Chk :=
  match i with
  | .balloc _ e _ _ => failIf (decide (bitsN (rdK g e.toNat).toNat 0 20 = 0)) (syncFlt fcIllegal act)
  | .bfree h => barChk s g (rdK g h.toNat) act
  | .barvArrive h _ _ => barChk s g (rdK g h.toNat) act
  | .barvNoarr h _ => barChk s g (rdK g h.toNat) act
  | .barvDrop h _ _ => barChk s g (rdK g h.toNat) act
  | .bwait h _ _ => barChk s g (rdK g h.toNat) act
  | .ringCreate _ q => ringCreateChk s g (rdK g q.toNat) (rdK g (q.toNat + 1)) act
  | .ringRel h => ringChk s g (rdK g h.toNat) act
  | .rawait h _ => ringChk s g (rdK g h.toNat) act
  | .rrel h => rrelChk s g (rdK g h.toNat) act
  | .snap _ _ _ => failIf (!snapRight s g) (syncFlt fcSnapRight act)
  | _ => .ok

end Sys2Proof.Machine
end

