-- ==== Sys2Proof/Machine/Step8.lean ====
section
/-! DEFINITION. Step 8 of a word (04_encoding R88), and how the meaning of a word of a bundle runs: at once where its bundle has passed
the checks, after checks of its own where the word stands alone. -/

namespace Sys2Proof.Machine

/-- TRAP's fault: 0x80 + n, FLTADDR the pair as the lowest active lane reads it (08_isa_control R167). -/
def trapFault (g : Gang) (ka : BitVec 9) (n : BitVec 4) (act : LaneMask) : Chk :=
  .fault { code := 0x80 + n.toNat, mask := act, addr := rdK64 g ka.toNat }

/-- A word's own tests of step 8, each word having one kind. -/
def ownChk (s : State) (g : Gang) (i : Instr) (act : LaneMask) : Chk :=
  match i with
  | .trap ka n => trapFault g ka n act
  | .tret => tretChk s g act
  | _ =>
    andThen (transferChk s g i act) (andThen (memChk s g i act) (andThen (tileChk s g i act) (syncChk s g i act)))

/-- Step 8 of one word with active lanes `act`: its own tests, then the poison marks it reads (11_isa_memory R216 test 6, R217); an elided ST
makes none (14_splicer R281). -/
def wordChk (s : State) (g : Gang) (i : Instr) (m : ModFields) (act : LaneMask) : Chk :=
  if act = 0 then .ok
  else match i with
    | .trap _ _ => ownChk s g i act
    | .st _ => if fwdKind s g = 2 then .ok else andThen (ownChk s g i act) (poisonCheck s g i m act)
    | _ => andThen (ownChk s g i act) (poisonCheck s g i m act)

/-- The PC that TRETPC takes: the bundle's, or for TRAP the fall-through PC (R164, R167). -/
def retPcOf (s : State) (i : Instr) : Addr :=
  match i with
  | .trap _ _ => fallPc s.cur.pc s.cur.last
  | _ => s.cur.pc

/-- The word is one whose meaning is always a trap: TRAP, a reserved major. -/
def alwaysTraps : Instr → Bool
  | .trap _ _ => true
  | .reservedMajor _ _ => true
  | _ => false

/-- The first of steps 3 to 7 that finds a fault in a word. -/
def earlyFault (s : State) (g : Gang) (bw : BundleWord) : Option Flt := firstSome (stepFault s g bw) [3, 4, 5, 6, 7]

/-- All checks of one word of the bundle being issued: steps 3 to 7, then step 8. -/
def fullChk (s : State) (g : Gang) (i : Instr) : Chk :=
  match earlyFault s g { slot := s.cur.slot, word := some i, mod := s.cur.mod } with
  | some f => .fault f
  | none => wordChk s g i (s.cur.mod.getD plainMod) (activeOf g s.cur.lanes (some i) s.cur.mod)

/-- A fault found at the bundle being issued enters the trap (R164). -/
def raiseFault (s : State) (g : Gang) (i : Instr) (f : Flt) : State :=
  trapEntry s g.gid f.code f.mask f.addr s.cur.pc (if 0x80 ≤ f.code then retPcOf s i else s.cur.pc) s.cur.lanes

/-- How the meaning of a word runs: `perf` is its effect with its MOD fields and active lanes. -/
def runWord (i : Instr) (perf : Gang → ModFields → LaneMask → State → State) (s : State) : State :=
  match curGang s with
  | none => s
  | some g =>
    if checkLanes s g s.cur.lanes (some i) s.cur.mod = 0 then s
    else if s.cur.checked && !alwaysTraps i then
      perf g (s.cur.mod.getD plainMod) (activeOf g s.cur.lanes (some i) s.cur.mod) s
    else match fullChk s g i with
      | .ok => perf g (s.cur.mod.getD plainMod) (activeOf g s.cur.lanes (some i) s.cur.mod) s
      | .fault f => raiseFault s g i f
      | .hold pages => blockOn s g.gid (.xlate (sortAsc pages))

end Sys2Proof.Machine
end

