-- ==== Sys2Proof/Machine/CsrWords.lean ====
section
/-! DEFINITION. CSRR and CSRW (17_isa_sync_system R337, 06_registers R110, R117 to R119), the performance counters (15_tables_counters R299),
and what a gang reads of its snapshot group (R118, 16_snapshot R302). -/

namespace Sys2Proof.Machine

open Host (Outcome)

/-! ## Snapshot state as CSRs show it -/

/-- State codes of a colour (16_snapshot R302). -/
def colCode : ColSt → Nat
  | .free => 0
  | .capturing => 1
  | .localDone => 2
  | .durable => 3
  | .coPowered => 4
  | .freePending => 5
  | .aborted => 6

/-- The package is a member of a group: its pod-map SGRP is the group (16_snapshot R300, R118). -/
def groupMember (s : State) (grp : Nat) : Bool :=
  decide (grp ≠ 0) && s.fab.member && (match podEntry s s.fab.lid with
    | some e => e.sgrp == grp
    | none => false)

/-- A gang's context names a group that the package belongs to (R118). -/
def gangMember (s : State) (g : Gang) : Bool := groupMember s (ctxGroup s g.ctx)

def snstat (s : State) (g : Gang) : Word :=
  if gangMember s g then BitVec.ofNat 32 (16 * colCode s.col1.st + colCode s.col0.st) else 0

def snid (s : State) (g : Gang) (c : Colour) : Word := if gangMember s g then (colRow s c).snid else 0

/-! ## Performance counters (R299) -/

/-- The 64-bit counter at an even number; numbers not in the table read 0. -/
def perfCounter (s : State) (g : Gang) (n : Nat) : Nat :=
  let row := ctxRow s g.ctx
  let ofCtx := fun f : CtxRow → Nat => match row with
    | some r => f r
    | none => 0
  match n with
  | 0x100 => g.perf.bundles
  | 0x102 => g.perf.packed
  | 0x104 => g.perf.fullstall
  | 0x106 => g.perf.blocked
  | 0x108 => g.perf.zwords
  | 0x10A => g.perf.l1hit
  | 0x10C => g.perf.l1miss
  | 0x10E => g.perf.kblocks
  | 0x110 => g.perf.preempts
  | 0x140 => ofCtx (·.spliced)
  | 0x142 => ofCtx (fun r => r.refusals.getD 0 0)
  | 0x144 => ofCtx (fun r => r.refusals.getD 1 0)
  | 0x146 => ofCtx (fun r => r.refusals.getD 2 0)
  | 0x148 => ofCtx (fun r => r.refusals.getD 3 0)
  | 0x14A => ofCtx (fun r => r.refusals.getD 4 0)
  | 0x14C => ofCtx (fun r => r.refusals.getD 5 0)
  | 0x14E => ofCtx (·.captures)
  | 0x150 => ofCtx (·.swept)
  | 0x152 => ofCtx (·.ecccorr)
  | 0x154 => ofCtx (·.walks)
  | 0x156 => ofCtx (·.barovf)
  | _ => 0

def perf64 (s : State) (g : Gang) (n : Nat) : BitVec 64 := BitVec.ofNat 64 (perfCounter s g n)

/-- A CSR as the gang reads it at tick s (R117, R118). -/
def csrValue (s : State) (g : Gang) (n : Nat) : Word :=
  if 0x100 ≤ n ∧ n ≤ 0x1FF then
    (if n % 2 = 0 then lo32 (perf64 s g n) else match g.latch with
      | some w => w
      | none => hi32 (perf64 s g (n - 1)))
  else match n with
    | 0x030 => snstat s g
    | 0x031 => snid s g .c0
    | 0x032 => snid s g .c1
    | 0x060 => BitVec.ofNat 32 g.cnt.ld
    | 0x061 => BitVec.ofNat 32 g.cnt.st
    | 0x062 => BitVec.ofNat 32 g.cnt.cp
    | 0x063 => BitVec.ofNat 32 g.cnt.tl
    | _ => csrGet g.csr n

/-- Reading an even performance counter latches its high half for the gang (R299). -/
def csrLatch (s : State) (g : Gang) (n : Nat) : State :=
  if 0x100 ≤ n ∧ n ≤ 0x1FF ∧ n % 2 = 0 then modGang s g.gid (fun x => { x with latch := some (hi32 (perf64 s g n)) }) else s

/-! ## The words (R337) -/

def execCsrr (k : BitVec 9) (n : BitVec 12) (s : State) : Outcome State Fault Refusal :=
  .next (runWord (.csrr k n) (fun g _ _ s =>
    pushPend (csrLatch s g n.toNat) g 2 [.write (.k k.toNat) (csrValue s g n.toNat)]) s)

def execCsrwWrite (k : BitVec 9) (n : BitVec 12) (s : State) : Outcome State Fault Refusal :=
  .next (runWord (.csrwWrite k n) (fun g _ _ s =>
    pushPend s g 2 [.write (.csr n.toNat) (rdK g k.toNat &&& csrMask n.toNat)]) s)

/-- C is read as it stands at the tick of issue; the result of that reading is what becomes visible (R337, log entry 17, DEDUCED). -/
def execCsrwSet (k : BitVec 9) (n : BitVec 12) (s : State) : Outcome State Fault Refusal :=
  .next (runWord (.csrwSet k n) (fun g _ _ s => pushPend s g 2 [.write (.csr n.toNat) ((csrValue s g n.toNat ||| rdK g k.toNat) &&& csrMask n.toNat)]) s)

/-- As `execCsrwSet`, with the bits cleared (R337). -/
def execCsrwClr (k : BitVec 9) (n : BitVec 12) (s : State) : Outcome State Fault Refusal :=
  .next (runWord (.csrwClr k n) (fun g _ _ s => pushPend s g 2 [.write (.csr n.toNat) ((csrValue s g n.toNat &&& ~~~(rdK g k.toNat)) &&& csrMask n.toNat)]) s)

def execCsrwSwap (k : BitVec 9) (n : BitVec 12) (s : State) : Outcome State Fault Refusal :=
  .next (runWord (.csrwSwap k n) (fun g _ _ s =>
    pushPend s g 2 [.write (.k k.toNat) (csrValue s g n.toNat), .write (.csr n.toNat) (rdK g k.toNat &&& csrMask n.toNat)]) s)

end Sys2Proof.Machine
end

