-- ==== Sys2Proof/Machine/Records.lean ====
section
/-! DEFINITION. Records that the front end reads: launch records (13_queues R256, R257), continuation records and the gangs they form (R259 to
R261, 02_execution R38), collective bindings (18_fabric_collectives R349, R350). -/

namespace Sys2Proof.Machine

/-! ## Fields of bytes -/

/-- `n` bytes at `o`, little-endian. -/
def field (bs : List Byte) (o n : Nat) : Nat := leNat (slice bs o n)

/-! ## Launch records -/

/-- A launch record (R256); `rsvd` says that a field reserved for its KIND is nonzero. -/
structure LaunchRec where
  kind    : Nat
  kid     : Nat
  width   : Nat
  banks   : Nat
  gangs   : Nat
  cshape  : Nat
  prio    : Nat
  snap    : Bool
  splice  : Bool
  serial  : Bool
  split   : Nat
  entry   : Nat
  kdesc   : Nat
  param   : Nat
  gx      : Nat
  gy      : Nat
  gz      : Nat
  spbytes : Nat
  spillKb : Nat
  spillB  : Nat
  poolA   : Nat
  poolN   : Nat
  wv      : Bool
  wh      : Word
  av      : Bool
  ahb     : Word
  coll    : Nat
  cpla    : Nat
  rsvd    : Bool
deriving DecidableEq, Repr

def parseRecord (bs : List Byte) : LaunchRec :=
  let w0 := field bs 0 4
  let w1 := field bs 4 4
  let kind := bitsN w0 30 2
  let pool := kind == 1
  let wait := field bs 68 4
  let arr := field bs 72 4
  { kind := kind, kid := bitsN w0 0 24, width := 8 * 2 ^ bitsN w1 30 2, banks := bitsN w1 26 4 + 1, gangs := bitsN w1 20 6 + 1,
    cshape := bitsN w1 18 2, prio := bitsN w1 15 3, snap := bitN w1 14, splice := bitN w1 13, serial := bitN w1 12,
    split := bitsN w1 8 4, entry := field bs 8 8, kdesc := field bs 16 8, param := field bs 24 8, gx := field bs 32 2,
    gy := field bs 34 2, gz := field bs 36 2, spbytes := bitsN (field bs 40 4) 0 20, spillKb := field bs 44 2,
    spillB := field bs 48 8, poolA := field bs 56 8, poolN := field bs 64 4, wv := bitN wait 31,
    wh := BitVec.ofNat 32 (wait % 2 ^ 31), av := bitN arr 31, ahb := BitVec.ofNat 32 (arr % 2 ^ 31), coll := field bs 80 8,
    cpla := field bs 88 8,
    rsvd := decide (bitsN w0 24 6 ≠ 0) || decide (bitsN w1 0 8 ≠ 0) || decide (field bs 38 2 ≠ 0) ||
      decide (bitsN (field bs 40 4) 20 12 ≠ 0) || decide (field bs 46 2 ≠ 0) || decide (field bs 76 4 ≠ 0) ||
      decide (field bs 96 32 ≠ 0) ||
      (if pool then decide (bitsN w1 18 8 ≠ 0) || decide (field bs 8 8 ≠ 0) || decide (field bs 32 6 ≠ 0)
       else decide (field bs 56 8 ≠ 0) || decide (field bs 64 4 ≠ 0)) }

/-- Blocks per cluster of a CSHAPE code. -/
def clusterSize (c : Nat) : Nat := 2 ^ c

/-- The page of an address translates for a context with a permission. -/
def pageOk (s : State) (ctx va : Nat) (acc : Acc) : Bool :=
  match translateNow s ctx va acc with
  | .place _ => decide (va < 2 ^ 56)
  | _ => false

/-- The first row of R257: KIND 10, reserved fields, ranges. -/
def recordMalformed (r : LaunchRec) : Bool :=
  decide (r.kind = 2) || r.rsvd || decide (720896 < r.spbytes) || decide (r.cpla % 16 ≠ 0) || decide (r.coll % 16 ≠ 0) ||
    (if r.kind = 1 then decide (r.poolN = 0) || decide (2 ^ 24 < r.poolN)
     else decide (r.cshape = 3) || decide (r.gx = 0) || decide (r.gy = 0) || decide (r.gz = 0)) ||
    (decide (r.kind = 0) && decide (4096 < r.gangs * r.width)) || decide (65536 * r.split < r.spbytes) || decide (12 ≤ r.split)

/-- Bytes of a pool's record array. -/
def poolBytes (r : LaunchRec) : Nat := (64 + 64 * r.banks) * r.poolN

/-- The third row: the entry PC, or the record array, every page of it. -/
def recordUnreadable (s : State) (ctx : Nat) (r : LaunchRec) : Bool :=
  if r.kind = 1 then decide (r.poolA % 64 ≠ 0) || (pageParts r.poolA (poolBytes r)).any (fun e => !pageOk s ctx (e.1 + e.2 - 1) .rd)
  else decide (r.entry % 16 ≠ 0) || !pageOk s ctx r.entry .ex

/-! ## Continuation records -/

/-- One record, and whether a reserved byte of it is nonzero. -/
def parsePoolRec (bs : List Byte) (banks : Nat) : PoolRec × Bool :=
  ({ pc := BitVec.ofNat 64 (field bs 0 8), gkey := field bs 8 4, lane := field bs 12 1, num := field bs 12 1, pred := BitVec.ofNat 7 (field bs 13 1),
     gang := field bs 14 1, bx := field bs 16 2, by_ := field bs 18 2, bz := field bs 20 2,
     x := (List.range 8).map (fun i => BitVec.ofNat 24 (field bs (24 + 4 * i) 3)),
     v := (List.range (16 * banks)).map (fun i => BitVec.ofNat 32 (field bs (64 + 4 * i) 4)) },
   decide (field bs 13 1 ≥ 128) || decide (field bs 14 1 ≥ 64) || decide (field bs 15 1 ≠ 0) || decide (field bs 22 2 ≠ 0) ||
     decide (field bs 56 8 ≠ 0) || (List.range 8).any (fun i => decide (field bs (27 + 4 * i) 1 ≠ 0)))

/-- The records of a pool in array order; a record in a multicast page reads as zeros (log entry 95, DESIGN CHOICE). -/
def poolRecs (s : State) (ctx : Nat) (r : LaunchRec) : List (PoolRec × Bool) :=
  (List.range r.poolN).map (fun i =>
    parsePoolRec ((ctxBytes s ctx (r.poolA + i * (64 + 64 * r.banks)) (64 + 64 * r.banks) .rd).getD []) r.banks)

/-- A PC lies in the context's code and is valid (R38, 04_encoding R75). -/
def codePc (s : State) (ctx : Nat) (pc : Addr) : Bool :=
  decide (pc.extractLsb' 0 2 = 0#2) && decide (pc.extractLsb' 2 2 ≠ 3#2) && pageOk s ctx pc.toNat .ex

/-- Bins while records are read: full gangs, and the open bins with their records. -/
def binRec (w : Nat) (acc : List (List PoolRec) × List (List PoolRec)) (r : PoolRec) : List (List PoolRec) × List (List PoolRec) :=
  let same := fun b : List PoolRec => match b with
    | q :: _ => q.pc == r.pc && q.bx == r.bx && q.by_ == r.by_ && q.bz == r.bz
    | [] => false
  match acc.2.find? same with
  | some b =>
    if b.length + 1 = w then (acc.1 ++ [b ++ [r]], acc.2.filter (fun x => !same x))
    else (acc.1, acc.2.map (fun x => if same x then x ++ [r] else x))
  | none => (acc.1, acc.2 ++ [[r]])

/-- Order of partly filled bins: PC, then block coordinates, bx before by before bz (R38; log entry 68, DESIGN CHOICE). -/
def binKey (b : List PoolRec) : Nat :=
  match b with
  | r :: _ => r.pc.toNat * 2 ^ 48 + r.bx * 2 ^ 32 + r.by_ * 2 ^ 16 + r.bz
  | [] => 0

/-- Records of one nonzero key each, in the order the keys first appear. -/
def keyedGangs : List PoolRec → List (List PoolRec)
  | [] => []
  | r :: rs =>
    let rest := keyedGangs rs
    match rest.find? (fun b => b.any (fun q => q.gkey == r.gkey)) with
    | some b => (r :: b) :: rest.filter (fun x => !x.any (fun q => q.gkey == r.gkey))
    | none => [r] :: rest

/-- Records of a bin take lanes in the order they were read. -/
def numberLanes (b : List PoolRec) : List PoolRec := b.mapIdx (fun i r => { r with lane := i })

/-- The gangs that a pool's records form (R38): full bins, then the partly filled ones, then the keyed gangs (log entry 68, DESIGN CHOICE). -/
def formGangs (w : Nat) (rs : List PoolRec) : List (List PoolRec) :=
  let bins := (rs.filter (fun r => r.gkey == 0)).foldl (binRec w) ([], [])
  bins.1.map numberLanes ++ (sortBy binKey bins.2).map numberLanes ++ keyedGangs (rs.filter (fun r => r.gkey != 0))

/-- Block coordinates of a pool gang. -/
def gangCoord (b : List PoolRec) : Nat × Nat × Nat :=
  match b with
  | r :: _ => (r.bx, r.by_, r.bz)
  | [] => (0, 0, 0)

/-- The blocks of a pool, by coordinates in the order their first gangs form (R260). -/
def poolBlocks : List (List PoolRec) → List (Nat × Nat × Nat)
  | [] => []
  | b :: bs => gangCoord b :: (poolBlocks bs).filter (fun c => c != gangCoord b)

/-- A pool is refused (R38, R261). -/
def poolRefused (s : State) (ctx : Nat) (r : LaunchRec) : Bool :=
  let rs := poolRecs s ctx r
  let gs := formGangs r.width (rs.map (·.1))
  rs.any (fun e => e.2 || !codePc s ctx e.1.pc || decide (r.width ≤ e.1.lane)) ||
    (poolBlocks gs).any (fun c => let n := (gs.filter (fun g => gangCoord g == c)).length
      decide (64 < n) || decide (4096 < n * r.width)) ||
    gs.any (fun g => g.any (fun q => decide (q.gkey ≠ 0) && (decide ((g.filter (fun x => x.lane == q.lane)).length > 1) ||
      decide ((q.bx, q.by_, q.bz) ≠ gangCoord g) || decide (q.gang ≠ (g.map (·.gang)).headD 0))))

/-! ## Collective bindings and route tables (18_fabric_collectives R349, R350) -/

/-- FMT of a tensor parameter record (15_tables_counters R289). -/
def trecFmt (t : BitVec 128) : Nat := bitsN t.toNat 0 3

/-- A tensor parameter record with a reserved value (15_tables_counters R289). -/
def trecReserved (t : BitVec 128) : Bool :=
  let n := t.toNat
  decide (bitsN n 16 16 ≠ 0) || decide (bitsN n 8 2 ≠ 0) || decide (bitsN n 3 3 ≠ 0) || decide (bitsN n 32 32 ≠ 0) ||
    decide (bitsN n 10 2 = 3) || (decide (trecFmt t = 4) && decide (bitsN n 6 2 = 3)) || decide (6 ≤ trecFmt t)

/-- The binding at an address, none where it cannot be read or a reserved field is set. -/
def readBinding (s : State) (ctx a : Nat) : Option CollBind :=
  match ctxBytes s ctx a 48 .rd with
  | some bs =>
    if field bs 36 12 ≠ 0 ∨ trecReserved (BitVec.ofNat 128 (field bs 16 16)) = true then none
    else some { rtab := field bs 0 8, rbase := field bs 8 8, trec := BitVec.ofNat 128 (field bs 16 16), epoch := BitVec.ofNat 32 (field bs 32 4) }
  | none => none

def parseStep (bs : List Byte) : RouteStep :=
  let w := field bs 0 4
  { kind := bitsN w 30 2, grp := bitsN w 0 12, src := field bs 4 4, dst := field bs 8 4, len := field bs 12 4 }

/-- NCHUNK and NSTEP. -/
def routeHead (s : State) (ctx : Nat) (b : CollBind) : Option (Nat × Nat) :=
  match ctxBytes s ctx b.rtab 16 .rd with
  | some bs => some (field bs 0 4, field bs 4 4)
  | none => none

/-- Step `k` of chunk `c`. -/
def routeStep (s : State) (ctx : Nat) (b : CollBind) (c k : Nat) : Option RouteStep :=
  match routeHead s ctx b with
  | some (_, n) => (ctxBytes s ctx (b.rtab + 16 + 16 * (c * n + k)) 16 .rd).map parseStep
  | none => none

/-- The steps of chunk `c`, in table order (15_tables_counters R292). -/
def routeSteps (s : State) (ctx : Nat) (b : CollBind) (c : Nat) : Option (List RouteStep) :=
  match routeHead s ctx b with
  | some (_, n) =>
    let xs := (List.range n).map (routeStep s ctx b c)
    if xs.all (·.isSome) then some (xs.filterMap id) else none
  | none => none

/-- Lines that must come before chunk `c` can fire. -/
def routeGaps (s : State) (ctx : Nat) (b : CollBind) (c : Nat) : List (Bool × Nat) :=
  firstGaps [readGaps s ctx [(b.rtab, 16)], match routeHead s ctx b with
    | some (_, n) => readGaps s ctx [(b.rtab + 16 + 16 * c * n, 16 * n)]
    | none => []]

/-- The rank of this package in a group. -/
def ownRank (s : State) (grp : Nat) : Option Nat :=
  match groupDesc s grp with
  | some d => d.members.findIdx? (fun m => m.1 == s.fab.lid)
  | none => none

/-- The launch's binding, or the refusal of R349; 0 names none. -/
def bindingOf (s : State) (ctx coll blocks : Nat) : Except Unit (Option CollBind) :=
  if coll = 0 then .ok none
  else match readBinding s ctx coll with
    | none => .error ()
    | some b => match routeHead s ctx b with
      | none => .error ()
      | some (nc, ns) =>
        if nc ≠ blocks ∨ ns = 0 ∨ 64 < ns then .error ()
        else if (List.range nc).all (fun c => (List.range ns).all (fun k => match routeStep s ctx b c k with
          | some st => (ownRank s st.grp).isSome
          | none => false)) then .ok (some b) else .error ()

/-! ## The whole check -/

/-- Blocks of a record's launch. -/
def recordBlocks (s : State) (ctx : Nat) (r : LaunchRec) : Nat :=
  if r.kind = 1 then (poolBlocks (formGangs r.width ((poolRecs s ctx r).map (·.1)))).length else r.gx * r.gy * r.gz

/-- The barrier fields name live objects of the context with room for the references (R257, 15_tables_counters R295). -/
def recordBarriers (s : State) (ctx : Nat) (r : LaunchRec) : Bool :=
  let one := fun (v : Bool) (h : Word) (n : Nat) => !v || (match barLive' s ctx h with
    | some ref => decide (ref + n ≤ 65535)
    | none => false)
  one r.wv r.wh 1 && one r.av r.ahb (if r.wv && decide (r.wh = r.ahb) then 2 else 1)
where
  /-- REF of a live handle. -/
  barLive' (s : State) (ctx : Nat) (h : Word) : Option Nat := (barLive s ctx h).map (·.ref)

/-- Lines that must come before what a record names can be read: its pool; its collective binding, then the route table. -/
def recordGaps (s : State) (ctx : Nat) (r : LaunchRec) : List (Bool × Nat) :=
  firstGaps [
    readGaps s ctx ((if r.kind = 1 ∧ recordMalformed r = false then [(r.poolA, poolBytes r)] else []) ++ (if r.coll = 0 then [] else [(r.coll, 48)])),
    match (if r.coll = 0 then none else readBinding s ctx r.coll) with
    | some b => firstGaps [readGaps s ctx [(b.rtab, 16)], match routeHead s ctx b with
        | some (nc, ns) => if ns ≤ 64 ∧ nc = recordBlocks s ctx r then readGaps s ctx [(b.rtab + 16, 16 * nc * ns)] else []
        | none => []]
    | none => []]

/-- The status with which a record is rejected (R257, R349), none where it is accepted. -/
def rejectStatus (s : State) (ctx : Nat) (r : LaunchRec) : Option Nat :=
  if recordMalformed r || recordUnreadable s ctx r then some 4
  else if r.snap && !(match ctxRow s ctx with
    | some c => c.right
    | none => false) then some 6
  else if !recordBarriers s ctx r then some 7
  else if decide (r.kind = 1) && poolRefused s ctx r then some 5
  else match bindingOf s ctx r.coll (recordBlocks s ctx r) with
    | .error _ => some 4
    | .ok _ => none

end Sys2Proof.Machine
end

