-- ==== Sys2Proof/Machine/FrontEnd.lean ====
section
/-! DEFINITION. Command queues (13_queues R252 to R258): creation, scanning, acceptance, rejection, completion records. -/

namespace Sys2Proof.Machine

open Host (Outcome)

/-! ## Queue descriptors -/

def queueOf (s : State) (vf num : Nat) : Option QueueRow := s.queues.find? (fun q => q.vf == vf && q.num == num)

def setQueue (s : State) (q : QueueRow) : State :=
  { s with queues := s.queues.map (fun x => if x.vf = q.vf ∧ x.num = q.num then q else x) }

/-- A queue as it may be created (R252): a power of two of slots from 2 to 65,536, an aligned base with the whole queue in the global space, a
number below 64 that is free, an existing context of the function. -/
def queueSpecOk (s : State) (fn : Nat) (q : QueueSpec) : Bool :=
  (fn == 0 || q.vf == fn) && decide (q.num < 64) && (queueOf s q.vf q.num).isNone && decide (q.base % 128 = 0) &&
    decide (q.base + 128 + 128 * q.slots ≤ 2 ^ 56) &&
    (List.range 17).any (fun k => decide (1 ≤ k) && decide (q.slots = 2 ^ k)) &&
    (match ctxRow s q.ctx with
     | some c => c.fn == q.vf
     | none => false)

/-- The header's items at creation: TAIL, HEAD and QERR 0, where its page can be written (R252) (log entry 37, DEDUCED). -/
def clearHeader (s : State) (ctx base : Nat) : State :=
  match ctxWrite s ctx base (List.replicate 4 0) with
  | some t => match ctxWrite t ctx (base + 64) (List.replicate 8 0) with
    | some u => u
    | none => t
  | none => s

/-- CREATE_QUEUE: disabled (R252). -/
def createQueueEvent (fn : Nat) (q : QueueSpec) (s : State) : State :=
  if queueSpecOk s fn q then
    let row : QueueRow := { vf := q.vf, num := q.num, ctx := q.ctx, base := q.base, slots := q.slots, enabled := false, head := 0,
                            tail := 0, qerr := 0, seen := none, asis := false, plan := none }
    withLines (ctxGaps s q.ctx true [(q.base, 128)]) (fun s =>
      if ctxRoom s q.ctx [(q.base, 128)] then clearHeader { s with queues := s.queues ++ [row] } q.ctx q.base else s) s
  else tellHost s (.refused fn "queue")

def execCreateQueue (fn : Nat) (q : QueueSpec) (s : State) : Outcome State Fault Refusal := .next (createQueueEvent fn q s)

/-- REMOVE_QUEUE, by the physical function (19_host_firmware R354). A pair with a record in the queue is no longer held. -/
def execRemoveQueue (fn vf num : Nat) (s : State) : Outcome State Fault Refusal :=
  .next (if fn = 0 then { s with queues := (s.queues.filter (fun q => !(q.vf == vf && q.num == num))).map (fun q =>
      if q.vf = vf ∧ q.plan.map (·.partner) = some num then { q with plan := none } else q) }
    else tellHost s (.refused fn "queue"))

/-- A function enables or disables the scanning of its queue. -/
def switchQueue (fn vf num : Nat) (on : Bool) (s : State) : State :=
  if vf ≠ fn then tellHost s (.refused fn "queue")
  else match queueOf s vf num with
    | some q => setQueue s { q with enabled := on }
    | none => tellHost s (.refused fn "queue")

def execEnableQueue (fn vf num : Nat) (s : State) : Outcome State Fault Refusal := .next (switchQueue fn vf num true s)

def execDisableQueue (fn vf num : Nat) (s : State) : Outcome State Fault Refusal := .next (switchQueue fn vf num false s)

/-! ## Scanning (R254) -/

/-- The header's page translates with RD and WR. -/
def headerOk (s : State) (q : QueueRow) : Bool := pageOk s q.ctx q.base .rd && pageOk s q.ctx q.base .wr

/-- The queue stops: the host hears of it; QERR stands in the descriptor, and in a header whose page translates with RD and WR. -/
def stopQueue (s : State) (q : QueueRow) (err : Nat) : State :=
  let s1 := tellHost (setQueue s { q with qerr := err }) (.queueStopped q.vf q.num err)
  if headerOk s q then (ctxWrite s1 q.ctx (q.base + 68) (leBytes err 4)).getD s1 else s1

/-- The bytes of record `r`, none in a multicast page (log entry 95, DESIGN CHOICE). -/
def recordBytes (s : State) (q : QueueRow) (r : Nat) : Option (List Byte) :=
  ctxBytes s q.ctx (q.base + 128 + 128 * (r % q.slots)) 128 .rd

/-- Records between HEAD and TAIL. -/
def pendingRecs (q : QueueRow) : Nat := (q.tail + 2 ^ 32 - q.head) % 2 ^ 32

/-- The wait barrier of the head record as first read (R255); where a racing write has changed the record since, as it is read now (R253). -/
def noteSeen (s : State) (q : QueueRow) : State :=
  if pendingRecs q = 0 then s
  else match recordBytes s q q.head with
    | some bs =>
      let r := parseRecord bs
      if r.wv && r.kind != 3 && decide (q.seen.map (·.1) ≠ some r.wh) then setQueue s { q with seen := some (r.wh, false) } else s
    | none => s

/-- Address of the slot of record `r`. -/
def slotAt (q : QueueRow) (r : Nat) : Nat := q.base + 128 + 128 * (r % q.slots)

/-- What TAIL, once read, leads to. -/
def scanTail (q : QueueRow) (t : Nat) (s : State) : State :=
  let q1 := { q with tail := t }
  let stop := fun err : Nat => withLines (ctxGaps s q.ctx true [(q.base, 128)]) (fun s =>
    if ctxRoom s q.ctx [(q.base, 128)] then stopQueue (setQueue s q1) q1 err else s) s
  if q.slots < pendingRecs q1 then stop 1
  else if (List.range (pendingRecs q1)).any (fun i => !pageOk s q1.ctx (slotAt q1 (q1.head + i)) .rd) then stop 2
  else if pendingRecs q1 = 0 then setQueue s q1
  else withLines (readGaps s q.ctx [(slotAt q1 q1.head, 128)]) (fun s => noteSeen (setQueue s q1) q1) s

/-- QUEUE_SCAN: TAIL is read as a system-scope acquire, and the slots that hold records are looked at; lines that other packages hold come
first (log entry 74, DEDUCED). -/
def scanEvent (vf num : Nat) (s : State) : State :=
  match queueOf s vf num with
  | some q =>
    if !q.enabled || q.qerr ≠ 0 then s
    else if !headerOk s q then stopQueue s q 2
    else withLines (readGaps s q.ctx [(q.base, 4)]) (fun s => match ctxNat s q.ctx q.base 4 .rd with
      | none => stopQueue s q 2
      | some t => scanTail q t s) s
  | none => s

def execQueueScan (vf num : Nat) (s : State) : Outcome State Fault Refusal := .next (scanEvent vf num s)

/-! ## Completion records (R258) -/

/-- The 16 bytes of a completion record. -/
def completionBytes (status code block pc : Nat) : List Byte := leBytes (256 * code + status) 4 ++ leBytes block 4 ++ leBytes pc 8

/-- The record written at CPLA as a system-scope release, or dropped and reported. -/
def writeCompletion (s : State) (ctx launch cpla status code block pc : Nat) : State :=
  if cpla = 0 then s
  else match ctxWrite s ctx cpla (completionBytes status code block pc) with
    | some t => t
    | none => tellHost s (.completionDropped launch status)

/-- HEAD advances as a system-scope release; the next record has not been read yet. -/
def advanceHead (s : State) (q : QueueRow) (asis : Bool) : State :=
  let h := (q.head + 1) % 2 ^ 32
  let s1 := setQueue s { q with head := h, seen := none, asis := asis, plan := none }
  match ctxWrite s1 q.ctx (q.base + 64) (leBytes h 4) with
  | some t => t
  | none => tellHost (setQueue s1 { q with head := h, seen := none, asis := asis, plan := none, qerr := 2 }) (.queueStopped q.vf q.num 2)

/-! ## Acceptance (R255) -/

/-- An earlier launch of the queue has not ended. -/
def queueBusy (s : State) (vf num : Nat) : Bool :=
  s.launches.any (fun l => l.vf == vf && (l.queue == num || (match l.fused with
    | some f => f.queueC == num
    | none => false)))

/-- A record must wait: its barrier's phase, or SERIAL (R255). -/
def recordWaits (s : State) (q : QueueRow) (r : LaunchRec) : Bool :=
  (r.wv && decide (q.seen ≠ some (r.wh, true))) || (r.serial && queueBusy s q.vf q.num)

/-- The launch of an accepted record. -/
def launchOfRec (s : State) (q : QueueRow) (r : LaunchRec) (coll : Option CollBind) : Launch :=
  { id := s.fresh, ctx := q.ctx, vf := q.vf, queue := q.num, pool := r.kind == 1, kid := r.kid, width := r.width, banks := r.banks,
    gangs := r.gangs, cshape := clusterSize r.cshape, prio := r.prio, snap := r.snap, split := r.split, entry := BitVec.ofNat 64 r.entry,
    param := r.param, gx := r.gx, gy := r.gy, gz := r.gz, spbytes := r.spbytes, spillKb := r.spillKb, spillB := r.spillB,
    wv := r.wv, wh := r.wh, av := r.av, ahb := r.ahb, coll := coll, cpla := r.cpla,
    recs := if r.kind = 1 then formGangs r.width ((poolRecs s q.ctx r).map (·.1)) else [], next := 0, ended := 0, fatal := none,
    stopped := false, fused := none }

/-- References on the barriers that a record names (15_tables_counters R295). -/
def refBarriers (s : State) (wv : Bool) (wh : Word) (av : Bool) (ahb : Word) : State :=
  let s1 := if wv then barRef s wh else s
  if av then barRef s1 ahb else s1

/-- The dispatcher takes a launch. -/
def addLaunch (s : State) (l : Launch) : State := { s with launches := s.launches ++ [l], fresh := s.fresh + 1 }

/-- Acceptance of an ordinary record. -/
def acceptRecord (s : State) (q : QueueRow) (r : LaunchRec) (asisNext : Bool) : State :=
  let coll := match bindingOf s q.ctx r.coll (recordBlocks s q.ctx r) with
    | .ok c => c
    | .error _ => none
  advanceHead (refBarriers (addLaunch s (launchOfRec s q r coll)) r.wv r.wh r.av r.ahb) q asisNext

/-- A refused splice pair counts in its context (14_splicer R276, 15_tables_counters R299); `i` counts reasons from 0. -/
def countRefusal (s : State) (ctx i : Nat) : State :=
  modCtx s ctx (fun c => { c with refusals := (List.range 6).map (fun k => c.refusals.getD k 0 + (if k = i then 1 else 0)) })

/-- The bytes of a kernel descriptor, with its tile entries (14_splicer R273). -/
def descBytes (s : State) (ctx a : Nat) : Option (List Byte) :=
  if a = 0 ∨ a % 16 ≠ 0 then none
  else match ctxBytes s ctx a 32 .rd with
    | some bs => ctxBytes s ctx a (32 + 16 * bitsN (field bs 0 4) 24 4) .rd
    | none => none

def descRole (bs : List Byte) : Nat := bitsN (field bs 0 4) 30 2

/-- The head record is a splice producer, which waits for its partner (14_splicer R275). -/
def isProducer (s : State) (q : QueueRow) (r : LaunchRec) : Bool :=
  !q.asis && r.splice && decide (r.kind = 0) && (match descBytes s q.ctx r.kdesc with
    | some bs => decide (descRole bs = 1)
    | none => false)

/-- A record with SPLICE = 1, of a grid or a pool, without a descriptor that can be read: not eligible, counted (14_splicer R275). -/
def deafProducer (s : State) (q : QueueRow) (r : LaunchRec) : Bool :=
  !q.asis && r.splice && (descBytes s q.ctx r.kdesc).isNone

/-- The head record of a queue that is scanned, as bytes. -/
def headRecord (s : State) (q : QueueRow) : Option LaunchRec :=
  if !q.enabled || q.qerr ≠ 0 || pendingRecs q = 0 then none else (recordBytes s q q.head).map parseRecord

/-- An ordinary record rejected or accepted; `asisNext` says of the record after it that it has been refused as a partner. -/
def takeRecord (s : State) (q : QueueRow) (r : LaunchRec) (asisNext : Bool) : State :=
  match rejectStatus s q.ctx r with
  | some st => advanceHead (writeCompletion s q.ctx 0 r.cpla st 0 0 0) q asisNext
  | none => acceptRecord s q r asisNext

/-- Bytes that taking a record may write: HEAD, its completion record. -/
def takeWrites (q : QueueRow) (r : LaunchRec) : List (Nat × Nat) :=
  [(q.base + 64, 8)] ++ (if r.cpla = 0 ∨ r.kind = 3 then [] else [(r.cpla, 16)])

/-- Lines that must come before a kernel descriptor can be read. -/
def descGaps (s : State) (ctx : Nat) (r : LaunchRec) : List (Bool × Nat) :=
  if r.kdesc = 0 ∨ r.kdesc % 16 ≠ 0 ∨ r.splice = false then []
  else firstGaps [readGaps s ctx [(r.kdesc, 32)], match ctxBytes s ctx r.kdesc 32 .rd with
    | some bs => readGaps s ctx [(r.kdesc, 32 + 16 * bitsN (field bs 0 4) 24 4)]
    | none => []]

/-- A queue's head record belongs to a pair that the splicer has decided, as its producer or as the consumer of another queue's producer, and is held
(14_splicer R276, R283). -/
def headHeld (s : State) (q : QueueRow) : Bool :=
  q.plan.isSome || s.queues.any (fun x => x.vf == q.vf && x.num != q.num && (match x.plan with
    | some y => y.partner == q.num && y.record == q.head
    | none => false))

/-- The head record as it is decided, everything it names being there. -/
def decideHead (q0 : QueueRow) (r : LaunchRec) (s0 : State) : State :=
  let s := noteSeen s0 q0
  let q := (queueOf s q0.vf q0.num).getD q0
  if headHeld s q then s
  else if r.kind = 3 then advanceHead s q false
  else if isProducer s q r then s
  else if (rejectStatus s q.ctx r).isNone && recordWaits s q r then s
  else takeRecord (if deafProducer s q r then countRefusal s q.ctx 0 else s) q r false

/-- RECORD_ACCEPT: the head record is skipped, rejected, accepted, or waits (R255) (log entry 36, DEDUCED). -/
def acceptEvent (vf num : Nat) (s : State) : State :=
  match queueOf s vf num with
  | none => s
  | some q =>
    if !q.enabled || q.qerr ≠ 0 || pendingRecs q = 0 then s
    else withLines (readGaps s q.ctx [(slotAt q q.head, 128)]) (fun s => match headRecord s q with
      | none => s
      | some r => withLines (firstGaps [descGaps s q.ctx r, recordGaps s q.ctx r, ctxGaps s q.ctx true (takeWrites q r)]) (fun s =>
          if ctxRoom s q.ctx (takeWrites q r) then decideHead q r s else s) s) s

def execRecordAccept (vf num : Nat) (s : State) : Outcome State Fault Refusal := .next (acceptEvent vf num s)

end Sys2Proof.Machine
end

