-- ==== Sys2Proof/Machine/Splice.lean ====
section
/-! DEFINITION. The splicer (14_splicer R273 to R284): the parts of a kernel, the tests, renumbering, matching, the fused image and its
PC map, the fused launch. -/

namespace Sys2Proof.Machine

open Host (Outcome)

/-! ## Renumbering (R278, R279) -/

/-- What becomes of each kind of register number. -/
structure Renum where
  v : BitVec 6 → BitVec 6
  k : BitVec 9 → BitVec 9
  p : BitVec 3 → BitVec 3
  x : BitVec 3 → BitVec 3
  m : BitVec 6 → BitVec 6
  h : BitVec 3 → BitVec 3

def Renum.src (r : Renum) : Src → Src
  | .vec pat n => .vec pat (r.v n)
  | .uni n => .uni ((r.k (n.setWidth 9)).setWidth 7)
  | .ind x u => .ind (r.x x) u
  | a => a

def Renum.mod (r : Renum) (m : ModFields) : ModFields := { m with pred := r.p m.pred }

def Renum.mem (r : Renum) (f : MemFields) : MemFields := { f with d := r.v f.d, addr := r.src f.addr }

def Renum.atom (r : Renum) (f : AtomFields) : AtomFields := { f with d := r.v f.d, addr := r.src f.addr }

def Renum.cpy (r : Renum) (f : CpyFields) : CpyFields := { f with s := r.v f.s, addr := r.src f.addr, h := r.h f.h }

/-- Every direct register field of a word renumbered; what the device adds itself stays (R278). -/
def mapRegs (r : Renum) : Instr → Instr
  | .mod m => .mod (r.mod m)
  | .iadd d a b => .iadd (r.v d) (r.src a) (r.src b)
  | .isub d a b => .isub (r.v d) (r.src a) (r.src b)
  | .imul d a b => .imul (r.v d) (r.src a) (r.src b)
  | .imulhs d a b => .imulhs (r.v d) (r.src a) (r.src b)
  | .imulhn d a b => .imulhn (r.v d) (r.src a) (r.src b)
  | .imad d a b => .imad (r.v d) (r.src a) (r.src b)
  | .imins d a b => .imins (r.v d) (r.src a) (r.src b)
  | .iminn d a b => .iminn (r.v d) (r.src a) (r.src b)
  | .imaxs d a b => .imaxs (r.v d) (r.src a) (r.src b)
  | .imaxn d a b => .imaxn (r.v d) (r.src a) (r.src b)
  | .and d a b => .and (r.v d) (r.src a) (r.src b)
  | .or d a b => .or (r.v d) (r.src a) (r.src b)
  | .xor d a b => .xor (r.v d) (r.src a) (r.src b)
  | .andn d a b => .andn (r.v d) (r.src a) (r.src b)
  | .shl d a b => .shl (r.v d) (r.src a) (r.src b)
  | .shr d a b => .shr (r.v d) (r.src a) (r.src b)
  | .sar d a b => .sar (r.v d) (r.src a) (r.src b)
  | .rot d a b => .rot (r.v d) (r.src a) (r.src b)
  | .bfe d a b => .bfe (r.v d) (r.src a) (r.src b)
  | .bfi d a b => .bfi (r.v d) (r.src a) (r.src b)
  | .fadd d a b => .fadd (r.v d) (r.src a) (r.src b)
  | .fsub d a b => .fsub (r.v d) (r.src a) (r.src b)
  | .fmul d a b => .fmul (r.v d) (r.src a) (r.src b)
  | .ffma d a b => .ffma (r.v d) (r.src a) (r.src b)
  | .fmin d a b => .fmin (r.v d) (r.src a) (r.src b)
  | .fmax d a b => .fmax (r.v d) (r.src a) (r.src b)
  | .hadd d a b => .hadd (r.v d) (r.src a) (r.src b)
  | .hmul d a b => .hmul (r.v d) (r.src a) (r.src b)
  | .hfma d a b => .hfma (r.v d) (r.src a) (r.src b)
  | .badd d a b => .badd (r.v d) (r.src a) (r.src b)
  | .bmul d a b => .bmul (r.v d) (r.src a) (r.src b)
  | .bfma d a b => .bfma (r.v d) (r.src a) (r.src b)
  | .padd d a b => .padd (r.v d) (r.src a) (r.src b)
  | .psub d a b => .psub (r.v d) (r.src a) (r.src b)
  | .pmul d a b => .pmul (r.v d) (r.src a) (r.src b)
  | .pmac d a b => .pmac (r.v d) (r.src a) (r.src b)
  | .pshr d a b => .pshr (r.v d) (r.src a) (r.src b)
  | .pmin d a b => .pmin (r.v d) (r.src a) (r.src b)
  | .pmax d a b => .pmax (r.v d) (r.src a) (r.src b)
  | .ppack d a b => .ppack (r.v d) (r.src a) (r.src b)
  | .lmul d a b => .lmul (r.v d) (r.src a) (r.src b)
  | .icmp pd cond a b => .icmp (r.p pd) cond (r.src a) (r.src b)
  | .fcmp pd cond a b => .fcmp (r.p pd) cond (r.src a) (r.src b)
  | .hcmp pd cond a b => .hcmp (r.p pd) cond (r.src a) (r.src b)
  | .sel d a b p => .sel (r.v d) (r.src a) (r.v b) (r.p p)
  | .plog pd op a b => .plog (r.p pd) op (r.p a) (r.p b)
  | .vunMov d a => .vunMov (r.v d) (r.src a)
  | .vunNot d a => .vunNot (r.v d) (r.src a)
  | .vunIneg d a => .vunIneg (r.v d) (r.src a)
  | .vunIabs d a => .vunIabs (r.v d) (r.src a)
  | .vunPopc d a => .vunPopc (r.v d) (r.src a)
  | .vunClz d a => .vunClz (r.v d) (r.src a)
  | .vunCtz d a => .vunCtz (r.v d) (r.src a)
  | .vunBrev d a => .vunBrev (r.v d) (r.src a)
  | .vunBswap d a => .vunBswap (r.v d) (r.src a)
  | .vunFrint d a => .vunFrint (r.v d) (r.src a)
  | .vunFfloor d a => .vunFfloor (r.v d) (r.src a)
  | .vunFceil d a => .vunFceil (r.v d) (r.src a)
  | .vunFtrunc d a => .vunFtrunc (r.v d) (r.src a)
  | .cvt src dst d a => .cvt src dst (r.v d) (r.src a)
  | .xfnRcp d a => .xfnRcp (r.v d) (r.src a)
  | .xfnRsq d a => .xfnRsq (r.v d) (r.src a)
  | .xfnSqrt d a => .xfnSqrt (r.v d) (r.src a)
  | .xfnExp2 d a => .xfnExp2 (r.v d) (r.src a)
  | .xfnLog2 d a => .xfnLog2 (r.v d) (r.src a)
  | .xfnSin d a => .xfnSin (r.v d) (r.src a)
  | .xfnCos d a => .xfnCos (r.v d) (r.src a)
  | .xfnTanh d a => .xfnTanh (r.v d) (r.src a)
  | .slided d a b => .slided (r.v d) (r.src a) (r.src b)
  | .slideu d a b => .slideu (r.v d) (r.src a) (r.src b)
  | .shfl d a b => .shfl (r.v d) (r.src a) (r.src b)
  | .red op ty d a => .red op ty (r.v d) (r.src a)
  | .scan op ty d a => .scan op ty (r.v d) (r.src a)
  | .voteAny d a => .voteAny (r.v d) (r.src a)
  | .voteAll d a => .voteAll (r.v d) (r.src a)
  | .voteBallot d a => .voteBallot (r.v d) (r.src a)
  | .voteCount d a => .voteCount (r.v d) (r.src a)
  | .rand d a b => .rand (r.v d) (r.src a) (r.src b)
  | .kopMov kd ka => .kopMov (r.k kd) (r.k ka)
  | .kopAdd kd ka => .kopAdd (r.k kd) (r.k ka)
  | .kopSub kd ka => .kopSub (r.k kd) (r.k ka)
  | .kopMul kd ka => .kopMul (r.k kd) (r.k ka)
  | .kopAnd kd ka => .kopAnd (r.k kd) (r.k ka)
  | .kopOr kd ka => .kopOr (r.k kd) (r.k ka)
  | .kopXor kd ka => .kopXor (r.k kd) (r.k ka)
  | .kopShl kd ka => .kopShl (r.k kd) (r.k ka)
  | .kopShr kd ka => .kopShr (r.k kd) (r.k ka)
  | .kopSar kd ka => .kopSar (r.k kd) (r.k ka)
  | .kopMins kd ka => .kopMins (r.k kd) (r.k ka)
  | .kopMinn kd ka => .kopMinn (r.k kd) (r.k ka)
  | .kopMaxs kd ka => .kopMaxs (r.k kd) (r.k ka)
  | .kopMaxn kd ka => .kopMaxn (r.k kd) (r.k ka)
  | .kopAdd64 kd ka => .kopAdd64 (r.k kd) (r.k ka)
  | .kopMov64 kd ka => .kopMov64 (r.k kd) (r.k ka)
  | .kmovK kd a => .kmovK (r.k kd) (r.src a)
  | .kmovV kd a => .kmovV (r.k kd) (r.src a)
  | .kliShort kd imm => .kliShort (r.k kd) imm
  | .kliPimm kd hi => .kliPimm (r.k kd) hi
  | .xset x a => .xset (r.x x) (r.src a)
  | .xadd x a => .xadd (r.x x) (r.src a)
  | .bra p neg off => .bra (r.p p) neg off
  | .brx ka => .brx (r.k ka)
  | .call p neg off => .call (r.p p) neg off
  | .ret n => .ret (r.v n)
  | .join m => .join (r.m m)
  | .leave m => .leave (r.m m)
  | .waitm m => .waitm (r.m m)
  | .elect ka pd => .elect (r.k ka) (r.p pd)
  | .trap ka n => .trap (r.k ka) n
  | .ld f => .ld (r.mem f)
  | .st f => .st (r.mem f)
  | .ldl f => .ldl (r.mem f)
  | .psh d width => .psh (r.v d) width
  | .pop d width => .pop (r.v d) width
  | .atomAdd f => .atomAdd (r.atom f)
  | .atomMins f => .atomMins (r.atom f)
  | .atomMinn f => .atomMinn (r.atom f)
  | .atomMaxs f => .atomMaxs (r.atom f)
  | .atomMaxn f => .atomMaxn (r.atom f)
  | .atomAnd f => .atomAnd (r.atom f)
  | .atomOr f => .atomOr (r.atom f)
  | .atomXor f => .atomXor (r.atom f)
  | .atomExch f => .atomExch (r.atom f)
  | .atomCas f => .atomCas (r.atom f)
  | .atomFadd f => .atomFadd (r.atom f)
  | .atomFmin f => .atomFmin (r.atom f)
  | .atomFmax f => .atomFmax (r.atom f)
  | .redm op f => .redm op (r.atom f)
  | .fence pd scope => .fence (r.p pd) scope
  | .clineWb addr off => .clineWb (r.src addr) off
  | .clineWbi addr off => .clineWbi (r.src addr) off
  | .clineMem addr off => .clineMem (r.src addr) off
  | .zfill addr scope space off => .zfill (r.src addr) scope space off
  | .cpy f => .cpy (r.cpy f)
  | .obres kd kq wb => .obres (r.k kd) (r.k kq) wb
  | .obrel kh => .obrel (r.k kh)
  | .obld kh kq space cvt => .obld (r.k kh) (r.k kq) space cvt
  | .wbld kh kq space => .wbld (r.k kh) (r.k kq) space
  | .acalloc kd n => .acalloc (r.k kd) n
  | .acfree km => .acfree (r.k km)
  | .mma kp cp => .mma (r.k kp) cp
  | .acmovTogl kt kq clr => .acmovTogl (r.k kt) (r.k kq) clr
  | .acmovTosp kt kq clr => .acmovTosp (r.k kt) (r.k kq) clr
  | .acmovFromsp kt kq => .acmovFromsp (r.k kt) (r.k kq)
  | .acmovToreg kt kq clr => .acmovToreg (r.k kt) (r.k kq) clr
  | .twset kw max => .twset (r.k kw) max
  | .tldw kq => .tldw (r.k kq)
  | .tlnch v => .tlnch (r.v v)
  | .tcapt v => .tcapt (r.v v)
  | .balloc kd ke scope pd => .balloc (r.k kd) (r.k ke) scope (r.p pd)
  | .bfree kh => .bfree (r.k kh)
  | .barvArrive kh kb tx => .barvArrive (r.k kh) (if tx then r.k kb else kb) tx
  | .barvNoarr kh kb => .barvNoarr (r.k kh) (r.k kb)
  | .barvDrop kh kb tx => .barvDrop (r.k kh) (if tx then r.k kb else kb) tx
  | .bwait kh kp pd => .bwait (r.k kh) (r.k kp) (r.p pd)
  | .ringCreate kd kq => .ringCreate (r.k kd) (r.k kq)
  | .ringRel kh => .ringRel (r.k kh)
  | .rawait kh kd => .rawait (r.k kh) (r.k kd)
  | .rrel kh => .rrel (r.k kh)
  | .csrr k n => .csrr (r.k k) n
  | .csrwWrite k n => .csrwWrite (r.k k) n
  | .csrwSet k n => .csrwSet (r.k k) n
  | .csrwClr k n => .csrwClr (r.k k) n
  | .csrwSwap k n => .csrwSwap (r.k k) n
  | .snap kd kq pd => .snap (r.k kd) (r.k kq) (r.p pd)
  | .snapq kd kc pd grp => .snapq (r.k kd) (r.k kc) (r.p pd) grp
  | i => i

/-- Nothing renumbered. -/
def keepRegs : Renum := { v := id, k := id, p := id, x := id, m := id, h := id }

/-- A word names a register if renaming that one alone changes it. -/
def namesBy (r : Renum) (i : Instr) : Bool := decide (mapRegs r i ≠ i)

def namesP (n : Nat) : Instr → Bool := namesBy { keepRegs with p := fun q => if q.toNat = n then q + 1 else q }

def namesX (n : Nat) : Instr → Bool := namesBy { keepRegs with x := fun q => if q.toNat = n then q + 1 else q }

def namesM (n : Nat) : Instr → Bool := namesBy { keepRegs with m := fun q => if q.toNat = n then q + 1 else q }

/-- A direct vector field that exceeds 63 with `np` added. -/
def vTooHigh (np : Nat) : Instr → Bool := namesBy { keepRegs with v := fun q => if 63 < q.toNat + np then q + 1 else q }

/-- A CPY handle that exceeds 7 with `up` added. -/
def hTooHigh (up : Nat) : Instr → Bool := namesBy { keepRegs with h := fun q => if 7 < q.toNat + up then q + 1 else q }

/-- A gang of no lanes, all zero. -/
def blankGang : Gang :=
  { gid := 0, core := 0, slot := 0, part := 0, launch := 0, blk := 0, ctx := 0, width := 8, banks := 0, index := 0, linear := 0,
    entry := 0, lanes := [], k := [], m := List.replicate 12 0, smap := [], tick := 0, cnt := { ld := 0, st := 0, cp := 0, tl := 0 },
    pend := [],
    csr := { gstat := 0, xbar := 0, rmode := 0, fltcode := 0, fltmask := 0, fltaddr := 0, fltpc := 0, fltorg := 0, tretpc := 0,
             twin := 0, fenstat := 0 },
    handler := false, trapLanes := 0, serial := [], blocked := none, since := 0, weight := [], ssp := 0, spillBase := 0,
    spillSize := 0,
    side := { spl := false, np := 0, up := 0, arena := 0, npkt := 0, kidP := 0, kidC := 0, snapP := false, snapC := false }, fwd := [],
    perf := { bundles := 0, packed := 0, fullstall := 0, blocked := 0, zwords := 0, l1hit := 0, l1miss := 0, kblocks := 0, preempts := 0 },
    latch := none, lastIssue := 0, dead := false, away := false, killed := false, parked := false, load := false }

/-- Uniforms of a source field; a wide one is a pair. -/
def uniOfSrc : Option (Src × Bool) → List Nat
  | some (.uni n, wide) => if wide then [n.toNat, n.toNat + 1] else [n.toNat]
  | _ => []

/-- The uniforms that a word names or uses (R279). -/
def uniformsOf (i : Instr) : List Nat :=
  let sh := shapeOf blankGang false i
  let ofMod := match i with
    | .mod m => if m.clamp = 3#2 then [126, 127] else []
    | _ => []
  sh.kr ++ sh.kw ++ uniOfSrc sh.a ++ uniOfSrc sh.b ++ uniOfSrc (sh.addr.map (fun a => (a, true))) ++ ofMod

/-- A word has an indirect uniform source. -/
def indirectUniform (i : Instr) : Bool :=
  let sh := shapeOf blankGang false i
  let one := fun a : Option (Src × Bool) => match a with
    | some (.ind _ u, _) => u
    | _ => false
  one sh.a || one sh.b

/-- A quad of uniforms that would leave its multiple of four (R232, log entry 24, DEDUCED). -/
def quadBreaks (up : Nat) (i : Instr) : Bool :=
  (shapeOf blankGang false i).ka.any (fun e => decide (e.1 < 120) && decide ((e.1 + up) % e.2 ≠ 0))

/-! ## Kernels and their parts (R273, R277) -/

/-- A kernel as the splicer reads it: its packets' four words, the splice region, the last packet with an EXIT. -/
structure Kern where
  entry : Nat
  so    : Nat
  sl    : Nat
  last  : Nat
  pks   : List (List Word)
deriving DecidableEq, Repr

/-- Word `j` of packet `i`, decoded. -/
def Kern.word (k : Kern) (i j : Nat) : Option Instr :=
  match (k.pks.getD i [])[j]? with
  | some w => match decode w with
    | .ok x => some x
    | .error _ => none
  | none => none

/-- Every decoded word with its packet and slot. -/
def Kern.words (k : Kern) : List (Nat × Nat × Instr) :=
  (List.range k.pks.length).flatMap (fun i => (List.range 3).filterMap (fun j => (k.word i j).map (fun x => (i, j, x))))

/-- 0 prologue, 1 region, 2 epilogue, 3 tail. -/
def Kern.part (k : Kern) (i : Nat) : Nat :=
  if i < k.so then 0 else if i < k.so + k.sl then 1 else if i ≤ k.last then 2 else 3

/-- Slots of the last bundle of a packet (04_encoding R77). -/
def lastBundle (ws : List Word) : List Nat :=
  (List.range 3).filter (fun j => (List.range 3).all (fun i => decide (i < j) || decide (2 ≤ i) || (ws.getD i 0).getLsbD 31))

/-- The packet that a BRA or CALL of packet `i` reaches. -/
def targetOf (i : Nat) : Instr → Option Int
  | .bra _ _ off => some (i + off.toInt)
  | .call _ _ off => some (i + off.toInt)
  | _ => none

/-- The back branch: a BRA of the region's last bundle to the region's first packet. -/
def Kern.back (k : Kern) : Option Nat :=
  let i := k.so + k.sl - 1
  (lastBundle (k.pks.getD i [])).find? (fun j => match k.word i j with
    | some (.bra p n off) => decide (targetOf i (.bra p n off) = some (k.so : Int))
    | _ => false)

def isExit (o : Option Instr) : Bool := decide (o = some .exitW)

/-- A bundle that execution cannot leave at its end: an EXIT, or a BRA without a guard. -/
def endsPath (o : Option Instr) : Bool :=
  match o with
  | some (.bra p n _) => decide (p = 7#3) && !n
  | o => isExit o

/-- Temporal words (R277). -/
def isTemporal : Instr → Bool
  | .twset _ _ => true
  | .tldw _ => true
  | .tlnch _ => true
  | .tcapt _ => true
  | .trst => true
  | .trstRel => true
  | _ => false

/-- The CSR of a CSRR or CSRW. -/
def csrNamed : Instr → Option Nat
  | .csrr _ n => some n.toNat
  | .csrwWrite _ n => some n.toNat
  | .csrwSet _ n => some n.toNat
  | .csrwClr _ n => some n.toNat
  | .csrwSwap _ n => some n.toNat
  | _ => none

/-- A word that a kernel of R277 may not hold. -/
def wordForbidden (k : Kern) (i : Nat) (x : Instr) : Bool :=
  (match x with
    | .brx _ => true
    | _ => false) ||
  (match csrNamed x with
    | some n => [0x000, 0x001, 0x002, 0x017, 0x040].contains n
    | none => false) ||
  (match targetOf i x with
    | none => false
    | some t => decide (t < 0) || decide (k.pks.length ≤ t) || (match x with
      | .call _ _ _ => decide (k.part t.toNat ≠ 3)
      | _ => decide (k.part t.toNat ≠ k.part i)))

/-- A tile entry (R274). -/
structure TileEntry where
  pidx   : Nat
  isIn   : Bool
  trans  : Bool
  slot   : Nat
  fmt    : Nat
  wpkt   : Nat
  stride : Nat
  rows   : Nat
  cols   : Nat
deriving DecidableEq, Repr

/-- A kernel descriptor (R273). -/
structure KDesc where
  role    : Nat
  tripp   : Nat
  regs    : Nat
  sploff  : Nat
  spllen  : Nat
  codelen : Nat
  arena   : Nat
  arenasz : Nat
  tiles   : List TileEntry
deriving DecidableEq, Repr

def parseDesc (bs : List Byte) : KDesc :=
  let w := field bs 0 4
  { role := bitsN w 30 2, tripp := bitsN w 16 8, regs := bitsN w 0 9, sploff := field bs 4 4, spllen := field bs 8 4,
    codelen := field bs 12 4, arena := field bs 16 8, arenasz := field bs 24 4,
    tiles := (List.range (bitsN w 24 4)).map (fun t =>
      let e := 32 + 16 * t
      let h := field bs e 4
      { pidx := bitsN h 24 8, isIn := bitN h 23, trans := bitN h 22, slot := bitsN h 20 2, fmt := bitsN h 16 4,
        wpkt := field bs (e + 4) 4, stride := field bs (e + 8) 4, rows := field bs (e + 12) 2, cols := field bs (e + 14) 2 }) }

/-- A descriptor's own fields are eligible: the role, NTILE, REGS, the entries' direction and format. -/
def descOk (d : KDesc) (r : LaunchRec) (role : Nat) : Bool :=
  decide (d.role = role) && decide (1 ≤ d.tiles.length) && decide (d.tiles.length ≤ 8) && decide (d.regs = 16 * r.banks) &&
    d.tiles.all (fun t => (t.isIn == (role == 2)) && decide (t.fmt ≤ 8))

/-- The word of a tile entry is one that its direction allows. -/
def tileWordOk (k : Kern) (t : TileEntry) : Bool :=
  decide (t.slot < 3) && decide (k.so ≤ t.wpkt) && decide (t.wpkt < k.so + k.sl) && (match t.isIn, k.word t.wpkt t.slot with
    | false, some (.st _) => true
    | true, some (.ld _) => true
    | true, some (.obld _ _ sp _) => decide (sp ≠ 3#2)
    | _, _ => false)

/-- The packets of a kernel, none where its code cannot be read or no packet after the region holds an EXIT (log entry 38, DEDUCED). -/
def readKern (s : State) (ctx : Nat) (r : LaunchRec) (d : KDesc) : Option Kern :=
  if d.codelen = 0 ∨ d.spllen = 0 ∨ d.codelen ≤ d.sploff + d.spllen then none
  else match ctxBytes s ctx r.entry (16 * d.codelen) .rd with
    | none => none
    | some bs =>
      let pks := (List.range d.codelen).map (fun i => (List.range 4).map (fun j => wordOf bs (16 * i + 4 * j)))
      let k0 : Kern := { entry := r.entry, so := d.sploff, sl := d.spllen, last := 0, pks := pks }
      match ((List.range d.codelen).filter (fun i => (List.range 3).any (fun j => isExit (k0.word i j)))).getLast? with
      | some l => some { k0 with last := l }
      | none => none

/-- The tests of R277 on one kernel. -/
def kernOk (k : Kern) (d : KDesc) : Bool :=
  let n := k.pks.length
  k.pks.all (fun p => decide (bitsN (p.getD 3 0).toNat 30 2 = 0)) && k.back.isSome &&
    k.words.all (fun e => !(isExit (some e.2.2)) || decide (k.so + k.sl ≤ e.1)) && decide (k.so + k.sl ≤ k.last) &&
    (decide (k.last + 1 = n) || (lastBundle (k.pks.getD k.last [])).any (fun j => endsPath (k.word k.last j))) &&
    k.words.all (fun e => !wordForbidden k e.1 e.2.2) && d.tiles.all (tileWordOk k) &&
    d.tiles.all (fun t => d.tiles.all (fun u => decide (t.wpkt ≠ u.wpkt) || decide (t.slot = u.slot)))

def temporalKern (k : Kern) : Bool := k.words.any (fun e => isTemporal e.2.2)

/-! ## Matching (R280) -/

/-- Bits of an element of FMT (R274). -/
def tileFmtBits (f : Nat) : Nat :=
  match f with
  | 0 => 32
  | 1 => 32
  | 2 => 16
  | 3 => 16
  | 4 => 8
  | 5 => 8
  | _ => 6

/-- Bytes per lane of a store of a width code; an l6 block by FMT (03_numbers R57). -/
def laneBytes (width fmt : Nat) : Nat :=
  match width with
  | 0 => 1
  | 1 => 1
  | 2 => 2
  | 3 => 2
  | 4 => 4
  | 5 => 8
  | 6 => 16
  | _ => if fmt = 6 then 12 else if fmt = 7 then 24 else if fmt = 8 then 48 else 0

/-- A producer entry with its base. -/
def sameTile (a b : TileEntry) (ba bb : Nat) : Bool :=
  a.fmt == b.fmt && a.stride == b.stride && a.rows == b.rows && a.cols == b.cols && ba == bb

/-- The bytes per lane of a pair whose words agree, none where the pair is invalid. -/
def pairBytes (p c : Kern) (o t : TileEntry) (w : Nat) : Option Nat :=
  match p.word o.wpkt o.slot with
  | some (.st f) =>
    let b := laneBytes f.width.toNat o.fmt
    if b = 0 ∨ o.rows * o.cols * tileFmtBits o.fmt ≠ 8 * w * b then none
    else match c.word t.wpkt t.slot with
      | some (.ld g) => if g.width = f.width then some b else none
      | some (.obld _ _ _ cvt) => if cvt then none else some b
      | _ => none
  | _ => none

/-- For each consumer entry the producer entry it takes. -/
def matches_ (po ci : List TileEntry) (pb cb : List Nat) : List (Option Nat) :=
  (List.range ci.length).map (fun i => match ci[i]? with
    | some t => (List.range po.length).find? (fun j => match po[j]? with
      | some o => sameTile o t (pb.getD j 0) (cb.getD i 0)
      | none => false)
    | none => none)

/-- The matching: per producer entry the bytes per lane of its pair, none where it is unmatched; and what each consumer entry takes.
None where test 5 fails. -/
def matchTiles (p c : Kern) (pd cd : KDesc) (pb cb : List Nat) (w : Nat) : Option (List (Option Nat) × List (Option Nat)) :=
  let took := matches_ pd.tiles cd.tiles pb cb
  let hits := (took.zip cd.tiles).filterMap (fun e => e.1.map (fun j => (j, e.2)))
  let valid := hits.all (fun e => match pd.tiles[e.1]? with
    | some o => (pairBytes p c o e.2 w).isSome
    | none => false)
  let outs := (List.range pd.tiles.length).map (fun j => match pd.tiles[j]?, hits.find? (fun e => e.1 == j) with
    | some o, some e => pairBytes p c o e.2 w
    | _, _ => none)
  if valid && (List.range pd.tiles.length).all (fun j => (outs.getD j none).isSome || (match pd.tiles[j]? with
      | some o => !o.trans
      | none => true)) then some (outs, took) else none

/-- The number of the pair of producer entry `j`. -/
def pairNo (outs : List (Option Nat)) (j : Nat) : Nat := ((outs.take j).filter (·.isSome)).length

/-! ## The plan of a fusion -/

/-- The consumer's renumbering and what the fused launch needs. -/
structure Plan where
  p    : Kern
  c    : Kern
  pd   : KDesc
  cd   : KDesc
  outs : List (Option Nat)
  took : List (Option Nat)
  np   : Nat
  up   : Nat
  pm   : List (Nat × Nat)
  xm   : List (Nat × Nat)
  mm   : List (Nat × Nat)
deriving DecidableEq, Repr

/-- The consumer's used numbers onto the producer's unused ones, ascending; none where too few are free. -/
def remap (n : Nat) (used taken : Nat → Bool) : Option (List (Nat × Nat)) :=
  let us := (List.range n).filter used
  let fs := (List.range n).filter (fun i => !taken i)
  if us.length ≤ fs.length then some (us.zip fs) else none

def mapped (m : List (Nat × Nat)) (n : Nat) : Nat :=
  match m.find? (fun e => e.1 == n) with
  | some e => e.2
  | none => n

/-- Up of R279. -/
def upOf (p : Kern) : Nat :=
  if p.words.any (fun e => indirectUniform e.2.2) then 120
  else
    let h := (p.words.flatMap (fun e => (uniformsOf e.2.2).filter (fun n => decide (n < 120)))).foldl (fun a n => max a (n + 1)) 0
    max 2 (h + h % 2)

def planRenum (np up : Nat) (pm xm mm : List (Nat × Nat)) : Renum :=
  { v := fun n => n + BitVec.ofNat 6 np, k := fun n => if n.toNat < 120 then n + BitVec.ofNat 9 up else n,
    p := fun n => BitVec.ofNat 3 (mapped pm n.toNat), x := fun n => BitVec.ofNat 3 (mapped xm n.toNat),
    m := fun n => BitVec.ofNat 6 (mapped mm n.toNat), h := fun n => n + BitVec.ofNat 3 up }

/-- Test 7 but its maps. -/
def uniformsFit (p c : Kern) (up : Nat) : Bool :=
  let ps := p.words.flatMap (fun e => uniformsOf e.2.2)
  let cs := c.words.flatMap (fun e => uniformsOf e.2.2)
  cs.all (fun n => decide (120 ≤ n) || decide (n + up ≤ 119)) && cs.all (fun n => decide (n < 120) || !ps.contains n) &&
    c.words.all (fun e => !hTooHigh up e.2.2 && !quadBreaks up e.2.2)

/-- An arena of a kernel pair (test 8). -/
def arenaOk (s : State) (ctx : Nat) (pd : KDesc) (pe ce n : Nat) : Bool :=
  let a := pd.arena
  let e := a + pd.arenasz
  decide (a % 16 = 0) && decide (32 * n ≤ pd.arenasz) &&
    [pe, ce].all (fun x => decide (a / 2 ^ 34 = x / 2 ^ 34) && decide ((e - 1) / 2 ^ 34 = x / 2 ^ 34)) &&
    (List.range ((e - 1) / 4096 - a / 4096 + 1)).all (fun i =>
      pageOk s ctx (4096 * (a / 4096 + i)) .wr && pageOk s ctx (4096 * (a / 4096 + i)) .ex)

/-- The tile bases of a record, none where one cannot be read. -/
def tileBases (s : State) (ctx : Nat) (r : LaunchRec) (d : KDesc) : Option (List Nat) :=
  let bs := d.tiles.map (fun t => ctxNat s ctx (r.param + 8 * t.pidx) 8 .rd)
  if bs.all (·.isSome) then some (bs.filterMap id) else none

/-- The barriers that two wait and two arrive fields name. -/
def pairRefs (wv : Bool) (wh : Word) (av : Bool) (ahb : Word) (wvC : Bool) (whC : Word) (avC : Bool) (ahbC : Word) : List Word :=
  (if wv then [wh] else []) ++ (if av then [ahb] else []) ++ (if wvC then [whC] else []) ++ (if avC then [ahbC] else [])

/-- The objects named have room for all those references at once (15_tables_counters R295). -/
def refsFit (s : State) (hs : List Word) : Bool :=
  hs.all (fun h => match barNamed s h with
    | some b => decide (b.ref + (hs.filter (· == h)).length ≤ 65535)
    | none => true)

/-- The references of two records; of a fused launch. -/
def recordRefs (p c : LaunchRec) : List Word := pairRefs p.wv p.wh p.av p.ahb c.wv c.wh c.av c.ahb

def launchRefs (l : Launch) : List Word :=
  match l.fused with
  | some f => pairRefs l.wv l.wh l.av l.ahb f.wvC l.ahb f.avC f.ahbC
  | none => pairRefs l.wv l.wh l.av l.ahb false 0 false 0

/-- Test 1; a pair whose references no object has room for is not eligible, and its records meet that limit one at a time. -/
def test1 (s : State) (ctx ctxC : Nat) (p c : LaunchRec) : Option (KDesc × KDesc) :=
  match descBytes s ctx p.kdesc, descBytes s ctxC c.kdesc with
  | some pb, some cb =>
    let pd := parseDesc pb
    let cd := parseDesc cb
    if c.kind = 0 ∧ c.splice ∧ ctx = ctxC ∧ descOk pd p 1 ∧ descOk cd c 2 ∧ rejectStatus s ctx p = none ∧ rejectStatus s ctx c = none ∧
        refsFit s (recordRefs p c) = true
    then some (pd, cd) else none
  | _, _ => none

/-- Test 2. -/
def test2 (s : State) (ctx : Nat) (p c : LaunchRec) (pd cd : KDesc) : Option (Kern × Kern) :=
  match readKern s ctx p pd, readKern s ctx c cd with
  | some pk, some ck => if kernOk pk pd && kernOk ck cd && !(temporalKern pk && temporalKern ck) then some (pk, ck) else none
  | _, _ => none

/-- Tests 3 and 4. -/
def shapesAgree (s : State) (ctx : Nat) (p c : LaunchRec) (pd cd : KDesc) : Bool :=
  decide (p.gx = c.gx) && decide (p.gy = c.gy) && decide (p.gz = c.gz) && decide (p.width = c.width) && decide (p.gangs = c.gangs) &&
    decide (p.cshape = c.cshape) && (decide (p.spbytes = 0) || decide (c.spbytes = 0)) &&
    (decide (p.spillKb = 0) || decide (c.spillKb = 0)) && (!c.wv || (p.av && decide (c.wh = p.ahb))) &&
    (match ctxNat s ctx (p.param + 4 * pd.tripp) 4 .rd, ctxNat s ctx (c.param + 4 * cd.tripp) 4 .rd with
      | some a, some b => decide (a = b)
      | _, _ => false)

/-- Test 6. -/
def vectorsFit (s : State) (c : Kern) (p : LaunchRec) (np nc : Nat) : Bool :=
  decide (np + nc ≤ 256) && c.words.all (fun e => !vTooHigh np e.2.2) &&
    decide (p.gangs * ((np + nc) / 16) * p.width / 8 ≤ s.policies.spliceCeiling)

/-- The tests in order (R276): the reason of the first that fails, or the plan. -/
def planOf (s : State) (ctx ctxC : Nat) (p c : LaunchRec) : Except Nat Plan :=
  match test1 s ctx ctxC p c with
  | none => .error 0
  | some (pd, cd) => match test2 s ctx p c pd cd with
    | none => .error 0
    | some (pk, ck) =>
      if !shapesAgree s ctx p c pd cd then .error 1
      else match tileBases s ctx p pd, tileBases s ctx c cd with
        | some pb, some cb => match matchTiles pk ck pd cd pb cb p.width with
          | none => .error 2
          | some (outs, took) =>
            let up := upOf pk
            let names := fun (f : Nat → Instr → Bool) (k : Kern) (n : Nat) => k.words.any (fun e => f n e.2.2)
            if !vectorsFit s ck p pd.regs cd.regs then .error 3
            else match remap 7 (names namesP ck) (names namesP pk), remap 8 (names namesX ck) (names namesX pk),
                remap 12 (names namesM ck) (names namesM pk) with
              | some pm, some xm, some mm =>
                if !uniformsFit pk ck up then .error 4
                else if !arenaOk s ctx pd p.entry c.entry (pk.pks.length + ck.pks.length) then .error 5
                else .ok { p := pk, c := ck, pd := pd, cd := cd, outs := outs, took := took, np := pd.regs, up := up, pm := pm, xm := xm, mm := mm }
              | _, _, _ => .error 4
        | _, _ => .error 2

/-! ## The fused image and the PC map (R282, R283) -/

/-- The fused packets in order: side (consumer true) and packet. -/
def fusedOrder (pl : Plan) : List (Bool × Nat) :=
  (List.range 4).flatMap (fun part =>
    ((List.range pl.p.pks.length).filter (fun i => pl.p.part i == part)).map (fun i => (false, i)) ++
      ((List.range pl.c.pks.length).filter (fun i => pl.c.part i == part)).map (fun i => (true, i)))

def fusedIndex (order : List (Bool × Nat)) (side : Bool) (i : Nat) : Nat := (order.findIdx? (fun e => e == (side, i))).getD 0

/-- A word with its C bit as in another. -/
def withC (old : Word) (i : Instr) : Word := ((encode i).getD 0) ||| (old &&& 0x80000000#32)

/-- The offset from fused packet `j` to packet `t`. -/
def offTo (j t : Nat) : BitVec 20 := BitVec.ofInt 20 ((t : Int) - j)

/-- The MOD in the slot before. -/
def modBefore (k : Kern) (i j : Nat) : Option ModFields :=
  if j = 0 then none else match k.word i (j - 1) with
    | some (.mod m) => some m
    | _ => none

/-- The producer word in slot `j` of packet `i` is a MOD whose word becomes a NOP (the back branch) or a BRA (an EXIT). -/
def modFalls (k : Kern) (i j : Nat) : Bool :=
  (match k.word i j with
    | some (.mod _) => true
    | _ => false) &&
  ((decide (i = k.so + k.sl - 1) && decide (k.back = some (j + 1))) || (decide (k.part i = 2) && isExit (k.word i (j + 1))))

/-- Word `j` of producer packet `i`, at fused packet `at_`. -/
def fuseP (pl : Plan) (order : List (Bool × Nat)) (at_ i j : Nat) : Word :=
  let w := (pl.p.pks.getD i []).getD j 0
  if modFalls pl.p i j then withC w (.nop 0)
  else if i = pl.p.so + pl.p.sl - 1 ∧ pl.p.back = some j then withC w (.nop 0)
  else match pl.p.word i j with
    | some .exitW =>
      let m := (modBefore pl.p i j).getD plainMod
      if pl.p.part i = 2 then withC w (.bra m.pred m.pneg (offTo at_ (fusedIndex order true (pl.c.so + pl.c.sl)))) else w
    | some (.bra p n off) => withC w (.bra p n (offTo at_ (fusedIndex order false (i + off.toInt).toNat)))
    | some (.call p n off) => withC w (.call p n (offTo at_ (fusedIndex order false (i + off.toInt).toNat)))
    | _ => w

/-- Word `j` of consumer packet `i`. -/
def fuseC (pl : Plan) (order : List (Bool × Nat)) (at_ i j : Nat) : Word :=
  let w := (pl.c.pks.getD i []).getD j 0
  let rn := planRenum pl.np pl.up pl.pm pl.xm pl.mm
  let tgt := fun off : BitVec 20 =>
    if i = pl.c.so + pl.c.sl - 1 ∧ pl.c.back = some j then fusedIndex order false pl.p.so
    else fusedIndex order true (i + off.toInt).toNat
  match pl.c.word i j with
  | some (.bra p n off) => withC w (.bra (rn.p p) n (offTo at_ (tgt off)))
  | some (.call p n off) => withC w (.call (rn.p p) n (offTo at_ (tgt off)))
  | some x => withC w (mapRegs rn x)
  | none => w

/-- The four words of a fused packet. -/
def fusePacket (pl : Plan) (order : List (Bool × Nat)) (at_ : Nat) (e : Bool × Nat) : List Word :=
  let k := if e.1 then pl.c else pl.p
  (List.range 3).map (fun j => if e.1 then fuseC pl order at_ e.2 j else fuseP pl order at_ e.2 j) ++ [(k.pks.getD e.2 []).getD 3 0]

/-- The tile word of a packet: slot, kind, pair; of entries that name one word, the first's (log entry 38, DEDUCED). -/
def tileKind (pl : Plan) (e : Bool × Nat) : Option (Nat × Nat × Nat) :=
  if e.1 then
    firstSome (fun x : TileEntry × Option Nat => if x.1.wpkt = e.2 then x.2.map (fun j => (x.1.slot, 3, pairNo pl.outs j)) else none)
      (pl.cd.tiles.zip pl.took)
  else
    firstSome (fun j => match pl.pd.tiles[j]? with
      | some o => if o.wpkt = e.2 ∧ (pl.outs.getD j none).isSome then some (o.slot, if o.trans then 2 else 1, pairNo pl.outs j) else none
      | none => none) (List.range pl.pd.tiles.length)

/-- The PC map entry of a fused packet. -/
def mapBytes (pl : Plan) (e : Bool × Nat) : List Byte :=
  let k := if e.1 then pl.c else pl.p
  let t := tileKind pl e
  let kinds := match t with
    | some x => x.2.1 * 4 ^ x.1
    | none => 0
  let pair := match t with
    | some x => x.2.2
    | none => 0
  leBytes (2 ^ 63 + kinds * 2 ^ 57 + (if e.1 then 2 ^ 56 else 0) + (k.entry + 16 * e.2) % 2 ^ 56 + pair) 8 ++ List.replicate 8 0

/-- Image and map as 16-byte units. -/
def arenaUnits (pl : Plan) : List (List Byte) :=
  let order := fusedOrder pl
  order.mapIdx (fun at_ e => (fusePacket pl order at_ e).flatMap (fun w => leBytes w.toNat 4)) ++ order.map (mapBytes pl)

/-- The arena as it stands holds them. -/
def arenaHolds (s : State) (ctx a : Nat) (us : List (List Byte)) : Bool :=
  decide (ctxBytes s ctx a (16 * us.length) .any = some us.flatten)

/-- The image and the map written (R282): 16 bytes at a time, a map entry as two halves. -/
def writeArena (s : State) (ctx a : Nat) (us : List (List Byte)) : State :=
  (us.zip (List.range us.length)).foldl (fun s e => match ctxWrite s ctx (a + 16 * e.2) e.1 with
    | some t => t
    | none => s) s

/-! ## The decision (R275, R276, R284) -/

/-- A live fused launch uses the arena. -/
def arenaInUse (s : State) (ctx a : Nat) : Bool :=
  s.launches.any (fun l => decide (l.ctx = ctx) && (match l.fused with
    | some f => decide (f.arena = a)
    | none => false))

/-- The fused launch (R284); its name comes as it is accepted. -/
def fusedLaunch (s : State) (q qc : QueueRow) (p c : LaunchRec) (pl : Plan) (coll : Option CollBind) : Launch :=
  let f : Fused := { queueC := qc.num, kidC := c.kid, snapC := c.snap, cplaC := c.cpla, wvC := c.wv, avC := c.av, ahbC := c.ahb,
                     paramC := c.param, np := pl.np, up := pl.up, arena := pl.pd.arena, npkt := pl.p.pks.length + pl.c.pks.length,
                     pairs := pl.outs.filterMap id }
  let l := launchOfRec s q p coll
  let n := if p.spbytes = 0 then c.spbytes else p.spbytes
  let sk := if p.spillKb = 0 then c.spillKb else p.spillKb
  let sb := if p.spillKb = 0 then c.spillB else p.spillB
  { l with banks := (pl.np + pl.cd.regs) / 16, prio := max p.prio c.prio, split := max p.split c.split, spbytes := n, spillKb := sk,
           spillB := sb, entry := BitVec.ofNat 64 pl.pd.arena, fused := some f }

/-- References on the barriers that the records of a launch name. -/
def refLaunch (s : State) (l : Launch) : State :=
  let s1 := refBarriers s l.wv l.wh l.av l.ahb
  match l.fused with
  | some f => refBarriers s1 f.wvC l.ahb f.avC f.ahbC
  | none => s1

/-- Both HEADs advance past the pair. -/
def advancePair (s : State) (q qc : QueueRow) : State :=
  let s1 := advanceHead s q false
  match queueOf s1 qc.vf qc.num with
  | some x => advanceHead s1 x false
  | none => s1

/-- What the splicer has decided: the image, the map, the launch. -/
def decided (s : State) (q qc : QueueRow) (p c : LaunchRec) (pl : Plan) : SplicePlan :=
  let coll := match bindingOf s q.ctx (if p.coll = 0 then c.coll else p.coll) (recordBlocks s q.ctx p) with
    | .ok b => b
    | .error _ => none
  { partner := qc.num, record := if qc.num = q.num then q.head + 1 else qc.head, serialC := c.serial, arena := pl.pd.arena,
    units := arenaUnits pl, launch := fusedLaunch s q qc p c pl coll }

/-- Bytes that the pair's acceptance may write. -/
def planWrites (x : SplicePlan) (q qc : QueueRow) : List (Nat × Nat) :=
  [(x.arena, 16 * x.units.length), (q.base + 64, 8), (qc.base + 64, 8)]

/-- The partner's queue, where its record may be taken: it is scanned, and the record is still its head's, or the producer's next. -/
def partnerThere (s : State) (q : QueueRow) (x : SplicePlan) : Option QueueRow :=
  match queueOf s q.vf x.partner with
  | some qc => if qc.enabled ∧ qc.qerr = 0 ∧ (if qc.num = q.num then q.head + 1 else qc.head) = x.record then some qc else none
  | none => none

/-- The pair is refused: counted, the producer taken alone, the partner ordinary from now on (R276, R284). -/
def refusePair (s : State) (q qc : QueueRow) (p : LaunchRec) (reason : Nat) : State :=
  let s1 := countRefusal s q.ctx reason
  if q.num = qc.num then takeRecord s1 q p true
  else
    let s2 := takeRecord s1 q p false
    match queueOf s2 qc.vf qc.num with
    | some x => setQueue s2 { x with asis := true }
    | none => s2

/-- The refusal, once the bytes that it writes have their lines. -/
def refuseEvent (q qc : QueueRow) (p : LaunchRec) (reason : Nat) (s : State) : State :=
  withLines (ctxGaps s q.ctx true (takeWrites q p)) (fun s => if ctxRoom s q.ctx (takeWrites q p) then refusePair s q qc p reason else s) s

/-- The pair `p` is accepted as one launch; the decision stands while the arena is in use or the consumer's SERIAL waits (R276, R283). A pair whose
references no object has room for any more is refused as not eligible (15_tables_counters R295; log entry 38, DEDUCED). -/
def fuse (q : QueueRow) (p : LaunchRec) (x : SplicePlan) (s : State) : State :=
  match partnerThere s q x with
  | none => s
  | some qc => if !refsFit s (launchRefs x.launch) then refuseEvent q qc p 0 s else withLines (ctxGaps s q.ctx true (planWrites x q qc)) (fun s =>
      let holds := arenaHolds s q.ctx x.arena x.units
      if (x.serialC && queueBusy s q.vf x.partner) || (!holds && arenaInUse s q.ctx x.arena) || !ctxRoom s q.ctx (planWrites x q qc) then s
      else
        let s1 := if holds then s else writeArena s q.ctx x.arena x.units
        let s2 := addLaunch s1 { x.launch with id := s1.fresh }
        let s3 := refLaunch s2 x.launch
        advancePair (modCtx s3 q.ctx (fun r => { r with spliced := r.spliced + 1 })) q qc) s

/-- The record after the head record, where it is visible. -/
def secondRecord (s : State) (q : QueueRow) : Option LaunchRec :=
  if pendingRecs q < 2 then none else (recordBytes s q (q.head + 1)).map parseRecord

/-- A record waits on the producer's arrival barrier. -/
def waitsOn (p c : LaunchRec) : Bool := c.wv && decide (c.wh = p.ahb)

/-- The partner, with its queue (R275): not a record that has been refused as one, nor one held for another pair (R276). A skip record after the
producer lets it run alone. -/
def partnerOf (s : State) (q : QueueRow) (p : LaunchRec) : Option (QueueRow × LaunchRec) :=
  let second := secondRecord s q
  let own := match second with
    | some c => if !p.av || waitsOn p c || c.kind == 3 then [(q, c)] else []
    | none => []
  let others := if p.av then s.queues.filterMap (fun x => if x.vf = q.vf ∧ x.num ≠ q.num ∧ x.asis = false ∧ headHeld s x = false then
      (match headRecord s x with
       | some c => if waitsOn p c then some (x, c) else none
       | none => none) else none) else []
  (sortBy (fun e : QueueRow × LaunchRec => e.1.num) (own ++ others)).head?

/-- Lines that must come before the records that could be a partner can be read: the next of the queue, the heads of the function's others. -/
def slotGaps (s : State) (q : QueueRow) : List (Bool × Nat) :=
  s.queues.flatMap (fun x => if x.vf ≠ q.vf ∨ pendingRecs x = 0 then []
    else readGaps s x.ctx ([(slotAt x x.head, 128)] ++ (if x.num = q.num ∧ 2 ≤ pendingRecs x then [(slotAt x (x.head + 1), 128)] else [])))

/-- Lines that must come before a kernel's code and parameters can be read. -/
def kernGaps (s : State) (ctx : Nat) (r : LaunchRec) : List (Bool × Nat) :=
  match descBytes s ctx r.kdesc with
  | some bs => let d := parseDesc bs
    readGaps s ctx ([(r.entry, 16 * d.codelen), (r.param + 4 * d.tripp, 4)] ++ d.tiles.map (fun t => (r.param + 8 * t.pidx, 8)))
  | none => []

/-- The tests decide once, everything they read being there (R276). -/
def decidePair (q : QueueRow) (p : LaunchRec) (qc : QueueRow) (c : LaunchRec) (s : State) : State :=
  match planOf s q.ctx qc.ctx p c with
  | .error r => refuseEvent q qc p r s
  | .ok pl =>
    let x := decided s q qc p c pl
    fuse q p x (setQueue s { q with plan := some x })

/-- The head record is a producer whose partner may be visible. -/
def splicePair (q0 : QueueRow) (p : LaunchRec) (s0 : State) : State :=
  let s := noteSeen s0 q0
  let q := (queueOf s q0.vf q0.num).getD q0
  match q.plan with
  | some x => fuse q p x s
  | none =>
    if headHeld s q || !isProducer s q p || ((rejectStatus s q.ctx p).isNone && recordWaits s q p) then s
    else match partnerOf s q p with
      | none => s
      | some (qc, c) => withLines (firstGaps [descGaps s qc.ctx c ++ recordGaps s qc.ctx c, kernGaps s q.ctx p ++ kernGaps s qc.ctx c])
          (decidePair q p qc c) s

/-- SPLICE_DECIDE: the head record of a queue is a producer whose partner is visible. -/
def spliceEvent (vf num : Nat) (s : State) : State :=
  match queueOf s vf num with
  | none => s
  | some q => withLines (slotGaps s q) (fun s => match headRecord s q with
      | none => s
      | some p => withLines (descGaps s q.ctx p ++ recordGaps s q.ctx p) (splicePair q p) s) s

def execSpliceDecide (vf num : Nat) (s : State) : Outcome State Fault Refusal := .next (spliceEvent vf num s)

end Sys2Proof.Machine
end

