-- ==== Sys2Proof/Machine/Control.lean ====
section
/-! DEFINITION. Control words (08_isa_control): transfers, lane masks, serial sections, ELECT, EXIT, WAIT, TRAP, TRET; and NOP, MOD and the
reserved majors (04_encoding R76, R86, R96). -/

namespace Sys2Proof.Machine

open Host (Outcome)

/-- NOP has no effect (R76). -/
def execNop (_rest : BitVec 24) (s : State) : Outcome State Fault Refusal := .next s

/-- MOD stands before the next word of its bundle (R86). -/
def execMod (m : ModFields) (s : State) : Outcome State Fault Refusal :=
  .next (if s.cur.busy then { s with cur := { s.cur with mod := some m } } else s)

/-- A reserved major raises ILLEGAL (R96). -/
def execReservedMajor (major : BitVec 7) (rest : BitVec 24) (s : State) : Outcome State Fault Refusal :=
  .next (runWord (.reservedMajor major rest) (fun _ _ _ s => s) s)

/-! ## Transfers (R147 to R149) -/

/-- The lanes a transfer word takes are noted with their targets; their PCs change as the bundle ends (R147). -/
def takeLanes (s : State) (ts : List (Nat × Addr)) : State := { s with cur := { s.cur with taken := s.cur.taken ++ ts } }

def execBra (p : BitVec 3) (neg : Bool) (off : BitVec 20) (s : State) : Outcome State Fault Refusal :=
  .next (runWord (.bra p neg off) (fun g _ act s => takeLanes s (transferOf s g (.bra p neg off) act)) s)

def execBrx (ka : BitVec 9) (s : State) : Outcome State Fault Refusal :=
  .next (runWord (.brx ka) (fun g _ act s => takeLanes s (transferOf s g (.brx ka) act)) s)

/-- The pair a CALL writes its link to; the consumer side of a fused gang is renumbered (14_splicer R278). -/
def linkReg (s : State) (g : Gang) : Nat := if s.cur.cons then g.side.np else 0

/-- CALL: the taken lanes transfer, and their link is visible at the next tick (R149). -/
def execCall (p : BitVec 3) (neg : Bool) (off : BitVec 20) (s : State) : Outcome State Fault Refusal :=
  .next (runWord (.call p neg off) (fun g _ act s =>
    let ts := transferOf s g (.call p neg off) act
    let link := fallPc s.cur.pc s.cur.last
    pushPend (takeLanes s ts) g 1 (ts.flatMap (fun e =>
      [.write (.v e.1 (linkReg s g)) (lo32 link), .write (.v e.1 (linkReg s g + 1)) (hi32 link)]))) s)

def execRet (n : BitVec 6) (s : State) : Outcome State Fault Refusal :=
  .next (runWord (.ret n) (fun g _ act s => takeLanes s (transferOf s g (.ret n) act)) s)

/-! ## Lane masks (R150) -/

/-- Mask `m` of a gang changed. -/
def modMask (g : Gang) (m : Nat) (f : LaneMask → LaneMask) : Gang := { g with m := g.m.modify m f }

def execJoin (m : BitVec 6) (s : State) : Outcome State Fault Refusal :=
  .next (runWord (.join m) (fun g _ act s => modGang s g.gid (fun g => modMask g m.toNat (fun x => x ||| act))) s)

def execLeave (m : BitVec 6) (s : State) : Outcome State Fault Refusal :=
  .next (runWord (.leave m) (fun g _ act s => modGang s g.gid (fun g => modMask g m.toNat (fun x => x &&& ~~~act))) s)

/-- WAITM: the active lanes wait on m, and the pipes drain (R150); a lane that exits in the same bundle stays Exited (R147). -/
def execWaitm (m : BitVec 6) (s : State) : Outcome State Fault Refusal :=
  .next (runWord (.waitm m) (fun g _ act s =>
    drain (modGang s g.gid (fun g => modLanes g act (fun x => if x.st = .exited then x else { x with st := .waiting m.toNat }))) g.gid) s)

/-- YIELD sets the yield bit of each active lane and drains (R153). -/
def execYieldW (s : State) : Outcome State Fault Refusal :=
  .next (runWord .yieldW (fun g _ act s =>
    drain (modGang s g.gid (fun g => modLanes g act (fun x => if x.st = .exited then x else { x with yield := true }))) g.gid) s)

/-! ## Serial sections (R154) -/

/-- The active lanes form a group, the lowest inside it, the others Held. -/
def serbGang (act : LaneMask) (g : Gang) : Gang :=
  match (lanesOf act).filter (fun l => decide ((laneAt g l).st ≠ .exited)) with
  | [] => g
  | l :: ls => modLanes { g with serial := { cur := l, held := ls } :: g.serial } (maskOf ls) (fun x => { x with st := .held })

def execSerb (s : State) : Outcome State Fault Refusal :=
  .next (runWord .serb (fun g _ act s => modGang s g.gid (serbGang act)) s)

def execSere (s : State) : Outcome State Fault Refusal :=
  .next (runWord .sere (fun g _ act s => modGang s g.gid (fun g => (lanesOf act).foldl serialStep g)) s)

/-! ## ELECT, EXIT, WAIT -/

/-- ELECT: pd true in the lowest active lane alone, its index to kA, two ticks on (R155). -/
def execElect (ka : BitVec 9) (pd : BitVec 3) (s : State) : Outcome State Fault Refusal :=
  .next (runWord (.elect ka pd) (fun g _ act s =>
    let s1 := predResults s g 2 pd.toNat act (fun l => l == lowLane act)
    uniResult s1 g 2 ka.toNat (BitVec.ofNat 32 (lowLane act))) s)

/-- The lanes of a mask exit: their bits of m0 to m11 clear, no group holds them, the groups in which they proceed close (R154, R156); the
last trap lane's exit ends handler mode (R168) (log entry 30, DEDUCED). -/
def exitLanes (act : LaneMask) (g : Gang) : Gang :=
  let g1 := modLanes { g with m := g.m.map (· &&& ~~~act) } act (fun x => { x with st := .exited })
  let g2 := { g1 with serial := g1.serial.map (fun x => { x with held := x.held.filter (fun l => !act.getLsbD l) }) }
  let g3 := (lanesOf act).foldl (fun g l => serialExit l (g.serial.length + 1) g) g2
  { g3 with handler := g3.handler && (lanesOf g3.trapLanes).any (fun l => decide ((laneAt g3 l).st ≠ .exited)) }

def execExitW (s : State) : Outcome State Fault Refusal :=
  .next (runWord .exitW (fun g _ act s => modGang s g.gid (exitLanes act)) s)

/-- A WAIT's counts hold (R157). -/
def waitHolds (c : Counts) (nl ns nc nt : Nat) : Bool :=
  decide (c.ld ≤ nl) && decide (c.st ≤ ns) && decide (c.cp ≤ nc) && decide (c.tl ≤ nt)

/-- WAIT drains, and blocks the gang until its counts hold (R157). -/
def execWait (nl ns nc nt : BitVec 6) (s : State) : Outcome State Fault Refusal :=
  .next (runWord (.wait nl ns nc nt) (fun g _ _ s =>
    let s1 := drain s g.gid
    match gangOf s1 g.gid with
    | some g1 => if waitHolds g1.cnt nl.toNat ns.toNat nc.toNat nt.toNat then s1
      else blockOn s1 g.gid (.wait nl.toNat ns.toNat nc.toNat nt.toNat)
    | none => s1) s)

/-! ## Traps -/

/-- TRAP raises its fault, so it has no effect of its own beyond the entry (R167). -/
def execTrap (ka : BitVec 9) (n : BitVec 4) (s : State) : Outcome State Fault Refusal :=
  .next (runWord (.trap ka n) (fun _ _ _ s => s) s)

/-- TRET: the trap lanes go to TRETPC and handler mode clears; a gang that KILL entered ends (R168, R165). -/
def execTret (s : State) : Outcome State Fault Refusal :=
  .next (runWord .tret (fun g _ act s =>
    modGang (takeLanes s (transferOf s g .tret act)) g.gid trapReturn) s)

end Sys2Proof.Machine
end

