-- ==== Sys2Proof/Machine/MemWords.lean ====
section
/-! DEFINITION. The memory words at issue (11_isa_memory R218 to R228): what each leaves in flight. Their effects on memory and their results
follow as events. -/

namespace Sys2Proof.Machine

open Host (Outcome)

/-! ## Ordering and bytes -/

/-- The ordering that a MOD gives (10_consistency R193). -/
def orderOf (m : ModFields) : Order :=
  match m.rnd.toNat with
  | 0 => .relaxed
  | 1 => .acquire
  | 2 => .release
  | _ => .acqrel

/-- A scope as its space takes it: at most block on the core scratchpad, at most die on the die scratchpad (R193). -/
def effScope (space scope : Nat) : Nat :=
  match space with
  | 1 => min scope 2
  | 2 => min scope 4
  | _ => scope

/-- A 6-bit element packed at bit 6i (03_numbers R57). -/
def packL6 (codes : List Nat) : List Byte := leBytes (codes.foldr (fun c acc => c % 64 + 64 * acc) 0) (6 * codes.length / 8)

/-- Element codes of bytes packed so. -/
def unpackL6 (bs : List Byte) : List Nat := (List.range (bs.length * 8 / 6)).map (fun i => bitsN (leNat bs) (6 * i) 6)

/-- The bytes that a store of width code `w` takes from v(d) on (R219). -/
def storeBytes (s : State) (g : Gang) (d w l : Nat) : List Byte :=
  match w with
  | 0 => leBytes (rdV s g l d).toNat 1
  | 1 => leBytes (rdV s g l d).toNat 1
  | 2 => leBytes (rdV s g l d).toNat 2
  | 3 => leBytes (rdV s g l d).toNat 2
  | 7 => packL6 ((List.range (l6Len g)).map (fun i => bitsN (rdV s g l (d + i / 4)).toNat (8 * (i % 4)) 6))
  | _ => (List.range (widthRegs g w)).flatMap (fun j => leBytes (rdV s g l (d + j)).toNat 4)

/-- The register words that a load of width code `w` gives (R218). -/
def loadWords (w : Nat) (bs : List Byte) : List Word :=
  match w with
  | 0 => [BitVec.ofNat 32 (leNat bs)]
  | 1 => [(BitVec.ofNat 8 (leNat bs)).signExtend 32]
  | 2 => [BitVec.ofNat 32 (leNat bs)]
  | 3 => [(BitVec.ofNat 16 (leNat bs)).signExtend 32]
  | 7 =>
    let cs := unpackL6 bs
    (List.range (cs.length / 4)).map (fun j => BitVec.ofNat 32 (cs.getD (4 * j) 0 + 256 * cs.getD (4 * j + 1) 0 +
      65536 * cs.getD (4 * j + 2) 0 + 16777216 * cs.getD (4 * j + 3) 0))
  | _ => (List.range (bs.length / 4)).map (fun j => wordOf bs (4 * j))

/-- The bytes that register word `j` of a load takes: (first, count). -/
def wordBytes (w j : Nat) : Nat × Nat :=
  match w with
  | 7 => (3 * j, 3)
  | _ => (4 * j, 4)

/-! ## Loads -/

/-- An operation of the word, with the pieces of its lanes. -/
def startMem (s : State) (g : Gang) (i : Instr) (cls : OpCls) (kind : OpKind) (act : LaneMask) : State :=
  startOp s g cls kind act (lanePieces (laneAccesses s g i act))

/-- What a forwarded LD takes from its entry: the width's bytes of each lane (14_splicer R281). -/
def fwdValues (s : State) (g : Gang) (w : Nat) (act : LaneMask) : List (Nat × List Byte) :=
  match g.fwd[s.cur.pair]? with
  | some e => (lanesOf act).map (fun l => (l, slice e.bytes (l * e.b) (widthBytes g w)))
  | none => []

def execLd (f : MemFields) (s : State) : Outcome State Fault Refusal :=
  .next (runWord (.ld f) (fun g m act s =>
    if fwdKind s g = 3 then
      startOp s g .ld (.fwdLoad f.d.toNat f.width.toNat (l6Len g) (fwdValues s g f.width.toNat act)) act []
    else startMem s g (.ld f) .ld (.load f.d.toNat f.width.toNat (l6Len g) (effScope f.space.toNat f.scope.toNat) (orderOf m) m.neg) act) s)

def execLdl (f : MemFields) (s : State) : Outcome State Fault Refusal :=
  .next (runWord (.ldl f) (fun g _ act s =>
    startMem s g (.ldl f) .ld (.load f.d.toNat f.width.toNat (l6Len g) f.scope.toNat .relaxed false) act) s)

/-- POP lowers SSP at issue (R221). -/
def execPop (d : BitVec 6) (w : BitVec 3) (s : State) : Outcome State Fault Refusal :=
  .next (runWord (.pop d w) (fun g _ act s =>
    modGang (startMem s g (.pop d w) .ld (.load d.toNat w.toNat 0 0 .relaxed false) act) g.gid
      (fun x => { x with ssp := x.ssp - spillWidth w * g.width })) s)

/-! ## Stores -/

/-- Pieces with the bytes of their lanes. -/
def withData (ps : List Piece) (bytes : Nat → List Byte) : List Piece := ps.map (fun p => { p with data := slice (bytes p.lane) p.off p.len })

/-- A matched store writes its lanes' bytes in the pair's forwarding entry: of each lane the entry's own number (14_splicer R281). -/
def fwdStore (s : State) (g : Gang) (act : LaneMask) (bytes : Nat → List Byte) : State :=
  let put := fun e : FwdEntry => { e with bytes := (lanesOf act).foldl (fun bs l =>
    bs.take (l * e.b) ++ (bytes l).take e.b ++ bs.drop (l * e.b + ((bytes l).take e.b).length)) e.bytes }
  modGang s g.gid (fun x => { x with fwd := x.fwd.modify s.cur.pair put })

def execSt (f : MemFields) (s : State) : Outcome State Fault Refusal :=
  .next (runWord (.st f) (fun g m act s =>
    let bytes := storeBytes s g f.d.toNat f.width.toNat
    let k := fwdKind s g
    let s1 := if k = 1 ∨ k = 2 then fwdStore s g act bytes else s
    let ps := if k = 2 then [] else withData (lanePieces (laneAccesses s g (.st f) act)) bytes
    startOp s1 g .st (.store (effScope f.space.toNat f.scope.toNat) (orderOf m)) act ps) s)

/-- PSH raises SSP at issue (R221). -/
def execPsh (d : BitVec 6) (w : BitVec 3) (s : State) : Outcome State Fault Refusal :=
  .next (runWord (.psh d w) (fun g _ act s =>
    let ps := withData (lanePieces (laneAccesses s g (.psh d w) act)) (storeBytes s g d.toNat w.toNat)
    modGang (startOp s g .st (.store 0 .relaxed) act ps) g.gid (fun x => { x with ssp := x.ssp + spillWidth w * g.width })) s)

/-- The pieces of distinct lines: lanes that name one line cause one operation, the lowest lane's, which lists the others (R226, R227). -/
def onePerLine : List Piece → List Piece
  | [] => []
  | p :: ps =>
    let same := fun q : Piece => placesMeet (lineStart p.place) 128 (lineStart q.place) 128
    let rest := onePerLine ps
    { p with psn := (rest.filter same).flatMap (fun q => q.lane :: q.psn) } :: rest.filter (fun q => !same q)

/-- A line operation: its lines whole. -/
def clineWord (i : Instr) (which : Nat) (s : State) : State :=
  runWord i (fun g _ act s =>
    let ps := (onePerLine (lanePieces (laneAccesses s g i act))).map (fun p => { p with place := lineStart p.place, len := 128, off := 0 })
    startOp s g .st (.cline which) act ps) s

def execClineWb (a : Src) (off : Bool) (s : State) : Outcome State Fault Refusal := .next (clineWord (.clineWb a off) 0 s)

def execClineWbi (a : Src) (off : Bool) (s : State) : Outcome State Fault Refusal := .next (clineWord (.clineWbi a off) 1 s)

def execClineMem (a : Src) (off : Bool) (s : State) : Outcome State Fault Refusal := .next (clineWord (.clineMem a off) 2 s)

def execZfill (a : Src) (scope : BitVec 3) (space : BitVec 2) (off : Bool) (s : State) : Outcome State Fault Refusal :=
  .next (runWord (.zfill a scope space off) (fun g _ act s =>
    let ps := withData (onePerLine (lanePieces (laneAccesses s g (.zfill a scope space off) act))) (fun _ => List.replicate 128 0)
    startOp s g .st (.zfill (effScope space.toNat scope.toNat)) act ps) s)

/-! ## Atomics (R222, R223) -/

/-- The operands of one lane: (compare value, new value) of cas, (operand, operand) of the rest. -/
def atomOperands (s : State) (g : Gang) (cas wide : Bool) (d l : Nat) : BitVec 64 × BitVec 64 :=
  let one := fun n : Nat => if wide then pair64 (rdV s g l n) (rdV s g l (n + 1)) else (rdV s g l n).setWidth 64
  if cas then (one d, one (if wide then d + 2 else d + 1)) else (one d, one d)

/-- The lanes of an atomic word by address, ascending in each group (10_consistency R210). -/
def atomGroups (opnd : Nat → BitVec 64 × BitVec 64) : List Piece → List AtomGroup
  | [] => []
  | p :: ps =>
    let rest := atomGroups opnd ps
    match rest.find? (fun x => decide (x.place = p.place)) with
    | some x => { x with lanes := p.lane :: x.lanes, opnds := opnd p.lane :: x.opnds } ::
        rest.filter (fun y => !decide (y.place = p.place))
    | none => { place := p.place, lanes := [p.lane], opnds := [opnd p.lane], olds := [], st := .todo, psn := [], late0 := false, late1 := false } :: rest

/-- An atomic word: its groups in flight; a remote acquire first has a promotion of each group's line, kept as pieces (R204). -/
def atomWord (i : Instr) (f : AtomFields) (aop : Nat) (ret : Bool) (s : State) : State :=
  runWord i (fun g m act s =>
    let ps := lanePieces (laneAccesses s g i act)
    let gs := atomGroups (atomOperands s g (aop == 9) f.wide f.d.toNat) ps
    let rem := m.neg && !f.sp
    let proms := if rem then gs.map (fun x => { lane := x.lanes.headD 0, off := 0, place := x.place, len := 0, st := .todo, data := [], psn := [] })
      else []
    startOp s g (if ret then .ld else .st)
      (.atom aop f.wide (effScope (if f.sp then 1 else 0) f.scope.toNat) (orderOf m) rem ret f.d.toNat gs) act proms) s

def execAtomAdd (f : AtomFields) (s : State) : Outcome State Fault Refusal := .next (atomWord (.atomAdd f) f 0 true s)
def execAtomMins (f : AtomFields) (s : State) : Outcome State Fault Refusal := .next (atomWord (.atomMins f) f 1 true s)
def execAtomMinn (f : AtomFields) (s : State) : Outcome State Fault Refusal := .next (atomWord (.atomMinn f) f 2 true s)
def execAtomMaxs (f : AtomFields) (s : State) : Outcome State Fault Refusal := .next (atomWord (.atomMaxs f) f 3 true s)
def execAtomMaxn (f : AtomFields) (s : State) : Outcome State Fault Refusal := .next (atomWord (.atomMaxn f) f 4 true s)
def execAtomAnd (f : AtomFields) (s : State) : Outcome State Fault Refusal := .next (atomWord (.atomAnd f) f 5 true s)
def execAtomOr (f : AtomFields) (s : State) : Outcome State Fault Refusal := .next (atomWord (.atomOr f) f 6 true s)
def execAtomXor (f : AtomFields) (s : State) : Outcome State Fault Refusal := .next (atomWord (.atomXor f) f 7 true s)
def execAtomExch (f : AtomFields) (s : State) : Outcome State Fault Refusal := .next (atomWord (.atomExch f) f 8 true s)
def execAtomCas (f : AtomFields) (s : State) : Outcome State Fault Refusal := .next (atomWord (.atomCas f) f 9 true s)
def execAtomFadd (f : AtomFields) (s : State) : Outcome State Fault Refusal := .next (atomWord (.atomFadd f) f 10 true s)
def execAtomFmin (f : AtomFields) (s : State) : Outcome State Fault Refusal := .next (atomWord (.atomFmin f) f 11 true s)
def execAtomFmax (f : AtomFields) (s : State) : Outcome State Fault Refusal := .next (atomWord (.atomFmax f) f 12 true s)

def execRedm (op : BitVec 4) (f : AtomFields) (s : State) : Outcome State Fault Refusal := .next (atomWord (.redm op f) f op.toNat false s)

/-! ## FENCE and CPY -/

/-- FENCE: in flight until FENCE_COMPLETE; at scope thread it completes at once, its predicate true for the next bundle (R224, R225). -/
def execFence (pd scope : BitVec 3) (s : State) : Outcome State Fault Refusal :=
  .next (runWord (.fence pd scope) (fun g _ act s =>
    if scope = 0 then (if pd = 7 then s else predResults s g 1 pd.toNat act (fun _ => true))
    else startOp s g .st (.fence scope.toNat pd.toNat []) act []) s)

/-- CPY: the ownership of its destinations asked for (10_consistency R205), the ring slot it is assigned (13_queues R266) or the barrier it holds a reference on (15_tables_counters R295), and the core's Dirty bytes of its
ranges written back (R206). -/
def execCpy (f : CpyFields) (s : State) : Outcome State Fault Refusal :=
  .next (runWord (.cpy f) (fun g _ act s =>
    let n := cpySize f
    let h := rdK g f.h.toNat
    let cl := (lanesOf act).filterMap (fun l => match cpySrc s g f l, cpyDst s g f l with
      | .ok (p :: _), .ok (q :: _) => some { lane := l, src := p.place, dst := q.place : CpyLane }
      | _, _ => none)
    let s0 := cl.foldl (fun s c => settleL1 g.core false (settleL1 g.core false s (c.src, n)) (c.dst, n)) s
    let s1 := askDests g.core (cl.map (fun c => (c.dst, n))) s0
    match cpyRing s g f with
    | some r =>
      let a := ringAssign r (n * popcount act)
      startOp (setRing s1 a.1) g .cp (.cpy n h (some (r.obj, a.2)) false cl) act []
    | none => startOp (if h = 0 then s1 else barRef s1 h) g .cp (.cpy n h none false cl) act []) s)

end Sys2Proof.Machine
end

