-- ==== Sys2Proof/Machine/MemDone.lean ====
section
/-! DEFINITION. Memory words in flight: their pieces performed, their results written (10_consistency R199 to R212, 11_isa_memory R216
to R228), waits and walks ending. -/

namespace Sys2Proof.Machine

open Host (Outcome)

/-! ## Operations in flight -/

def modOp (s : State) (id : Nat) (f : Op → Op) : State := { s with ops := s.ops.map (fun o => if o.id = id then f o else o) }

def setPiece (s : State) (id i : Nat) (p : Piece) : State := modOp s id (fun o => { o with pieces := setAt o.pieces i p })

/-- The tag of piece `i` of an operation in packets. -/
def tagOf (id i : Nat) : Nat := id * 4096 + i

/-- Piece numbers that an event names: all where it names none. -/
def pieceList (ps : List Nat) (n : Nat) : List Nat := if ps = [] then List.range n else ps.filter (fun i => decide (i < n))

/-- The address that a place was named by. -/
def placeVa : Place → Nat
  | .mem _ va => va
  | .peer _ va => va
  | .mcast _ _ va => va
  | .scr _ off => off
  | .die _ _ off => off

def isMcast : Place → Bool
  | .mcast _ _ _ => true
  | _ => false

def isPeer : Place → Bool
  | .peer _ _ => true
  | _ => false

/-- Pieces of lane `l` in order. -/
def laneParts (o : Op) (l : Nat) : List Piece := sortBy (·.off) (o.pieces.filter (fun p => p.lane == l))

/-- The line of memory that a place lies in: another package's, and its number. -/
def placeLine (p : Place) : Option (Bool × Nat) :=
  match p with
  | .mem pa _ => some (false, pa / 128)
  | .peer ga _ => some (true, ga / 128)
  | _ => none

/-- Another granule of the operation on the same line has been accessed before: the word's access to the line is one (15_tables_counters R299). -/
def lineCounted (o : Op) (i : Nat) (p : Place) : Bool :=
  let other := fun (j : Nat) (q : Place) (st : PieceSt) => decide (j ≠ i) && decide (placeLine q = placeLine p) && decide (st ≠ .todo)
  match o.kind with
  | .atom _ _ _ _ _ _ _ gs => gs.zipIdx.any (fun e => other e.2 e.1.place e.1.st)
  | _ => o.pieces.zipIdx.any (fun e => other e.2 e.1.place e.1.st)

/-- L1HIT and L1MISS: the line access of granule `i` of a memory word that is performed in `t`, by what L1 held in `s` (R299). -/
def countL1 (s : State) (o : Op) (i : Nat) (p : Place) (t : State) : State :=
  if lineCounted o i p then t
  else match placeLine p with
    | some (peer, ln) =>
      if (l1Line s o.core peer ln).isSome then modGang t o.gid (fun g => { g with perf := { g.perf with l1hit := g.perf.l1hit + 1 } })
      else modGang t o.gid (fun g => { g with perf := { g.perf with l1miss := g.perf.l1miss + 1 } })
    | none => t

/-! ## What a late pre-cut operation leaves in the image (11_isa_memory R231) -/

def preOf (o : Op) : Colour → Bool
  | .c0 => o.pre0
  | .c1 => o.pre1

/-- The operation was pre-cut for a colour whose image is under way and covers its context. -/
def lateOp (s : State) (o : Op) (c : Colour) : Bool := preOf o c && capturing s c && decide (ctxGroup s o.ctx = (colRow s c).group)

/-- The mark of a piece whose packet is post-cut of a colour. -/
def lateMark : Colour → Nat
  | .c0 => 2048
  | .c1 => 2049

def lateMarks (s : State) (o : Op) : List Nat := ([Colour.c0, Colour.c1].filter (lateOp s o)).map lateMark

def groupLate (x : AtomGroup) : Colour → Bool
  | .c0 => x.late0
  | .c1 => x.late1

/-- What the descriptor of an operation holds once it has performed after a cut: an atomic's old values, and what restoration must send
again, because its packets were post-cut. -/
def lateDescriptor (c : Colour) (o : Op) : Option Op :=
  match o.kind with
  | .atom aop wide scope ord rem ret d gs =>
    if ret || gs.any (fun x => groupLate x c) then
      some { o with kind := .atom aop wide scope ord rem ret d (gs.map (fun x => if groupLate x c then { x with st := .todo, olds := [] } else x)) }
    else none
  | .store _ _ =>
    let ps := o.pieces.filter (fun p => p.psn.contains (lateMark c))
    if ps = [] then none else some { o with pieces := ps.map (fun p => { p with st := .todo, psn := [] }) }
  | _ => none

def recordLateFor (o : Op) (c : Colour) (s : State) : State :=
  if lateOp s o c then (match lateDescriptor c o with
    | some x => emitRec s c (.eager o.ctx (.op x))
    | none => s) else s

def recordLate (s : State) (o : Op) : State := recordLateFor o .c1 (recordLateFor o .c0 s)

/-! ## Loads -/

/-- A remote acquire goes to its line's home first (R204), after the core's own Dirty bytes of the line (R202): this package's, where it waits
for its answer, or another's. -/
def askPromotion (s : State) (o : Op) (i : Nat) (p : Piece) : State :=
  match p.place with
  | .mem pa _ =>
    let t := settleOwn s o.core false (pa / 128)
    let d := dirLine t (pa / 128)
    setPiece (setDir t { d with reqs := d.reqs ++ [{ src := s.fab.lid, own := false, tag := tagOf o.id i, rem := true, core := o.core }] })
      o.id i { p with st := .sent }
  | .peer ga _ =>
    let t := settleOwn s o.core true (ga / 128)
    setPiece (askRead t (ga / 128) (tagOf o.id i) true o.core) o.id i { p with st := .sent }
  | _ => s

/-- Places whose home takes remote acquires. -/
def hasHome : Place → Bool
  | .mem _ _ => true
  | .peer _ _ => true
  | _ => false

/-- Lane `l` of an acquire has read all it reads: the acquire takes effect, before any later access of the thread (R203). -/
def acquireRead (id l : Nat) (s : State) : State :=
  match opOf s id with
  | some o => match o.kind with
    | .load _ _ _ scope ord _ => if isAcq ord && decide (undone o l = []) then acquireL1 o.core scope s else s
    | .atom _ _ scope ord _ _ _ _ => if isAcq ord && decide (undone o l = []) then acquireL1 o.core scope s else s
    | _ => s
  | none => s

/-- Piece `i` of a load has been read. -/
def pieceRead (id i : Nat) (p : Piece) (bytes : List Byte) (psn : List Nat) (s : State) : State :=
  acquireRead id p.lane (setPiece s id i { p with st := .done, data := bytes, psn := psn })

/-- The home alone can tell what an access of this scope reads or has written. -/
def atHome (scope : Nat) (p : Place) : Bool := decide (scopePlace scope = 2) && !isMcast p

/-- Piece `i` of a load reads now, where the rules allow it. -/
def readPiece (id : Nat) (s : State) (i : Nat) : State :=
  match opOf s id with
  | none => s
  | some o => match o.kind, o.pieces[i]? with
    | .load _ _ _ scope ord rem, some p =>
      if decide (p.st ≠ .todo) || !mayPerform s o p.lane p.place p.len false then s
      else if rem && hasHome p.place then countL1 s o i p.place (askPromotion s o i p)
      else match readPlace s o.core o.ctx (tagOf id i) scope (isAcq ord) p.place p.len with
        | .got bytes psn t => pieceRead id i p bytes psn (eccAccess o p.place p.len (countL1 s o i p.place t))
        | .sent t => setPiece (if atHome scope p.place then countL1 s o i p.place t else t) id i { p with st := .sent }
        | .wait t => t
    | _, _ => s

/-- The destination words of one lane, each with the mark of the poisoned bytes it received (R217). -/
def writeLoadLane (d width : Nat) (bytes : List Byte) (psn : List Nat) (va l : Nat) (g : Gang) (s : State) : State :=
  let ws := loadWords width bytes
  (List.range ws.length).foldl (fun s j =>
    let r := wordBytes width j
    let bad := psn.any (fun k => decide (r.1 ≤ k) && decide (k < r.1 + r.2))
    putV s g l (d + j) (ws.getD j 0) (if bad then some (some (BitVec.ofNat 64 va)) else none)) s

/-- A load whose pieces have all been read writes its registers in every active lane and completes (R217). -/
def finishLoad (id : Nat) (s : State) : State :=
  match opOf s id with
  | none => s
  | some o => match o.kind, gangOf s o.gid with
    | .load d width _ _ _ _, some g =>
      if o.pieces.all (fun p => decide (p.st = .done)) then
        let s1 := (lanesOf o.lanes).foldl (fun s l =>
          let ps := laneParts o l
          writeLoadLane d width (ps.flatMap (·.data)) (ps.flatMap (fun p => p.psn.map (p.off + ·))) ((ps.map (fun p => placeVa p.place)).headD 0) l g s) s
        endOp s1 o
      else s
    | .fwdLoad d width _ vals, some g => endOp (vals.foldl (fun s e => writeLoadLane d width e.2 [] 0 e.1 g s) s) o
    | .load _ _ _ _ _ _, none => endOp s o
    | .fwdLoad _ _ _ _, none => endOp s o
    | _, _ => s

/-- LOAD_COMPLETE: the named pieces read, and the load completes when all have (R217) (log entry 61, DEDUCED). -/
def loadEvent (id : Nat) (ps : List Nat) (s : State) : State :=
  match opOf s id with
  | some o => finishLoad id ((pieceList ps o.pieces.length).foldl (readPiece id) s)
  | none => s

def execLoadComplete (op : Nat) (ps : List Nat) (s : State) : Outcome State Fault Refusal := .next (loadEvent op ps s)

/-! ## Stores -/

/-- A FENCE's bound has expired for a lost peer of a lane (R208). -/
def excused (o : Op) (l p : Nat) : Bool :=
  match o.kind with
  | .fence _ _ lost => lost.contains (l * 2048 + p)
  | _ => false

/-- Bytes that a live package still keeps from being performed beyond this one: posted to its memory by a thread of the context, or in a line of this
package's that it holds. What synchronised with the lane at a narrower scope may be among them (R196; log entry 88, DEDUCED). -/
def othersPosted (s : State) (ctx : Nat) : Bool :=
  s.l2.any (fun r => r.peer && decide (r.dirty ≠ 0) && !r.owned && r.ctx == ctx && !lostPkg s (r.line * 128 / 2 ^ 45)) ||
  s.dir.any (fun d => d.pend.any (fun e => match gangOf s e.1 with
    | some g => g.ctx == ctx
    | none => true))

/-- A release of some lanes at scope `sc`: the core's Dirty lines below it written back; whether every earlier access is performed
there (R201, R185, R207): at pod scope or wider, no ownership and no other holder's answer is awaited. -/
def releaseReady (s : State) (o : Op) (ls : List Nat) (sc : Nat) : Bool × State :=
  if !ls.all (laneDone s o) then (false, s)
  else
    let t := writeBackBelow o.core sc s
    (decide (sc < 6) || (ls.all (fun l => (unownedPeers t o.gid l).all (excused o l)) && !othersPosted t o.ctx), t)

/-- A lower lane of the word has still to write the same bytes (R192). -/
def lowerLaneFirst (o : Op) (i : Nat) (p : Piece) : Bool :=
  ((List.range i).any (fun j => match o.pieces[j]? with
    | some q => decide (q.lane < p.lane) && decide (q.st ≠ .done) && placesMeet q.place q.len p.place p.len
    | none => false))

/-- The scope of a store to a place: an aperture's acts as pod at least (18_fabric_collectives R347). -/
def placeScope (scope : Nat) (p : Place) : Nat := if isMcast p then max scope 6 else scope

/-- Piece `i` of a store written at the place of its scope, where the rules allow it. -/
def writePiece (id scope : Nat) (rel : Bool) (s : State) (i : Nat) : State :=
  match opOf s id with
  | none => s
  | some o => match o.pieces[i]? with
    | none => s
    | some p =>
      let ls := pieceLanes o.kind p
      if decide (p.st ≠ .todo) || !ls.all (fun l => mayPerform s o l p.place p.len true) || lowerLaneFirst o i p then s
      else
        let r := if rel then releaseReady s o [p.lane] (placeScope scope p.place) else (true, s)
        if !r.1 then r.2
        else match writePlace r.2 (wrAt o ls) o.core (tagOf id i) scope p.place p.data with
          | .done t =>
            let t1 := eccAccess o p.place p.len (countL1 s o i p.place t)
            setPiece (if rel && decide (scope ≤ 2) then releaseNote t1 o.core p.place else t1) id i { p with st := .done }
          | .sent t => setPiece (if atHome scope p.place then countL1 s o i p.place t else t) id i
              { p with st := .sent, psn := if isMcast p.place then lateMarks s o else p.psn }
          | .wait t => t

/-- An operation whose pieces have all been performed completes (R42). -/
def endIfDone (id : Nat) (s : State) : State :=
  match opOf s id with
  | some o => if o.pieces.all (fun p => decide (p.st = .done)) then endOp (recordLate s o) o else s
  | none => s

/-- STORE_PERFORMED: the named pieces of ST, PSH or ZFILL are performed (R219, R221, R227). -/
def storeEvent (id : Nat) (ps : List Nat) (s : State) : State :=
  match opOf s id with
  | some o => match o.kind with
    | .store scope ord => endIfDone id ((pieceList ps o.pieces.length).foldl (writePiece id scope (isRel ord)) s)
    | .zfill scope => endIfDone id ((pieceList ps o.pieces.length).foldl (writePiece id scope false) s)
    | _ => s
  | none => s

def execStorePerformed (op : Nat) (ps : List Nat) (s : State) : Outcome State Fault Refusal := .next (storeEvent op ps s)

/-! ## Atomics (R210 to R212, R222) -/

/-- v' of R222 on 32 bits. -/
def atomNew32 (aop : Nat) (v : Word) (o : Word × Word) : Word :=
  match aop with
  | 0 => v + o.1
  | 1 => if v.toInt ≤ o.1.toInt then v else o.1
  | 2 => if v.toNat ≤ o.1.toNat then v else o.1
  | 3 => if v.toInt ≤ o.1.toInt then o.1 else v
  | 4 => if v.toNat ≤ o.1.toNat then o.1 else v
  | 5 => v &&& o.1
  | 6 => v ||| o.1
  | 7 => v ^^^ o.1
  | 8 => o.1
  | 9 => if v = o.1 then o.2 else v
  | 10 => BitVec.ofNat 32 (rneAdd fmtF32 v.toNat o.1.toNat)
  | 11 => BitVec.ofNat 32 (minNum fmtF32 v.toNat o.1.toNat)
  | _ => BitVec.ofNat 32 (maxNum fmtF32 v.toNat o.1.toNat)

/-- v' of R222 on 64 bits: the integer operations. -/
def atomNew64 (aop : Nat) (v : BitVec 64) (o : BitVec 64 × BitVec 64) : BitVec 64 :=
  match aop with
  | 0 => v + o.1
  | 1 => if v.toInt ≤ o.1.toInt then v else o.1
  | 2 => if v.toNat ≤ o.1.toNat then v else o.1
  | 3 => if v.toInt ≤ o.1.toInt then o.1 else v
  | 4 => if v.toNat ≤ o.1.toNat then o.1 else v
  | 5 => v &&& o.1
  | 6 => v ||| o.1
  | 7 => v ^^^ o.1
  | 8 => o.1
  | _ => if v = o.1 then o.2 else v

def atomNew (aop : Nat) (wide : Bool) (v : BitVec 64) (o : BitVec 64 × BitVec 64) : BitVec 64 :=
  if wide then atomNew64 aop v o else (atomNew32 aop (lo32 v) (lo32 o.1, lo32 o.2)).setWidth 64

/-- The fold of a group: the old value of each lane, and the last value (R210). -/
def atomFold (aop : Nat) (wide : Bool) : BitVec 64 → List (BitVec 64 × BitVec 64) → List (BitVec 64) × BitVec 64
  | v, [] => ([], v)
  | v, o :: os => let r := atomFold aop wide (atomNew aop wide v o) os; (v :: r.1, r.2)

def setGroup (s : State) (id i : Nat) (x : AtomGroup) : State :=
  modOp s id (fun o => match o.kind with
    | .atom aop wide scope ord rem ret d gs => { o with kind := .atom aop wide scope ord rem ret d (setAt gs i x) }
    | _ => o)

/-- L2 holds the peer line whole, with its ownership. -/
def ownedLine (s : State) (line : Nat) : Bool :=
  match l2Line s true line with
  | some r => r.filled && r.owned
  | none => false

/-- A list in runs of at most `n`, each with the index of its first element. -/
def runsOf {α : Type} (n : Nat) (xs : List α) : List (Nat × List α) :=
  (List.range ((xs.length + n - 1) / n)).map (fun i => (n * i, (xs.drop (n * i)).take n))

/-- Bytes of one lane's operands: two for cas. -/
def opndBytes (aop : Nat) (wide : Bool) : Nat := (if wide then 8 else 4) * (if aop = 9 then 2 else 1)

/-- The packets of an atomic request: four payload flits hold 128 bytes of operands (18_fabric_collectives R342; log entry 75, DESIGN CHOICE). -/
def sendOpnds (s : State) (dst ga tag aop : Nat) (wide : Bool) (opnds : List (BitVec 64 × BitVec 64)) : State :=
  let n := opndBytes aop wide
  (runsOf (128 / n) opnds).foldl (fun s e => sendPkt s (pktOf s dst 7 ((n * e.2.length + 31) / 32) ga
    (.atomic tag (BitVec.ofNat 4 aop) wide e.1 opnds.length e.2))) s

/-- The request of a group on a line whose home is another package, at pod or system scope (18_fabric_collectives R342 class 7), once nothing of
this package is on its way there. -/
def sendAtomic (s : State) (o : Op) (i : Nat) (aop : Nat) (wide : Bool) (ga : Nat) (x : AtomGroup) : State :=
  let t := settleOwn s o.core true (ga / 128)
  if homeBusy t o.id (ga / 128) || posted t (ga / 128) then t
  else
    let t := passBy o.core (ga / 128) t
    setGroup (sendOpnds t (ga / 2 ^ 45) ga (tagOf o.id i) aop wide x.opnds) o.id i
      { x with st := .sent, late0 := lateOp s o .c0 && inGroup s s.col0.group (ga / 2 ^ 45),
               late1 := lateOp s o .c1 && inGroup s s.col1.group (ga / 2 ^ 45) }

/-- An atomic on a peer line has its bytes to itself: in the core's L1, or in L2 with the line's ownership (R211). -/
def atomOwned (s : State) (scope : Nat) (p : Place) : Bool :=
  match p with
  | .peer ga _ => decide (scope < 3) || ownedLine s (ga / 128)
  | _ => true

/-- The acquire of the lanes of a group that has been performed. -/
def groupRead (id : Nat) (ls : List Nat) (s : State) : State := ls.foldl (fun s l => acquireRead id l s) s

/-- Group `i` of an atomic performed at its place: one read-modify-write (R210, R211). -/
def performGroup (id : Nat) (s : State) (i : Nat) : State :=
  match opOf s id with
  | none => s
  | some o => match o.kind with
    | .atom aop wide scope ord rem _ _ gs => match gs[i]? with
      | none => s
      | some x =>
        let n := if wide then 8 else 4
        let promoted := !(rem && hasHome x.place) || (match o.pieces[i]? with
          | some p => decide (p.st = .done)
          | none => true)
        if decide (x.st ≠ .todo) || !x.lanes.all (fun l => mayPerform s o l x.place n true) then s
        else if !promoted then
          (match o.pieces[i]? with
           | some p => if p.st = .todo then askPromotion s o i p else s
           | none => s)
        else
          let r := if isRel ord then releaseReady s o x.lanes scope else (true, s)
          if !r.1 then r.2
          else match x.place with
            | .mcast _ _ _ => r.2
            | pl =>
              if !atomOwned r.2 scope pl then
                (match pl with
                 | .peer ga _ => if 6 ≤ scope then countL1 s o i pl (sendAtomic r.2 o i aop wide ga x) else awaitLines r.2 [(true, ga / 128)]
                 | _ => r.2)
              else match readPlace r.2 o.core o.ctx (tagOf id i) scope false pl n with
                | .got bytes psn t =>
                  let f := atomFold aop wide (BitVec.ofNat 64 (leNat bytes)) x.opnds
                  (match writePlace t { wrOf o with who := x.lanes.map (fun l => (o.gid, l)) } o.core (tagOf id i) scope pl (leBytes f.2.toNat n) with
                   | .done u =>
                     let u1 := eccAccess o pl n (countL1 s o i pl u)
                     groupRead id x.lanes (setGroup (if isRel ord && decide (scope ≤ 2) then releaseNote u1 o.core pl else u1) id i
                       { x with st := .done, olds := f.1, psn := psn })
                   | .sent u => u
                   | .wait u => u)
                | .sent t => setGroup t id i { x with st := .sent }
                | .wait t => t
    | _ => s

/-- The old values written in the lanes of a group (R222). -/
def writeOlds (g : Gang) (d : Nat) (wide : Bool) (x : AtomGroup) (s : State) : State :=
  (x.lanes.zip x.olds).foldl (fun s e =>
    let mark := fun (k : Nat) => if x.psn.any (fun i => decide (4 * k ≤ i) && decide (i < 4 * k + 4)) then
      some (some (BitVec.ofNat 64 (placeVa x.place))) else none
    let s1 := putV s g e.1 d (lo32 e.2) (mark 0)
    if wide then putV s1 g e.1 (d + 1) (hi32 e.2) (mark 1) else s1) s

/-- An atomic whose groups have all been performed completes. -/
def finishAtom (id : Nat) (s : State) : State :=
  match opOf s id with
  | none => s
  | some o => match o.kind with
    | .atom _ wide _ _ _ ret d gs =>
      if gs.all (fun x => decide (x.st = .done)) then
        let s1 := match ret, gangOf s o.gid with
          | true, some g => gs.foldl (fun s x => writeOlds g d wide x s) s
          | _, _ => s
        endOp (recordLate s1 o) o
      else s
    | _ => s

/-- ATOM_COMPLETE: the named address groups are performed (R210). -/
def atomEvent (id : Nat) (ps : List Nat) (s : State) : State :=
  match opOf s id with
  | some o => match o.kind with
    | .atom _ _ _ _ _ _ _ gs => finishAtom id ((pieceList ps gs.length).foldl (performGroup id) s)
    | _ => s
  | none => s

def execAtomComplete (op : Nat) (ps : List Nat) (s : State) : Outcome State Fault Refusal := .next (atomEvent op ps s)

/-- ENGINE_RECALL: the pieces of an access that an engine's ownership delayed are performed now (R205). -/
def execEngineRecall (op : Nat) (ps : List Nat) (s : State) : Outcome State Fault Refusal :=
  .next (atomEvent op ps (storeEvent op ps (loadEvent op ps s)))

/-! ## FENCE (R224, R225, R208) -/

/-- No earlier system FENCE of the gang is incomplete (R225). -/
def fenceTurn (s : State) (o : Op) : Bool :=
  s.ops.all (fun x => !(x.gid == o.gid && decide (x.id < o.id) && (match x.kind with
    | .fence 7 _ _ => true
    | _ => false)))

/-- FENSTAT of a system FENCE (06_registers R118, R208). -/
def fenstatOf (lost : List Nat) : Word :=
  match sortAsc (lost.map (· % 2048)) with
  | [] => 0
  | p :: _ => BitVec.ofNat 32 (65536 * p + 1)

/-- The FENCE completes: its predicate and FENSTAT (R225). -/
def fenceDone (s : State) (o : Op) (scope pd : Nat) (lost : List Nat) : State :=
  let s1 := if pd = 7 then s else (lanesOf o.lanes).foldl (fun s l =>
    modGang s o.gid (fun g => modLane g l (fun y =>
      { y with p := if lost.any (fun e => e / 2048 == l) then y.p &&& ~~~(1#7 <<< pd) else y.p ||| (1#7 <<< pd) }))) s
  let s2 := if scope = 7 then modGang s1 o.gid (fun g => { g with csr := { g.csr with fenstat := fenstatOf lost } }) else s1
  endOp s2 o

/-- FENCE_COMPLETE (R224 steps 2 to 5). -/
def fenceEvent (id : Nat) (s : State) : State :=
  match opOf s id with
  | none => s
  | some o => match o.kind with
    | .fence scope pd lost =>
      if decide (scope = 7) && !fenceTurn s o then s
      else if scope = 0 then fenceDone s o scope pd []
      else
        let r := releaseReady s o (lanesOf o.lanes) scope
        if r.1 then fenceDone (acquireL1 o.core scope r.2) o scope pd (if scope = 7 then lost else []) else r.2
    | _ => s

def execFenceComplete (op : Nat) (s : State) : Outcome State Fault Refusal := .next (fenceEvent op s)

/-- Lost packages that home an earlier store of lane `l` of an operation without ownership. -/
def lostPeers (s : State) (o : Op) (l : Nat) : List Nat := (unownedPeers s o.gid l).filter (lostPkg s)

/-- The acquire half of an ordering. -/
def acquireHalf : Order → Order
  | .release => .relaxed
  | .acqrel => .acquire
  | r => r

/-- The lanes wait for lost packages, and for nothing else. -/
def onlyLost (s : State) (o : Op) (ls : List Nat) : Bool :=
  decide (ls.flatMap (unownedPeers s o.gid) ≠ []) && ls.all (fun l => (unownedPeers s o.gid l).all (lostPkg s)) && !othersPosted s o.ctx

/-- At its bound a release at pod or system scope that waits for nothing but lost packages has completed as a release (R208). -/
def boundRelease (scope : Nat) (ord : Order) (o : Op) (s : State) : State :=
  if !isRel ord || decide (scope < 6) || !(lanesOf o.lanes).all (laneDone s o) then s
  else
    let t := writeBackBelow o.core scope s
    if !onlyLost t o (lanesOf o.lanes) then t
    else modOp t o.id (fun x => { x with kind := match x.kind with
      | .store sc r => .store sc (acquireHalf r)
      | .atom aop wide sc r rem ret d gs => .atom aop wide sc (acquireHalf r) rem ret d gs
      | k => k })

/-- A place in a lost package's memory. -/
def lostPlace (s : State) (p : Place) : Bool :=
  match p with
  | .peer ga _ => lostPkg s (ga / 2 ^ 45)
  | .mcast grp _ _ => match groupDesc s grp with
    | some d => d.members.any (fun m => lostPkg s m.1)
    | none => false
  | _ => false

def isStoreOp (o : Op) : Bool :=
  match o.kind with
  | .store _ _ => true
  | .zfill _ => true
  | _ => false

/-- Bytes of a store that its lost home has not taken stand in L2 without ownership from then on: a later FENCE finds the peer there (R207, R208). -/
def postLost (o : Op) (s : State) : State :=
  if isStoreOp o then o.pieces.foldl (fun s p => match p.place with
    | .peer ga va => if decide (p.st ≠ .done) && lostPlace s p.place then
        writePeerLine (wrAt o (pieceLanes o.kind p)) (ga / 128) (va / 128 * 128) (byteMask (ga % 128) p.data.length) (lineBytes (ga % 128) p.data) s else s
    | _ => s) s
  else s

/-- Members of an aperture store's group that are lost and have not acknowledged it. -/
def lostAcks (s : State) (grp : Nat) (p : Piece) : List Nat :=
  match groupDesc s grp with
  | some d => (d.members.map (·.1)).filter (fun m => lostPkg s m && !p.psn.contains m)
  | none => []

/-- Every member that is not lost has acknowledged an aperture store. -/
def liveAcked (s : State) (grp : Nat) (p : Piece) : Bool :=
  match groupDesc s grp with
  | some d => (d.members.map (·.1)).all (fun m => lostPkg s m || p.psn.contains m)
  | none => false

/-- A piece in a lost package's memory at its bound: loads get poisoned data, a store waits no longer, an aperture's for no lost member. -/
def dropPiece (s : State) (store : Bool) (p : Piece) : Piece :=
  if decide (p.st = .done) || !lostPlace s p.place then p
  else match p.place, store with
    | .mcast grp _ _, true => if decide (p.st = .sent) && liveAcked s grp p then { p with st := .done } else p
    | _, true => { p with st := .done }
    | _, false => { p with st := .done, data := List.replicate p.len 0, psn := List.range p.len }

/-- Lost members that stay unacknowledged when an aperture store's pieces end: a later FENCE of the lane finds them (R208). -/
def memberLosses (s : State) (o : Op) : List (Nat × Nat × Nat) :=
  if isStoreOp o then o.pieces.flatMap (fun p => match p.place with
    | .mcast grp _ _ => if decide (p.st = .sent) && liveAcked s grp p then (lostAcks s grp p).map (fun m => (o.gid, p.lane, m)) else []
    | _ => []) else []

/-- Lanes of the unperformed pieces and groups of an operation in a lost package's memory. -/
def lostLanes (s : State) (o : Op) : List Nat :=
  (o.pieces.filter (fun p => decide (p.st ≠ .done) && lostPlace s p.place)).map (·.lane) ++ (match o.kind with
    | .atom _ _ _ _ _ _ _ gs => (gs.filter (fun x => decide (x.st ≠ .done) && lostPlace s x.place)).flatMap (·.lanes)
    | _ => [])

/-- The unperformed pieces and groups of an operation in a lost package's memory: loads and atomics get poisoned data, and an acquire takes its effect
then (R203); stores wait no longer. -/
def dropLost (s0 : State) (o : Op) : State :=
  let s1 := postLost o s0
  let s := { s1 with fab := { s1.fab with mlost := s1.fab.mlost ++ (memberLosses s1 o).filter (fun e => !s1.fab.mlost.contains e) } }
  groupRead o.id (lostLanes s o).dedup <| modOp s o.id (fun o =>
    let ps := o.pieces.map (dropPiece s (isStoreOp o))
    match o.kind with
    | .atom aop wide scope ord rem ret d gs =>
      let gs1 := gs.map (fun x => if decide (x.st ≠ .done) && lostPlace s x.place then
        { x with st := .done, olds := x.lanes.map (fun _ => 0#64), psn := List.range 8 } else x)
      { o with pieces := ps, kind := .atom aop wide scope ord rem ret d gs1 }
    | _ => { o with pieces := ps })

/-! ## CLINE (R226) -/

/-- A line operation on one line: back to L2, then L1 invalid, or L2's bytes to memory or the home package. -/
def clinePiece (id which : Nat) (s : State) (i : Nat) : State :=
  match opOf s id with
  | none => s
  | some o => match o.pieces[i]? with
    | none => s
    | some p =>
      if decide (p.st ≠ .todo) || !mayPerform s o p.lane p.place p.len false then s
      else
        let s1 := settleL1 o.core (which == 1) s (p.place, p.len)
        match which, p.place with
        | 2, .mem pa _ => setPiece (l2ToMem s1 (pa / 128)) id i { p with st := .done }
        | 2, .peer ga _ =>
          (match l2Line s1 true (ga / 128) with
           | some r =>
             if r.dirty = 0 then setPiece s1 id i { p with st := .done }
             else if !r.owned || s1.fab.wbs.contains (ga / 128) then s1
             else setPiece (writeBackPeer (tagOf id i) r s1) id i { p with st := .sent }
           | none => setPiece s1 id i { p with st := .done })
        | _, _ => setPiece s1 id i { p with st := .done }

def clineEvent (id : Nat) (s : State) : State :=
  match opOf s id with
  | some o => match o.kind with
    | .cline which => endIfDone id ((List.range o.pieces.length).foldl (clinePiece id which) s)
    | _ => s
  | none => s

def execClineComplete (op : Nat) (s : State) : Outcome State Fault Refusal := .next (clineEvent op s)

/-! ## CPY (R228, R229, R205, R206) -/

/-- An engine operation issued earlier, or a chunk, owns a line that this one reads or writes. -/
def engineBusy (s : State) (o : Op) (ps : List (Place × Nat)) : Bool :=
  ps.any (fun q => chunkOwns s q.1 q.2) ||
  s.ops.any (fun e => decide (e.id < o.id) && (engineDests s e).any (fun d => ps.any (fun q => ownsLine d q.1 q.2)))

/-- Every source byte is read before any destination is written; the highest lane stands (R228). -/
def cpyMove (o : Op) (size : Nat) (lanes : List CpyLane) (s : State) : State :=
  let data := lanes.map (fun c => (c, engineBytes s o.core c.src size))
  data.foldl (fun s e => engineWrite (wrPost o.ctx) o.core e.1.dst e.2.1 e.2.2 s) s

/-- The completion told to the handle's target: a release at its scope (R206, R229). -/
def cpyTell (o : Op) (size : Nat) (h : Word) (slot : Option (Nat × Nat)) (n : Nat) (s : State) : State :=
  match slot with
  | some (obj, round) => setRing s (ringCount (ringAt s o.core obj) round (size * n))
  | none =>
    if h = 0 then s
    else match barNamed s h with
      | some b => barUnref (barBytes (writeBackBelow o.core b.scope s) h (size * n)) h
      | none => s

def cpyEvent (id : Nat) (s : State) : State :=
  match opOf s id with
  | none => s
  | some o => match o.kind with
    | .cpy size h slot cancelled lanes =>
      if cancelled then endOp s o
      else
        let srcs := lanes.map (fun c => (c.src, size))
        let dsts := lanes.map (fun c => (c.dst, size))
        let missing := missingLines s false srcs ++ missingLines s true dsts
        let held := heldLines s false srcs ++ heldLines s true dsts
        if !(lanesOf o.lanes).all (laneDone s o) || !slotReady s o.core slot || engineBusy s o (srcs ++ dsts) then s
        else if missing ≠ [] ∨ held ≠ [] then askLines s o.core missing held
        else if !dsts.all (fun d => writeRoom (wrPost o.ctx) s d.1 d.2) then s
        else endOp (cpyTell o size h slot (popcount o.lanes) (cpyMove o size lanes (eccPlaces o.ctx (srcs ++ dsts) s))) o
    | _ => s

def execCpyComplete (op : Nat) (s : State) : Outcome State Fault Refusal := .next (cpyEvent op s)

/-! ## The bound of a lost peer (R208) -/

/-- An engine's source in a lost package's memory reads as poisoned data, its destination there is not performed: the place stands in an
aperture that no group has (R188, R208; log entry 35, DEDUCED). -/
def losePlace (s : State) (p : Place) : Place := if lostPlace s p then .mcast 4096 0 (placeVa p) else p

def losePieces (s : State) (o : Op) : Op := { o with pieces := o.pieces.map (fun p => { p with place := losePlace s p.place }) }

def loseLanes (s : State) (o : Op) : Op :=
  match o.kind with
  | .cpy size h slot c lanes => { o with kind := .cpy size h slot c (lanes.map (fun x => { x with src := losePlace s x.src, dst := losePlace s x.dst })) }
  | _ => o

/-- LOST_PEER_BOUND: the bound of an operation that waits on a lost package expires (R208) (log entry 35, DEDUCED). -/
def lostBound (id : Nat) (s : State) : State :=
  match opOf s id with
  | none => s
  | some o => match o.kind with
    | .fence scope pd lost =>
      let t := if scope < 6 then s else writeBackBelow o.core scope s
      let more := (lanesOf o.lanes).flatMap (fun l => (lostPeers t o l).map (fun p => l * 2048 + p))
      fenceEvent id (modOp t id (fun o => { o with kind := .fence scope pd (lost ++ more.filter (fun e => !lost.contains e)) }))
    | .load _ _ _ _ _ _ => finishLoad id (dropLost s o)
    | .store scope ord => endIfDone id (boundRelease (if o.pieces.any (fun p => isMcast p.place) then max scope 6 else scope) ord o (dropLost s o))
    | .atom _ _ scope ord _ _ _ _ => finishAtom id (boundRelease scope ord o (dropLost s o))
    | .cline _ => endIfDone id (dropLost s o)
    | .zfill _ => endIfDone id (dropLost s o)
    | .cpy _ _ _ _ _ => cpyEvent id (modOp s id (loseLanes s))
    | .obldMem _ _ => modOp s id (losePieces s)
    | .wbld _ _ _ _ _ => modOp s id (losePieces s)
    | .acmov _ _ _ _ _ _ _ _ => modOp s id (losePieces s)
    | .tldw _ => modOp s id (losePieces s)
    | _ => s

def execLostPeerBound (op : Nat) (s : State) : Outcome State Fault Refusal := .next (lostBound op s)

/-! ## Waits and walks -/

/-- WAIT_RELEASE: the counts of a blocked WAIT hold (R157). -/
def waitEvent (gid : Nat) (s : State) : State :=
  match gangOf s gid with
  | some g => match g.blocked with
    | some (.wait nl ns nc nt) => if waitHolds g.cnt nl ns nc nt then unblock s gid else s
    | _ => s
  | none => s

def execWaitRelease (g : Nat) (s : State) : Outcome State Fault Refusal := .next (waitEvent g s)

/-- STALL_RELEASE: the counters have room for the stalled bundle (R42). -/
def stallEvent (gid : Nat) (s : State) : State :=
  match gangOf s gid with
  | some g => match g.blocked with
    | some (.full nl ns nc nt) =>
      if g.cnt.ld + nl ≤ 63 ∧ g.cnt.st + ns ≤ 63 ∧ g.cnt.cp + nc ≤ 63 ∧ g.cnt.tl + nt ≤ 63 then unblock s gid else s
    | _ => s
  | none => s

def execStallRelease (g : Nat) (s : State) : Outcome State Fault Refusal := .next (stallEvent g s)

/-- A page or line that held bundles of some gangs waited for has come: they issue when nothing is left (R216). -/
def pageCome (for_ : Gang → Bool) (page : Nat) (s : State) : State :=
  { s with gangs := s.gangs.map (fun g => if for_ g then { g with blocked := heldAfter page g.blocked } else g) }

/-- A line that bundles waited for has come (R216, R233). -/
def lineCome (page : Nat) (s : State) : State := pageCome (fun _ => true) page s

/-- A row of what a walk of a page finds. -/
def walkRow (s : State) (buf ctx page : Nat) : TlbRow :=
  match walk s ctx (page * 4096) with
  | some (a, p, level) => { buf := buf, ctx := ctx, page := page, leaf := some (p, level), pte := a }
  | none => { buf := buf, ctx := ctx, page := page, leaf := none, pte := 0 }

/-- The frame of a page that the context owns. -/
def pageFrame (s : State) (ctx page : Nat) : Option (Nat × Nat) :=
  match walk s ctx (page * 4096) with
  | some (_, p, _) => ownedFrame s ctx (page * 4096) p
  | none => none

/-- A context's first access to its frame. -/
def takeFrame (f : Option (Nat × Nat)) (ctx : Nat) (s : State) : State :=
  match f with
  | some f => firstOwner s ctx f.1 f.2
  | none => s

/-- A core's request for a page ends (09_memories R172, R176): its die's buffer answers where it holds the entry, else a walker of the die walks
and both buffers hold what it found; held bundles of the die go on. A walk to a frame that another context still owns waits for its zeroing (R189). -/
def walkEvent (core ctx page : Nat) (s : State) : State :=
  match ctxRow s ctx with
  | none => s
  | some _ =>
    let frame := pageFrame s ctx page
    if (coreRow s core ctx page).isNone && frame.any (fun f => framePending s ctx f.1 f.2) then s
    else
      let t := match tlbRow s core ctx page, tlbRow s (dieBuf core) ctx page with
        | some _, _ => s
        | none, some r => { s with tlb := { r with buf := core } :: s.tlb }
        | none, none => modCtx (takeFrame frame ctx
            { s with tlb := walkRow s core ctx page :: walkRow s (dieBuf core) ctx page :: s.tlb }) ctx (fun r => { r with walks := r.walks + 1 })
      pageCome (fun g => g.ctx == ctx && g.core / 40 == core / 40) page t

/-- WALK_COMPLETE. -/
def execWalkComplete (ctx : Nat) (ask : PageAsk) (s : State) : Outcome State Fault Refusal := .next (walkEvent ask.core ctx ask.page s)

end Sys2Proof.Machine
end

