-- ==== Sys2Proof/Machine/SyncWords.lean ====
section
/-! DEFINITION. The words on barriers, rings and snapshots at issue (17_isa_sync_system R326 to R340). -/

namespace Sys2Proof.Machine

open Host (Outcome)

/-! ## Barriers -/

def execBalloc (kd ke : BitVec 9) (scope pd : BitVec 3) (s : State) : Outcome State Fault Refusal :=
  .next (runWord (.balloc kd ke scope pd) (fun g _ act s =>
    startOp s g .ld (.balloc kd.toNat pd.toNat scope.toNat (bitsN (rdK g ke.toNat).toNat 0 20)) act []) s)

def execBfree (kh : BitVec 9) (s : State) : Outcome State Fault Refusal :=
  .next (runWord (.bfree kh) (fun g _ act s => startOp s g .st (.bfree (rdK g kh.toNat)) act []) s)

def execBarvArrive (kh kb : BitVec 9) (tx : Bool) (s : State) : Outcome State Fault Refusal :=
  .next (runWord (.barvArrive kh kb tx) (fun g _ act s =>
    startOp s g .st (.barv (rdK g kh.toNat) 0 tx (if tx then rdK g kb.toNat else 0)) act []) s)

def execBarvNoarr (kh kb : BitVec 9) (s : State) : Outcome State Fault Refusal :=
  .next (runWord (.barvNoarr kh kb) (fun g _ act s =>
    startOp s g .st (.barv (rdK g kh.toNat) 1 true (rdK g kb.toNat)) act []) s)

def execBarvDrop (kh kb : BitVec 9) (tx : Bool) (s : State) : Outcome State Fault Refusal :=
  .next (runWord (.barvDrop kh kb tx) (fun g _ act s =>
    startOp s g .st (.barv (rdK g kh.toNat) 2 tx (if tx then rdK g kb.toNat else 0)) act []) s)

/-- A predicate of some lanes written now; 7 names none. -/
def setPreds (s : State) (gid p : Nat) (lanes : LaneMask) (v : Bool) : State :=
  if p = 7 then s
  else modGang s gid (fun g => modLanes g lanes (fun y => { y with p := if v then y.p ||| (1#7 <<< p) else y.p &&& ~~~(1#7 <<< p) }))

/-- BWAIT's completion with `ok` (R331): the predicate, and with true an acquire at the object's scope; an object that has been freed
since its phase completed is acquired at device scope (log entry 32, DEDUCED). -/
def bwaitEnd (s : State) (g : Gang) (h : Word) (pd : Nat) (lanes : LaneMask) (ok : Bool) : State :=
  let sc := match barNamed s h with
    | some b => b.scope
    | none => 5
  setPreds (if ok then acquireL1 g.core sc s else s) g.gid pd lanes ok

/-- BWAIT drains; it completes at once where the phase differs, else it blocks (R331). -/
def execBwait (kh kp : BitVec 9) (pd : BitVec 3) (s : State) : Outcome State Fault Refusal :=
  .next (runWord (.bwait kh kp pd) (fun g _ act s =>
    let h := rdK g kh.toNat
    let par := (rdK g kp.toNat).getLsbD 0
    let s1 := drain s g.gid
    match barNamed s h with
    | some b => if b.phase = par then blockOn s1 g.gid (.bwait h pd.toNat act none) else bwaitEnd s1 g h pd.toNat act true
    | none => bwaitEnd s1 g h pd.toNat act false) s)

/-! ## Rings -/

/-- RING blocks until its grant (R334). -/
def execRingCreate (kd kq : BitVec 9) (s : State) : Outcome State Fault Refusal :=
  .next (runWord (.ringCreate kd kq) (fun g _ _ s =>
    blockOn s g.gid (.ring kd.toNat (rdK g kq.toNat) (rdK g (kq.toNat + 1)))) s)

def execRingRel (kh : BitVec 9) (s : State) : Outcome State Fault Refusal :=
  .next (runWord (.ringRel kh) (fun g _ _ s => blockOn s g.gid (.ringRel (rdK g kh.toNat))) s)

/-- RAWAIT drains, and blocks until it takes a Full slot (R335). -/
def execRawait (kh kd : BitVec 9) (s : State) : Outcome State Fault Refusal :=
  .next (runWord (.rawait kh kd) (fun g _ act s => blockOn (drain s g.gid) g.gid (.rawait (rdK g kh.toNat) kd.toNat act)) s)

/-- RREL: RPEND counts it until it is applied (R336, R333). -/
def execRrel (kh : BitVec 9) (s : State) : Outcome State Fault Refusal :=
  .next (runWord (.rrel kh) (fun g _ act s =>
    let h := rdK g kh.toNat
    let s1 := match ringLive s g h with
      | some r => setRing s { r with rpend := r.rpend + 1 }
      | none => s
    startOp s1 g .st (.rrel h) act []) s)

/-! ## Snapshots -/

/-- SNAP: a request goes to the masthead core (R338, 16_snapshot R301). -/
def execSnap (kd kq : BitVec 9) (pd : BitVec 3) (s : State) : Outcome State Fault Refusal :=
  .next (runWord (.snap kd kq pd) (fun g _ act s =>
    let id := rdK g kq.toNat
    let grp := bitsN (rdK g (kq.toNat + 1)).toNat 0 8
    let s1 := startOp s g .ld (.snap kd.toNat pd.toNat id grp none) act []
    { s1 with snapReqs := s1.snapReqs ++ [{ src := .op s.fresh, group := grp, id := id }] }) s)

/-- Members that are not lost (10_consistency R208). -/
def liveMember (s : State) (lid : Nat) : Bool :=
  !s.fab.down.contains lid && (match podEntry s lid with
    | some e => decide (e.st ≠ .failed) && decide (e.st ≠ .absent)
    | none => false)

/-- The coordinator of a colour's snapshot: the lowest logical id among those that cut by request (16_snapshot R314); where it is lost, the live
member with the lowest logical id (R322). -/
def coordinatorOf (s : State) (c : Colour) : Nat :=
  let row := colRow s c
  let next := (sortAsc ((s.pod.filter (fun e => e.sgrp == row.group && liveMember s e.lid)).map (·.lid))).headD s.fab.lid
  match sortAsc (row.inits.map (·.1)) with
  | first :: _ => if liveMember s first || decide (first = s.fab.lid) then first else next
  | [] => next

/-- A member that cut by request is known, so that the coordinator is (16_snapshot R314). -/
def ledKnown (s : State) (c : Colour) : Bool := decide ((colRow s c).inits ≠ [])

/-- A message between coordinator and members (16_snapshot R321, 17 R340); a root digest is a payload flit. -/
def sendCoord (s : State) (member kind : Nat) (c : Colour) (digest : BitVec 256) (flag : Bool) (st : Nat) (id : Word) : State :=
  sendPkt s (pktOf s member 12 (if kind = 3 then 1 else 0) 0 (.coord kind c digest flag st id))

/-- What the answering member records of the group's snapshot (R340). -/
def groupState (s : State) (c : Colour) : Nat := let row := colRow s c; if row.ever then row.grp else 0

/-- The question of a SNAPQ goes to the coordinator, once it is known; it carries the operation's number (R340). -/
def askState (c : Colour) (op : Nat) (s : State) : State :=
  if ledKnown s c then sendCoord s (coordinatorOf s c) 4 c 0 false 0 (BitVec.ofNat 32 op) else s

/-- SNAPQ: with .grp the question goes to the coordinator, this package answering itself where it may (R340). -/
def execSnapq (kd kc : BitVec 9) (pd : BitVec 3) (grp : Bool) (s : State) : Outcome State Fault Refusal :=
  .next (runWord (.snapq kd kc pd grp) (fun g _ act s =>
    let c : Colour := if (rdK g kc.toNat).getLsbD 0 then .c1 else .c0
    let far := grp && gangMember s g && (colRow s c).ever && (!ledKnown s c || decide (coordinatorOf s c ≠ s.fab.lid))
    let s1 := startOp s g .ld (.snapq kd.toNat pd.toNat c grp (if far then none else some (groupState s c))) act []
    if far then askState c s.fresh s1 else s1) s)

end Sys2Proof.Machine
end

