-- ==== Sys2Proof/Machine/SyncDone.lean ====
section
/-! DEFINITION. Barrier, ring and snapshot words in flight or blocked: what ends them (17_isa_sync_system R327 to R340; 13_queues R265 to R267;
15_tables_counters R293 to R296). -/

namespace Sys2Proof.Machine

open Host (Outcome)

/-! ## Barriers -/

/-- The lowest object of a cluster's pool that is not in use (R328). -/
def freeBar (s : State) (clu : Nat) : Option Nat :=
  (List.range 1024).find? (fun i => let b := barAt s clu i; !b.valid && decide (b.ref = 0))

/-- BALLOC_COMPLETE: the pool of the issuing core's cluster serves the word (R328). -/
def ballocEvent (id : Nat) (s : State) : State :=
  match opOf s id with
  | some o => match o.kind with
    | .balloc kd pd scope exp =>
      let clu := o.core / 4
      match freeBar s clu with
      | some i =>
        let gen := (barAt s clu i).gen
        let s1 := setBar s { clu := clu, slot := i, valid := true, owner := o.ctx, scope := scope, exp := exp, arr := 0, txb := 0,
                             phase := false, ref := 1, gen := gen }
        endOp (setPreds (modGang s1 o.gid (fun g => wrK g kd (barHandle clu i gen))) o.gid pd o.lanes true) o
      | none => endOp (setPreds (modGang s o.gid (fun g => wrK g kd 0)) o.gid pd o.lanes false) o
    | _ => s
  | none => s

def execBallocComplete (op : Nat) (s : State) : Outcome State Fault Refusal := .next (ballocEvent op s)

/-- A BFREE, BARV or RREL. -/
def syncKind (o : Op) : Bool :=
  match o.kind with
  | .bfree _ => true
  | .barv _ _ _ _ => true
  | .rrel _ => true
  | _ => false

/-- During a restoration these are applied in issue order (R341). -/
def syncTurn (s : State) (o : Op) : Bool := s.restore.isNone || s.ops.all (fun e => !syncKind e || decide (o.id ≤ e.id))

/-- BFREE_APPLY: one reference less; a handle dead by now changes nothing (R329). -/
def bfreeEvent (id : Nat) (s : State) : State :=
  match opOf s id with
  | some o => match o.kind with
    | .bfree h => if syncTurn s o then endOp (barUnref s h) o else s
    | _ => s
  | none => s

def execBfreeApply (op : Nat) (s : State) : Outcome State Fault Refusal := .next (bfreeEvent op s)

/-- The change of a BARV (R330). -/
def barvChange (s : State) (b : BarRow) (mode : Nat) (tx : Bool) (kb : Word) : State :=
  let t := if tx then b.txb + kb.toNat else b.txb
  match mode with
  | 0 => barStore s { b with txb := t, arr := b.arr + 1 }
  | 1 => barStore s { b with txb := t }
  | _ => if b.exp = 1 then modCtx s b.owner (fun r => { r with barovf := r.barovf + 1 })
         else barStore s { b with txb := t, exp := b.exp - 1 }

/-- BARV_APPLY: once the lanes' earlier words are performed at the object's scope, the change, as one event (R330). -/
def barvEvent (id : Nat) (s : State) : State :=
  match opOf s id with
  | some o => match o.kind with
    | .barv h mode tx kb => match barNamed s h with
      | some b =>
        let r := releaseReady s o (lanesOf o.lanes) b.scope
        if r.1 && syncTurn s o then endOp (barvChange r.2 b mode tx kb) o else r.2
      | none => endOp s o
    | _ => s
  | none => s

def execBarvApply (op : Nat) (s : State) : Outcome State Fault Refusal := .next (barvEvent op s)

/-- BWAIT_DONE (R331). -/
def bwaitEvent (gid : Nat) (s : State) : State :=
  match gangOf s gid with
  | some g => match g.blocked with
    | some (.bwait h pd lanes (some ok)) => bwaitEnd (unblock s gid) g h pd lanes ok
    | _ => s
  | none => s

def execBwaitDone (g : Nat) (s : State) : Outcome State Fault Refusal := .next (bwaitEvent g s)

/-! ## Rings -/

def ringWaiting (core : Nat) (g : Gang) : Bool := g.core == core && (match g.blocked with
  | some (.ring _ _ _) => true
  | _ => false)

/-- The lowest ring object of a core that is not in use. -/
def freeRing (s : State) (core : Nat) : Option Nat := (List.range 32).find? (fun i => !(ringAt s core i).inuse)

/-- A new ring of a geometry pair (R334). -/
def newRing (g : Gang) (obj gen : Nat) (q0 q1 : Word) : RingRow :=
  { core := g.core, obj := obj, inuse := true, blk := g.blk, gen := gen, base := ringBase q0, ssize := ringSsize q1,
    nslot := ringNslot q1, fill := ringFill q1, fillP := 0, asgn := 0, counts := List.replicate (ringNslot q1) 0, wp := 0, rp := 0,
    lp := 0, st := List.replicate (ringNslot q1) .free, rpend := 0, rnd := 0, rel := 0 }

/-- RING_GRANT (R334). -/
def ringGrantEvent (gid : Nat) (s : State) : State :=
  match gangOf s gid with
  | some g => match g.blocked with
    | some (.ring kd q0 q1) => match freeRing s g.core with
      | some obj =>
        if firstWaiting s gid (ringWaiting g.core) then
          let gen := (ringAt s g.core obj).gen
          modGang (setRing s (newRing g obj gen q0 q1)) gid (fun x => wrK { x with blocked := none } kd (ringHandle gen obj))
        else s
      | none => s
    | _ => s
  | none => s

def execRingGrant (g : Nat) (s : State) : Outcome State Fault Refusal := .next (ringGrantEvent g s)

/-- The ring object that a handle names while it lives, on a core. -/
def ringNamed (s : State) (core : Nat) (h : Word) : Option RingRow :=
  let r := ringAt s core (bitsN h.toNat 0 5)
  if r.inuse && r.gen == bitsN h.toNat 5 14 then some r else none

/-- Copies assigned to a slot of a ring: (operation, whether it waits for its slot). -/
def ringCopies (s : State) (core obj : Nat) : List (Op × Bool) :=
  s.ops.filterMap (fun o => match o.kind with
    | .cpy _ _ slot false _ => match slot with
      | some (ob, _) => if o.core = core ∧ ob = obj then some (o, !slotReady s core slot) else none
      | none => none
    | _ => none)

/-- Copies that wait for a slot of the ring write nothing (R334) (log entry 33, DEDUCED). -/
def cancelCopies (s : State) (ids : List Nat) : State :=
  { s with ops := s.ops.map (fun o => if ids.contains o.id then
      (match o.kind with
       | .cpy size h slot _ lanes => { o with kind := .cpy size h slot true lanes }
       | _ => o) else o) }

/-- Gangs blocked in RAWAIT on a ring that ends: kd all ones, kd + 1 zero (R334). -/
def failRawaits (s : State) (core : Nat) (h : Word) : State :=
  { s with gangs := s.gangs.map (fun g => match g.blocked with
      | some (.rawait h2 kd _) => if g.core = core ∧ h2 = h then wrK (wrK { g with blocked := none } kd 0xFFFFFFFF#32) (kd + 1) 0 else g
      | _ => g) }

/-- A ring object given back: INUSE clears and GEN moves on (R333). -/
def dropRing (s : State) (r : RingRow) : State := setRing s { noRing r.core r.obj with gen := (r.gen + 1) % 16384 }

/-- RING_REL_DONE: once no copy of the ring performs (R334). -/
def ringRelEvent (gid : Nat) (s : State) : State :=
  match gangOf s gid with
  | some g => match g.blocked with
    | some (.ringRel h) => match ringNamed s g.core h with
      | some r =>
        let cs := ringCopies s g.core r.obj
        if cs.any (fun e => !e.2) then s
        else unblock (dropRing (failRawaits (cancelCopies s (cs.map (fun e => e.1.id))) g.core h) r) gid
      | none => unblock s gid
    | _ => s
  | none => s

def execRingRelDone (g : Nat) (s : State) : Outcome State Fault Refusal := .next (ringRelEvent g s)

def rawaitWaiting (core : Nat) (h : Word) (g : Gang) : Bool := g.core == core && (match g.blocked with
  | some (.rawait h2 _ _) => h2 == h
  | _ => false)

/-- RAWAIT_TAKE: the first waiting gang takes the Full slot at the read pointer (R335). -/
def rawaitEvent (gid : Nat) (s : State) : State :=
  match gangOf s gid with
  | some g => match g.blocked with
    | some (.rawait h kd _) => match ringNamed s g.core h with
      | some r =>
        if r.st.getD r.rp .free = .full ∧ firstWaiting s gid (rawaitWaiting g.core h) = true then
          let s1 := setRing s { r with st := setAt r.st r.rp .held, rp := (r.rp + 1) % r.nslot }
          acquireL1 g.core 2 (modGang s1 gid (fun x => wrK (wrK { x with blocked := none } kd
            (BitVec.ofNat 32 (r.base + r.rp * r.ssize))) (kd + 1) (BitVec.ofNat 32 (r.counts.getD r.rp 0))))
        else s
      | none => s
    | _ => s
  | none => s

def execRawaitTake (g : Nat) (s : State) : Outcome State Fault Refusal := .next (rawaitEvent g s)

/-- A copy waits for the slot at the release pointer. -/
def copyWaits (s : State) (r : RingRow) : Bool :=
  s.ops.any (fun o => match o.kind with
    | .cpy _ _ (some (ob, n)) false _ => o.core == r.core && ob == r.obj && decide (n = r.rel + r.nslot)
    | _ => false)

/-- RREL_APPLY (R336). -/
def rrelEvent (id : Nat) (s : State) : State :=
  match opOf s id with
  | some o => match o.kind with
    | .rrel h =>
      let t := releaseReady s o (lanesOf o.lanes) 2
      if !t.1 || !syncTurn s o then t.2
      else match ringNamed t.2 o.core h with
        | some r => endOp (setRing t.2 (ringRelease r (copyWaits t.2 r))) o
        | none => endOp t.2 o
    | _ => s
  | none => s

def execRrelApply (op : Nat) (s : State) : Outcome State Fault Refusal := .next (rrelEvent op s)

/-! ## Snapshots -/

/-- SNAP's results: kd, the predicate, the counter (R338, R339). -/
def snapDone (s : State) (o : Op) (kd pd : Nat) (ans : Word) : State :=
  endOp (setPreds (modGang s o.gid (fun g => wrK g kd ans)) o.gid pd o.lanes (decide (ans.extractLsb' 0 8 = 0#8))) o

/-- SNAP_COMPLETE: a request that has been answered (R339). -/
def snapEvent (id : Nat) (s : State) : State :=
  match opOf s id with
  | some o => match o.kind with
    | .snap kd pd _ _ (some ans) => snapDone s o kd pd ans
    | _ => s
  | none => s

def execSnapComplete (op : Nat) (s : State) : Outcome State Fault Refusal := .next (snapEvent op s)

/-- SNAPQ_COMPLETE: the states and the id; zeros and false outside the group (R340). -/
def snapqEvent (id : Nat) (s : State) : State :=
  match opOf s id with
  | some o => match o.kind, gangOf s o.gid with
    | .snapq kd pd c grp (some v), some g =>
      let own := colCode (colRow s c).st
      let mem := gangMember s g
      let w := if mem then own + (if grp then 16 * v else 0) else 0
      let idw := if mem then (colRow s c).snid else 0
      let ok := mem && decide ((if grp then v else own) = 3)
      endOp (setPreds (modGang s o.gid (fun g => wrK (wrK g kd (BitVec.ofNat 32 w)) (kd + 1) idw)) o.gid pd o.lanes ok) o
    | .snapq _ _ _ _ (some _), none => endOp s o
    | _, _ => s
  | none => s

def execSnapqComplete (op : Nat) (s : State) : Outcome State Fault Refusal := .next (snapqEvent op s)

end Sys2Proof.Machine
end

