-- ==== Sys2Proof/Machine/LanePacked.lean ====
section
/-! DEFINITION. Packed int16 words, PMAC and LMUL (07_isa_lane R132 to R134). -/

namespace Sys2Proof.Machine

open Host (Outcome)

/-- Element `j` as s16. -/
def s16Of (x : Word) (j : Nat) : Int := sextN (halfOf x j) 16

/-- A packed word finished as s16 in each element. -/
def finishedPacked (i : Instr) (d : BitVec 6) (a b : Src) (y : Int → Int → Int) (s : State) : State :=
  runWord i (fun g m act s => laneResults s g 4 d.toNat act (fun l => packHalves (fun j =>
    finishInt 16 true (finHalf (finOf g m) j) (y (s16Of (opA s g .s16x2 a l) j) (s16Of (opB s g m .s16x2 b l) j))))) s

/-- A packed word whose element results are s16 values as they stand. -/
def plainPacked (i : Instr) (d : BitVec 6) (a b : Src) (y : Int → Int → Int) (s : State) : State :=
  runWord i (fun g m act s => laneResults s g 4 d.toNat act (fun l => packHalves (fun j =>
    finishInt 16 true finPlain (y (s16Of (opA s g .s16x2 a l) j) (s16Of (opB s g m .s16x2 b l) j))))) s

/-- PSHR's element: a rounding right shift whose ties go up; the count is zext(b.j, 4) (R132). -/
def pshrElem (x y : Int) : Int :=
  let n := (y % 16).toNat
  if n = 0 then x else floorShr (x + (2 ^ (n - 1) : Nat)) n

def execPadd (d : BitVec 6) (a b : Src) (s : State) : Outcome State Fault Refusal :=
  .next (finishedPacked (.padd d a b) d a b (fun x y => x + y) s)

def execPsub (d : BitVec 6) (a b : Src) (s : State) : Outcome State Fault Refusal :=
  .next (finishedPacked (.psub d a b) d a b (fun x y => x - y) s)

def execPmul (d : BitVec 6) (a b : Src) (s : State) : Outcome State Fault Refusal :=
  .next (finishedPacked (.pmul d a b) d a b (fun x y => x * y) s)

def execPshr (d : BitVec 6) (a b : Src) (s : State) : Outcome State Fault Refusal :=
  .next (plainPacked (.pshr d a b) d a b pshrElem s)

def execPmin (d : BitVec 6) (a b : Src) (s : State) : Outcome State Fault Refusal :=
  .next (plainPacked (.pmin d a b) d a b (fun x y => min x y) s)

def execPmax (d : BitVec 6) (a b : Src) (s : State) : Outcome State Fault Refusal :=
  .next (plainPacked (.pmax d a b) d a b (fun x y => max x y) s)

/-- PPACK narrows whole 32-bit operands (R132). -/
def execPpack (d : BitVec 6) (a b : Src) (s : State) : Outcome State Fault Refusal :=
  .next (runWord (.ppack d a b) (fun g m act s => laneResults s g 4 d.toNat act (fun l => packHalves (fun j =>
    finishInt 16 true (finHalf (finOf g m) j) (if j = 0 then (opA s g .int a l).toInt else (opB s g m .int b l).toInt)))) s)

/-- PMAC accumulates into 32 bits and always saturates (R133). -/
def execPmac (d : BitVec 6) (a b : Src) (s : State) : Outcome State Fault Refusal :=
  .next (runWord (.pmac d a b) (fun g m act s => laneResults s g 4 d.toNat act (fun l =>
    let x := opA s g .s16x2 a l
    let y := opB s g m .s16x2 b l
    finishInt 32 true { finOf g m with sat := true }
      ((rdV s g l d.toNat).toInt + s16Of x 0 * s16Of y 0 + s16Of x 1 * s16Of y 1))) s)

/-! ## LMUL (R134) -/

/-- The log of an LNS6 element, -16 for zero and NaR (R56). -/
def lnsL (e : Nat) : Int := sextN e 5

def lnsS (e : Nat) : Bool := bitN e 5

def lnsZero : Nat := 0x10

def lnsNaR : Nat := 0x30

/-- `lmul_elem`: the product of two elements. -/
def lmulElem (a b : Nat) : Res :=
  if a % 64 = lnsNaR ∨ b % 64 = lnsNaR then { bits := lnsNaR, flags := 0 }
  else if a % 64 = lnsZero ∨ b % 64 = lnsZero then { bits := lnsZero, flags := 0 }
  else
    let t := lnsL a + lnsL b
    let sg := if xor (lnsS a) (lnsS b) then 32 else 0
    if t < -15 then { bits := lnsZero, flags := flUF ||| flNX }
    else if 15 < t then { bits := sg + 15, flags := flSAT ||| flNX }
    else { bits := sg + (t % 32).toNat, flags := 0 }

/-- Element `j` of an l6x4 register (R53). -/
def l6Elem (x : Word) (j : Nat) : Nat := bitsN x.toNat (8 * j) 6

def execLmul (d : BitVec 6) (a b : Src) (s : State) : Outcome State Fault Refusal :=
  .next (runWord (.lmul d a b) (fun g m act s => laneResults s g 4 d.toNat act (fun l =>
    let rs := (List.range 4).map (fun j => lmulElem (l6Elem (opA s g .l6 a l) j) (l6Elem (opB s g m .l6 b l) j))
    { bits := rs.foldr (fun r acc => r.bits + 256 * acc) 0, flags := flagsOf rs })) s)

end Sys2Proof.Machine
end

