-- ==== Sys2Proof/Machine/LaneUnary.lean ====
section
/-! DEFINITION. VUN (07_isa_lane R137) and CVT (R138, R139; 03_numbers R55, R58, R60). -/

namespace Sys2Proof.Machine

open Host (Outcome)

/-- A VUN function on the 32-bit pattern. -/
def unaryWord (i : Instr) (ty : ITy) (d : BitVec 6) (a : Src) (f : Gang → ModFields → Word → Res) (s : State) : State :=
  runWord i (fun g m act s => laneResults s g 4 d.toNat act (fun l => f g m (opA s g ty a l))) s

def plainRes (w : Word) : Res := { bits := w.toNat, flags := 0 }

/-- Leading zeros of a 32-bit word. -/
def clzWord (a : Word) : Nat := if a = 0 then 32 else 31 - Nat.log2 a.toNat

/-- Trailing zeros. -/
def ctzWord (a : Word) : Nat := ((List.range 32).find? (fun i => a.getLsbD i)).getD 32

def popcWord (a : Word) : Nat := ((List.range 32).filter (fun i => a.getLsbD i)).length

def brevWord (a : Word) : Word := a.reverse

def bswapWord (a : Word) : Word := a.extractLsb' 0 8 ++ a.extractLsb' 8 8 ++ a.extractLsb' 16 8 ++ a.extractLsb' 24 8

def execVunMov (d : BitVec 6) (a : Src) (s : State) : Outcome State Fault Refusal :=
  .next (unaryWord (.vunMov d a) .int d a (fun _ _ x => plainRes x) s)

def execVunNot (d : BitVec 6) (a : Src) (s : State) : Outcome State Fault Refusal :=
  .next (unaryWord (.vunNot d a) .int d a (fun _ _ x => plainRes (~~~x)) s)

def execVunIneg (d : BitVec 6) (a : Src) (s : State) : Outcome State Fault Refusal :=
  .next (unaryWord (.vunIneg d a) .int d a (fun g m x => finishInt 32 true (finOf g m) (-x.toInt)) s)

def execVunIabs (d : BitVec 6) (a : Src) (s : State) : Outcome State Fault Refusal :=
  .next (unaryWord (.vunIabs d a) .int d a (fun g m x => finishInt 32 true (finOf g m) x.toInt.natAbs) s)

def execVunPopc (d : BitVec 6) (a : Src) (s : State) : Outcome State Fault Refusal :=
  .next (unaryWord (.vunPopc d a) .int d a (fun _ _ x => { bits := popcWord x, flags := 0 }) s)

def execVunClz (d : BitVec 6) (a : Src) (s : State) : Outcome State Fault Refusal :=
  .next (unaryWord (.vunClz d a) .int d a (fun _ _ x => { bits := clzWord x, flags := 0 }) s)

def execVunCtz (d : BitVec 6) (a : Src) (s : State) : Outcome State Fault Refusal :=
  .next (unaryWord (.vunCtz d a) .int d a (fun _ _ x => { bits := ctzWord x, flags := 0 }) s)

def execVunBrev (d : BitVec 6) (a : Src) (s : State) : Outcome State Fault Refusal :=
  .next (unaryWord (.vunBrev d a) .int d a (fun _ _ x => plainRes (brevWord x)) s)

def execVunBswap (d : BitVec 6) (a : Src) (s : State) : Outcome State Fault Refusal :=
  .next (unaryWord (.vunBswap d a) .int d a (fun _ _ x => plainRes (bswapWord x)) s)

def execVunFrint (d : BitVec 6) (a : Src) (s : State) : Outcome State Fault Refusal :=
  .next (unaryWord (.vunFrint d a) .f32 d a (fun g m x => roundIntegral fmtF32 (effMode g m) true x.toNat) s)

def execVunFfloor (d : BitVec 6) (a : Src) (s : State) : Outcome State Fault Refusal :=
  .next (unaryWord (.vunFfloor d a) .f32 d a (fun _ _ x => roundIntegral fmtF32 2 false x.toNat) s)

def execVunFceil (d : BitVec 6) (a : Src) (s : State) : Outcome State Fault Refusal :=
  .next (unaryWord (.vunFceil d a) .f32 d a (fun _ _ x => roundIntegral fmtF32 3 false x.toNat) s)

def execVunFtrunc (d : BitVec 6) (a : Src) (s : State) : Outcome State Fault Refusal :=
  .next (unaryWord (.vunFtrunc d a) .f32 d a (fun _ _ x => roundIntegral fmtF32 1 false x.toNat) s)

/-! ## CVT -/

/-- T[f] of R58. -/
def lnsT (f : Nat) : Nat :=
  match f with
  | 0 => 0x800000
  | 1 => 0x9837F0
  | 2 => 0xB504F3
  | _ => 0xD744FD

/-- The value of an element under block scale `e` (R58): a NaN that sets NV for NaR. -/
def lnsVal (x : Nat) (e : Int) : FVal :=
  if x % 64 = lnsNaR then .nan true
  else if x % 64 = lnsZero then .num 0 0 false
  else
    let l := lnsL x
    .num (if lnsS x then -(lnsT (l % 4).toNat : Int) else lnsT (l % 4).toNat) (floorShr l 2 - 23 + e) (lnsS x)

/-- |m1| * 2^e1 = |m2| * 2^e2. -/
def sameMag (m1 e1 m2 e2 : Int) : Bool := decide ((addDy m1.natAbs e1 (-(m2.natAbs : Int)) e2).1 = 0)

/-- Conversion to LNS6 (R60). -/
def toLns (v : FVal) (e : Int) (bound : Nat) : Res :=
  match v with
  | .nan _ => { bits := lnsNaR, flags := flNV }
  | .inf _ => { bits := lnsNaR, flags := flNV }
  | .num m x _ =>
    if m = 0 then { bits := lnsZero, flags := 0 }
    else
      -- Lr = n with 2^(2n - 1) < |x|^8 / 2^(8 E) < 2^(2n + 1)
      let t : Int := (Nat.log2 (m.natAbs ^ 8) : Int) + 8 * x - 8 * e
      let lr := floorShr (t + 1) 1
      let sg := if m < 0 then 32 else 0
      if lr < -15 then { bits := lnsZero, flags := flUF ||| flNX }
      else if (bound : Int) < lr then { bits := sg + bound, flags := flSAT ||| flNX }
      else
        let el := sg + (lr % 32).toNat
        let exact := match lnsVal el e with
          | .num m2 e2 _ => sameMag m x m2 e2
          | _ => false
        { bits := el, flags := if exact then 0 else flNX }

/-- Integer types of CVT: bits and sign (R101). -/
def intTy (ty : Nat) : Option (Nat × Bool) :=
  match ty with
  | 3 => some (32, true)
  | 4 => some (32, false)
  | 5 => some (16, true)
  | 6 => some (16, false)
  | 7 => some (8, true)
  | 8 => some (8, false)
  | _ => none

def floatTy (ty : Nat) : Option Fmt :=
  match ty with
  | 0 => some fmtF32
  | 1 => some fmtF16
  | 2 => some fmtBf16
  | _ => none

/-- An integer of a type as a register holds it (R138). -/
def intReg (n : Nat) (signed : Bool) (bits : Nat) : Nat := if signed then (wrap32 (sextN bits n)).toNat else bits % 2 ^ n

/-- Float to integer (R55): the nearest bound and NV out of range, 0 and NV for a NaN, NX when inexact in range. -/
def floatToInt (n : Nat) (signed : Bool) (mode : Nat) (v : FVal) : Res :=
  let mn : Int := if signed then -(2 ^ (n - 1) : Nat) else 0
  let mx : Int := if signed then (2 ^ (n - 1) : Nat) - 1 else (2 ^ n : Nat) - 1
  let put := fun y : Int => (y % (2 ^ n : Nat)).toNat
  match v with
  | .nan _ => { bits := 0, flags := flNV }
  | .inf sg => { bits := put (if sg then mn else mx), flags := flNV }
  | .num m e _ =>
    let r := roundInt mode m e
    if r.1 < mn then { bits := put mn, flags := flNV }
    else if mx < r.1 then { bits := put mx, flags := flNV }
    else { bits := put r.1, flags := if r.2 then 0 else flNX }

/-- CVT of one operand (R138, R139); `k125` gives block scale and bound. -/
def cvtOne (src dst : Nat) (q : Fin) (k125 : Word) (x : Word) : Res :=
  let e := sextN k125.toNat 8
  match intTy src, intTy dst with
  | some (n, sg), some (n2, sg2) =>
    let v : Int := if sg then sextN x.toNat n else (x.toNat % 2 ^ n : Nat)
    let r := finishInt n2 sg2 q v
    { bits := intReg n2 sg2 r.bits, flags := r.flags }
  | some (n, sg), none =>
    let v : Int := if sg then sextN x.toNat n else (x.toNat % 2 ^ n : Nat)
    match floatTy dst with
    | some f => roundVal f q.mode (.num v q.scale false)
    | none => { bits := 0, flags := 0 }
  | none, t =>
    let v := scaleVal q.scale (match floatTy src with
      | some f => fval f (x.toNat % 2 ^ fmtWidth f)
      | none => lnsVal x.toNat e)
    match t with
    | some (n2, sg2) =>
      let r := floatToInt n2 sg2 q.mode v
      { bits := intReg n2 sg2 r.bits, flags := r.flags }
    | none => match floatTy dst with
      | some f => roundVal f q.mode v
      | none => toLns v e (bitsN k125.toNat 8 4)

/-- The immediate type of CVT's operand: the source's own type. -/
def cvtImm (src : Nat) : ITy :=
  match src with
  | 0 => .f32
  | 1 => .f16x2
  | 2 => .bf16x2
  | 9 => .l6
  | _ => .int

def execCvt (src dst : BitVec 4) (d : BitVec 6) (a : Src) (s : State) : Outcome State Fault Refusal :=
  .next (runWord (.cvt src dst d a) (fun g m act s => laneResults s g 6 d.toNat act (fun l =>
    cvtOne src.toNat dst.toNat (finOf g m) (rdK g 125) (opA s g (cvtImm src.toNat) a l))) s)

end Sys2Proof.Machine
end

