-- ==== Sys2Proof/Machine/TileWords.lean ====
section
/-! DEFINITION. The tile and temporal words at issue (12_isa_tiles R235 to R249): what each reads at its issue tick, and what it leaves in flight
or waits for. Grants and results follow as events. -/

namespace Sys2Proof.Machine

open Host (Outcome)

/-! ## Reservations and banks -/

/-- OBRES blocks the gang until its grant (R235). -/
def execObres (kd kq : BitVec 9) (wb : Bool) (s : State) : Outcome State Fault Refusal :=
  .next (runWord (.obres kd kq wb) (fun g _ _ s =>
    blockOn s g.gid (.obres kd.toNat (rdK g kq.toNat) (rdK g (kq.toNat + 1)) wb)) s)

/-- OBREL: the handle is dead from now on (R236). -/
def execObrel (kh : BitVec 9) (s : State) : Outcome State Fault Refusal :=
  .next (runWord (.obrel kh) (fun g _ _ s =>
    match recLive s g (bitsN (rdK g kh.toNat).toNat 0 6) with
    | some r => setRec s { r with st := .dead }
    | none => s) s)

/-- The pieces that a range test gives. -/
def chkPieces : LaneChk → List Piece
  | .ok ps => ps
  | _ => []

/-- The words of OBLD.reg in element order: register by register, lane by lane, whatever the lane's state (R237). -/
def obldWords (s : State) (g : Gang) (n c : Nat) : List Word :=
  (List.range c).flatMap (fun j => (List.range g.width).map (fun l => rdV s g l (n + j)))

/-- An engine operation issues: the core's Dirty bytes of its ranges go to L2 (10_consistency R206). -/
def startEngine (s : State) (g : Gang) (kind : OpKind) (act : LaneMask) (ps : List Piece) : State :=
  startOp ((placesOf ps).foldl (settleL1 g.core false) s) g .tl kind act ps

/-- One that writes its ranges asks for their ownership too (R205). -/
def startWriter (s : State) (g : Gang) (kind : OpKind) (act : LaneMask) (ps : List Piece) : State :=
  startEngine (askDests g.core (placesOf ps) s) g kind act ps

/-- OBLD from memory, from registers, or from a forwarding entry (R237, 14_splicer R281). -/
def execObld (kh kq : BitVec 9) (space : BitVec 2) (cvt : Bool) (s : State) : Outcome State Fault Refusal :=
  .next (runWord (.obld kh kq space cvt) (fun g _ act s =>
    let h := bitsN (rdK g kh.toNat).toNat 0 6
    let off := (rdK g (kq.toNat + 2)).toNat
    if fwdKind s g = 3 then
      let bytes := match g.fwd[s.cur.pair]? with
        | some e => e.bytes
        | none => []
      startEngine s g (.obldFwd h off bytes) act []
    else if space = 3#2 then
      let rc := obldRegs s g kq.toNat
      startEngine s g (.obldReg h off cvt (obldWords s g rc.1 rc.2)) act []
    else startEngine s g (.obldMem h off) act (chkPieces (obldRange s g kq.toNat space.toNat))) s)

/-- WBLD: the stream header, read at issue, sets G and SC of the record (R238). -/
def execWbld (kh kq : BitVec 9) (space : BitVec 2) (s : State) : Outcome State Fault Refusal :=
  .next (runWord (.wbld kh kq space) (fun g _ act s =>
    let h := bitsN (rdK g kh.toNat).toNat 0 6
    let n := (rdK g (kq.toNat + 3)).toNat
    let ps := chkPieces (wbldRange s g kq.toNat space.toNat)
    let hd := leNat ((engineRead s g.core (chkPieces (rangeAccess s g space.toNat (rdK64 g kq.toNat).toNat 4 1 .rd 0))).1)
    let gn := bitsN hd 0 16
    let sc := bitN hd 16
    let s1 := match recLive s g h with
      | some r => setRec s { r with g := gn, sc := sc }
      | none => s
    startEngine s1 g (.wbld h n gn sc (BitVec.ofNat 32 hd)) act ps) s)

/-- ACALLOC blocks the gang until its grant (R240). -/
def execAcalloc (kd : BitVec 9) (n : BitVec 6) (s : State) : Outcome State Fault Refusal :=
  .next (runWord (.acalloc kd n) (fun g _ _ s => blockOn s g.gid (.acalloc kd.toNat n.toNat)) s)

/-- ACFREE drains, and blocks the gang until the banks' operations have completed (R241). -/
def execAcfree (km : BitVec 9) (s : State) : Outcome State Fault Refusal :=
  .next (runWord (.acfree km) (fun g _ _ s =>
    let m : BitVec 16 := (rdK g km.toNat).setWidth 16
    if m = 0 then drain s g.gid else blockOn (drain s g.gid) g.gid (.acfree m s.fresh)) s)

/-! ## MMA and ACMOV -/

/-- MMA: the parameter block as read at issue, a reference on each barrier it names (R243, R245, 15_tables_counters R295). -/
def execMma (kp : BitVec 9) (cp : Bool) (s : State) : Outcome State Fault Refusal :=
  .next (runWord (.mma kp cp) (fun g _ act s =>
    let b0 := mmaBlock (mmaWords s g kp.toNat cp)
    let ph := match barNamed s b0.wh with
      | some r => r.phase
      | none => false
    let b := { b0 with phase := ph, go := !b0.wv }
    let s1 := if b.wv then barRef s b.wh else s
    let s2 := if b.av then barRef s1 b.ahb else s1
    startOp (eccPlaces g.ctx (placesOf (chkPieces (mmaPlace s g kp.toNat cp))) s2) g .tl (.mma b) act []) s)

/-- ACMOV between a tile and memory. -/
def acmovWord (i : Instr) (aop : Nat) (kt kq : BitVec 9) (clr : Bool) (s : State) : State :=
  runWord i (fun g _ act s =>
    let t := (rdK g kt.toNat).toNat
    (if aop < 2 then startWriter else startEngine) s g (.acmov aop (bitsN t 0 4) (bitsN t 4 1) clr 0 0 0 0) act (chkPieces (acmovRange s g aop kq.toNat))) s

def execAcmovTogl (kt kq : BitVec 9) (clr : Bool) (s : State) : Outcome State Fault Refusal :=
  .next (acmovWord (.acmovTogl kt kq clr) 0 kt kq clr s)

def execAcmovTosp (kt kq : BitVec 9) (clr : Bool) (s : State) : Outcome State Fault Refusal :=
  .next (acmovWord (.acmovTosp kt kq clr) 1 kt kq clr s)

def execAcmovFromsp (kt kq : BitVec 9) (s : State) : Outcome State Fault Refusal :=
  .next (acmovWord (.acmovFromsp kt kq) 2 kt kq false s)

def execAcmovToreg (kt kq : BitVec 9) (clr : Bool) (s : State) : Outcome State Fault Refusal :=
  .next (runWord (.acmovToreg kt kq clr) (fun g _ act s =>
    let t := (rdK g kt.toNat).toNat
    let r := acmovRegs s g kq.toNat
    startOp s g .tl (.acmov 3 (bitsN t 0 4) (bitsN t 4 1) clr r.1 r.2.1 r.2.2.1 r.2.2.2) act []) s)

/-! ## The temporal array -/

/-- The array claimed: matrix and outputs at 255 (R248); a claim in handler mode belongs to the handler (R250). -/
def claimArray (s : State) (g : Gang) (mx : Bool) (win : Nat) : State :=
  setArray s { core := g.core, holder := some g.gid, max := mx, win := win, w := [], out := [], wpsn := [], opsn := [], hnd := g.handler }

/-- TWIN.WIN at the gang's next bundle (R248). -/
def setTwin (s : State) (gid win : Nat) : State :=
  modGang s gid (fun g => { g with csr := { g.csr with twin := BitVec.ofNat 32 win } })

def twsetWaiting (core : Nat) (g : Gang) : Bool := g.core == core && (match g.blocked with
  | some (.twset _ _) => true
  | _ => false)

/-- TWSET (R248). -/
def execTwset (kw : BitVec 9) (max : Bool) (s : State) : Outcome State Fault Refusal :=
  .next (runWord (.twset kw max) (fun g _ _ s =>
    let win := bitsN (rdK g kw.toNat).toNat 0 8
    let twin : List PendAct := [.write (.csr 0x020) (BitVec.ofNat 32 win)]
    if holdsArray s g then pushPend (setArray s { arrayOf s g.core with max := max, win := win }) g 1 twin
    else if (arrayOf s g.core).holder = none ∧ !s.gangs.any (twsetWaiting g.core) then pushPend (claimArray s g max win) g 1 twin
    else blockOn s g.gid (.twset win max)) s)

/-- TLDW: the scratchpad bytes are read by the engine after issue (R249, R205). -/
def execTldw (kq : BitVec 9) (s : State) : Outcome State Fault Refusal :=
  .next (runWord (.tldw kq) (fun g _ act s =>
    startEngine s g (.tldw (rdK64 g kq.toNat).toNat) act (chkPieces (tldwRange s g kq.toNat))) s)

/-- TLNCH: the input codes of the active lanes at tick s, 255 elsewhere (R249) (log entry 34, DEDUCED). -/
def execTlnch (v : BitVec 6) (s : State) : Outcome State Fault Refusal :=
  .next (runWord (.tlnch v) (fun g _ act s =>
    let codes := (List.range 64).map (fun i => if act.getLsbD i then bitsN (rdV s g i v.toNat).toNat 0 8 else 255)
    let a := arrayOf s g.core
    startOp s g .tl (.tlnch codes a.max a.win) act []) s)

def execTcapt (v : BitVec 6) (s : State) : Outcome State Fault Refusal :=
  .next (runWord (.tcapt v) (fun g _ act s => startOp s g .tl (.tcapt v.toNat) act []) s)

def execTrst (s : State) : Outcome State Fault Refusal :=
  .next (runWord .trst (fun g _ act s => startOp s g .none (.trst false) act []) s)

/-- TRST.rel: TWIN.WIN reads 0 from tick s + 2 (R249). -/
def execTrstRel (s : State) : Outcome State Fault Refusal :=
  .next (runWord .trstRel (fun g _ act s => pushPend (startOp s g .none (.trst true) act []) g 2 [.write (.csr 0x020) 0]) s)

end Sys2Proof.Machine
end

