-- ==== Sys2Proof/Machine/Matrix.lean ====
section
/-! DEFINITION. Matrix arithmetic: K-blocks (03_numbers R61 to R64), the operands of an MMA (12_isa_tiles R238, R239, R244), weight streams, and
the temporal rule (R67, R247). -/

namespace Sys2Proof.Machine

/-! ## K-blocks -/

def isNaNV : FVal → Bool
  | .nan _ => true
  | _ => false

def isInfV (neg : Bool) : FVal → Bool
  | .inf s => s == neg
  | _ => false

/-- floor(log2 |t|) of a nonzero number. -/
def topExp : FVal → Option Int
  | .num m e _ => if m = 0 then none else some ((Nat.log2 m.natAbs : Int) + e)
  | _ => none

def maxInt : List Int → Option Int
  | [] => none
  | x :: xs => match maxInt xs with
    | none => some x
    | some y => some (max x y)

/-- floor(t / 2^q). -/
def floorAt (q : Int) : FVal → Int
  | .num m e _ => if q ≤ e then m * (2 ^ (e - q).toNat : Nat) else floorShr m (q - e).toNat
  | _ => 0

def nanF32 (fl : Word) : Res := { bits := fmtNaN fmtF32, flags := fl }

/-- `kblock_float` (R61). -/
def kblockFloat (f : Fmt) (acc : Nat) (as bs : List Nat) : Res :=
  let va := as.map (fval f)
  let vb := bs.map (fval f)
  if isNaN fmtF32 acc || va.any isNaNV || vb.any isNaNV then nanF32 0
  else
    let terms := fval fmtF32 acc :: (va.zip vb).map (fun e => mulVal e.1 e.2)
    if terms.any isNaNV then nanF32 flNV
    else if terms.any (isInfV false) && terms.any (isInfV true) then nanF32 flNV
    else if terms.any (isInfV false) then { bits := fmtInf fmtF32, flags := 0 }
    else if terms.any (isInfV true) then { bits := withSign fmtF32 true (fmtInf fmtF32), flags := 0 }
    else match maxInt (terms.filterMap topExp) with
      | none => { bits := 0, flags := 0 }
      | some emax =>
        let q := emax - 90
        let sm := (terms.map (floorAt q)).foldl (fun x y => x + y) 0
        if sm = 0 then { bits := 0, flags := 0 }
        else
          let r := roundMag fmtF32 0 (decide (sm < 0)) sm.natAbs q false
          { bits := r.bits, flags := r.flags &&& flOF }

/-- INT8 (R62): the operands as their formats read them. -/
def kblockInt (sa sb : Bool) (acc : Nat) (as bs : List Nat) : Res :=
  let rd := fun (sg : Bool) (x : Nat) => if sg then sextN x 8 else (x % 256 : Nat)
  let sm := (as.zip bs).foldl (fun acc e => acc + rd sa e.1 * rd sb e.2) (sextN acc 32)
  finishInt 32 true { finPlain with sat := true } sm

/-- `lns6_product` (R59). -/
def lnsProduct (a : Nat) (ea : Int) (b : Nat) (eb : Int) : FVal :=
  if a % 64 = lnsNaR ∨ b % 64 = lnsNaR then .nan true
  else if a % 64 = lnsZero ∨ b % 64 = lnsZero then .num 0 0 false
  else
    let t := lnsL a + lnsL b
    let m : Int := lnsT (t % 4).toNat
    let neg := xor (lnsS a) (lnsS b)
    .num (if neg then -m else m) (floorShr t 2 - 23 + ea + eb) neg

/-- LNS6 (R63): one rounding of the exact sum. A NaR product or NaN accumulator comes before an infinite accumulator. -/
def kblockLns (acc : Nat) (ps : List FVal) : Res :=
  if isNaN fmtF32 acc || ps.any isNaNV then nanF32 flNV
  else match fval fmtF32 acc with
    | .inf _ => { bits := acc, flags := 0 }
    | v =>
      let sm := ps.foldl (addVal 0) v
      match sm with
      | .num m e _ =>
        if m = 0 then { bits := 0, flags := 0 }
        else
          let r := roundMag fmtF32 0 (decide (m < 0)) m.natAbs e false
          { bits := r.bits, flags := r.flags &&& flOF }
      | _ => nanF32 flNV

/-! ## Operands (R244) -/

/-- The zero code of a format. -/
def zeroCode (fmt : Nat) : Nat := if fmt = 4 then lnsZero else 0

/-- A code is the format's zero, -0 included (R239). -/
def isZeroCode (fmt c : Nat) : Bool :=
  match fmt with
  | 0 => decide (c % 32768 = 0)
  | 1 => decide (c % 32768 = 0)
  | 4 => decide (c = lnsZero)
  | _ => decide (c = 0)

/-- Element `i` of an operand reservation, by index from its start. -/
def opElem (s : State) (r : RecRow) (i : Nat) : Nat :=
  let bits := fmtBits r.fmt
  bitsN (leNat (recBytesAt s r (i * bits / 8) 3)) (i * bits % 8) bits

/-- A block scale byte of a reservation, signed. -/
def scaleByte (s : State) (r : RecRow) (o : Nat) : Int := sextN (recByte s r o).toNat 8

/-! ## Weight streams (R238, R239) -/

/-- A number rounded up to a multiple of 4. -/
def up4 (n : Nat) : Nat := (n + 3) / 4 * 4

/-- Bytes of the scales part of a stream with G groups. -/
def scaleBytes (fmt blen g : Nat) : Nat := if fmt = 4 then up4 ((64 * g + blenOf blen - 1) / blenOf blen) else 0

/-- The packed elements of a group: its data bytes, padded. -/
def groupData (fmt : Nat) (mask : BitVec 64) : Nat := up4 ((popcount mask * fmtBits fmt + 7) / 8)

/-- The first byte at which a group is malformed by itself: a set bit with the zero code, or a pad bit (log entry 22, DEDUCED); `x` its data as a
number. -/
def groupBad (fmt o : Nat) (mask : BitVec 64) (x : Nat) : Option Nat :=
  let bits := fmtBits fmt
  let ne := popcount mask
  match (List.range ne).find? (fun i => isZeroCode fmt (bitsN x (bits * i) bits)) with
  | some i => some (o + 8 + bits * i / 8)
  | none => match (List.range (8 * groupData fmt mask - ne * bits)).find? (fun i => bitN x (ne * bits + i)) with
    | some i => some (o + 8 + (ne * bits + i) / 8)
    | none => none

/-- The groups of a stream from offset `o` on: the offset of the first malformed item, none when all parse and end at the byte count. -/
def streamGroups (fmt : Nat) (bs : List Byte) : Nat → Nat → Option Nat
  | 0, o => if o = bs.length then none else some o
  | n + 1, o =>
    if bs.length < o + 8 then some o
    else
      let mask := BitVec.ofNat 64 (leNat (slice bs o 8))
      let e := o + 8 + groupData fmt mask
      if bs.length < e then some o
      else match groupBad fmt o mask (leNat (slice bs (o + 8) (groupData fmt mask))) with
        | some b => some b
        | none => streamGroups fmt bs n e

/-- The first malformed item of a whole stream (R239) (log entry 22, DEDUCED). -/
def streamBad (fmt blen : Nat) (bs : List Byte) : Option Nat :=
  if bs.length < 4 then some 0
  else
    let h := leNat (bs.take 4)
    let g := bitsN h 0 16
    if bitsN h 17 15 ≠ 0 ∨ bitN h 16 ≠ decide (fmt = 4) then some 0
    else
      let n := scaleBytes fmt blen g
      let used := (64 * g + blenOf blen - 1) / blenOf blen
      if bs.length < 4 + n then some 4
      else if fmt = 4 then
        match (List.range (n - used)).find? (fun i => decide (bs.getD (4 + used + i) 0 ≠ 0)) with
        | some i => some (4 + used + i)
        | none => streamGroups fmt bs g (4 + n)
      else streamGroups fmt bs g 4

/-- The stream's group count as its header in the reservation gives it. -/
def streamCount (s : State) (r : RecRow) : Nat := leNat (recBytesAt s r 0 2)

/-- Where the groups of the stream in a reservation begin. -/
def streamBase (s : State) (r : RecRow) : Nat := 4 + scaleBytes r.fmt r.blen (streamCount s r)

/-- The 64 codes of the group at offset `o`, zeros from the first malformed group on, and where the next group begins. -/
def expandGroup (s : State) (r : RecRow) (o : Nat) : List Nat × Nat :=
  let bits := fmtBits r.fmt
  let mask := BitVec.ofNat 64 (leNat (recBytesAt s r o 8))
  let e := o + 8 + groupData r.fmt mask
  if r.badv && decide (r.badoff < e) then (List.replicate 64 (zeroCode r.fmt), e)
  else
    let x := leNat (recBytesAt s r (o + 8) (groupData r.fmt mask))
    ((List.range 64).map (fun n => if mask.getLsbD n then bitsN x (bits * popcount (mask &&& maskBelow n)) bits else zeroCode r.fmt), e)

/-- The groups from offset `o` on, each with its place: (codes, first byte, byte after). -/
def expandGroups (s : State) (r : RecRow) : Nat → Nat → List (List Nat × Nat × Nat)
  | 0, _ => []
  | n + 1, o => let e := expandGroup s r o; (e.1, o, e.2) :: expandGroups s r n e.2

/-! ## One MMA (R245) -/

/-- The K-block of one element of the tile. -/
def kblockOf (s : State) (ra rb : RecRow) (p : Product) (rows : List (List Nat × Nat × Nat)) (a0 g0 : Nat) (acc m n : Nat) : Res :=
  let kb := kbOf p
  let ia := fun k : Nat => a0 + m * kb + k
  let as := (List.range kb).map (fun k => opElem s ra (ia k))
  let bs := (List.range kb).map (fun k => ((rows.getD k ([], 0, 0)).1).getD n (zeroCode rb.fmt))
  match p with
  | .float f => kblockFloat f acc as bs
  | .int8 => kblockInt (decide (ra.fmt = 2)) (decide (rb.fmt = 2)) acc as bs
  | .lns6 => kblockLns acc ((List.range kb).map (fun k =>
      lnsProduct (as.getD k 0) (scaleByte s ra (ra.scale + ia k / blenOf ra.blen))
        (bs.getD k 0) (scaleByte s rb (4 + (64 * (g0 + k) + n) / blenOf rb.blen))))

/-- The tile after K-blocks `kb` on, and the flags they set; words in row order. -/
def mmaBlocks (s : State) (ra rb : RecRow) (p : Product) (b : MmaBlock) (rows : List (List Nat × Nat × Nat)) :
    Nat → Nat → List Nat → Word → List Nat × Word
  | 0, _, t, fl => (t, fl)
  | n + 1, kb, t, fl =>
    let a0 := b.aoff * 8 / fmtBits ra.fmt + kb * 64 * kbOf p
    let rs := (List.range 4096).map (fun i =>
      kblockOf s ra rb p (slice rows (kb * kbOf p) (kbOf p)) a0 (b.bgrp + kb * kbOf p) (t.getD i 0) (i / 64) (i % 64))
    mmaBlocks s ra rb p b rows n (kb + 1) (rs.map (·.bits)) (fl ||| flagsOf rs)

/-- Rows of the result that poisoned operands reach: A's row bytes and scales; the whole tile for any byte of B's groups
(09_memories R188). -/
def mmaPoison (s : State) (ra rb : RecRow) (p : Product) (b : MmaBlock) (rows : List (List Nat × Nat × Nat)) (m : Nat) : Bool :=
  let bits := fmtBits ra.fmt
  recPoisoned s rb 0 (if rb.fmt = 4 then streamBase s rb else 4) || rows.any (fun e => recPoisoned s rb e.2.1 (e.2.2 - e.2.1)) ||
    (List.range b.nkb).any (fun kb =>
      let i := b.aoff * 8 / bits + kb * 64 * kbOf p + m * kbOf p
      recPoisoned s ra (i * bits / 8) (kbOf p * bits / 8) ||
        (decide (ra.fmt = 4) && recPoisoned s ra (ra.scale + i / blenOf ra.blen) (kbOf p / blenOf ra.blen + 1)))

/-! ## Tiles as memory -/

/-- The image of a tile: 16 KiB, word (m, n) at byte 256m + 4n (R242). -/
def tileImage (s : State) (core bank half : Nat) : List Byte :=
  (List.range 16384).map (fun i => Memory.byte s.acc (accKey core bank (16384 * half) + i))

/-- The words of a tile that are poisoned, by number. -/
def tilePsn (s : State) (core bank half : Nat) : List Nat :=
  (List.range 4096).filter (fun i => s.accPsn.contains (accKey core bank (16384 * half) / 4 + i))

/-- A tile written whole, `psn` its poisoned words. -/
def writeTile (s : State) (core bank half : Nat) (bytes : List Byte) (psn : List Nat) : State :=
  let k := accKey core bank (16384 * half)
  let put := (List.range bytes.length).foldl (fun m i => Memory.setByte m (k + i) (bytes.getD i 0)) s.acc
  let rest := s.accPsn.filter (fun x => decide (x < k / 4) || decide (k / 4 + 4096 ≤ x))
  { s with acc := put, accPsn := sortAsc (psn.map (k / 4 + ·) ++ rest) }

/-- A tile zeroed and sound. -/
def zeroTile (s : State) (core bank half : Nat) : State :=
  let k := accKey core bank (16384 * half)
  { s with acc := Sparse.clear s.acc k 16384,
           accPsn := s.accPsn.filter (fun x => decide (x < k / 4) || decide (k / 4 + 4096 ≤ x)) }

/-- An MMA performed whole: the tile written once, its flags, its K-blocks counted (R245). -/
def performMma (s : State) (o : Op) (b : MmaBlock) : State :=
  match recOf s o.core b.ah, recOf s o.core b.bh with
  | some ra, some rb => match productOf ra.fmt rb.fmt with
    | some p =>
      let rows := (expandGroups s rb (b.bgrp + b.nkb * kbOf p) (streamBase s rb)).drop b.bgrp
      let img := tileImage s o.core b.bank b.half
      let t0 := (List.range 4096).map (fun i => if b.acc then (wordOf img (4 * i)).toNat else 0)
      let old := if b.acc then tilePsn s o.core b.bank b.half else []
      let bad := (List.range 64).filter (mmaPoison s ra rb p b rows)
      let r := mmaBlocks s ra rb p b rows b.nkb 0 t0 0
      let psn := (List.range 4096).filter (fun i => old.contains i || bad.contains (i / 64))
      let s1 := writeTile s o.core b.bank b.half (r.1.flatMap (fun w => leBytes w 4)) psn
      modGang (setFlagsNow s1 o.gid r.2) o.gid (fun g => { g with perf := { g.perf with kblocks := g.perf.kblocks + b.nkb } })
    | none => s
  | _, _ => s

/-! ## The temporal rule (R67, R247) -/

def tickAdd (a b twin : Nat) : Nat := if a = 255 ∨ b = 255 then 255 else if twin < a + b then 255 else a + b

/-- The outputs that input codes give. -/
def temporalOut (a : ArrayRow) (mx : Bool) (win : Nat) (codes : List Nat) (j : Nat) : Nat :=
  let ts := (List.range 64).map (fun i => tickAdd (codes.getD i 255) (Sparse.get 255 a.w (64 * i + j)) win)
  if mx then ts.foldl max 0 else ts.foldl min 255

/-- The codes of a table other than 255. -/
def codeTable (f : Nat → Nat) (n : Nat) : List (Nat × Nat) :=
  (List.range n).filterMap (fun i => if f i = 255 then none else some (i, f i))

end Sys2Proof.Machine
end

