-- ==== Sys2Proof/Machine/TileDone.lean ====
section
/-! DEFINITION. Tile and temporal operations in flight: grants, completions and the deferred WEIGHT fault (12_isa_tiles R234 to R249). -/

namespace Sys2Proof.Machine

open Host (Outcome)

/-! ## Order (R234) -/

/-- Reservations, tiles (bank, half) and the array, as an operation names them; TRST names the array. -/
def opArray (o : Op) : Bool :=
  match o.kind with
  | .tldw _ => true
  | .tlnch _ _ _ => true
  | .tcapt _ => true
  | .trst _ => true
  | _ => false

def shareTiles (a b : Op) : Bool :=
  (opRecs a).any (fun r => (opRecs b).contains r) || (opTiles a).any (fun t => (opTiles b).contains t) || (opArray a && opArray b)

/-- Every earlier operation of the gang on a common resource has been performed (R234), and every earlier access of the lanes
(10_consistency R206); a FENCE does not hold tile and temporal operations (11_isa_memory R224). -/
def tileTurn (s : State) (o : Op) : Bool :=
  s.ops.all (fun e => !(e.gid == o.gid && decide (e.id < o.id) && shareTiles e o)) && (lanesOf o.lanes).all (accessesDone s o)

/-! ## OBRES and OBREL -/

/-- A gang waits for an OBRES in a buffer of a core: each buffer's requests are granted in their own order (log entry 31, DEDUCED). -/
def obresWaiting (core : Nat) (wb : Bool) (g : Gang) : Bool := g.core == core && (match g.blocked with
  | some (.obres _ _ _ w) => w == wb
  | _ => false)

/-- Units of a core's buffer that no record holds. -/
def freeUnits (s : State) (core : Nat) (wb : Bool) : List Nat :=
  (List.range 256).filter (fun u => !s.recs.any (fun r => r.core == core && r.wb == wb && r.units.contains u))

/-- The lowest free record of a core (log entry 31, DEDUCED). -/
def freeRec (s : State) (core : Nat) : Option Nat := (List.range 64).find? (fun i => !s.recs.any (fun r => r.core == core && r.idx == i))

/-- A uniform result of a grant, visible to the gang's next bundle, and the gang goes on. -/
def grantK (s : State) (gid k : Nat) (v : Word) : State := modGang s gid (fun g => wrK { g with blocked := none } k v)

/-- The grant of an OBRES: units zeroed, the record written, kd set (R235). -/
def grantObres (s : State) (g : Gang) (kd : Nat) (q0 q1 : Word) (wb : Bool) : State :=
  let n := bitsN q0.toNat 0 9
  match freeRec s g.core with
  | some idx =>
    let us := (freeUnits s g.core wb).take n
    let s1 := us.foldl (fun s u => zeroUnit s wb g.core u) s
    let r : RecRow := { core := g.core, idx := idx, st := .live, wb := wb, gid := g.gid, blk := g.blk, hnd := g.handler, fmt := bitsN q0.toNat 9 3,
                        blen := bitsN q0.toNat 12 2, bound := bitsN q1.toNat 18 4, scale := bitsN q1.toNat 0 18, units := us, g := 0,
                        sc := false, badv := false, badoff := 0 }
    grantK { s1 with recs := s1.recs ++ [r] } g.gid kd (BitVec.ofNat 32 idx)
  | none => s

/-- OBRES_GRANT: the first waiting request of its buffer, once a record and the units are free (R235). -/
def obresGrantEvent (gid : Nat) (s : State) : State :=
  match gangOf s gid with
  | some g => match g.blocked with
    | some (.obres kd q0 q1 wb) =>
      if firstWaiting s gid (obresWaiting g.core wb) && decide (bitsN q0.toNat 0 9 ≤ (freeUnits s g.core wb).length) then
        grantObres s g kd q0 q1 wb
      else s
    | _ => s
  | none => s

def execObresGrant (g : Nat) (s : State) : Outcome State Fault Refusal := .next (obresGrantEvent g s)

/-- OBREL_FREE: a dead record that no operation names returns to the pool with its units (R236). -/
def execObrelFree (core idx : Nat) (s : State) : Outcome State Fault Refusal :=
  .next (match recOf s core idx with
    | some r => if r.st = .dead ∧ inFlight s core idx = 0 then
        { s with recs := s.recs.filter (fun x => !(x.core == core && x.idx == idx)) } else s
    | none => s)

/-! ## OBLD -/

/-- Memory that an engine reads or writes is there to be read or written: peer lines in L2, local lines not held elsewhere, no
earlier engine on them, room for captures. -/
def engineReady (s : State) (o : Op) (write : Bool) : Bool :=
  decide (missingLines s write (placesOf o.pieces) = []) && decide (heldLines s write (placesOf o.pieces) = []) &&
    !engineBusy s o (placesOf o.pieces) && (!write || o.pieces.all (fun p => writeRoom (wrPost o.ctx) s p.place p.len))

/-- What is missing is asked for. -/
def engineAsk (s : State) (o : Op) (write : Bool) : State :=
  askLines s o.core (missingLines s write (placesOf o.pieces)) (heldLines s write (placesOf o.pieces))

/-- An engine operation runs when its turn has come and its memory is there; else it asks for what is missing (log entry 43, DEDUCED). -/
def runEngine (s : State) (o : Op) (write : Bool) (f : State → State) : State :=
  if !tileTurn s o then s else if engineReady s o write then f (eccPlaces o.ctx (placesOf o.pieces) s) else engineAsk s o write

/-- `convert` of R237 for element index `i` of a record. -/
def obldConvert (s : State) (r : RecRow) (i : Nat) (w : Word) : Res :=
  let v := fval fmtF32 w.toNat
  match r.fmt with
  | 0 => roundVal fmtBf16 0 v
  | 1 => roundVal fmtF16 0 v
  | 2 => floatToInt 8 true 0 v
  | 3 => floatToInt 8 false 0 v
  | _ => toLns v (scaleByte s r (r.scale + i / blenOf r.blen)) r.bound

/-- Elements of a format as bytes. -/
def packElems (fmt : Nat) (xs : List Nat) : List Byte :=
  match fmt with
  | 0 => xs.flatMap (fun x => leBytes x 2)
  | 1 => xs.flatMap (fun x => leBytes x 2)
  | 4 => packL6 xs
  | _ => xs.flatMap (fun x => leBytes x 1)

/-- OBLD performed (R237). -/
def performObld (o : Op) (s : State) : State :=
  match o.kind with
  | .obldMem h off => match recOf s o.core h with
    | some r => let e := engineRead s o.core o.pieces; endOp (writeRec s r off e.1 e.2) o
    | none => endOp s o
  | .obldFwd h off bytes => match recOf s o.core h with
    | some r => endOp (writeRec s r off bytes []) o
    | none => endOp s o
  | .obldReg h off cvt ws => match recOf s o.core h with
    | some r =>
      if cvt then
        let i0 := off * 8 / fmtBits r.fmt
        let rs := (List.range ws.length).map (fun e => obldConvert s r (i0 + e) (ws.getD e 0))
        endOp (setFlagsNow (writeRec s r off (packElems r.fmt (rs.map (·.bits))) []) o.gid (flagsOf rs)) o
      else endOp (writeRec s r off (ws.flatMap (fun w => leBytes w.toNat 4)) []) o
    | none => endOp s o
  | _ => s

def isObld (o : Op) : Bool :=
  match o.kind with
  | .obldMem _ _ => true
  | .obldReg _ _ _ _ => true
  | .obldFwd _ _ _ => true
  | _ => false

def obldEvent (id : Nat) (s : State) : State :=
  match opOf s id with
  | some o => if isObld o then runEngine s o false (performObld o) else s
  | none => s

def execObldComplete (op : Nat) (s : State) : Outcome State Fault Refusal := .next (obldEvent op s)

/-! ## WBLD and WEIGHT -/

/-- A malformed stream's fault: deferred, or fatal at once in a handler's own WBLD or with no lane left (R239). -/
def raiseWeight (s : State) (o : Op) (off : Nat) : State :=
  match gangOf s o.gid with
  | none => s
  | some g =>
    if o.hnd then stopLaunch s g 2 fcWeight (origin s g o.pc).1
    else if g.lanes.all (fun x => decide (x.st = .exited)) then stopLaunch s g 1 fcWeight (origin s g o.pc).1
    else setGang s { g with weight := g.weight ++ [{ pc := o.pc, off := off, lane := lowLane o.lanes }] }

/-- WBLD performed: the stream in the reservation, the header as it was read at issue, its first malformed item found (R238, R239). -/
def performWbld (o : Op) (h count : Nat) (hdr : Word) (s : State) : State :=
  match recOf s o.core h with
  | none => endOp s o
  | some r =>
    let e := engineRead s o.core o.pieces
    let bs := (leBytes hdr.toNat 4 ++ e.1.drop 4).take count
    let bad := streamBad r.fmt r.blen bs
    let s1 := writeRec s r 0 bs (e.2.filter (fun i => decide (i < count)))
    let s2 := setRec s1 { r with badv := bad.isSome, badoff := bad.getD 0 }
    let s3 := endOp s2 o
    match bad with
    | some off => raiseWeight s3 o off
    | none => s3

def wbldEvent (id : Nat) (s : State) : State :=
  match opOf s id with
  | some o => match o.kind with
    | .wbld h count _ _ hdr =>
      (match (gangOf s o.gid).elim [] (fun g => mapGaps s g o.pc) with
       | [] => runEngine s o false (performWbld o h count hdr)
       | ls => awaitLines s ls)
    | _ => s
  | none => s

def execWbldComplete (op : Nat) (s : State) : Outcome State Fault Refusal := .next (wbldEvent op s)

/-- The deferred WEIGHT fault, before the gang's next bundle (R239). -/
def takeWeight (s : State) (g : Gang) (w : WeightFault) (pc : Addr) (lanes : LaneMask) : State :=
  trapEntry (setGang s { g with weight := g.weight.drop 1 }) g.gid fcWeight (1#64 <<< w.lane) (BitVec.ofNat 64 w.off) w.pc pc lanes

/-- WEIGHT_FAULT: the gang's next selection finds the trap lanes (R239). -/
def weightEvent (gid : Nat) (s : State) : State :=
  match gangOf s gid with
  | some g =>
    if g.handler || !canIssue g then s
    else match g.weight, selectLanes g with
      | w :: _, some (g1, pc, lanes) =>
        (match trapGaps s g fcWeight w.pc with
         | [] => takeWeight s g1 w pc lanes
         | ls => awaitLines s ls)
      | _, _ => s
  | none => s

def execWeightFault (g : Nat) (s : State) : Outcome State Fault Refusal := .next (weightEvent g s)

/-! ## ACALLOC and ACFREE -/

def acallocWaiting (core : Nat) (g : Gang) : Bool := g.core == core && (match g.blocked with
  | some (.acalloc _ _) => true
  | _ => false)

def freeBanks (s : State) (core : Nat) : List Nat := (List.range 16).filter (fun b => (accOf s core b).isNone)

/-- Banks claimed for a gang's block, zeroed (R240, R181). -/
def claimBank (g : Gang) (s : State) (b : Nat) : State :=
  let t := zeroTile (zeroTile s g.core b 0) g.core b 1
  { t with accs := t.accs ++ [{ core := g.core, bank := b, blk := g.blk, hnd := if g.handler then some g.gid else none }] }

/-- The mask of some bank numbers. -/
def bankMask (bs : List Nat) : Word := bs.foldl (fun m b => m ||| (1#32 <<< b)) 0

/-- ACALLOC_GRANT (R240). -/
def acallocEvent (gid : Nat) (s : State) : State :=
  match gangOf s gid with
  | some g => match g.blocked with
    | some (.acalloc kd n) =>
      if firstWaiting s gid (acallocWaiting g.core) && decide (n ≤ (freeBanks s g.core).length) then
        let bs := (freeBanks s g.core).take n
        grantK (bs.foldl (claimBank g) s) gid kd (bankMask bs)
      else s
    | _ => s
  | none => s

def execAcallocGrant (g : Nat) (s : State) : Outcome State Fault Refusal := .next (acallocEvent g s)

/-- ACFREE_DONE: the banks are free once every operation that the block had issued on them has completed (R241). -/
def acfreeEvent (gid : Nat) (s : State) : State :=
  match gangOf s gid with
  | some g => match g.blocked with
    | some (.acfree m upto) =>
      if s.ops.any (fun o => o.core == g.core && o.blk == g.blk && decide (o.id < upto) && (opTiles o).any (fun t => m.getLsbD t.1)) then s
      else unblock { s with accs := s.accs.filter (fun a => !(a.core == g.core && a.blk == g.blk && m.getLsbD a.bank)) } gid
    | _ => s
  | none => s

def execAcfreeDone (g : Nat) (s : State) : Outcome State Fault Refusal := .next (acfreeEvent g s)

/-! ## MMA -/

/-- MMA_BARRIER_WAIT_END: the awaited phase has completed; an acquire at the barrier's scope (R245). -/
def mmaWaitEvent (id : Nat) (s : State) : State :=
  match opOf s id with
  | some o => match o.kind with
    | .mma b =>
      if b.waited && !b.go then
        let s1 := match barNamed s b.wh with
          | some r => acquireL1 o.core r.scope s
          | none => s
        modOp s1 id (fun o => { o with kind := .mma { b with go := true } })
      else s
    | _ => s
  | none => s

def execMmaBarrierWaitEnd (op : Nat) (s : State) : Outcome State Fault Refusal := .next (mmaWaitEvent op s)

/-- The arrival of an MMA, a release at the barrier's scope, and its references dropped (R245, 15_tables_counters R295). -/
def mmaArrive (o : Op) (b : MmaBlock) (s : State) : State :=
  let s1 := if b.av then
      (match barNamed s b.ahb with
       | some r =>
         let t := writeBackBelow o.core r.scope s
         barUnref (if b.akind then barBytes t b.ahb b.acount else barArrive t b.ahb b.acount) b.ahb
       | none => s)
    else s
  if b.wv then barUnref s1 b.wh else s1

def mmaEvent (id : Nat) (s : State) : State :=
  match opOf s id with
  | some o => match o.kind with
    | .mma b => if b.go && tileTurn s o then endOp (mmaArrive o b (performMma s o b)) o else s
    | _ => s
  | none => s

def execMmaComplete (op : Nat) (s : State) : Outcome State Fault Refusal := .next (mmaEvent op s)

/-! ## ACMOV -/

/-- The rows of a tile written in the registers of the active lanes (R242); poisoned words carry a mark. -/
def tileToRegs (o : Op) (g : Gang) (bank half d rowa c cola : Nat) (s : State) : State :=
  let bad := tilePsn s o.core bank half
  (List.range c).foldl (fun s j => (lanesOf o.lanes).foldl (fun s l =>
    putV s g l (d + j) (tileWord s o.core bank half (rowa + j) (cola + l))
      (if bad.contains (64 * (rowa + j) + cola + l) then some none else none)) s) s

/-- Bytes of a tile's image written to the pieces of an operation; `psn` lists poisoned words. -/
def tileToMem (o : Op) (img : List Byte) (psn : List Nat) (s : State) : State :=
  o.pieces.foldl (fun s p => engineWrite (wrPost o.ctx) o.core p.place (slice img p.off p.len)
    ((List.range p.len).filter (fun i => psn.contains ((p.off + i) / 4))) s) s

/-- ACMOV performed (R242). -/
def performAcmov (o : Op) (aop bank half : Nat) (clr : Bool) (d rowa c cola : Nat) (s : State) : State :=
  let fin := fun s : State => endOp (if clr then zeroTile s o.core bank half else s) o
  match aop with
  | 2 =>
    let e := engineRead s o.core o.pieces
    endOp (writeTile s o.core bank half e.1 ((List.range 4096).filter (fun i => e.2.any (fun k => k / 4 == i)))) o
  | 3 => match gangOf s o.gid with
    | some g => fin (tileToRegs o g bank half d rowa c cola s)
    | none => fin s
  | _ => fin (tileToMem o (tileImage s o.core bank half) (tilePsn s o.core bank half) s)

def acmovEvent (id : Nat) (s : State) : State :=
  match opOf s id with
  | some o => match o.kind with
    | .acmov aop bank half clr d rowa c cola =>
      runEngine s o (decide (aop < 2)) (performAcmov o aop bank half clr d rowa c cola)
    | _ => s
  | none => s

def execAcmovComplete (op : Nat) (s : State) : Outcome State Fault Refusal := .next (acmovEvent op s)

/-! ## The temporal array -/

/-- TWSET_CLAIM: the first waiting gang claims the released array (R248). -/
def twsetEvent (gid : Nat) (s : State) : State :=
  match gangOf s gid with
  | some g => match g.blocked with
    | some (.twset win mx) =>
      if (arrayOf s g.core).holder = none ∧ firstWaiting s gid (twsetWaiting g.core) = true then
        setTwin (unblock (claimArray s g mx win) gid) gid win
      else s
    | _ => s
  | none => s

def execTwsetClaim (g : Nat) (s : State) : Outcome State Fault Refusal := .next (twsetEvent g s)

/-- TLDW performed: w[i][j] is byte 64i + j (R249). -/
def performTldw (o : Op) (s : State) : State :=
  let e := engineRead s o.core o.pieces
  endOp (setArray s { arrayOf s o.core with w := codeTable (fun i => (e.1.getD i 0).toNat) 4096, wpsn := sortAsc e.2 }) o

def tldwEvent (id : Nat) (s : State) : State :=
  match opOf s id with
  | some o => match o.kind with
    | .tldw _ => runEngine s o false (performTldw o)
    | _ => s
  | none => s

def execTldwComplete (op : Nat) (s : State) : Outcome State Fault Refusal := .next (tldwEvent op s)

/-- TLNCH performed: the outputs of its codes (R247). -/
def tlnchEvent (id : Nat) (s : State) : State :=
  match opOf s id with
  | some o => match o.kind with
    | .tlnch codes mx win =>
      if tileTurn s o then
        let a := arrayOf s o.core
        endOp (setArray s { a with out := codeTable (temporalOut a mx win codes) 64,
                                   opsn := sortAsc (a.wpsn.map (· % 64)) }) o
      else s
    | _ => s
  | none => s

def execTlnchComplete (op : Nat) (s : State) : Outcome State Fault Refusal := .next (tlnchEvent op s)

/-- TCAPT performed: each active lane's register takes its output (R249). -/
def tcaptEvent (id : Nat) (s : State) : State :=
  match opOf s id with
  | some o => match o.kind with
    | .tcapt d =>
      if tileTurn s o then
        match gangOf s o.gid with
        | some g =>
          let a := arrayOf s o.core
          endOp ((lanesOf o.lanes).foldl (fun s l => putV s g l d (BitVec.ofNat 32 (Sparse.get 255 a.out l))
            (if a.opsn.contains l then some none else none)) s) o
        | none => endOp s o
      else s
    | _ => s
  | none => s

def execTcaptComplete (op : Nat) (s : State) : Outcome State Fault Refusal := .next (tcaptEvent op s)

/-- TRST_APPLY: matrix and outputs at 255, and with .rel the array released (R249). -/
def trstEvent (id : Nat) (s : State) : State :=
  match opOf s id with
  | some o => match o.kind with
    | .trst rel =>
      if tileTurn s o then
        let a := arrayOf s o.core
        let a1 := { a with w := [], out := [], wpsn := [], opsn := [] }
        endOp (setArray s (if rel then { a1 with holder := none, hnd := false } else a1)) o
      else s
    | _ => s
  | none => s

def execTrstApply (op : Nat) (s : State) : Outcome State Fault Refusal := .next (trstEvent op s)

end Sys2Proof.Machine
end

