-- ==== Sys2Proof/Machine/Place.lean ====
section
/-! DEFINITION. Dispatch and residency (02_execution R26 to R31, R37 to R39; 13_queues R258, R262, R263; 06_registers R113, R115; 09_memories
R189): blocks placed, pre-empted, resumed; units claimed, zeroed, returned. -/

namespace Sys2Proof.Machine

open Host (Outcome)

/-! ## A launch's blocks -/

/-- Blocks of a launch. -/
def launchBlocks (l : Launch) : Nat := if l.pool then (poolBlocks l.recs).length else l.gx * l.gy * l.gz

/-- Blocks of a cluster; each block of a pool is its own (13_queues R260). -/
def launchShape (l : Launch) : Nat := if l.pool then 1 else l.cshape

/-- Clusters of a launch; the last may hold fewer blocks. -/
def launchClusters (l : Launch) : Nat := (launchBlocks l + launchShape l - 1) / launchShape l

/-- Indices of the blocks of cluster `j`. -/
def clusterBlocks (l : Launch) (j : Nat) : List Nat :=
  (List.range (launchShape l)).filterMap (fun i => if j * launchShape l + i < launchBlocks l then some (j * launchShape l + i) else none)

/-- Coordinates of block `i`: bx + X (by + Y bz) inverted (13_queues R258). -/
def blockCoord (l : Launch) (i : Nat) : Nat × Nat × Nat :=
  if l.pool then (poolBlocks l.recs).getD i (0, 0, 0) else (i % l.gx, i / l.gx % l.gy, i / (l.gx * l.gy))

/-- The cluster index that the block's threads read (04_encoding R82); a pool has no grid extents (log entry 26, DEDUCED). -/
def clusterIndex (l : Launch) (i : Nat) : Nat := if l.pool then (blockCoord l i).1 else i / l.cshape

/-- The records of the gangs of pool block `i`; none in a grid launch. -/
def blockRecs (l : Launch) (i : Nat) : List (List PoolRec) := l.recs.filter (fun g => gangCoord g == blockCoord l i)

/-- Gangs of block `i`. -/
def blockGangs (l : Launch) (i : Nat) : Nat := if l.pool then (blockRecs l i).length else l.gangs

/-- Gangs of the blocks before block `i`: the linear index of its first gang (log entry 26, DEDUCED). -/
def gangsBefore (l : Launch) (i : Nat) : Nat :=
  if l.pool then ((List.range i).map (blockGangs l)).foldl (· + ·) 0 else i * l.gangs

/-- The launch has a block still to be placed. -/
def hasNext (l : Launch) : Bool := !l.stopped && decide (l.next < launchClusters l)

/-! ## What a core has left (R27, R29, R30) -/

/-- Gangs that occupy a core's slots. -/
def coreGangs (s : State) (core : Nat) : List Gang := s.gangs.filter (fun g => g.core == core && !g.away)

def freeSlots (s : State) (core : Nat) : List Nat := (List.range 64).filter (fun i => !(coreGangs s core).any (fun g => g.slot == i))

/-- A partition's room: gangs, lanes, its Free slices, and how many slices its resident gangs leave, those of away gangs among them. -/
structure Seat where
  part   : Nat
  gangs  : Nat
  lanes  : Nat
  slices : List Nat
  room   : Nat
deriving DecidableEq, Repr

def gangAway (s : State) (gid : Nat) : Bool :=
  match gangOf s gid with
  | some g => g.away
  | none => false

def sliceRow (s : State) (core part idx : Nat) : Option SliceRow :=
  s.slices.find? (fun r => r.core == core && r.part == part && r.idx == idx)

def freeSlices (s : State) (core part : Nat) : List Nat := (List.range 128).filter (fun i => (sliceRow s core part i).isNone)

/-- Slices that an away gang holds and nobody has claimed. -/
def awaySlices (s : State) (core part : Nat) : List Nat :=
  (List.range 128).filter (fun i => match sliceRow s core part i with
    | some r => (match r.st with
      | .held gid => gangAway s gid
      | .claimed _ _ => false)
    | none => false)

def seatOf (s : State) (core part : Nat) : Seat :=
  let gs := (coreGangs s core).filter (fun g => g.part == part)
  { part := part, gangs := gs.length, lanes := gs.foldl (fun a g => a + g.width) 0, slices := freeSlices s core part,
    room := 128 - (gs.map (fun g => g.smap.flatten.length)).sum }

/-- The seat that takes a gang: room for it, the most Free slices, ties to the lower partition (R29). -/
def bestSeat (w n : Nat) (seats : List Seat) : Option Seat :=
  let ok := seats.filter (fun x => decide (x.gangs < 8) && decide (x.lanes + w ≤ 256) && decide (n ≤ x.room))
  ok.foldl (fun b x => match b with
    | some y => if y.slices.length < x.slices.length then some x else some y
    | none => some x) none

/-- Partitions and slices for `k` gangs of width `w` with `n` slices each; a slice beyond the Free ones is claimed when it is first accessed (R39). -/
def seatGangs (w n : Nat) : Nat → List Seat → Option (List (Nat × List Nat))
  | 0, _ => some []
  | k + 1, seats => match bestSeat w n seats with
    | none => none
    | some x =>
      let seats1 := seats.map (fun y => if y.part = x.part then
        { y with gangs := y.gangs + 1, lanes := y.lanes + w, slices := y.slices.drop n, room := y.room - n } else y)
      match seatGangs w n k seats1 with
      | some r => some ((x.part, x.slices.take n ++ List.replicate (n - x.slices.length) unclaimedSlice) :: r)
      | none => none

/-- Scratchpad portion of a core in 64 KiB steps. -/
def splitOf (s : State) (core : Nat) : Nat :=
  match s.splits.find? (fun e => e.1 == core) with
  | some e => e.2
  | none => 0

def setSplit (s : State) (core n : Nat) : State :=
  { s with splits := (core, n) :: s.splits.filter (fun e => e.1 != core) }

/-- Banks of a block's scratchpad bytes. -/
def banksNeeded (bytes : Nat) : Nat := (bytes + 4095) / 4096

def bankRow (s : State) (core idx : Nat) : Option BankRow := s.banks.find? (fun r => r.core == core && r.idx == idx)

/-- A block is pre-empted. -/
def blockAway (s : State) (blk : Nat) : Bool :=
  match blockOf s blk with
  | some b => b.away
  | none => false

/-- Free banks among the first `n`, and those that away blocks hold. -/
def freeScrBanks (s : State) (core n : Nat) : List Nat := (List.range n).filter (fun i => (bankRow s core i).isNone)

def awayScrBanks (s : State) (core n : Nat) : List Nat :=
  (List.range n).filter (fun i => match bankRow s core i with
    | some r => blockAway s r.blk
    | none => false)

/-- A block's claims on banks not yet served. -/
def openClaims (s : State) (core : Nat) : Nat :=
  (s.blocks.filter (fun b => b.core == core && !b.away)).foldl (fun a b => a + (b.banks.filter (·.isNone)).length) 0

/-- A block of `k` gangs of the launch fits a core (R29, R30). -/
def fitsCore (s : State) (l : Launch) (k core : Nat) : Bool :=
  let portion := 16 * max l.split (splitOf s core)
  decide (core < Config.cores) && decide (k ≤ (freeSlots s core).length) &&
    (seatGangs l.width (l.banks * l.width / 8) k ((List.range 16).map (seatOf s core))).isSome &&
    decide (banksNeeded l.spbytes + openClaims s core ≤ (freeScrBanks s core portion).length + (awayScrBanks s core portion).length)

/-- Cores of a hardware cluster that take a block each (log entry 53, DEDUCED). -/
def fittingCores (s : State) (l : Launch) (k clu : Nat) : List Nat := (List.range 4).filterMap (fun i =>
  if fitsCore s l k (4 * clu + i) then some (4 * clu + i) else none)

/-- The launch's next cluster can be placed somewhere. -/
def canPlace (s : State) (l : Launch) : Bool :=
  hasNext l && (List.range 40).any (fun clu =>
    decide ((clusterBlocks l l.next).length ≤ (fittingCores s l (((clusterBlocks l l.next).map (blockGangs l)).foldl max 0) clu).length))

/-- The launches in the dispatcher's order (13_queues R262). -/
def dispatchOrder (s : State) : List Launch := sortBy (fun l => 7 - l.prio) s.launches

/-- No launch before this one in the order can be placed. -/
def dispatchTurn (s : State) (id : Nat) : Bool :=
  ((dispatchOrder s).takeWhile (fun l => l.id != id)).all (fun l => !canPlace s l)

/-- A placement serves the launch's next cluster: distinct cores of one hardware cluster, each of which fits its block (R26) (log entry 55, DESIGN CHOICE). -/
def placementOk (s : State) (l : Launch) (p : Placement) : Bool :=
  let bs := clusterBlocks l l.next
  hasNext l && decide (p.cores.length = bs.length) && decide (p.cores.Nodup) &&
    p.cores.all (fun c => decide (c / 4 = (p.cores.headD 0) / 4)) &&
    (p.cores.zip bs).all (fun e => fitsCore s l (blockGangs l e.2) e.1)

/-! ## Gang start (R113, R37, R38) -/

/-- The lanes of a gang formed from records: the record's lane, others Exited. -/
def poolLanes (w : Nat) (rs : List PoolRec) : List Lane :=
  (List.range w).map (fun l => match rs.find? (fun r => r.lane == l) with
    | some r => { num := r.num, pc := r.pc, st := .eligible, yield := false, x := r.x, p := r.pred }
    | none => { noLane with num := l })

/-- The lanes of a grid launch's gang. -/
def gridLanes (w : Nat) (entry : Addr) : List Lane :=
  (List.range w).map (fun l => { num := l, pc := entry, st := .eligible, yield := false, x := List.replicate 8 0, p := 0 })

/-- Uniform registers at gang start: k0:k1, and a fused gang's consumer pair (R113, 14_splicer R279). -/
def startUniforms (l : Launch) : List (Nat × Word) :=
  let put := fun (k : List (Nat × Word)) (n v : Nat) =>
    Sparse.set 0#32 (Sparse.set 0#32 k n (BitVec.ofNat 32 v)) (n + 1) (BitVec.ofNat 32 (v / 2 ^ 32))
  let k := put [] 0 l.param
  match l.fused with
  | some f => put k f.up f.paramC
  | none => k

/-- The side map of a fused launch's gangs (14_splicer R286). -/
def startSide (l : Launch) : SideMap :=
  match l.fused with
  | some f => { spl := true, np := f.np, up := f.up, arena := f.arena, npkt := f.npkt, kidP := l.kid, kidC := f.kidC, snapP := l.snap, snapC := f.snapC }
  | none => { blankGang.side with kidP := l.kid, snapP := l.snap }

/-- Forwarding entries, zero (14_splicer R281). -/
def startFwd (l : Launch) : List FwdEntry :=
  match l.fused with
  | some f => f.pairs.map (fun b => { b := b, bytes := List.replicate (l.width * b) 0 })
  | none => []

/-- Bank `b`'s slices: one per group of eight lanes (R28). -/
def sliceMap (w banks : Nat) (idxs : List Nat) : List (List Nat) :=
  (List.range 16).map (fun b => if b < banks then slice idxs (b * (w / 8)) (w / 8) else [])

/-- A new gang, its index `gi` within block `b`. Of a pool gang whose records differ, the first record read gives `%gang` and the entry PC's
region (R38, R82, 06_registers R120; log entry 67, DESIGN CHOICE). -/
def newGang (l : Launch) (b : Block) (gid gi slot : Nat) (seat : Nat × List Nat) (parked : Bool) : Gang :=
  let rs := (blockRecs l b.index).getD gi []
  let entry := if l.pool then (match rs with
    | r :: _ => r.pc
    | [] => 0) else l.entry
  let idx := if l.pool then (match rs with
    | r :: _ => r.gang
    | [] => 0) else gi
  { blankGang with
    gid := gid, core := b.core, slot := slot, part := seat.1, launch := l.id, blk := b.id, ctx := l.ctx, width := l.width, banks := l.banks,
    index := idx, linear := gangsBefore l b.index + gi, entry := entry, lanes := if l.pool then poolLanes l.width rs else gridLanes l.width l.entry,
    k := startUniforms l, smap := sliceMap l.width l.banks seat.2, spillBase := l.spillB, spillSize := 1024 * l.spillKb,
    side := startSide l, fwd := startFwd l, parked := parked }

/-! ## Slices and banks change hands (R31, R113 to R115, R39) -/

/-- A slice's words zero, its marks gone. -/
def zeroSlice (s : State) (core part idx : Nat) : State :=
  let k := sliceKey core part idx
  { s with vrf := Sparse.clear s.vrf k 128, vmark := s.vmark.filter (fun e => decide (e.1 < k) || decide (k + 128 ≤ e.1)) }

/-- A scratchpad bank zero and sound. -/
def zeroBank (s : State) (core idx : Nat) : State :=
  let k := scrKey core idx 0
  { s with scr := Sparse.clear s.scr k 4096, scrPsn := s.scrPsn.filter (fun g => decide (g < k / 4) || decide (k / 4 + 1024 ≤ g)) }

def setSlice (s : State) (core part idx : Nat) (st : SliceSt) : State :=
  let r : SliceRow := { core := core, part := part, idx := idx, st := st }
  { s with slices := r :: s.slices.filter (fun x => !(x.core == core && x.part == part && x.idx == idx)) }

/-- A gang takes a Free slice, zeroed (R113, R115). -/
def takeSlice (core part gid : Nat) (s : State) (idx : Nat) : State := setSlice (zeroSlice s core part idx) core part idx (.held gid)

/-- The first access to an entry of a gang's slice map that names no slice yet: a Free one is taken at once, one that an away gang holds is Claimed
(R39, R115). -/
def claimEntry (gid : Nat) (s : State) (e : Nat × Nat) : State :=
  match gangOf s gid with
  | none => s
  | some g =>
    let put := fun (idx : Nat) (s : State) => modGang s gid (fun g => { g with smap := g.smap.modify e.1 (fun l => setAt l e.2 idx) })
    match freeSlices s g.core g.part, awaySlices s g.core g.part with
    | idx :: _, _ => put idx (takeSlice g.core g.part gid s idx)
    | [], idx :: _ => match sliceRow s g.core g.part idx with
      | some r => match r.st with
        | .held v => put idx (setSlice s g.core g.part idx (.claimed v gid))
        | .claimed _ _ => s
      | none => s
    | [], [] => s

/-- Entries of a gang's slice map that hold a given number: (bank, group). -/
def entriesOf (n : Nat) (g : Gang) : List (Nat × Nat) :=
  (List.range 16).flatMap (fun b => ((List.range (g.smap.getD b []).length).filter (fun k => (g.smap.getD b []).getD k 0 == n)).map (fun k => (b, k)))

/-- A claim of the gang is still to be served. -/
def claimsOpen (s : State) (gid : Nat) : Bool := s.slices.any (fun r => match r.st with
  | .claimed _ n => n == gid
  | .held _ => false)

/-- The gang's first access to some entries: it waits where one of them is Claimed. -/
def claimEntries (gid : Nat) (es : List (Nat × Nat)) (s : State) : State :=
  let t := es.foldl (claimEntry gid) s
  if claimsOpen t gid then modGang t gid (fun g => { g with parked := true }) else t

/-- A block takes a free bank for its entry `i`. -/
def takeBank (s : State) (b : Block) (i bank : Nat) : State :=
  let r : BankRow := { core := b.core, idx := bank, blk := b.id, ctx := b.ctx }
  let s1 := zeroBank { s with banks := r :: s.banks.filter (fun x => !(x.core == b.core && x.idx == bank)) } b.core bank
  modBlock s1 b.id (fun x => { x with banks := setAt x.banks i (some bank) })

/-- Entries of resident blocks' bank maps that wait for a bank take the Free ones, in block order (R39). -/
def fillOpen (core : Nat) (s : State) : State :=
  (s.blocks.filter (fun b => b.core == core && !b.away)).foldl (fun s b =>
    ((List.range b.banks.length).filter (fun i => (b.banks.getD i none).isNone)).foldl (fun s i =>
      match freeScrBanks s core (16 * splitOf s core) with
      | idx :: _ => takeBank s b i idx
      | [] => s) s) s

/-- Vector registers of a pool gang's lanes loaded (R113). -/
def loadPoolRegs (s : State) (g : Gang) (rs : List PoolRec) : State :=
  rs.foldl (fun s r => (List.range (16 * g.banks)).foldl (fun s n => wrV s g r.lane n (r.v.getD n 0) none) s) s

/-! ## Placing a block -/

/-- The core's portion grows when the launch asks for more (R30): the lines of the core's L1 are written back and leave it (09_memories R184;
all of them, log entry 11, DESIGN CHOICE). -/
def growSplit (s : State) (core steps : Nat) : State := if splitOf s core < steps then setSplit (acquireL1 core 5 s) core steps else s

/-- The gang starts: a pool gang's registers are loaded first. -/
def startGang (s : State) (gid : Nat) : State :=
  match gangOf s gid with
  | none => s
  | some g =>
    let s1 := modGang s gid (fun g => { g with parked := false, load := false })
    match launchOf s g.launch, blockOf s g.blk with
    | some l, some b => if g.load then loadPoolRegs s1 g ((blockRecs l b.index).getD (g.linear - gangsBefore l b.index) []) else s1
    | _, _ => s1

/-- Nothing of what the gang has claimed is outstanding. -/
def gangReady (s : State) (g : Gang) : Bool :=
  !claimsOpen s g.gid && (match blockOf s g.blk with
    | some b => b.banks.all (·.isSome)
    | none => true)

/-- The gangs of a core that wait for nothing they have claimed start. -/
def unparkReady (s : State) (core : Nat) : State :=
  if s.restore.isSome then s
  else (s.gangs.filter (fun g => g.core == core && g.parked && gangReady s g)).foldl (fun s g => startGang s g.gid) s

/-- One gang of a block enters; a pool gang accesses all its slices at once (R113). -/
def enterGang (l : Launch) (b : Block) (s : State) (e : Nat × Nat × Nat × List Nat) : State :=
  let gid := s.fresh
  let g := { newGang l b gid e.1 e.2.1 e.2.2 true with load := l.pool }
  let s1 := { s with fresh := s.fresh + 1, gangs := s.gangs ++ [g] }
  let s2 := (e.2.2.2.filter (fun i => decide (i < 128))).foldl (takeSlice b.core e.2.2.1 gid) s1
  if l.pool then claimEntries gid (entriesOf unclaimedSlice g) s2 else s2

/-- Block `i` of the launch becomes resident on a core: a system-scope acquire first (13_queues R258), banks, gangs. -/
def placeOn (l : Launch) (s0 : State) (e : Nat × Nat) : State :=
  let core := e.1
  let i := e.2
  let s := growSplit (acquireL1 core 5 s0) core l.split
  let need := banksNeeded l.spbytes
  let c := blockCoord l i
  let b : Block := { id := s.fresh, launch := l.id, index := i, bx := c.1, by_ := c.2.1, bz := c.2.2, cluster := clusterIndex l i,
                     core := core, ctx := l.ctx, bytes := l.spbytes, banks := List.replicate need none, away := false }
  let s2 := fillOpen core { s with fresh := s.fresh + 1, blocks := s.blocks ++ [b] }
  let k := blockGangs l i
  match seatGangs l.width (l.banks * l.width / 8) k ((List.range 16).map (seatOf s core)) with
  | some seats =>
    let rows := (List.range k).zip ((freeSlots s core).zip seats)
    unparkReady (rows.foldl (fun s x => enterGang l b s x) s2) core
  | none => s2

/-- PLACE_BLOCK: the blocks of the launch's next cluster become resident together. -/
def placeEvent (id : Nat) (p : Placement) (s : State) : State :=
  match launchOf s id with
  | some l =>
    if dispatchTurn s id && placementOk s l p then
      (p.cores.zip (clusterBlocks l l.next)).foldl (placeOn l) (modLaunch s id (fun x => { x with next := x.next + 1 }))
    else s
  | none => s

def execPlaceBlock (launch : Nat) (p : Placement) (s : State) : Outcome State Fault Refusal := .next (placeEvent launch p s)

/-- The launch whose wait for another portion of the core is served: the first in the dispatcher's order (R30, 13_queues R262). -/
def splitAsker (s : State) (core : Nat) : Option Launch := (dispatchOrder s).find? (fun l => hasNext l && decide (l.split ≠ splitOf s core))

/-- SCRATCHPAD_SHRINK: the waiting launch served asks for the smaller portion, and no block holds a bank of the steps to return (R30). -/
def shrinkEvent (core steps : Nat) (s : State) : State :=
  if steps < splitOf s core ∧ (splitAsker s core).any (fun l => decide (l.split ≤ steps)) = true ∧
      s.banks.all (fun r => r.core != core || decide (r.idx < 16 * steps)) = true then setSplit s core steps
  else s

def execScratchpadShrink (core steps : Nat) (s : State) : Outcome State Fault Refusal := .next (shrinkEvent core steps s)

/-! ## Pre-emption (R39) -/

/-- The gangs of a resident block stop between bundles; their records of pending results stay with them (R43). -/
def preempt (s : State) (blk : Nat) : State :=
  match blockOf s blk with
  | some b =>
    if b.away then s
    else modBlock { s with gangs := s.gangs.map (fun g => if g.blk = blk then
        { g with away := true, perf := { g.perf with preempts := g.perf.preempts + 1 } } else g) } blk (fun b => { b with away := true })
  | none => s

/-- TIME_SLICE_END: the blocks that the masthead pre-empts (13_queues R263). -/
def execTimeSliceEnd (blocks : List Nat) (s : State) : Outcome State Fault Refusal := .next (blocks.foldl preempt s)

/-! ### Claims, step by step -/

/-- An operation of the gang still names a vector register of bank `b`, group `k` (R39 step 1). -/
def sliceTargeted (s : State) (g : Gang) (b k : Nat) : Bool :=
  s.ops.any (fun o => o.gid == g.gid && (lanesOf o.lanes).any (fun l => l / 8 == k) && (locks o).any (fun r => match r with
    | .v n => n / 16 == b
    | _ => false))

/-- An operation still reads or writes bank entry `i` of a block. -/
def bankTargeted (s : State) (blk i : Nat) : Bool :=
  s.ops.any (fun o =>
    o.pieces.any (fun p => match p.place with
      | .scr b off => b == blk && decide (off / 4096 ≤ i) && decide (i ≤ (off + p.len - 1) / 4096) && decide (p.st ≠ .done)
      | _ => false) ||
    (match o.kind with
      | .atom _ _ _ _ _ _ _ gs => gs.any (fun x => match x.place with
        | .scr b off => b == blk && off / 4096 == i && decide (x.st ≠ .done)
        | _ => false)
      | .cpy size _ _ _ ls => ls.any (fun x => [x.src, x.dst].any (fun q => match q with
        | .scr b off => b == blk && decide (off / 4096 ≤ i) && decide (i ≤ (off + size - 1) / 4096)
        | _ => false))
      | _ => false))

/-- The nonzero words of a slice, and its marks. -/
def sliceWords (s : State) (core part idx : Nat) : List (Nat × Word) := Sparse.window s.vrf (sliceKey core part idx) 128

def sliceMarks (s : State) (core part idx : Nat) : List (Nat × Option Addr) :=
  (s.vmark.filter (fun e => decide (sliceKey core part idx ≤ e.1) && decide (e.1 < sliceKey core part idx + 128))).map
    (fun e => (e.1 - sliceKey core part idx, e.2))

def emptySave (key : SaveKey) (ctx : Nat) : Saved :=
  { key := key, ctx := ctx, words := [], bytes := [], psn := [], marks := [], array := none, rcd := none, hnd := none }

def addSave (s : State) (x : Saved) : State := { s with saved := s.saved ++ [x] }

/-- Steps 1 to 5 on a slice. -/
def claimSlice (s : State) (core part idx : Nat) : State :=
  match sliceRow s core part idx with
  | some r => match r.st with
    | .claimed v n =>
      (match gangOf s v, sliceHolder s core part idx with
       | some g, some (_, b, k) =>
         if sliceTargeted s g b k then s
         else
           let s1 := captureAll (.slice core part idx) s
           let s2 := addSave s1 { emptySave (.slice v b k) g.ctx with words := sliceWords s1 core part idx, marks := sliceMarks s1 core part idx }
           let s3 := modGang s2 v (fun g => { g with smap := g.smap.modify b (fun e => setAt e k spilledSlice) })
           unparkReady (setSlice (zeroSlice s3 core part idx) core part idx (.held n)) core
       | _, _ => s)
    | .held _ => s
  | none => s

/-- Poisoned granules of `n` bytes from a key, from 0. -/
def psnWindow (psn : List Nat) (k n : Nat) : List Nat :=
  (psn.filter (fun g => decide (k ≤ g) && decide (g < k + n))).map (· - k)

/-- Steps 1 to 5 on a scratchpad bank of an away block, for the first resident block of the core that waits for one. -/
def claimBankOf (s : State) (core idx : Nat) : State :=
  match bankHolder s core idx, s.blocks.find? (fun b => b.core == core && !b.away && b.banks.any (·.isNone)) with
  | some (v, i), some new =>
    if !v.away || bankTargeted s v.id i then s
    else
      let s1 := captureAll (.bank core idx) s
      let k := scrKey core idx 0
      let s2 := addSave s1 { emptySave (.bank v.id i) v.ctx with bytes := Sparse.window s1.scr k 4096, psn := psnWindow s1.scrPsn (k / 4) 1024 }
      let s3 := modBlock s2 v.id (fun b => { b with banks := setAt b.banks i none })
      unparkReady (takeBank s3 new ((new.banks.findIdx? (·.isNone)).getD 0) idx) core
  | _, _ => s

/-- A gang of the core waits for a grant of this kind. -/
def wantsUnit (s : State) (core : Nat) (p : Blocked → Bool) : Bool :=
  s.gangs.any (fun g => g.core == core && !g.away && (match g.blocked with
    | some b => p b
    | none => false))

/-- The unit number that stands in a record for a spilled unit. -/
def spilledUnit : Nat := 256

/-- Poison keys of the weight buffer stand above the operand buffer's. -/
def unitPsnKey (wb : Bool) (core unit : Nat) : Nat := bufKey core unit 0 / 4 + (if wb then 160 * 256 * 256 else 0)

/-- Unit `i` of a record goes to the save area. -/
def spillUnit (r0 : RecRow) (s : State) (i : Nat) : State :=
  match recOf s r0.core r0.idx with
  | some r =>
    let unit := r.units.getD i 0
    let x := { emptySave (.obuf r.gid r.idx i) ((gangOf s r.gid).elim 0 (·.ctx)) with
      bytes := Sparse.window (if r.wb then s.wbuf else s.obuf) (bufKey r.core unit 0) 1024, psn := psnWindow s.bufPsn (unitPsnKey r.wb r.core unit) 256 }
    zeroUnit (setRec (addSave s x) { r with units := setAt r.units i spilledUnit }) r.wb r.core unit
  | none => s

/-- A buffer unit of an away gang's record, for a waiting OBRES. -/
def claimUnit (s : State) (wb : Bool) (core unit : Nat) : State :=
  match s.recs.find? (fun r => r.core == core && r.wb == wb && r.units.contains unit) with
  | some r =>
    if !gangAway s r.gid || decide (0 < inFlight s core r.idx) || !wantsUnit s core (fun b => match b with
        | .obres _ _ _ w => w == wb
        | _ => false) then s
    else spillUnit r s ((r.units.findIdx? (· == unit)).getD 0)
  | none => s

/-- A reservation record of an away gang, for an OBRES that waits while every record is taken: its units are spilled first, then the record
(12_isa_tiles R251). -/
def claimRec (s : State) (core rcd : Nat) : State :=
  match recOf s core rcd with
  | some r =>
    if !gangAway s r.gid || decide (0 < inFlight s core rcd) || (freeRec s core).isSome || !wantsUnit s core (fun b => match b with
        | .obres _ _ _ _ => true
        | _ => false) then s
    else
      let s1 := ((List.range r.units.length).filter (fun i => r.units.getD i 0 != spilledUnit)).foldl (spillUnit r) s
      let s2 := addSave s1 { emptySave (.rcd r.gid r.idx) ((gangOf s r.gid).elim 0 (·.ctx)) with
        rcd := some { r with units := r.units.map (fun _ => spilledUnit) } }
      { s2 with recs := s2.recs.filter (fun x => !(x.core == core && x.idx == rcd)) }
  | none => s

/-- An accumulator bank of an away block, for a waiting ACALLOC. -/
def claimAcc (s : State) (core bank : Nat) : State :=
  match accOf s core bank with
  | some a =>
    if !blockAway s a.blk || s.ops.any (fun o => o.core == core && (opTiles o).any (fun t => t.1 == bank)) || !wantsUnit s core (fun b => match b with
        | .acalloc _ _ => true
        | _ => false) then s
    else
      let k := accKey core bank 0
      let x := { emptySave (.acc a.blk bank) ((blockOf s a.blk).elim 0 (·.ctx)) with
        bytes := Sparse.window s.acc k 32768, psn := psnWindow s.accPsn (k / 4) 8192,
        hnd := a.hnd }
      { addSave s x with accs := s.accs.filter (fun y => !(y.core == core && y.bank == bank)) }
  | none => s

/-- The array of an away gang, for a waiting TWSET (12_isa_tiles R251). -/
def claimArrayOf (s : State) (core : Nat) : State :=
  let a := arrayOf s core
  match a.holder with
  | some gid =>
    if !gangAway s gid || s.ops.any (fun o => o.gid == gid && opArray o) || !wantsUnit s core (fun b => match b with
        | .twset _ _ => true
        | _ => false) then s
    else
      let s1 := addSave s { emptySave (.array gid) ((gangOf s gid).elim 0 (·.ctx)) with array := some a }
      { s1 with arrays := s1.arrays.filter (fun x => x.core != core) }
  | none => s

/-- SLICE_CLAIM: one unit passes from a pre-empted owner to the newcomer that needs it. -/
def claimEvent (u : ClaimUnit) (s : State) : State :=
  match u with
  | .slice core part idx => claimSlice s core part idx
  | .bank core idx => claimBankOf s core idx
  | .obuf core unit => claimUnit s false core unit
  | .wbuf core unit => claimUnit s true core unit
  | .acc core bank => claimAcc s core bank
  | .array core => claimArrayOf s core
  | .rcd core rcd => claimRec s core rcd

def execSliceClaim (u : ClaimUnit) (s : State) : Outcome State Fault Refusal := .next (claimEvent u s)

/-! ### Resumption -/

def savedOf (s : State) (key : SaveKey) : Option Saved := s.saved.find? (fun x => decide (x.key = key))

def dropSave (s0 : State) (key : SaveKey) : State :=
  let s := (saveUnits key).foldl (fun s u => captureAll u s) s0
  { s with saved := s.saved.filter (fun x => !decide (x.key = key)) }

/-- Entries of the save area that go, captured first. -/
def dropSaves (s0 : State) (p : Saved → Bool) : State :=
  let s := (s0.saved.filter p).foldl (fun s x => (saveUnits x.key).foldl (fun s u => captureAll u s) s) s0
  { s with saved := s.saved.filter (fun x => !p x) }

/-- Spilled entries of a gang's slice map: (bank, group). -/
def spilledOf (g : Gang) : List (Nat × Nat) := entriesOf spilledSlice g

/-- A slice of the save area reloaded into a free slice. -/
def reloadSlice (gid : Nat) (s : State) (e : Nat × Nat) : State :=
  match gangOf s gid with
  | some g =>
    let key : SaveKey := .slice gid e.1 e.2
    (match freeSlices s g.core g.part, savedOf s key with
     | idx :: _, some x =>
       let k := sliceKey g.core g.part idx
       let s1 := setSlice (zeroSlice s g.core g.part idx) g.core g.part idx (.held gid)
       let s2 := { s1 with vrf := x.words.foldl (fun m w => Sparse.set 0#32 m (k + w.1) w.2) s1.vrf,
                           vmark := x.marks.map (fun m => (k + m.1, m.2)) ++ s1.vmark }
       modGang (dropSave s2 key) gid (fun g => { g with smap := g.smap.modify e.1 (fun l => setAt l e.2 idx) })
     | _, _ => s)
  | none => s

/-- Bytes reloaded under a key. -/
def loadBytes (m : Memory) (k : Nat) (bs : List (Nat × Byte)) : Memory := bs.foldl (fun m e => Memory.setByte m (k + e.1) e.2) m

/-- A bank of the save area reloaded into a free bank. -/
def reloadBank (blk : Nat) (s : State) (i : Nat) : State :=
  match blockOf s blk with
  | some b =>
    (match freeScrBanks s b.core (16 * splitOf s b.core), savedOf s (.bank blk i) with
     | idx :: _, some x =>
       let s1 := takeBank s b i idx
       let k := scrKey b.core idx 0
       dropSave { s1 with scr := loadBytes s1.scr k x.bytes, scrPsn := x.psn.map (· + k / 4) ++ s1.scrPsn } (.bank blk i)
     | _, _ => s)
  | none => s

/-- A buffer unit reloaded into a free unit. -/
def reloadUnit (s : State) (e : RecRow × Nat) : State :=
  let r := (recOf s e.1.core e.1.idx).getD e.1
  let key : SaveKey := .obuf r.gid r.idx e.2
  match freeUnits s r.core r.wb, savedOf s key with
  | u :: _, some x =>
    let s1 := setRec (dropSave (zeroUnit s r.wb r.core u) key) { r with units := setAt r.units e.2 u }
    let p := x.psn.map (· + unitPsnKey r.wb r.core u) ++ s1.bufPsn
    if r.wb then { s1 with wbuf := loadBytes s1.wbuf (bufKey r.core u 0) x.bytes, bufPsn := p }
    else { s1 with obuf := loadBytes s1.obuf (bufKey r.core u 0) x.bytes, bufPsn := p }
  | _, _ => s

/-- An accumulator bank reloaded under its own number. -/
def reloadAcc (core : Nat) (s : State) (x : Saved) : State :=
  match x.key with
  | .acc blk bank =>
    let k := accKey core bank 0
    let row : AccRow := { core := core, bank := bank, blk := blk, hnd := x.hnd }
    let s1 := dropSave s x.key
    { s1 with accs := row :: s1.accs, acc := loadBytes (Sparse.clear s1.acc k 32768) k x.bytes,
              accPsn := x.psn.map (· + k / 4) ++ s1.accPsn.filter (fun g => decide (g < k / 4) || decide (k / 4 + 8192 ≤ g)) }
  | _ => s

/-- Records' spilled units of a gang. -/
def spilledUnits (s : State) (gid : Nat) : List (RecRow × Nat) :=
  (s.recs.filter (fun r => r.gid == gid)).flatMap (fun r =>
    ((List.range r.units.length).filter (fun i => r.units.getD i 0 == spilledUnit)).map (fun i => (r, i)))

/-- Saved banks of a block's accumulators. -/
def savedAccs (s : State) (blk : Nat) : List Saved := s.saved.filter (fun x => match x.key with
  | .acc b _ => b == blk
  | _ => false)

/-- Saved records of a gang. -/
def savedRecs (s : State) (gid : Nat) : List Saved := s.saved.filter (fun x => match x.key with
  | .rcd g _ => g == gid
  | _ => false)

/-- Units of a buffer that a gang's reservations take back: spilled ones of its records, and every unit of a spilled record (12_isa_tiles R251). -/
def unitsDue (s : State) (gid : Nat) (wb : Bool) : Nat :=
  ((spilledUnits s gid).filter (fun e => e.1.wb == wb)).length +
    ((((savedRecs s gid).filterMap (·.rcd)).filter (fun r => r.wb == wb)).map (fun r => r.units.length)).sum

/-- A pre-empted block can resume: slots, lanes, free slices of the same partitions, free banks and units, its own accumulator banks, the
array; nothing of it is being claimed. -/
def resumeOk (s : State) (b : Block) (gs : List Gang) : Bool :=
  b.away && decide (gs.length ≤ (freeSlots s b.core).length) &&
    (List.range 16).all (fun p =>
      let mine := gs.filter (fun g => g.part == p)
      let seat := seatOf s b.core p
      decide (seat.gangs + mine.length ≤ 8) && decide (seat.lanes + mine.foldl (fun a g => a + g.width) 0 ≤ 256) &&
        decide ((mine.flatMap spilledOf).length ≤ (freeSlices s b.core p).length) &&
        decide ((mine.map (fun g => g.smap.flatten.length)).sum ≤ seat.room)) &&
    decide ((b.banks.filter (·.isNone)).length ≤ (freeScrBanks s b.core (16 * splitOf s b.core)).length) &&
    decide ((b.banks.filter (·.isNone)).length + openClaims s b.core ≤ (freeScrBanks s b.core (16 * splitOf s b.core)).length +
      ((awayScrBanks s b.core (16 * splitOf s b.core)).filter (fun i => (bankRow s b.core i).all (fun r => r.blk != b.id))).length) &&
    [false, true].all (fun wb => decide ((gs.map (fun g => unitsDue s g.gid wb)).sum ≤ (freeUnits s b.core wb).length)) &&
    (savedAccs s b.id).all (fun x => match x.key with
      | .acc _ bank => (accOf s b.core bank).isNone
      | _ => true) &&
    (s.saved.filterMap (·.rcd)).all (fun r => gs.all (fun g => g.gid != r.gid) || (recOf s r.core r.idx).isNone) &&
    gs.all (fun g => (savedOf s (.array g.gid)).isNone || (arrayOf s b.core).holder.isNone) &&
    s.slices.all (fun r => match r.st with
      | .claimed v _ => gs.all (fun g => g.gid != v)
      | .held _ => true)

/-- A spilled reservation record comes back under its own number. -/
def reloadRec (s : State) (x : Saved) : State :=
  match x.rcd with
  | some r => { dropSave s x.key with recs := s.recs ++ [r] }
  | none => s

/-- One gang comes back to a slot. -/
def resumeGang (s : State) (e : Gang × Nat) : State :=
  let gid := e.1.gid
  let s1 := modGang s gid (fun g => { g with away := false, slot := e.2 })
  let s2 := (spilledOf e.1).foldl (reloadSlice gid) s1
  let s2r := (savedRecs s2 gid).foldl reloadRec s2
  let s3 := (spilledUnits s2r gid).foldl reloadUnit s2r
  match savedOf s3 (.array gid) with
  | some x => match x.array with
    | some a => setArray (dropSave s3 (.array gid)) a
    | none => s3
  | none => s3

/-- The core's portion as a block of the launch needs it, where it has shrunk since (R30). -/
def regrow (s : State) (b : Block) : State :=
  match launchOf s b.launch with
  | some l => growSplit s b.core l.split
  | none => s

/-- RESUME_BLOCK: on the core it left (R26), its spilled units reloaded. -/
def resumeEvent (blk : Nat) (s0 : State) : State :=
  match blockOf s0 blk with
  | some b =>
    let s := regrow s0 b
    let gs := s.gangs.filter (fun g => g.blk == blk)
    if resumeOk s b gs then
      let s1 := ((List.range b.banks.length).filter (fun i => (b.banks.getD i none).isNone)).foldl (reloadBank blk)
        (modBlock s blk (fun b => { b with away := false }))
      let s2 := (gs.zip (freeSlots s b.core)).foldl resumeGang s1
      (savedAccs s2 blk).foldl (reloadAcc b.core) s2
    else s0
  | none => s0

def execResumeBlock (blk : Nat) (_p : Placement) (s : State) : Outcome State Fault Refusal := .next (resumeEvent blk s)

/-! ## Owner change (09_memories R189) -/

/-- Bytes, from a place on, that an operation in flight still accesses. -/
def opsUse (s : State) (hit : Place → Nat → Bool) : Bool :=
  s.ops.any (fun o => o.pieces.any (fun p => hit p.place p.len && decide (p.st ≠ .done)) || (match o.kind with
    | .atom _ wide _ _ _ _ _ gs => gs.any (fun x => hit x.place (if wide then 8 else 4) && decide (x.st ≠ .done))
    | .cpy size _ _ _ ls => ls.any (fun x => hit x.src size || hit x.dst size)
    | _ => false))

/-- A local frame of an operation in flight. -/
def frameBusy (s : State) (frame size : Nat) : Bool :=
  opsUse s (fun p n => match p with
    | .mem pa _ => decide (frame < pa + n) && decide (pa < frame + size)
    | _ => false)

/-- A die range of an operation in flight, one of those that its bytes reach. -/
def rangeBusy (s : State) (die idx : Nat) : Bool :=
  opsUse s (fun p n => match p with
    | .die c d off => d == die && (List.range ((off + n - 1) / 4096 - off / 4096 + 1)).any (fun k => (windowOf s c d).getD (off / 4096 + k) 6144 == idx)
    | _ => false)

/-- Every tagged line of a frame, and every marked line of an L1 in it, sent to its colours. -/
def capturePage (s : State) (frame size : Nat) : State :=
  let s1 := (List.range (size / 128)).foldl (fun s i =>
    captureLineFor (wrPost 0) .c1 (frame + 128 * i) (captureLineFor (wrPost 0) .c0 (frame + 128 * i) s)) s
  (s1.l1.filter (fun r => !r.peer && decide (frame / 128 ≤ r.line) && decide (r.line < (frame + size) / 128))).foldl
    (fun s r => captureL1 .c1 r (captureL1 .c0 r s)) s1

/-- Room in the capture queues for them (13_queues R271). -/
def pageRoom (s : State) (frame size : Nat) : Bool :=
  [Colour.c0, Colour.c1].all (fun c => (List.range (size / 128)).all (fun i => (pageTagOf s c (frame + 128 * i)).isNone) ||
    capRoom s (dieOfPa frame) c)

/-- Lines of a frame that other packages hold. -/
def frameGaps (s : State) (frame size : Nat) : List (Bool × Nat) :=
  (s.dir.filter (fun d => decide (frame / 128 ≤ d.line) && decide (d.line < (frame + size) / 128) && !homeFree s d.line true)).map (fun d => (false, d.line))

/-- The leaf entries of a page that one context maps at `va`: addresses. -/
def leafEntries (s : State) (ctx va size : Nat) : List Nat :=
  ((List.range (if size = 0x10000 then 16 else 1)).filterMap (fun k => (walk s ctx (va + 4096 * k)).map (·.1)))

/-- The page's leaf names the context as owner and the frame. -/
def leafNames (s : State) (ctx va frame size : Nat) : Bool :=
  match walk s ctx va with
  | some (_, p, _) => decide (pteOwner p = ctx) && decide (pageBytes (pteSize p) = size) && leafLocal s p && decide (pteFrame p % 2 ^ 45 = frame)
  | none => false

/-- A page zeroed without writes: caches dropped, the zero map filled, ZP set (R178, R189). -/
def zeroPage (s : State) (ctx va frame size : Nat) : State :=
  let inF := fun line : Nat => decide (frame / 128 ≤ line) && decide (line < (frame + size) / 128)
  let ptes := leafEntries s ctx va size
  let s1 := { s with l1 := s.l1.filter (fun r => r.peer || !inF r.line), l2 := s.l2.filter (fun r => r.peer || !inF r.line),
                     memPsn := s.memPsn.filter (fun g => decide (g < frame / 32) || decide ((frame + size) / 32 ≤ g)),
                     zmaps := { frame := frame, lines := size / 128, clear := [], ptes := ptes } ::
                       s.zmaps.filter (fun z => decide (z.frame + 128 * z.lines ≤ frame) || decide (frame + size ≤ z.frame)) }
  ptes.foldl (fun s p => putPteBit s p 109 true) s1

/-- Bundles that waited for a frame's zeroing go on. -/
def frameCome (frame size : Nat) (s : State) : State :=
  { s with gangs := s.gangs.map (fun g => match g.blocked with
      | some (.xlate ps) => (ps.filter (fun p => decide (homePage s (frame / 128) ≤ p) && decide (p < homePage s ((frame + size) / 128)))).foldl
          (fun (g : Gang) p => { g with blocked := heldAfter p g.blocked }) g
      | _ => g) }

/-- A page passes to the context that its leaf names: no access of the old owner is incomplete, no other package holds a line of it, tags are captured,
it is zeroed. -/
def changePage (ctx va frame size : Nat) (s : State) : State :=
  if !leafNames s ctx va frame size || frameBusy s frame size || !pageRoom s frame size then s
  else withLines (frameGaps s frame size) (fun s =>
    frameCome frame size (setOwner (zeroPage (capturePage s frame size) ctx va frame size) ctx frame size)) s

/-- The range map of a context on a die. -/
def setWindow (s : State) (ctx die : Nat) (w : List Nat) : State :=
  modCtx s ctx (fun r => { r with windows := r.windows.filter (fun e => e.1 != die) ++ (if w = [] then [] else [(die, w)]) })

/-- The range leaves its old owner's window, whose last it is. -/
def leaveWindow (die idx : Nat) (s : State) : State :=
  match s.ranges.find? (fun e => e.1 == die && e.2.1 == idx) with
  | some e => setWindow s e.2.2 die ((windowOf s e.2.2 die).filter (fun i => i != idx))
  | none => s

/-- A window may lose a range: its last, since a window is a run of addresses (R180; log entry 83, DEDUCED). -/
def lastRange (s : State) (die idx : Nat) : Bool :=
  match s.ranges.find? (fun e => e.1 == die && e.2.1 == idx) with
  | some e => decide ((windowOf s e.2.2 die).getLast? = some idx) || !(windowOf s e.2.2 die).contains idx
  | none => true

/-- The range joins the window of its new owner; 0 is no owner: firmware has the range back. -/
def joinWindow (die idx ctx : Nat) (s : State) : State :=
  if ctx = 0 then s
  else if (windowOf s ctx die).contains idx then s else setWindow s ctx die (windowOf s ctx die ++ [idx])

/-- A die range passes to a context, or back to firmware: captured, zeroed, and the range maps follow (R180, R189). -/
def changeRange (die idx ctx : Nat) (s : State) : State :=
  if rangeBusy s die idx || !lastRange s die idx || s.ranges.any (fun e => e.1 == die && e.2.1 == idx && e.2.2 == ctx) ||
      !unitRoom (wrPost 0) (.range die idx) die s || !(ctx == 0 || (ctxRow s ctx).isSome) then s
  else
    let s1 := joinWindow die idx ctx (leaveWindow die idx (captureAll (.range die idx) s))
    let k := dscKey die idx 0
    { s1 with dsc := Sparse.clear s1.dsc k 4096, dscPsn := s1.dscPsn.filter (fun g => decide (g < k / 4) || decide (k / 4 + 1024 ≤ g)),
              ranges := (if ctx = 0 then [] else [(die, idx, ctx)]) ++ s1.ranges.filter (fun e => !(e.1 == die && e.2.1 == idx)) }

/-- A unit that nobody holds, a page, or a range of a window. -/
def ownerChange (u : OwnedUnit) (ctx : Nat) (s : State) : State :=
  match u with
  | .page va frame size => changePage ctx va frame size s
  | .bank core idx => if (bankRow s core idx).isNone then zeroBank (captureAll (.bank core idx) s) core idx else s
  | .range die idx => changeRange die idx ctx s
  | .slice core part idx => if (sliceRow s core part idx).isNone then zeroSlice (captureAll (.slice core part idx) s) core part idx else s
  | .obuf core unit => if (freeUnits s core false).contains unit then zeroUnit s false core unit else s
  | .wbuf core unit => if (freeUnits s core true).contains unit then zeroUnit s true core unit else s
  | .acc core bank =>
    if (accOf s core bank).isNone then
      let k := accKey core bank 0
      { s with acc := Sparse.clear s.acc k 32768, accPsn := s.accPsn.filter (fun g => decide (g < k / 4) || decide (k / 4 + 8192 ≤ g)) }
    else s

def execOwnerChangeZero (u : OwnedUnit) (ctx : Nat) (s : State) : Outcome State Fault Refusal := .next (ownerChange u ctx s)

end Sys2Proof.Machine
end

