-- ==== Sys2Proof/Machine/Ends.lean ====
section
/-! DEFINITION. Ends: gangs and blocks (08_isa_control R156), launches (13_queues R258, 14_splicer R284), KILL (08_isa_control R165, R166), the stall
watchdog (19_host_firmware R357). -/

namespace Sys2Proof.Machine

open Host (Outcome)

/-! ## Gangs and blocks -/

/-- A gang may end: its lanes Exited, or stopped for good, and nothing of it in flight (R156, 13_queues R258). A WEIGHT fault still pending
then is lost (log entry 94, DEDUCED). -/
def gangDone (s : State) (g : Gang) : Bool :=
  (g.dead || g.lanes.all (fun x => decide (x.st = .exited))) && s.ops.all (fun o => o.gid != g.gid)

/-- A slice of a gang that ends falls Free, captured first; one that a newcomer has claimed is zeroed and passes on; one that the gang itself has
claimed stays its victim's (R115). -/
def freeSlice (gid core part : Nat) (s : State) (idx : Nat) : State :=
  let s1 := captureAll (.slice core part idx) s
  match sliceRow s core part idx with
  | some r => match r.st with
    | .held _ => { s1 with slices := s1.slices.filter (fun x => !(x.core == core && x.part == part && x.idx == idx)) }
    | .claimed v n => if n = gid then setSlice s core part idx (.held v) else setSlice (zeroSlice s1 core part idx) core part idx (.held n)
  | none => s

/-- The slices that a gang's map names. -/
def gangSlices (g : Gang) : List Nat := g.smap.flatten.filter (fun i => decide (i < 128))

/-- The end of a gang: slices, save areas, the temporal array, its slot. -/
def endGang (s : State) (g : Gang) : State :=
  let s1 := (gangSlices g).foldl (freeSlice g.gid g.core g.part) s
  let s2 := dropSaves { s1 with arrays := s1.arrays.filter (fun a => decide (a.holder ≠ some g.gid)) } (fun x => match x.key with
    | .slice gid _ _ => gid == g.gid
    | .array gid => gid == g.gid
    | _ => false)
  unparkReady { s2 with gangs := s2.gangs.filter (fun x => x.gid != g.gid) } g.core

/-- A bank falls Free, captured first. -/
def freeBank (core : Nat) (s : State) (idx : Nat) : State :=
  let s1 := captureAll (.bank core idx) s
  { s1 with banks := s1.banks.filter (fun r => !(r.core == core && r.idx == idx)) }

/-- The end of a block: scratchpad, reservations, accumulators, rings (R156); its chunk fires (18_fabric_collectives R351). -/
def endBlock (s : State) (b : Block) : State :=
  let s1 := (b.banks.filterMap id).foldl (freeBank b.core) s
  let s1' := dropSaves s1 (fun x => match x.key with
    | .bank blk _ => blk == b.id
    | .acc blk _ => blk == b.id
    | .obuf gid _ _ => (s1.recs ++ s1.saved.filterMap (·.rcd)).any (fun r => r.blk == b.id && r.gid == gid)
    | .rcd _ _ => (x.rcd.map (·.blk)) == some b.id
    | _ => false)
  let s2 := { s1' with recs := s1'.recs.filter (fun r => r.blk != b.id), accs := s1'.accs.filter (fun a => a.blk != b.id),
                       blocks := s1'.blocks.filter (fun x => x.id != b.id) }
  let s3 := (s2.rings.filter (fun r => r.inuse && r.blk == b.id && r.core == b.core)).foldl dropRing s2
  let s4 := modLaunch (unparkReady (fillOpen b.core s3) b.core) b.launch (fun l => { l with ended := l.ended + 1 })
  match launchOf s4 b.launch with
  | some l => if l.coll.isSome && !l.stopped then
      let k : Chunk := { launch := l.id, chunk := b.index, step := 0, busy := [], closed := false, steps := none, dests := [], core := b.core, tag0 := 0,
                         got := [], cut0 := false, cut1 := false }
      { s4 with chunks := s4.chunks ++ [k] }
      else s4
  | none => s4

/-- The launch ends with STATUS 0x03 once a gang that KILL ended has ended, unless an earlier fatal fault has fixed it: one in KILL's handler is
a double fault (R165). -/
def killStatus (s : State) (launch : Nat) : State :=
  modLaunch s launch (fun l => match l.fatal with
    | some _ => l
    | none => { l with fatal := some { status := 3, code := 0, block := 0, pc := 0, clock := s.clock } })

/-- GANG_END. -/
def gangEndEvent (gid : Nat) (s : State) : State :=
  match gangOf s gid with
  | some g =>
    if !gangDone s g then s
    else
      let s1 := endGang (if g.killed then killStatus s g.launch else s) g
      if s1.gangs.any (fun x => x.blk == g.blk) then s1
      else match blockOf s1 g.blk with
        | some b => endBlock s1 b
        | none => s1
  | none => s

def execGangEnd (g : Nat) (s : State) : Outcome State Fault Refusal := .next (gangEndEvent g s)

/-! ## Launches -/

/-- Every block of the launch has ended, or it has been stopped and no block of it is left; every chunk has completed. -/
def launchDone (s : State) (l : Launch) : Bool :=
  (decide (l.ended = launchBlocks l) || (l.stopped && s.blocks.all (fun b => b.launch != l.id))) &&
    s.chunks.all (fun c => c.launch != l.id)

/-- Dirty L1 lines of a context written back (R258). -/
def writeBackCtx (s : State) (ctx : Nat) : State :=
  (s.l1.filter (fun r => r.ctx == ctx && decide (r.dirty ≠ 0))).foldl (fun s r => writeBackL1 r s) s

/-- Posted stores of a context to packages that can still grant ownership (10_consistency R207, R208). -/
def postsOpen (s : State) (ctx : Nat) : Bool :=
  s.l2.any (fun r => r.peer && r.ctx == ctx && decide (r.dirty ≠ 0) && !r.owned && !lostPkg s (r.line * 128 / 2 ^ 45))

/-- The outcome of a launch: STATUS, CODE, BLOCK, PC. -/
def launchFatal (l : Launch) : Fatal := l.fatal.getD { status := 0, code := 0, block := 0, pc := 0, clock := 0 }

/-- Completion records, the producer's first (14_splicer R284). -/
def writeEnds (s : State) (l : Launch) : State :=
  let f := launchFatal l
  let s1 := writeCompletion s l.ctx l.id l.cpla f.status f.code f.block f.pc
  match l.fused with
  | some c => writeCompletion s1 l.ctx l.id c.cplaC f.status f.code f.block f.pc
  | none => s1

/-- The completion records of a launch. -/
def endWrites (l : Launch) : List (Nat × Nat) :=
  (l.cpla :: (l.fused.toList.map (·.cplaC))).filterMap (fun a => if a = 0 then none else some (a, 16))

/-- One arrival on each arrive barrier, then the references given back (R258, 15_tables_counters R295). -/
def arriveEnds (s : State) (l : Launch) : State :=
  let arr := fun (s : State) (v : Bool) (h : Word) => if v then barArrive s h 1 else s
  let drop := fun (s : State) (v : Bool) (h : Word) => if v then barUnref s h else s
  match l.fused with
  | some c =>
    let s1 := arr (arr s l.av l.ahb) c.avC c.ahbC
    drop (drop (drop (drop s1 l.wv l.wh) l.av l.ahb) c.wvC l.ahb) c.avC c.ahbC
  | none => drop (drop (arr s l.av l.ahb) l.wv l.wh) l.av l.ahb

/-- LAUNCH_END: write-back first; once every posted store is performed, the records, the arrivals, the end. -/
def launchEndEvent (id : Nat) (s : State) : State :=
  match launchOf s id with
  | some l =>
    if !launchDone s l then s
    else
      let s1 := writeBackCtx s l.ctx
      if postsOpen s1 l.ctx then s1
      else withLines (ctxGaps s1 l.ctx true (endWrites l)) (fun s =>
        if !ctxRoom s l.ctx (endWrites l) then s
        else
          let s2 := arriveEnds (writeEnds s l) l
          { s2 with launches := s2.launches.filter (fun x => x.id != id) }) s1
  | none => s

def execLaunchEnd (launch : Nat) (s : State) : Outcome State Fault Refusal := .next (launchEndEvent launch s)

/-! ## KILL (08_isa_control R165, R166) -/

/-- The handler of class 7: none where the entry is zero, invalid or cannot be read. -/
def killHandler (s : State) (g : Gang) : Option Addr :=
  match vectorEntry s g.ctx 7 with
  | some h => if h = 0 ∨ 2 ^ 64 ≤ h then none else if pcOk g (BitVec.ofNat 64 h) then some (BitVec.ofNat 64 h) else none
  | none => none

/-- Every lane that has not exited enters the handler; the fault CSRs say KILL; where lanes wait or are Held, every yield bit clears (R166). -/
def killLanes (g : Gang) (h : Addr) : Gang :=
  let live := lanesWhere g (fun x => decide (x.st ≠ .exited))
  let c := { g.csr with fltcode := 0x70#32, fltmask := live, fltaddr := 0, fltpc := 0, fltorg := 0, tretpc := 0 }
  let parted := g.lanes.any (fun x => match x.st with
    | .waiting _ => true
    | .held => true
    | _ => false)
  let clear := fun x : Lane => if parted then { x with yield := false } else x
  let lanes := g.lanes.map (fun x => if x.st = .exited then clear x else clear { x with pc := h, st := .eligible })
  { g with csr := c, lanes := lanes, serial := [], trapLanes := live, handler := true, killed := true }

/-- KILL reaches a gang. -/
def killGang (s0 : State) (g0 : Gang) : State :=
  let gid := g0.gid
  let s := modGang s0 gid (fun g => { g with weight := [], blocked := none })
  if g0.dead then modGang s gid exitAll
  else if lanesWhere g0 (fun x => decide (x.st ≠ .exited)) = 0 then s
  else
    let s1 := drain s gid
    match gangOf s1 gid with
    | some g => match killHandler s1 g with
      | some h => park (setGang s1 (killLanes g h)) g
      | none => modGang s1 gid (fun g => { exitAll g with killed := true })
    | none => s1

/-- KILL, from firmware for the physical function (19_host_firmware R354); the vector table is read as a system-scope acquire (15_tables_counters
R290). -/
def killEvent (fn gid : Nat) (s : State) : State :=
  if fn ≠ 0 then tellHost s (.refused fn "KILL")
  else match gangOf s gid with
    | some g => withLines (vectorGaps s g.ctx 7) (fun s => killGang s g) s
    | none => s

def execKill (fn g : Nat) (s : State) : Outcome State Fault Refusal := .next (killEvent fn g s)

/-- KILL_HANDLER_TIMEOUT: a KILL handler that has not issued TRET within its bound is ended. -/
def killTimeout (gid : Nat) (s : State) : State := modGang s gid (fun g => if g.killed && g.handler then exitAll g else g)

def execKillHandlerTimeout (g : Nat) (s : State) : Outcome State Fault Refusal := .next (killTimeout g s)

/-! ## The stall watchdog (19_host_firmware R357) -/

/-- A gang that holds no Eligible lane and is not blocked, or that is blocked on a word. -/
def stalls (g : Gang) : Bool :=
  !g.dead && !g.away && (g.blocked.isSome || (decide (candOf g = 0) && g.lanes.any (fun x => decide (x.st ≠ .exited))))

/-- The PC reported: the least of the lanes that have not exited. -/
def stallPc (g : Gang) : Addr := (leastPc g (lanesOf (lanesWhere g (fun x => decide (x.st ≠ .exited))))).getD g.entry

def watchdogEvent (gid : Nat) (s : State) : State :=
  match gangOf s gid with
  | some g => if stalls g then tellHost s (.stalled g.launch g.blk (stallPc g)) else s
  | none => s

def execStallWatchdog (g : Nat) (s : State) : Outcome State Fault Refusal := .next (watchdogEvent g s)

end Sys2Proof.Machine
end

