-- ==== Sys2Proof/Machine/Cut.lean ====
section
/-! DEFINITION. The local cut (16_snapshot R300 to R307), the states of a colour and the messages that change them (R302, R303, R319 to R322),
requests served (R301). -/

namespace Sys2Proof.Machine

/-! ## Members and captured contexts -/

def colBit : Colour → Nat
  | .c0 => 0
  | .c1 => 1

/-- The package is a member of a group (R300, R301). -/
def memberOf (s : State) (grp : Nat) : Bool := decide (grp ≠ 0) && inGroup s grp s.fab.lid

/-- The group's other members that are not lost, ascending (R313, R322). -/
def otherMembers (s : State) (grp : Nat) : List Nat :=
  sortAsc ((s.pod.filter (fun e => e.sgrp == grp && e.lid != s.fab.lid && liveMember s e.lid)).map (·.lid))

def captured (s : State) (grp ctx : Nat) : Bool := decide (grp ≠ 0) && decide (ctxGroup s ctx = grp)

def blockCtx (s : State) (blk : Nat) : Nat :=
  match blockOf s blk with
  | some b => b.ctx
  | none => 0

def gangCtx (s : State) (gid : Nat) : Nat :=
  match gangOf s gid with
  | some g => g.ctx
  | none => 0

/-! ## Pages -/

/-- Indices of the entries of a table that are not zero, ascending: those with a listed byte, in memory or L2. -/
def tableEntries (s : State) (base n : Nat) : List Nat :=
  let inMem := (s.mem.filter (fun e => decide (base ≤ e.1) && decide (e.1 < base + 16 * n))).map (fun e => (e.1 - base) / 16)
  let inL2 := (s.l2.filter (fun r => !r.peer && decide (base < 128 * (r.line + 1)) && decide (128 * r.line < base + 16 * n))).flatMap
    (fun r => ((List.range 8).map (fun i => 128 * r.line + 16 * i)).filterMap
      (fun a => if base ≤ a ∧ a < base + 16 * n then some ((a - base) / 16) else none))
  sortAsc (inMem ++ inL2)

/-- The leaf entries under a table at a level: entry address, virtual address, bits, level (09_memories R172 to R174). -/
def leavesFrom (s : State) : Nat → Nat → Nat → List (Nat × Nat × BitVec 128 × Nat)
  | 0, _, _ => []
  | level + 1, base, va =>
    (tableEntries s base (if level = 3 then 131072 else 512)).flatMap (fun i =>
      let a := base + 16 * i
      let p := pteRead s a
      let v := va + i * 2 ^ (12 + 9 * level)
      if !pteV p then []
      else if pteLeaf p then (if leafOk s p (level + 1) then [(a, v, p, level + 1)] else [])
      else leavesFrom s level (pteFrame p % 2 ^ 45) v)

/-- The leaves of a context that it owns. -/
def ctxLeaves (s : State) (r : CtxRow) : List (Nat × Nat × BitVec 128 × Nat) :=
  (leavesFrom s 4 r.root 0).filter (fun e => pteOwner e.2.2.1 == r.id)

/-! ## Step 4: tags (R306) -/

def tagPage (c : Colour) (ctx : Nat) (s : State) (e : Nat × Nat × BitVec 128 × Nat) : State :=
  if !leafLocal s e.2.2.1 then s
  else
    let t : PageTag := { col := c, ctx := ctx, pte := e.1, va := e.2.1, frame := leafFrame e.2.1 e.2.2.1,
                         lines := leafBytes (pteSize e.2.2.1) / 128, done := [] }
    putPteBit { s with ptags := s.ptags ++ [t] } e.1 (ctBit c) true

def setMark1 (c : Colour) (v : Bool) (r : L1Line) : L1Line :=
  match c with
  | .c0 => { r with cap0 := v }
  | .c1 => { r with cap1 := v }

def setMark2 (c : Colour) (v : Bool) (r : L2Line) : L2Line :=
  match c with
  | .c0 => { r with cap0 := v }
  | .c1 => { r with cap1 := v }

/-- The units of captured contexts other than memory lines. -/
def largeUnits (s : State) (grp : Nat) : List CapUnit :=
  (s.banks.filter (fun r => captured s grp r.ctx)).map (fun r => .bank r.core r.idx) ++
    (s.ranges.filter (fun e => captured s grp e.2.2)).map (fun e => .range e.1 e.2.1) ++
    (s.slices.filter (fun r => captured s grp (gangCtx s (match r.st with
      | .held g => g
      | .claimed v _ => v)))).map (fun r => .slice r.core r.part r.idx) ++
    (s.saved.filter (fun x => captured s grp x.ctx)).flatMap (fun x => saveUnits x.key)

/-- A line's Dirty bytes that are pre-cut from this cut on (R310). -/
def setPre (c : Colour) (grp : Nat) (s : State) (r : L1Line) : L1Line :=
  let m := if captured s grp r.ctx then r.dirty else 0
  match c with
  | .c0 => { r with pre0 := m }
  | .c1 => { r with pre1 := m }

/-- A Dirty line whose bytes the image takes: of a captured context, its home in the group. -/
def markedLine (s : State) (grp ctx : Nat) (peer : Bool) (line : Nat) (dirty : BitVec 128) : Bool :=
  captured s grp ctx && decide (dirty ≠ 0) && (!peer || inGroup s grp (line * 128 / 2 ^ 45))

def tagLarge (c : Colour) (grp : Nat) (s : State) : State :=
  let tag := fun u : CapUnit => ({ col := c, unit := u } : Tag)
  let s1 := { s with tags := s.tags ++ (largeUnits s grp).map tag,
                     l1 := s.l1.map (fun r : L1Line => setPre c grp s (setMark1 c (markedLine s grp r.ctx r.peer r.line r.dirty) r)),
                     l2 := s.l2.map (fun r : L2Line => setMark2 c (r.peer && markedLine s grp r.ctx r.peer r.line r.dirty) r) }
  (s1.ctxs.filter (fun r => captured s grp r.id)).foldl (fun s r => (ctxLeaves s r).foldl (tagPage c r.id) s) s1

/-! ## Step 3: the eager state (R305) -/

/-- The units of a record, with their bytes and poison. -/
def recUnits (s : State) (r : RecRow) : List EagerItem :=
  (r.units.filter (fun u => u != spilledUnit)).map (fun u =>
    .unit r.wb r.core u (Sparse.window (if r.wb then s.wbuf else s.obuf) (bufKey r.core u 0) 1024)
      (psnWindow s.bufPsn (unitPsnKey r.wb r.core u) 256))

def accItem (s : State) (a : AccRow) : EagerItem :=
  .acc a (Sparse.window s.acc (accKey a.core a.bank 0) 32768) (psnWindow s.accPsn (accKey a.core a.bank 0 / 4) 8192)

/-- The eager records of one captured context. -/
def eagerCtx (s : State) (r : CtxRow) : List SnapRec :=
  let mine := fun blk : Nat => blockCtx s blk == r.id
  let recs := s.recs.filter (fun x => mine x.blk)
  let items : List EagerItem :=
    [.ctx r] ++ (ctxLeaves s r).map (fun e => .page r.id e.2.1 e.2.2.1 e.2.2.2) ++
      (s.launches.filter (fun l => l.ctx == r.id)).map .launch ++ (s.queues.filter (fun q => q.ctx == r.id)).map .queue ++
      (s.blocks.filter (fun b => b.ctx == r.id)).map .block ++
      ((s.blocks.filter (fun b => b.ctx == r.id)).map (fun b => EagerItem.split b.core ((s.splits.find? (fun e => e.1 == b.core)).map (·.2) |>.getD 0))) ++
      (s.slices.filter (fun x => match x.st with
        | .held g => gangCtx s g == r.id
        | .claimed v n => gangCtx s v == r.id || gangCtx s n == r.id)).map .sliceRow ++
      (s.gangs.filter (fun g => g.ctx == r.id)).map .gang ++ (s.ops.filter (fun o => o.ctx == r.id)).map .op ++
      recs.map .rcd ++ recs.flatMap (recUnits s) ++ (s.accs.filter (fun a => mine a.blk)).map (accItem s) ++
      (s.arrays.filter (fun a => match a.holder with
        | some g => gangCtx s g == r.id
        | none => false)).map .array ++
      (s.rings.filter (fun x => x.inuse && mine x.blk)).map .ring ++ (s.bars.filter (fun b => b.valid && b.owner == r.id)).map .bar ++
      (s.chunks.filter (fun k => s.launches.any (fun l => l.id == k.launch && l.ctx == r.id))).map .chunk
  items.map (fun x => .eager r.id x)

/-- The whole eager image of a group, its package records first. -/
def eagerImage (s : State) (grp : Nat) (seq : Word) : List SnapRec :=
  [SnapRec.eager 0 (.parity s.fab.par0 s.fab.par1), .eager 0 (.snids s.col0.snid s.col1.snid), .eager 0 (.cutSeq grp seq)] ++
    ((otherMembers s grp).map (fun m => .eager 0 (.chan (chanOf s m)))) ++
    (s.ctxs.filter (fun r => captured s grp r.id)).flatMap (eagerCtx s)

/-! ## The cut (R304) -/

def cutSeqOf (s : State) (grp : Nat) : Word :=
  match s.cutSeqs.find? (fun e => e.1 == grp) with
  | some e => e.2
  | none => 0

def setCutSeq (s : State) (grp : Nat) (v : Word) : State := { s with cutSeqs := (grp, v) :: s.cutSeqs.filter (fun e => e.1 != grp) }

def cutChan (c : Colour) (x : Chan) : Chan :=
  match c with
  | .c0 => { x with pre0 := x.send, log0 := true, tel0 := none }
  | .c1 => { x with pre1 := x.send, log1 := true, tel1 := none }

/-- Step 1, at the gateway (13_queues R269, 15_tables_counters R297). -/
def cutGateway (c : Colour) (grp : Nat) (s : State) : State :=
  let f := s.fab
  let f1 := match c with
    | .c0 => { f with par0 := !f.par0 }
    | .c1 => { f with par1 := !f.par1 }
  let s1 := { s with fab := f1 }
  (otherMembers s grp).foldl (fun s m => setChan s (cutChan c (chanOf s m))) (setCutSeq s1 grp (cutSeqOf s grp + 1))

/-- The operations in flight are pre-cut (R304). -/
def cutOp (c : Colour) (o : Op) : Op :=
  let o1 : Op := match c with
    | .c0 => { o with pre0 := true }
    | .c1 => { o with pre1 := true }
  let o2 := { o1 with pieces := o1.pieces.map (fun p : Piece => { p with psn := p.psn.filter (fun k => k != lateMark c) }) }
  match o2.kind with
  | .atom aop wide scope ord rem ret d gs =>
    let clear := fun x : AtomGroup => match c with
      | .c0 => { x with late0 := false }
      | .c1 => { x with late1 := false }
    { o2 with kind := .atom aop wide scope ord rem ret d (gs.map clear) }
  | _ => o2

/-- The step that a chunk stands at is a PULL. -/
def pulls (k : Chunk) : Bool := ((k.steps.getD [])[k.step]?).any (fun st => st.kind == 1)

/-- Copies of a chunk's PUSH or FLAG that this package sends itself are still on their way. -/
def ownCopies (lid : Nat) (k : Chunk) : Bool := k.closed && !pulls k && k.busy.any (fun b => b % 2048 == lid)

/-- Such copies in flight at the cut are channel state (18_fabric_collectives R352). -/
def cutChunk (c : Colour) (lid : Nat) (k : Chunk) : Chunk :=
  match c with
  | .c0 => { k with cut0 := ownCopies lid k }
  | .c1 => { k with cut1 := ownCopies lid k }

/-- A chunk's own copies that were sent before the cut and have not come. -/
def copiesDue (c : Colour) (lid : Nat) (k : Chunk) : Bool :=
  ownCopies lid k && (match c with
    | .c0 => k.cut0
    | .c1 => k.cut1)

/-- The payload of a telltale: COUNT, ID, SEQ, zero, GROUP, zero, INIT, COL from the high end (R313). -/
def tellPayload (count id seq : Word) (grp : Nat) (init : Bool) (c : Colour) : BitVec 128 :=
  count ++ id ++ seq ++ 0#16 ++ BitVec.ofNat 8 grp ++ 0#6 ++ BitVec.ofBool init ++ BitVec.ofNat 1 (colBit c)

/-- The telltale to a member (R313). -/
def sendTelltale (c : Colour) (grp : Nat) (init : Bool) (s : State) (m : Nat) : State :=
  let x := chanOf s m
  sendPkt s (pktOf s m 11 1 0 (.tell (tellPayload (match c with
    | .c0 => x.pre0
    | .c1 => x.pre1) (colRow s c).snid (cutSeqOf s grp) grp init c)))

/-- Packets of atomic requests of members whose other packets have not come: they were sent before the cut and stand in the channel (R315; log
entry 75). -/
def partRecs (s : State) (grp : Nat) : List SnapRec :=
  (s.fab.parts.filter (fun p => decide (p.cls = 7#4) && (otherMembers s grp).contains p.src)).map (fun p => .packet p.src p.seq p true)

/-- The cut clock, and the telltales of the next: colour, group, id, whether it comes from an accepted request (R304, R313) (log entry 46, DEDUCED). -/
def takeCut (c : Colour) (grp : Nat) (id : Word) (init : Bool) (s0 : State) : State :=
  let s := cutGateway c grp s0
  let s1 := { s with ops := s.ops.map (cutOp c), chunks := s.chunks.map (cutChunk c s.fab.lid) }
  let s2 := modCol s1 c (fun r => { r with snid := id })
  let row : ColourRow := { st := .capturing, snid := id, group := grp, seq := cutSeqOf s2 grp, ever := true, init := init,
                           inits := if init then [(s2.fab.lid, id)] else [], stream := eagerImage s2 grp (cutSeqOf s2 grp) ++ partRecs s2 grp, root := none,
                           aborts := [], reports := [], acks := [], grp := 1 }
  (otherMembers s0 grp).foldl (sendTelltale c grp init) (tagLarge c grp (setCol s2 c row))

/-- The engines' rows of a colour (13_queues R271). -/
def modHalyard (s : State) (c : Colour) (f : HalRow → HalRow) : State :=
  { s with halyard := s.halyard.map (fun h => if h.col = c then f h else h) }

/-- A row of one die. -/
def modHalDie (s : State) (die : Nat) (c : Colour) (f : HalRow → HalRow) : State :=
  modHalyard s c (fun h => if h.die = die then f h else h)

/-! ## A colour's end (R303, R319 to R322) -/

def telOff (c : Colour) (x : Chan) : Chan :=
  match c with
  | .c0 => { x with tel0 := none, log0 := false }
  | .c1 => { x with tel1 := none, log1 := false }

/-- No byte of an L1 line counts as pre-cut any more. -/
def clearPre (c : Colour) (r : L1Line) : L1Line :=
  match c with
  | .c0 => { r with pre0 := 0 }
  | .c1 => { r with pre1 := 0 }

/-- Tags, marks, logging flags, telltale counts and queues of a colour cleared (R322, R269). -/
def clearColour (c : Colour) (s : State) : State :=
  let s1 := (s.ptags.filter (fun t => decide (t.col = c))).foldl (fun s t => putPteBit s t.pte (ctBit c) false) s
  { s1 with ptags := s1.ptags.filter (fun t => decide (t.col ≠ c)), tags := s1.tags.filter (fun t => decide (t.col ≠ c)),
            l1 := s1.l1.map (fun r => clearPre c (setMark1 c false r)), l2 := s1.l2.map (setMark2 c false), capQ := s1.capQ.filter (fun e => decide (e.2.1 ≠ c)),
            fab := { s1.fab with chans := s1.fab.chans.map (telOff c) } }

/-- The image of a colour's current snapshot at its target. -/
def isImage (r : ColourRow) (s : State) (m : Image) : Bool := m.group == r.group && m.id == r.snid && m.lid == s.fab.lid

def markImage (c : Colour) (v : Bool) (s : State) : State :=
  let r := colRow s c
  { s with images := s.images.map (fun m => if isImage r s m then { m with complete := v } else m) }

/-- COMMIT (R321): the colour is FREE. -/
def commitHere (c : Colour) (s : State) : State :=
  if (colRow s c).st = .freePending then modCol (clearColour c s) c (fun r => { r with st := .free, stream := [] }) else s

/-- At the coordinator, every live member's acknowledgement has come. -/
def allAcked (c : Colour) (s : State) : Bool :=
  let r := colRow s c
  decide (r.st = .freePending) && decide (coordinatorOf s c = s.fab.lid) && (s.fab.lid :: otherMembers s r.group).all (fun m => r.acks.contains m)

/-- COMMIT goes to the other members then (R321). -/
def commitCheck (c : Colour) (s : State) : State :=
  if allAcked c s then (otherMembers s (colRow s c).group).foldl (fun s m => sendCoord s m 2 c 0 false 0 0) s else s

/-- The coordinator takes a member's acknowledgement of FREE. -/
def ackFrom (c : Colour) (m : Nat) (s : State) : State := commitCheck c (modCol s c (fun r => { r with acks := insertAsc m r.acks }))

/-- States from which a colour is aborted: those of R303, and DURABLE in a group that is not DURABLE (log entry 45, DEDUCED). -/
def abortable (r : ColourRow) : Bool :=
  decide (r.st = .capturing) || decide (r.st = .localDone) || decide (r.st = .coPowered) || (decide (r.st = .durable) && decide (r.grp ≠ 3))

/-- Abort of a colour on this package (R322); a DURABLE member of a group that is not DURABLE is aborted with the rest. -/
def abortLocal (c : Colour) (s : State) : State :=
  let r := colRow s c
  if abortable r then modCol (clearColour c s) c (fun r => { r with st := .aborted, stream := [], grp := 6, aborts := insertAsc s.fab.lid r.aborts }) else s

/-- The acknowledgement of FREE. -/
def ackFree (c : Colour) (s : State) : State :=
  if coordinatorOf s c = s.fab.lid then ackFrom c s.fab.lid s else sendCoord s (coordinatorOf s c) 1 c 0 false 0 0

/-- FREE reaches this package (R321, R322): FREE_PENDING, and its acknowledgement, which a successor's FREE meets again. -/
def freeHere (c : Colour) (s0 : State) : State :=
  let s := if (colRow s0 c).st = .durable then s0 else abortLocal c s0
  let r := colRow s c
  if r.st = .durable ∨ r.st = .aborted then
    ackFree c (modCol (if r.st = .durable then markImage c true s else s) c (fun r => { r with st := .freePending, grp := if r.st = .durable then 3 else r.grp }))
  else if r.st = .free ∨ r.st = .freePending then ackFree c s
  else s

/-- FREE to the other members; the coordinator's own FREE and COMMIT are events of their own (24_prog_colours R379). -/
def sendFree (c : Colour) (s : State) : State :=
  (otherMembers s (colRow s c).group).foldl (fun s m => sendCoord s m 0 c 0 false 0 0) s

/-- An abort that begins here reaches every live member (R322) (log entry 45, DEDUCED). -/
def tellAbort (c : Colour) (s : State) : State :=
  (otherMembers s (colRow s c).group).foldl (fun s m => sendCoord s m 6 c 0 false 6 0) (abortLocal c s)

/-- Members of a group, lost ones among them. -/
def allMembers (s : State) (grp : Nat) : List Nat := (s.pod.filter (fun e => e.sgrp == grp && decide (e.st ≠ .absent))).map (·.lid)

/-- A member's image is reported durable. -/
def reportedDurable (r : ColourRow) (m : Nat) : Bool := r.reports.any (fun e => e.1 == m && e.2.2)

/-- The group is known to be DURABLE: every member has reported so, or one has been freed already (R321). -/
def groupDurable (s : State) (r : ColourRow) : Bool := (allMembers s r.group).all (reportedDurable r) || decide (r.acks ≠ [])

/-- The live members hold the colour ABORTED: FREE goes out (R322). -/
def freeAborted (c : Colour) (s : State) : State :=
  let r := colRow s c
  if decide (r.st = .aborted) && (s.fab.lid :: otherMembers s r.group).all (fun m => r.aborts.contains m) then sendFree c s else s

/-- The coordinator records the group's image as complete and sends FREE once every member is DURABLE, or sends FREE once every live one holds the
colour ABORTED; where a member is lost and its image was never reported durable, the colour is aborted (R321, R322) (log entry 45, DEDUCED). -/
def freeCheck (c : Colour) (s : State) : State :=
  let r := colRow s c
  if coordinatorOf s c ≠ s.fab.lid then s
  else if r.st = .durable ∧ r.grp ≠ 3 then
    (if groupDurable s r then sendFree c (markImage c true (modCol s c (fun r => { r with grp := 3 })))
     else if (s.fab.lid :: otherMembers s r.group).all (reportedDurable r) then freeAborted c (tellAbort c s)
     else s)
  else freeAborted c s

/-- The coordinator takes a member's report: root digest, durability (R319, R321). -/
def reportFrom (c : Colour) (m : Nat) (digest : BitVec 256) (durable : Bool) (s : State) : State :=
  freeCheck c (modCol s c (fun r => { r with reports := (m, digest, durable) :: r.reports.filter (fun e => e.1 != m) }))

/-- The coordinator learns that a member holds the colour ABORTED. -/
def abortedAt (c : Colour) (m : Nat) (s0 : State) : State :=
  let s := modCol s0 c (fun r => { r with aborts := insertAsc m r.aborts })
  if coordinatorOf s c = s.fab.lid ∧ abortable (colRow s c) = true then freeAborted c (tellAbort c s) else freeCheck c s

/-- This package's report to the coordinator. -/
def reportHere (c : Colour) (durable : Bool) (s : State) : State :=
  let r := colRow s c
  let co := coordinatorOf s c
  if co = s.fab.lid then reportFrom c co (r.root.getD 0) durable s else sendCoord s co 3 c (r.root.getD 0) durable 0 r.snid

/-- The colour aborted here, and the coordinator told. -/
def abortHere (c : Colour) (s : State) : State :=
  let s1 := abortLocal c s
  if (colRow s1 c).st = .aborted ∧ (colRow s c).st ≠ .aborted then
    (if coordinatorOf s1 c = s1.fab.lid then freeCheck c s1 else sendCoord s1 (coordinatorOf s1 c) 7 c 0 false 6 0)
  else s1

/-- An abort that begins here: every live member hears of it, and the coordinator that this one holds the colour ABORTED. -/
def abortGroup (c : Colour) (s : State) : State :=
  if !abortable (colRow s c) then s
  else
    let s1 := tellAbort c s
    if coordinatorOf s1 c = s1.fab.lid then freeAborted c s1 else sendCoord s1 (coordinatorOf s1 c) 7 c 0 false 6 0

/-- A member is marked failed (R322): a colour that is not DURABLE here is aborted; the coordinator that is DURABLE aborts where the group is not.
`led`: the member that is marked coordinated the snapshot, whose successor asks how the others stand first. -/
def memberFailed (lid : Nat) (led : Bool) (c : Colour) (s : State) : State :=
  let r := colRow s c
  if r.st = .free ∨ inGroup s r.group lid = false then s
  else if r.st = .durable then (if coordinatorOf s c = s.fab.lid ∧ led = false then abortGroup c s else s)
  else abortHere c s

/-- A member is lost (10_consistency R208): a lost coordinator's successor is told where this member stands, and sends what the lost one may not have sent
(R322). `led`: the lost member coordinated the snapshot. -/
def memberLost (lid : Nat) (led : Bool) (c : Colour) (s : State) : State :=
  let r := colRow s c
  let co := coordinatorOf s c
  if r.st = .free ∨ inGroup s r.group lid = false then s
  else if co = s.fab.lid then
    (if led && decide (r.st = .freePending) then ackFree c (sendFree c s)
     else if led && decide (r.st = .durable) then reportHere c true s
     else commitCheck c (freeCheck c s))
  else if !led then s
  else match r.st with
    | .durable => reportHere c true s
    | .aborted => sendCoord s co 7 c 0 false 6 0
    | .freePending => sendCoord s co 1 c 0 false 0 0
    | _ => s

/-- The answer to the SNAPQ that asked under a number (17_isa_sync_system R340). -/
def snapqAnswer (c : Colour) (tok : Word) (v : Nat) (s : State) : State :=
  { s with ops := s.ops.map (fun o => match o.kind with
      | .snapq kd pd col true none => if col = c ∧ BitVec.ofNat 32 o.id = tok then { o with kind := .snapq kd pd col true (some v) } else o
      | _ => o) }

/-- The SNAPQ words that still await a coordinator's answer. -/
def snapqAsks (s : State) (c : Colour) : List Nat :=
  (s.ops.filter (fun o => match o.kind with
    | .snapq _ _ col true none => decide (col = c)
    | _ => false)).map (·.id)

/-- Questions whose coordinator is lost, or first known, go to the coordinator that there is, which may be this package (17_isa_sync_system R340). -/
def askSuccessor (c : Colour) (s : State) : State :=
  (snapqAsks s c).foldl (fun s id =>
    if ledKnown s c && decide (coordinatorOf s c = s.fab.lid) then snapqAnswer c (BitVec.ofNat 32 id) (groupState s c) s else askState c id s) s

/-! ## Requests (R301, 17_isa_sync_system R338, R339) -/

/-- The answer to whoever asked; an operation's waits for SNAP_COMPLETE. -/
def answerSnap (src : SnapSrc) (ans : Word) (s : State) : State :=
  match src with
  | .op id => modOp s id (fun o => match o.kind with
    | .snap kd pd i g _ => { o with kind := .snap kd pd i g (some ans) }
    | _ => o)
  | .host ctx => tellHost s (.snapshot ctx ans)
  | .policy => tellHost s (.snapshot 0 ans)

/-- The context that a request comes from. -/
def srcCtx (s : State) (r : SnapReq) : Option CtxRow :=
  match r.src with
  | .op id => (opOf s id).bind (fun o => ctxRow s o.ctx)
  | .host ctx => ctxRow s ctx
  | .policy => none

/-- The rights that firmware holds for the context of a request cover its group. -/
def snapCovered (s : State) (r : SnapReq) : Bool :=
  decide (r.src = .policy) || (srcCtx s r).any (fun x => x.right && x.group == r.group)

/-- The lowest FREE colour. -/
def freeColour (s : State) : Option Colour :=
  if s.col0.st = .free then some .c0 else if s.col1.st = .free then some .c1 else none

/-- A request that exceeds the rate its context's rights bound: the least time since the last one accepted has not passed. -/
def rateBound (s : State) (r : SnapReq) : Bool := (srcCtx s r).any (fun x => x.recent && decide (x.rate ≠ 0))

/-- The least time begins that an accepted request's context must let pass. -/
def noteRate (s : State) (r : SnapReq) : State :=
  match srcCtx s r with
  | some x => modCtx s x.id (fun y => { y with recent := decide (y.rate ≠ 0) })
  | none => s

/-- The cut of an accepted request: status 0x00 with its colour, in the cut clock; a SNAP completes before the eager copy (17_isa_sync_system R339;
log entry 44, DESIGN CHOICE). -/
def cutServed (c : Colour) (r : SnapReq) (s0 : State) : State :=
  let s := { s0 with snapAcc := none }
  let ans := BitVec.ofNat 32 (256 * colBit c)
  takeCut c r.group r.id true (match r.src with
    | .op id => (match opOf s id with
      | some o => (match o.kind with
        | .snap kd pd _ _ _ => snapDone s o kd pd ans
        | _ => s)
      | none => s)
    | _ => answerSnap r.src ans s)

/-- SNAPSHOT_REQUEST: the cut of the request that has been accepted; otherwise the first request is refused, or accepted with the lowest FREE
colour (R301; log entry 44, DESIGN CHOICE). -/
def serveRequest (s0 : State) : State :=
  match s0.snapAcc with
  | some (r, c) => cutServed c r s0
  | none => match s0.snapReqs with
    | [] => s0
    | r :: rest =>
      let s := { s0 with snapReqs := rest }
      if !memberOf s r.group then answerSnap r.src 2 s
      else if !snapCovered s r || rateBound s r then answerSnap r.src 3 s
      else match freeColour s with
        | none => answerSnap r.src 1 s
        | some c => { noteRate s r with snapAcc := some (r, c) }

end Sys2Proof.Machine
end

