-- ==== Sys2Proof/Machine/Lms.lean ====
section
/-! DEFINITION. Verification of an LMS signature (19_host_firmware R359: NIST SP 800-208, parameter set LMS_SHA256_M32_H20 with
LM-OTS_SHA256_N32_W8). The algorithm and the layouts are those of that standard (log entry 77, PRESUMED). -/

namespace Sys2Proof.Machine

/-- A digest as bytes. -/
def shaBytes (bs : List Byte) : List Byte := beBytes (sha256 bs).toNat 32

/-- The type numbers of the parameter set: LMS_SHA256_M32_H20 and LM-OTS_SHA256_N32_W8. -/
def lmsType : List Byte := beBytes 8 4
def otsType : List Byte := beBytes 4 4

/-- Height of a tree, chains of a one-time key, bytes of a signature. -/
def lmsHeight : Nat := 20
def otsChains : Nat := 34
def lmsSigBytes : Nat := 1772

/-- `n` links of chain `i` of leaf `q`, from link `j` on. -/
def otsChain (id : List Byte) (q i : Nat) : Nat → Nat → List Byte → List Byte
  | 0, _, t => t
  | n + 1, j, t => otsChain id q i n (j + 1) (shaBytes (id ++ beBytes q 4 ++ beBytes i 2 ++ beBytes j 1 ++ t))

/-- The digits of a message that the chains sign: its digest's bytes and their checksum's. -/
def otsDigits (id : List Byte) (q : Nat) (c msg : List Byte) : List Byte :=
  let d := shaBytes (id ++ beBytes q 4 ++ [0x81#8, 0x81#8] ++ c ++ msg)
  d ++ beBytes (d.foldl (fun n b => n + (255 - b.toNat)) 0) 2

/-- The one-time public key that a signature leads to. -/
def otsKey (id : List Byte) (q : Nat) (c : List Byte) (ys : List (List Byte)) (msg : List Byte) : List Byte :=
  let ends := List.zipWith (fun (a : Byte × Nat) y => otsChain id q a.2 (255 - a.1.toNat) a.1.toNat y) (otsDigits id q c msg).zipIdx ys
  shaBytes (id ++ beBytes q 4 ++ [0x80#8, 0x80#8] ++ ends.flatten)

/-- From a node up its path to the root. -/
def lmsClimb (id : List Byte) : List (List Byte) → Nat → List Byte → List Byte
  | [], _, t => t
  | p :: ps, n, t =>
    lmsClimb id ps (n / 2) (shaBytes (id ++ beBytes (n / 2) 4 ++ [0x83#8, 0x83#8] ++ (if n % 2 = 1 then p ++ t else t ++ p)))

/-- The leaf that a signature names. -/
def lmsLeaf (sig : List Byte) : Nat := beNat (slice sig 0 4)

/-- The root of the tree that a signature of a message leads to: leaf number, type, randomizer, chains, type, path. -/
def lmsRoot (id msg sig : List Byte) : List Byte :=
  let q := lmsLeaf sig
  let k := otsKey id q (slice sig 8 32) (chunksOf 32 otsChains (slice sig 40 1088)) msg
  lmsClimb id (chunksOf 32 lmsHeight (slice sig 1132 640)) (2 ^ lmsHeight + q) (shaBytes (id ++ beBytes (2 ^ lmsHeight + q) 4 ++ [0x82#8, 0x82#8] ++ k))

/-- The shape of a signature under the parameter set. -/
def lmsShape (sig : List Byte) : Bool :=
  decide (sig.length = lmsSigBytes) && decide (lmsLeaf sig < 2 ^ lmsHeight) && decide (slice sig 4 4 = otsType) && decide (slice sig 1128 4 = lmsType)

/-- A public key: types, tree identifier, root. -/
def lmsKey (id root : List Byte) : List Byte := lmsType ++ otsType ++ id ++ root

/-- The signature of a message verifies under a public key. -/
def lmsValid (key msg sig : List Byte) : Bool :=
  decide (key.length = 56) && lmsShape sig && decide (key = lmsKey (slice key 8 16) (lmsRoot (slice key 8 16) msg sig))

end Sys2Proof.Machine
end

