-- ==== Sys2Proof/Machine/Device.lean ====
section
/-! DEFINITION. The device's boundary: start-up, supply, power and temperature, firmware images, attestation, policies, health monitor,
contexts, the pod map, group descriptors, invalidations, the host's writes, evictions (19_host_firmware; 01_device R18, R19; 09_memories R176;
15_tables_counters R291; 18_fabric_collectives R346). -/

namespace Sys2Proof.Machine

open Host (Outcome)

/-! ## Start-up and supply (R359, R363) -/

/-- A byte of the CXL window that holds part of an image. -/
def inImages (s : State) (a : Nat) : Bool :=
  s.images.any (fun m => m.places.any (fun p => match p.1 with
    | .cxl base _ => decide (base + p.2 ≤ a) && decide (a < base + p.2 + m.size)
    | _ => false))

/-- The package after its supply comes or goes: everything at reset, but the masthead's banks, the fuses, the identity, the leaf counter, the images that
targets hold, and the model's own counters (log entry 57, DEDUCED). -/
def afterSupply (s : State) (on : Bool) : State :=
  { State.reset with agenda := s.agenda, clock := s.clock, fresh := s.fresh, images := s.images,
                     mem := s.mem.filter (fun e => inImages s e.1),
                     boot := { Boot.reset with bankA := s.boot.bankA, bankB := s.boot.bankB, fuse := s.boot.fuse, ident := s.boot.ident, tree := s.boot.tree,
                                               leaf := s.boot.leaf },
                     power := { State.reset.power with on := on } }

/-- An image verifies: its key is the fused one, its signature holds, and a firmware core's 1 MiB takes it (R359, 01_device R20). -/
def fwOk (fuse : BitVec 256) (i : FwImage) : Bool :=
  lmsValid i.key i.bytes i.sig && decide (sha256 i.key = fuse) && decide (i.bytes.length ≤ 2 ^ 20)

/-- An image loaded later verifies. -/
def fwTaken (s : State) (i : FwImage) : Bool := fwOk s.boot.fuse i

/-- The masthead image that step 1 finds, bank A's before bank B's, and whether it is bank B's. -/
def bootImage (b : Boot) : Option (FwImage × Bool) :=
  match b.bankA.filter (fwOk b.fuse), b.bankB.filter (fwOk b.fuse) with
  | some i, _ => some (i, false)
  | none, some i => some (i, true)
  | none, none => none

/-- Banks, fuses and identity as they stand when the supply comes: manufacture gives fuses that are not blown, and the identity, once. -/
def bankFacts (f : BootFacts) (b : Boot) : Boot :=
  { b with bankA := f.bankA.or b.bankA, bankB := f.bankB.or b.bankB, fuse := if b.fuse = 0 then f.fuse else b.fuse,
           ident := if b.fuse = 0 then f.ident else b.ident }

/-- Expanders mapped one after the other into the window, as far as it reaches (R355). -/
def mapExpanders : Nat → List Nat → List (Nat × Nat)
  | _, [] => []
  | base, n :: ns => (base, min n (Config.cxlEnd - base)) :: mapExpanders (base + min n (Config.cxlEnd - base)) ns

/-- The target descriptors of the dies' halyard engines, as firmware sets them up (13_queues R271). -/
def bootHalyard (f : BootFacts) : List HalRow :=
  let rows := fun (c : Colour) (t : Option TargetDesc) => match t with
    | some d => (List.range 4).map (fun die => ({ die := die, col := c, desc := d, copy := none, subm := 0, comp := 0 } : HalRow))
    | none => []
  rows .c0 f.target0 ++ rows .c1 f.target1

/-- The step that stops the sequence, 0 for none. -/
def bootFails (b : Boot) (f : BootFacts) : Nat :=
  if (bootImage b).isNone then 1
  else if f.spars.length ≠ 16 ∨ f.spars.any (fun i => !fwOk b.fuse i) = true then 2
  else if 3 ≤ f.failStep ∧ f.failStep ≤ 7 then f.failStep else 0

/-- POWER_ON_RESET: the sequence runs to the ready report or to the step that fails; at most 16 expanders are mapped (R355). -/
def bootUp (f : BootFacts) (s0 : State) : State :=
  let s := afterSupply s0 true
  let b0 := bankFacts f s.boot
  let k := bootFails b0 f
  let es := if k = 0 ∨ 6 < k then mapExpanders Config.cxlBase (f.expanders.take 16) else []
  let b := { b0 with step := if k = 0 then 8 else k - 1, failed := k, recovery := k == 1, masthead := (bootImage b0).map (·.1),
                     inB := (bootImage b0).any (·.2), spars := if k = 0 ∨ 2 < k then f.spars else [], cxlBytes := (es.map (·.2)).sum, expanders := es }
  let t := { s with boot := b, fab := { s.fab with phys := b.ident.phys } }
  if k = 0 then { t with halyard := bootHalyard f } else tellHost t (.bootFailed k)

def execPowerOnReset (f : BootFacts) (s : State) : Outcome State Fault Refusal := .next (bootUp f s)

/-- POWER_LOSS. -/
def execPowerLoss (s : State) : Outcome State Fault Refusal := .next (afterSupply s false)

/-- RECOVERY_IMAGE_LOAD: only where both masthead banks failed; the image goes into bank A, and the next power-on reset starts from it (log entry 27,
DESIGN CHOICE). -/
def recoveryEvent (img : FwImage) (s : State) : State :=
  if !s.boot.recovery then s
  else if fwTaken s img then { s with boot := { s.boot with recovery := false, masthead := some img, bankA := some img, inB := false } }
  else tellHost s (.refused 0 "image")

def execRecoveryImageLoad (img : FwImage) (s : State) : Outcome State Fault Refusal := .next (recoveryEvent img s)

/-- The device has reported ready: its functions serve requests. -/
def ready (s : State) : Bool := decide (s.boot.step = 8)

/-- What a function asks, if it may; a request outside its row is refused and changes nothing (R354) (log entry 54, DEDUCED). -/
def askedBy (may : Bool) (fn : Nat) (what : String) (f : State → State) (s : State) : State :=
  if !ready s then s else if may then f s else tellHost s (.refused fn what)

/-! ## Power and temperature (R358) -/

def stepDown (s : State) : State := { s with power := { s.power with reef := min 3 (s.power.reef + 1), cool := 0 } }

/-- A junction at or above 115 °C: 1.5 GHz is held and the alarm raised. -/
def holdLow (s : State) : State :=
  tellHost { s with power := { s.power with reef := 3, cool := 0, alarm := true } } .alarm

/-- What a junction alone brings: a step down from 105 °C on, 1.5 GHz and the alarm from 115 °C on, the shutdown from 125 °C on. -/
def hotJunction (j : Int) (s : State) : State :=
  if 125 ≤ j then (let t := holdLow s; { t with power := { t.power with shut := true } })
  else if 115 ≤ j then holdLow s
  else if 105 ≤ j then stepDown s
  else s

/-- One 1 ms window. -/
def windowEvent (watts : Nat) (j : Int) (s : State) : State :=
  let p := s.power
  if 115 ≤ j then hotJunction j s
  else if s.policies.powerCeiling < watts ∨ 105 ≤ j then stepDown { s with power := { p with alarm := false } }
  else if 10 * watts < 9 * s.policies.powerCeiling ∧ j < 100 then
    (if p.cool + 1 = 10 then { s with power := { p with reef := p.reef - 1, cool := 0, alarm := false } }
     else { s with power := { p with cool := p.cool + 1, alarm := false } })
  else { s with power := { p with cool := 0, alarm := false } }

def execPowerWindow (watts : Nat) (junction : Int) (s : State) : Outcome State Fault Refusal := .next (windowEvent watts junction s)

def execJunctionHot (junction : Int) (s : State) : Outcome State Fault Refusal :=
  .next (hotJunction junction s)

def execThermalAlarm (junction : Int) (s : State) : Outcome State Fault Refusal :=
  .next (if 115 ≤ junction then hotJunction junction s else s)

/-- THERMAL_SHUTDOWN: the package stops whole. -/
def execThermalShutdown (junction : Int) (s : State) : Outcome State Fault Refusal :=
  .next (if 125 ≤ junction then hotJunction junction s else s)

/-! ## Firmware images and attestation (R359, R360, R362) -/

/-- LOAD_SPAR_IMAGE for virtual function `vf`: a verified image replaces the running one. -/
def sparEvent (fn vf : Nat) (img : FwImage) (s0 : State) : State :=
  askedBy (fn == 0 && decide (1 ≤ vf) && decide (vf ≤ 16) && fwTaken s0 img) fn "spar image"
    (fun s => { s with boot := { s.boot with spars := setAt s.boot.spars (vf - 1) img } }) s0

def execLoadSparImage (fn vf : Nat) (img : FwImage) (s : State) : Outcome State Fault Refusal := .next (sparEvent fn vf img s)

/-- MASTHEAD_HANDOVER: the image is loaded into the inactive bank and runs from it; the dispatcher, the request queue and the time slices pass whole. -/
def handoverEvent (fn : Nat) (img : FwImage) (s0 : State) : State :=
  askedBy (fn == 0 && fwTaken s0 img) fn "masthead image" (fun s =>
    { s with boot := { s.boot with masthead := some img, inB := !s.boot.inB, bankA := if s.boot.inB then some img else s.boot.bankA,
                                   bankB := if s.boot.inB then s.boot.bankB else some img } }) s0

def execMastheadHandover (fn : Nat) (img : FwImage) (s : State) : Outcome State Fault Refusal := .next (handoverEvent fn img s)

/-- The next leaf; the last of a tree leads to the next tree. -/
def advanceLeaf (b : Boot) : Boot :=
  if b.leaf + 1 = Config.leaves then { b with tree := b.tree + 1, leaf := 0 } else { b with leaf := b.leaf + 1 }

/-- The digests of the running images, the masthead's first. -/
def imageDigests (b : Boot) : List (BitVec 256) := (b.masthead.toList ++ b.spars).map (fun i => sha256 i.bytes)

/-- The revision of the pod map: the latest that an entry belongs to (15_tables_counters R291). -/
def mapEpoch (s : State) : Nat := s.pod.foldl (fun n e => max n e.epoch) 0

/-- What the signature of a report covers (R360): nonce, tree, leaf, the images' digests, EPOCH, reef level and ceiling. -/
def reportMessage (nonce : BitVec 256) (tree leaf : Nat) (digests : List (BitVec 256)) (epoch reef ceiling : Nat) : List Byte :=
  beBytes nonce.toNat 32 ++ beBytes tree 4 ++ beBytes leaf 4 ++ digests.flatMap (fun d => beBytes d.toNat 32) ++ beBytes epoch 4 ++ beBytes reef 4 ++
    beBytes ceiling 4

/-- The LMS signature of a message under a tree's key: the leaf and the types of the parameter set; the rest is a free value. -/
def reportSig (key : List Byte) (leaf : Nat) (msg : List Byte) : List Byte :=
  let v := leBytes (Config.signature key leaf msg).toNat 1760
  beBytes leaf 4 ++ otsType ++ v.take 1120 ++ lmsType ++ v.drop 1120

/-- READ_ATTESTATION_REPORT: the counter advances, then the report is released; its signature is a free value (log entry 12, DESIGN CHOICE). -/
def reportEvent (fn : Nat) (nonce : BitVec 256) : State → State :=
  askedBy (decide (fn ≤ 16)) fn "report" (fun s =>
    let b := s.boot
    if Config.trees ≤ b.tree then tellHost s (.keyExhausted fn)
    else
      let e := mapEpoch s
      let msg := reportMessage nonce b.tree b.leaf (imageDigests b) e s.power.reef s.policies.powerCeiling
      tellHost { s with boot := advanceLeaf b }
        (.report fn nonce b.tree b.leaf (imageDigests b) e s.power.reef s.policies.powerCeiling (reportSig (b.ident.keys.getD b.tree []) b.leaf msg)))

def execReadAttestationReport (fn : Nat) (nonce : BitVec 256) (s : State) : Outcome State Fault Refusal := .next (reportEvent fn nonce s)

/-! ## Policies and the health monitor (R356, R361) -/

/-- Range of a policy, in watts, microseconds, hours, slices or weights; the snapshot interval is off at 0 (log entry 62, DEDUCED). -/
def policyOk (p : Policy) (vf v : Nat) : Bool :=
  let within := fun (lo hi : Nat) => decide (lo ≤ v) && decide (v ≤ hi)
  match p with
  | .powerCeiling => within 1000 3000
  | .lostPeerBound => within 50 1000000
  | .linkInterval => within 100 10000000
  | .killBound => within 1000 10000000
  | .stallInterval => within 1000000 3600000000
  | .durabilityBound => within 1000000 3600000000
  | .snapInterval => decide (v = 0) || within 300000000 86400000000
  | .scrubPass => within 1 168
  | .spliceCeiling => within 256 2048
  | .sliceLength => decide (vf < 17) && within 100 1000000
  | .sliceWeight => decide (vf < 17) && within 1 255

def putPolicy (q : Policies) (p : Policy) (vf v : Nat) : Policies :=
  match p with
  | .powerCeiling => { q with powerCeiling := v }
  | .lostPeerBound => { q with lostPeerBound := v }
  | .linkInterval => { q with linkInterval := v }
  | .killBound => { q with killBound := v }
  | .stallInterval => { q with stallInterval := v }
  | .durabilityBound => { q with durabilityBound := v }
  | .snapInterval => { q with snapInterval := v }
  | .scrubPass => { q with scrubPass := v }
  | .spliceCeiling => { q with spliceCeiling := v }
  | .sliceLength => { q with sliceLength := setAt q.sliceLength vf v }
  | .sliceWeight => { q with sliceWeight := setAt q.sliceWeight vf v }

def policyEvent (fn : Nat) (p : Policy) (vf value : Nat) : State → State :=
  askedBy (fn == 0 && policyOk p vf value) fn "policy" (fun s => { s with policies := putPolicy s.policies p vf value })

def execSetFirmwarePolicy (fn : Nat) (p : Policy) (vf value : Nat) (s : State) : Outcome State Fault Refusal :=
  .next (policyEvent fn p vf value s)

/-- The risk level: the worst of the three inputs (R361). -/
def riskLevel (h : HealthInputs) : Nat :=
  let a := if h.ecc < 10 then 0 else if h.ecc < 100 then 1 else if h.ecc < 1000 then 2 else 3
  let b := if h.retrains < 2 then 0 else if h.retrains < 10 then 1 else if h.retrains < 50 then 2 else 3
  let c := if h.junction < 95 then 0 else if h.junction < 105 then 1 else if h.junction < 115 then 2 else 3
  max a (max b c)

/-- HEALTH_MONITOR_TICK: the level; a policy snapshot once the base interval divided by 2^level has passed. -/
def healthEvent (h : HealthInputs) (s : State) : State :=
  let s1 := { s with power := { s.power with risk := riskLevel h } }
  if decide (s.policies.snapInterval ≠ 0) && decide (s.policies.snapInterval ≤ h.elapsed * 2 ^ riskLevel h) then
    { s1 with snapReqs := s1.snapReqs ++ [{ src := .policy, group := h.group, id := h.id }] }
  else s1

def execHealthMonitorTick (h : HealthInputs) (s : State) : Outcome State Fault Refusal := .next (healthEvent h s)

/-! ## Errors (09_memories R188) -/

/-- The context whose page a local address lies in. -/
def pageHolder (s : State) (pa : Nat) : Option Nat :=
  (s.ctxs.find? (fun r => (ctxLeaves s r).any (fun e => leafLocal s e.2.2.1 && decide (leafFrame e.2.1 e.2.2.1 ≤ pa) &&
    decide (pa < leafFrame e.2.1 e.2.2.1 + leafBytes (pteSize e.2.2.1))))).map (·.id)

/-- The context whose granule an error falls on. -/
def upsetCtx (s : State) (u : Upset) : Option Nat :=
  match u.at_ with
  | .mem => pageHolder s (32 * u.g)
  | .buf => (s.recs.find? (fun r => r.units.any (fun x => decide (unitPsnKey r.wb r.core x ≤ u.g) && decide (u.g < unitPsnKey r.wb r.core x + 256)))).map
      (fun r => blockCtx s r.blk)
  | .acc => (s.accs.find? (fun a => decide (accKey a.core a.bank 0 / 4 ≤ u.g) && decide (u.g < accKey a.core a.bank 0 / 4 + 8192))).map
      (fun a => blockCtx s a.blk)
  | .vrf => (s.slices.find? (fun r => decide (sliceKey r.core r.part r.idx ≤ u.g) && decide (u.g < sliceKey r.core r.part r.idx + 128))).map
      (fun r => match r.st with
        | .held g => gangCtx s g
        | .claimed v _ => gangCtx s v)
  | .l1 core peer line => (l1Line s core peer line).map (·.ctx)
  | .l2 line => (l2Line s true line).map (·.ctx)
  | .arrayW core => (arrayOf s core).holder.map (gangCtx s)
  | .arrayO core => (arrayOf s core).holder.map (gangCtx s)
  | _ => none

/-- One corrected error counted: in its context's ECCCORR, and for the health monitor (R188, 15_tables_counters R299). -/
def countEcc (ctx : Option Nat) (s : State) : State :=
  let s1 := { s with power := { s.power with ecc := s.power.ecc + 1 } }
  match ctx with
  | some c => modCtx s1 c (fun r => { r with ecccorr := r.ecccorr + 1 })
  | none => s1

/-- A granule poisoned. -/
def poisonGranule (u : Upset) (s : State) : State :=
  let add := fun ks : List Nat => u.g :: ks.filter (fun x => x != u.g)
  match u.at_ with
  | .mem => { s with memPsn := add s.memPsn }
  | .scr => { s with scrPsn := add s.scrPsn }
  | .dsc => { s with dscPsn := add s.dscPsn }
  | .buf => { s with bufPsn := sortAsc (add s.bufPsn) }
  | .acc => { s with accPsn := add s.accPsn }
  | .vrf => { s with vmark := (u.g, none) :: s.vmark.filter (fun e => e.1 != u.g) }
  | .l1 core peer line => match l1Line s core peer line with
    | some r => setL1 s { r with psn := r.psn ||| (1#32 <<< u.g) }
    | none => s
  | .l2 line => match l2Line s true line with
    | some r => setL2 s { r with psn := r.psn ||| (1#4 <<< u.g) }
    | none => s
  | .arrayW core => setArray s { arrayOf s core with wpsn := sortAsc (add (arrayOf s core).wpsn) }
  | .arrayO core => setArray s { arrayOf s core with opsn := sortAsc (add (arrayOf s core).opsn) }

/-- An error on a granule: one that cannot be corrected poisons it; one in memory or a scratchpad that can waits for the next access or scrub, one in
a tile memory or a register is corrected at once (log entry 72, DESIGN CHOICE). -/
def upsetEvent (u : Upset) (s : State) : State :=
  if u.hard then poisonGranule u s
  else match u.at_ with
    | .mem => { s with upsets := s.upsets ++ [u] }
    | .scr => { s with upsets := s.upsets ++ [u] }
    | .dsc => { s with upsets := s.upsets ++ [u] }
    | _ => countEcc (upsetCtx s u) s

/-- HBM_SCRUB: the errors of a stack that ECC can correct are corrected and counted; no value changes. -/
def scrubEvent (stack : Nat) (s : State) : State :=
  let hit := fun u : Upset => decide (u.at_ = .mem) && decide (32 * u.g / (Config.hbmEnd / 8) = stack)
  (s.upsets.filter hit).foldl (fun s u => countEcc (upsetCtx s u) s) { s with upsets := s.upsets.filter (fun u => !hit u) }

def execHbmScrub (stack : Nat) (s : State) : Outcome State Fault Refusal := .next (scrubEvent stack s)

/-! ## Service that changes no value (R343, R362) -/

def execHbmCalibration (_stack : Nat) (s : State) : Outcome State Fault Refusal := .next s

/-- PORT_RETRAIN: one of the 32 ports at a time leaves its traffic to the others, and returns. -/
def retrainEvent (port : Nat) (s : State) : State :=
  if s.fab.ports.contains port then { s with fab := { s.fab with ports := s.fab.ports.filter (fun p => p != port) } }
  else if s.fab.ports = [] ∧ port < 32 then { s with fab := { s.fab with ports := [port] } } else s

def execPortRetrain (port : Nat) (s : State) : Outcome State Fault Refusal := .next (retrainEvent port s)

/-! ## Lost packages and expanders (10_consistency R208, R355) -/

/-- A lost package no longer answers as a holder of this package's lines (18_fabric_collectives R344). -/
def forgetHolder (lid : Nat) (d : DirLine) : DirLine :=
  { d with shared := d.shared.filter (fun x => x != lid), owner := if d.owner = some lid then none else d.owner,
           note := (match d.note with
             | some (p, _) => if p = lid then none else d.note
             | none => none),
           acks := d.acks.filter (fun x => x != lid), datas := d.datas.filter (fun x => x != lid),
           reqs := d.reqs.filter (fun r => r.src != lid), prom := if d.prom = some lid then none else d.prom }

/-- The lines that a lost package's answers kept bundles waiting for. -/
def wakeLines (ls : List Nat) (s : State) : State := ls.foldl (fun s l => lineCome (homePage s l) s) s

/-- A package is lost from now on: its answers are awaited no longer, its host and its group hear of it. `s` is the state before. -/
def nowLost (lid : Nat) (s t : State) : State :=
  if lostPkg s lid then t
  else
    let s1 := wakeLines (t.dir.map (·.line)) ((t.dir.map (fun d => settleDir (forgetHolder lid d))).foldl setDir
      { t with fab := { t.fab with parts := t.fab.parts.filter (fun p => p.src != lid),
                                   wbs := t.fab.wbs.filter (fun l => l * 128 / 2 ^ 45 != lid) } })
    let heard := fun (c : Colour) (s2 : State) =>
      let led := decide (coordinatorOf s c = lid)
      let s3 := memberLost lid led c s2
      if led then askSuccessor c s3 else s3
    heard .c1 (heard .c0 (tellHost s1 (.lost lid)))

/-- A package of the pod map that is live or retiring. -/
def inService (s : State) (lid : Nat) : Bool := (podEntry s lid).any (fun e => decide (e.st = .live) || decide (e.st = .retiring))

/-- A package's entry is now marked failed: its snapshots' members hear of it (16_snapshot R322), and it is lost. `s` is the state before. -/
def nowFailed (lid : Nat) (s t : State) : State :=
  let fail := fun (c : Colour) (s2 : State) => memberFailed lid (decide (coordinatorOf s c = lid)) c s2
  nowLost lid s (fail .c1 (fail .c0 t))

/-- A package's entry marked failed. -/
def losePackage (lid : Nat) (s : State) : State :=
  if inService s lid then
    nowFailed lid s { s with pod := s.pod.map (fun x => if x.lid = lid then { x with st := .failed, epoch := mapEpoch s + 1 } else x) }
  else s

/-- LINK_DETECTION_TIMEOUT: the package is lost, its entry as it was: translations to it go on, and end at the bound (R208, 23_prog_chain R375). -/
def linksDown (lid : Nat) (s : State) : State :=
  if inService s lid && decide (lid ≠ s.fab.lid) && !s.fab.down.contains lid then
    nowLost lid s { s with fab := { s.fab with down := lid :: s.fab.down } }
  else s

def execLinkDetectionTimeout (lid : Nat) (s : State) : Outcome State Fault Refusal := .next (linksDown lid s)

/-- MARK_PACKAGE_FAILED. -/
def execMarkPackageFailed (lid : Nat) (s : State) : Outcome State Fault Refusal := .next (losePackage lid s)

/-- CXL_EXPANDER_LOST, a mapped one: its range of the window is a lost home: L2's and L1's copies go, and reads find poison (R208, R355). -/
def expanderLost (base size : Nat) (s : State) : State :=
  let inR := fun line : Nat => decide (base / 128 ≤ line) && decide (line < (base + size) / 128)
  if s.boot.expanders.contains (base, size) && !s.boot.cxlLost.contains (base, size) then
    { s with boot := { s.boot with cxlLost := s.boot.cxlLost ++ [(base, size)] }, l1 := s.l1.filter (fun r => r.peer || !inR r.line),
             l2 := s.l2.filter (fun r => r.peer || !inR r.line) }
  else s

def execCxlExpanderLost (base size : Nat) (s : State) : Outcome State Fault Refusal := .next (expanderLost base size s)

/-! ## Contexts (R354) -/

/-- A context as the physical function may create it: a new id, an existing function, a root in local HBM, aligned tables, ranges that
no context has. -/
def ctxSpecOk (s : State) (c : CtxSpec) : Bool :=
  let rs := c.windows.flatMap (fun w => w.2.map (fun r => (w.1, r)))
  decide (1 ≤ c.id) && decide (c.id ≤ 65535) && (ctxRow s c.id).isNone && decide (c.fn ≤ 16) && decide (c.root % 0x200000 = 0) &&
    decide (c.root + 0x200000 ≤ Config.hbmEnd) && decide (c.trapvec % 256 = 0) && decide (c.trapvec < 2 ^ 56) && decide (c.group < 256) &&
    decide (rs.Nodup) && decide ((c.windows.map (·.1)).Nodup) &&
    rs.all (fun r => decide (r.1 < 4) && decide (r.2 < 6144) && s.ranges.all (fun e => !(e.1 == r.1 && e.2.1 == r.2)))

def newCtx (c : CtxSpec) : CtxRow :=
  { id := c.id, fn := c.fn, root := c.root, trapvec := c.trapvec, group := c.group, right := c.right, rate := c.rate, recent := false, windows := c.windows, spliced := 0,
    refusals := List.replicate 6 0, captures := 0, swept := 0, ecccorr := 0, walks := 0, barovf := 0 }

/-- CREATE_CONTEXT: its die ranges pass to it, zeroed (09_memories R180, R189). -/
def createCtx (fn : Nat) (c : CtxSpec) (s0 : State) : State :=
  askedBy (fn == 0 && ctxSpecOk s0 c) fn "context" (fun s =>
    (c.windows.flatMap (fun w => w.2.map (fun r => (w.1, r)))).foldl (fun s r => ownerChange (.range r.1 r.2) c.id s)
      { s with ctxs := s.ctxs ++ [newCtx c] }) s0

def execCreateContext (fn : Nat) (c : CtxSpec) (s : State) : Outcome State Fault Refusal := .next (createCtx fn c s)

/-- The context's units still at work. -/
def ctxBusy (s : State) (ctx : Nat) : Bool :=
  s.gangs.any (fun g => g.ctx == ctx) || s.ops.any (fun o => o.ctx == ctx) || s.blocks.any (fun b => b.ctx == ctx) ||
    s.chunks.any (fun c => s.launches.any (fun l => l.id == c.launch && l.ctx == ctx))

/-- REMOVE_CONTEXT: queues, dispatcher entries, barrier references, windows and translations go with it (13_queues R272, 15_tables_counters
R295); a context whose gangs still run is refused (log entry 28, DESIGN CHOICE). -/
def removeCtx (fn ctx : Nat) (s0 : State) : State :=
  askedBy (fn == 0 && (ctxRow s0 ctx).isSome && !ctxBusy s0 ctx) fn "context" (fun s =>
    let s1 := (s.ranges.filter (fun e => e.2.2 == ctx)).foldl (fun s e => captureAll (.range e.1 e.2.1) s) s
    let s2 := dropSaves ((s1.bars.filter (fun b => b.valid && b.owner == ctx)).foldl barFree s1) (fun x => x.ctx == ctx)
    { s2 with queues := s2.queues.filter (fun q => q.ctx != ctx), launches := s2.launches.filter (fun l => l.ctx != ctx),
              ranges := s2.ranges.filter (fun e => e.2.2 != ctx), tlb := s2.tlb.filter (fun r => r.ctx != ctx),
              invals := s2.invals.filter (fun e => e.1 != ctx),
              owners := s2.owners.map (fun e => if e.2.2 = ctx then (e.1, e.2.1, 0) else e),
              ctxs := s2.ctxs.filter (fun r => r.id != ctx) }) s0

def execRemoveContext (fn ctx : Nat) (s : State) : Outcome State Fault Refusal := .next (removeCtx fn ctx s)

/-- SET_SNAPSHOT_GROUP (16_snapshot R300, R301). -/
def setGroupEvent (fn ctx group : Nat) (right : SnapRight) : State → State :=
  askedBy (fn == 0 && decide (group < 256)) fn "snapshot group"
    (fun s => modCtx s ctx (fun r => { r with group := group, right := right.held, rate := right.rate }))

def execSetSnapshotGroup (fn ctx group : Nat) (right : SnapRight) (s : State) : Outcome State Fault Refusal :=
  .next (setGroupEvent fn ctx group right s)

/-! ## Pod map and group descriptors (15_tables_counters R291, 18_fabric_collectives R346) -/

/-- One entry written over the map; an absent one with nothing set is not listed. -/
def putPod (s : State) (e : PodEntry) : State :=
  let rest := s.pod.filter (fun x => x.lid != e.lid)
  { s with pod := sortBy (·.lid) (if e = { lid := e.lid, phys := 0, st := .absent, pdom := 0, sgrp := 0, epoch := 0 } then rest else e :: rest) }

/-- The snapshots of a group that this package has joined or left are none of the new group's (17_isa_sync_system R340). -/
def newGroup (s : State) : State :=
  { s with col0 := { s.col0 with ever := false, grp := 0 }, col1 := { s.col1 with ever := false, grp := 0 } }

/-- The snapshot group of a map's entry. -/
def entryGroup (s : State) (lid : Nat) : Nat :=
  match podEntry s lid with
  | some e => e.sgrp
  | none => 0

/-- An entry binds its logical id to another package than before. -/
def rebound (s : State) (e : PodEntry) : Bool := (podEntry s e.lid).all (fun x => x.phys != e.phys)

/-- Packages in service that a revision marks failed. -/
def newlyFailed (s : State) (entries : List PodEntry) : List Nat :=
  ((entries.filter (fun e => decide (e.st = .failed) && inService s e.lid)).map (·.lid)).eraseDups

/-- WRITE_POD_MAP: one revision, whole, with an EPOCH of its own for the entries that it writes (log entry 80, DESIGN CHOICE); `self` is the entry
that names this package, by its own identity (R291). A package that it marks failed is lost (10_consistency R208). -/
def podEvent (fn : Nat) (entries : List PodEntry) (self : Nat) : State → State :=
  askedBy (fn == 0 && entries.all (fun e => decide (e.lid < 2048) && decide (e.sgrp < 256)) && decide (self < 2048)) fn "pod map" (fun s =>
    let s0 := (entries.map (fun e => { e with epoch := mapEpoch s + 1 })).foldl putPod s
    let me := podEntry s0 self
    let s1 := if entryGroup s0 self = entryGroup s s.fab.lid then s0 else newGroup s0
    let s2 := { s1 with fab := { s1.fab with lid := self, member := me.any (fun e => decide (e.st ≠ .absent) && e.phys == s.fab.phys),
                                             down := s1.fab.down.filter (fun l => !entries.any (fun e => rebound s e && e.lid == l)) } }
    (newlyFailed s entries).foldl (fun t lid => nowFailed lid s t) s2)

def execWritePodMap (fn : Nat) (entries : List PodEntry) (self : Nat) (s : State) : Outcome State Fault Refusal :=
  .next (podEvent fn entries self s)

/-- The fields of a descriptor's 64 bytes, and its members (R346). -/
def groupFields (w : GroupWrite) : GroupSpec :=
  { op := w.desc.extractLsb' 18 2, switch := w.desc.extractLsb' 48 16, port := w.desc.extractLsb' 32 6, size := bitsN w.desc.toNat 64 64,
    trec := w.desc.extractLsb' 128 128, mema := bitsN w.desc.toNat 256 64,
    members := w.array.map (fun e => (bitsN e.toNat 45 11, bitsN e.toNat 0 45)) }

/-- A reserved value of a descriptor or its array is set; bits [63:56] of a member's entry and a member array that is not local memory count as such
(log entry 82, DESIGN CHOICE). -/
def groupReserved (w : GroupWrite) : Bool :=
  let n := w.desc.toNat
  let d := groupFields w
  decide (bitsN n 20 12 ≠ 0) || decide (bitsN n 12 6 ≠ 0) || decide (bitsN n 38 10 ≠ 0) || decide (bitsN n 320 192 ≠ 0) ||
    w.array.any (fun e => decide (bitsN e.toNat 56 8 ≠ 0)) || decide (bitsN n 0 12 = 0) || decide (2048 < bitsN n 0 12) ||
    decide (w.array.length ≠ bitsN n 0 12) || decide (d.size % 4096 ≠ 0) || decide (d.size = 0) || decide (2 ^ 32 < d.size) ||
    trecReserved d.trec || decide (Config.hbmEnd < d.mema + 8 * w.array.length)

/-- Address `a` to `e` lies in frames, each given by its base and bytes; a frame is used once. -/
def coveredBy (fs : List (Nat × Nat)) (e : Nat) : Nat → Nat → Bool
  | 0, a => decide (e ≤ a)
  | fuel + 1, a =>
    if e ≤ a then true
    else match fs.find? (fun f => decide (f.1 ≤ a) && decide (a < f.1 + f.2)) with
      | some f => coveredBy fs e fuel (f.1 + f.2)
      | none => false

/-- A range of local memory is pages of one context with RD and WR. -/
def oneContext (s : State) (base size : Nat) : Bool :=
  s.ctxs.any (fun r =>
    let fs := (ctxLeaves s r).filterMap (fun e => if leafLocal s e.2.2.1 && pteRD e.2.2.1 && pteWR e.2.2.1 then
      some (leafFrame e.2.1 e.2.2.1, leafBytes (pteSize e.2.2.1)) else none)
    coveredBy fs (base + size) fs.length base)

/-- A descriptor that firmware takes (R346): nothing reserved, a format that apertures have, every member's range a context's. -/
def groupOk (s : State) (w : GroupWrite) : Bool :=
  let d := groupFields w
  !groupReserved w && decide (trecFmt d.trec ≠ 4) && w.agreed &&
    d.members.all (fun m => m.1 != s.fab.lid || oneContext s m.2 d.size)

/-- Bytes that firmware writes at a local address. -/
def firmwareWrite (pa : Nat) (bytes : List Byte) (s : State) : State :=
  let inR := fun line : Nat => decide (pa / 128 ≤ line) && decide (128 * line < pa + bytes.length)
  let t := (s.l2.filter (fun r => !r.peer && inR r.line)).foldl (fun s r => l2ToMem s r.line) s
  { t with mem := Sparse.write 0#8 t.mem pa bytes, l2 := t.l2.filter (fun r => r.peer || !inR r.line) }

/-- WRITE_GROUP_DESCRIPTOR: the descriptor, and its member array at MEMA. -/
def groupEvent (fn idx : Nat) (w : GroupWrite) (s0 : State) : State :=
  askedBy (fn == 0 && decide (idx < 4096) && groupOk s0 w) fn "group" (fun s =>
    let d := groupFields w
    firmwareWrite d.mema (w.array.flatMap (fun e => leBytes e.toNat 8))
      { s with groups := sortBy (·.1) ((idx, d) :: s.groups.filter (fun e => e.1 != idx)) }) s0

def execWriteGroupDescriptor (fn idx : Nat) (d : GroupWrite) (s : State) : Outcome State Fault Refusal := .next (groupEvent fn idx d s)

/-! ## Invalidations (09_memories R176) -/

/-- A function acts on its own contexts alone (R354): the physical function's row holds no other function's page tables, invalidations or
snapshots. -/
def ownsCtx (s : State) (fn ctx : Nat) : Bool :=
  match ctxRow s ctx with
  | some r => r.fn == fn
  | none => false

def invalidateEvent (fn ctx page : Nat) (s0 : State) : State :=
  askedBy (ownsCtx s0 fn ctx) fn "invalidation" (fun s =>
    { s with invals := (ctx, page) :: s.invals.filter (fun e => e != (ctx, page)) }) s0

def execInvalidateTranslation (fn ctx page : Nat) (s : State) : Outcome State Fault Refusal := .next (invalidateEvent fn ctx page s)

/-- A buffer row that holds the entry of a page: the same leaf's region, or a failed walk of the page. -/
def rowCovers (page : Nat) (r : TlbRow) : Bool :=
  match r.leaf with
  | some (p, _) => let n := leafBytes (pteSize p) / 4096; r.page / n == page / n
  | none => r.page == page

/-- An access in flight used a buffer row. -/
def usesRow (s : State) (r : TlbRow) : Bool :=
  let n := match r.leaf with
    | some (p, _) => leafBytes (pteSize p)
    | none => 4096
  let hit := fun p : Place => match p with
    | .mem _ va => va / n == r.page * 4096 / n
    | .peer _ va => va / n == r.page * 4096 / n
    | .mcast _ _ va => va / n == r.page * 4096 / n
    | _ => false
  s.ops.any (fun o => o.ctx == r.ctx && (o.pieces.any (fun p => hit p.place && decide (p.st ≠ .done)) || (match o.kind with
    | .atom _ _ _ _ _ _ _ gs => gs.any (fun x => hit x.place && decide (x.st ≠ .done))
    | .cpy _ _ _ _ ls => ls.any (fun x => hit x.src || hit x.dst)
    | _ => false)))

/-- INVALIDATION_COMPLETE: no buffer holds the entry, and every access that used it has been performed. -/
def invalidated (ctx page : Nat) (s : State) : State :=
  let rows := s.tlb.filter (fun r => r.ctx == ctx && rowCovers page r)
  if !s.invals.contains (ctx, page) || rows.any (usesRow s) then s
  else { s with tlb := s.tlb.filter (fun r => !(r.ctx == ctx && rowCovers page r)), invals := s.invals.filter (fun e => e != (ctx, page)) }

def execInvalidationComplete (ctx page : Nat) (s : State) : Outcome State Fault Refusal := .next (invalidated ctx page s)

/-! ## The host's writes (13_queues R253, 09_memories R173) -/

/-- A local address lies in a table of a page-table tree. -/
def inTables (s : State) (a : Nat) : Nat → Nat → Bool
  | 0, _ => false
  | level + 1, base =>
    let n := if level = 3 then 131072 else 512
    (decide (base ≤ a) && decide (a < base + 16 * n)) ||
      (tableEntries s base n).any (fun i => let p := pteRead s (base + 16 * i); pteV p && !pteLeaf p && inTables s a level (pteFrame p % 2 ^ 45))

/-- A write through a context's pages, its lines first. -/
def hostData (fn ctx va : Nat) (bytes : List Byte) (s : State) : State :=
  withLines (ctxGaps s ctx true [(va, bytes.length)]) (fun s =>
    if !ctxRoom s ctx [(va, bytes.length)] then s
    else match ctxWrite s ctx va bytes with
      | some t => t
      | none => tellHost s (.refused fn "write")) s

/-- A write to a page-table entry of a context, its line first. -/
def hostEntry (fn ctx a : Nat) (bytes : List Byte) (s : State) : State :=
  if a % 16 + bytes.length ≤ 16 ∧ (match ctxRow s ctx with
      | some r => inTables s a 4 r.root
      | none => false) = true then
    withLines ([(false, a / 128)].filter (fun e => !lineReady s true e)) (fun s =>
      if lineRoom (wrPost ctx) (a / 128) s then writePhys (wrPost ctx) a 0 bytes s else s) s
  else tellHost s (.refused fn "write")

/-- The trap vector table's address in a context's descriptor (15_tables_counters R290). -/
def hostVector (fn ctx : Nat) (bytes : List Byte) (s : State) : State :=
  let a := leNat bytes
  if bytes.length = 8 ∧ a % 256 = 0 ∧ a < 2 ^ 56 then modCtx s ctx (fun r => { r with trapvec := a }) else tellHost s (.refused fn "write")

/-- HOST_PCIE_WRITE: a system-scope write through a context's pages; from 2^56 on the address is 2^56 plus the local address of a
page-table entry of the context; at 2^57 it is the context's trap vector table address (log entry 29, DESIGN CHOICE). -/
def hostWrite (fn ctx va : Nat) (bytes : List Byte) (s0 : State) : State :=
  askedBy (ownsCtx s0 fn ctx) fn "write" (fun s =>
    if bytes = [] then s
    else if va < 2 ^ 56 then hostData fn ctx va bytes s
    else if va = 2 ^ 57 then hostVector fn ctx bytes s
    else hostEntry fn ctx (va - 2 ^ 56) bytes s) s0

def execHostPcieWrite (fn ctx va : Nat) (bytes : List Byte) (s : State) : Outcome State Fault Refusal := .next (hostWrite fn ctx va bytes s)

/-! ## Evictions (10_consistency R211) -/

/-- An L2 line leaves: local Dirty bytes to memory; a peer line's Dirty bytes to its home, once it is owned, and the clean line leaves when its home
has acknowledged; one without ownership stays. Tag 3 is this write-back's. -/
def evictL2 (line : Nat) (s : State) : State :=
  let s1 := match l2Line s false line with
    | some _ => dropL2 (l2ToMem s line) false line
    | none => s
  match l2Line s1 true line with
  | some r =>
    if s1.fab.wbs.contains line then s1
    else if r.dirty = 0 then dropL2 s1 true line
    else if !r.owned then s1
    else writeBackPeer 3 r s1
  | none => s1

def evictEvent (c : CacheName) (line : Nat) (s : State) : State :=
  match c with
  | .l1 core => flushL1 (flushL1 s core false line) core true line
  | .l2 => evictL2 line s

def execLineEviction (cache : CacheName) (line : Nat) (s : State) : Outcome State Fault Refusal := .next (evictEvent cache line s)

end Sys2Proof.Machine
end

