-- ==== Sys2Proof/Machine/Fabric.lean ====
section
/-! DEFINITION. Packets received from other packages: the gateway's rules (13_queues R269, R270; 16_snapshot R314 to R316; 18_fabric_collectives
R342, R343), and what each class does (10_consistency R204, R207, R210; 18_fabric_collectives R344 to R348; 16_snapshot R321; 17_isa_sync_system R340). -/

namespace Sys2Proof.Machine

open Host (Outcome)

/-! ## Channels -/

/-- `a` lies below `b`, modulo 2^32 within a window of 2^31 (13_queues R270). -/
def seqBefore (a b : Word) : Bool := decide (0 < (b - a).toNat) && decide ((b - a).toNat < 2 ^ 31)

/-- Covered by the receive mark, or received before (18_fabric_collectives R343). -/
def received (c : Chan) (q : Word) : Bool := seqBefore q c.mark || c.got.contains q

/-- The mark moves over what has been received. -/
def advanceMark : Nat → Chan → Chan
  | 0, c => c
  | fuel + 1, c =>
    if c.got.contains c.mark then advanceMark fuel { c with mark := c.mark + 1, got := c.got.filter (fun q => q != c.mark) } else c

def receiveSeq (c : Chan) (q : Word) : Chan := advanceMark (c.got.length + 1) { c with got := q :: c.got }

def chanTel (x : Chan) : Colour → Option Word
  | .c0 => x.tel0
  | .c1 => x.tel1

def chanLog (x : Chan) : Colour → Bool
  | .c0 => x.log0
  | .c1 => x.log1

def logOff (c : Colour) (x : Chan) : Chan :=
  match c with
  | .c0 => { x with log0 := false }
  | .c1 => { x with log1 := false }

def setTel (c : Colour) (n : Word) (x : Chan) : Chan :=
  match c with
  | .c0 => { x with tel0 := some n }
  | .c1 => { x with tel1 := some n }

def parity (s : State) : Colour → Bool
  | .c0 => s.fab.par0
  | .c1 => s.fab.par1

/-- The package's own snapshot group. -/
def ownGroup (s : State) : Nat :=
  match podEntry s s.fab.lid with
  | some e => e.sgrp
  | none => 0

/-- A package is another member of this package's group. -/
def fellow (s : State) (src : Nat) : Bool := decide (ownGroup s ≠ 0) && decide (src ≠ s.fab.lid) && inGroup s (ownGroup s) src

/-- The packet's stamp for a colour differs from the parity here. -/
def stampDiffers (s : State) (p : Packet) (c : Colour) : Bool := p.stamp.getLsbD (colBit c) != parity s c

def cuttable (s : State) (c : Colour) : Bool := decide ((colRow s c).st = .free) || decide ((colRow s c).st = .freePending)

/-- An induced cut; in FREE_PENDING it acts as the COMMIT (16_snapshot R303, R314); it serves the request that has been accepted with its
colour (R301). -/
def inducedCut (c : Colour) (id : Word) (s0 : State) : State :=
  let s := commitHere c s0
  match s.snapAcc with
  | some (r, c2) => if c2 = c then cutServed c r s else takeCut c (ownGroup s) id false s
  | none => takeCut c (ownGroup s) id false s

/-- A stamped packet of a cut not yet taken (13_queues R269). -/
def stampStep (p : Packet) (c : Colour) (s : State) : State :=
  if fellow s p.src && stampDiffers s p c && cuttable s c then inducedCut c 0xFFFFFFFF#32 s else s

/-- Logged whole, by class (16_snapshot R315). -/
def loggedWhole (p : Packet) : Bool :=
  decide (p.cls = 4#4) || decide (p.cls = 7#4) || decide (p.cls = 8#4) || (decide (p.cls = 12#4) && (match p.body with
    | .data _ _ _ _ => true
    | _ => false))

/-- A pre-cut packet while its channel logs; of this package's own, the copies that its stores to apertures send it too (R352). -/
def logStep (p : Packet) (c : Colour) (s : State) : State :=
  if stampDiffers s p c && capturing s c && ((fellow s p.src && chanLog (chanOf s p.src) c) || (decide (p.src = s.fab.lid) && decide (ownGroup s ≠ 0))) then
    emitRec s c (.packet p.src p.seq p (loggedWhole p)) else s

/-- The channel from a source completes (13_queues R270, 16_snapshot R316). -/
def chanDone (src : Nat) (c : Colour) (s : State) : State :=
  let x := chanOf s src
  match chanTel x c with
  | some n => if seqBefore x.mark n then s else setChan s (logOff c x)
  | none => s

/-- A held telltale of the channel stands before this packet (16_snapshot R314). -/
def heldBehind (s : State) (p : Packet) : Bool := s.fab.held.any (fun h => h.src == p.src && seqBefore h.seq p.seq)

/-- The packet is for this package, and has not been received (log entry 8, DESIGN CHOICE). -/
def deliverable (cls : BitVec 4) (p : Packet) (s : State) : Bool :=
  ready s && s.fab.member && decide (p.dst = s.fab.lid) && decide (p.cls = cls) &&
    (match podEntry s p.src with
     | some e => decide (e.st ≠ .absent)
     | none => false) &&
    !received (chanOf s p.src) p.seq && !heldBehind s p

/-- The packet's number is received, and its channel tested. -/
def counted (p : Packet) (s : State) : State :=
  chanDone p.src .c1 (chanDone p.src .c0 (setChan s (receiveSeq (chanOf s p.src) p.seq)))

/-- The packet has been handled: logged where it must be, and counted. -/
def arrived (p : Packet) (s : State) : State := counted p (logStep p .c1 (logStep p .c0 s))

/-- Delivery of a packet; `act` says whether it could be handled, and a packet that must wait stays undelivered (log entry 40, DEDUCED). -/
def deliver (cls : BitVec 4) (act : Packet → State → State × Bool) (p : Packet) (s : State) : State :=
  if !deliverable cls p s then s
  else
    let r := act p (stampStep p .c1 (stampStep p .c0 s))
    if r.2 then arrived p r.1 else r.1

/-! ## A line at its home -/

def ownAddr (s : State) (p : Packet) : Bool := decide (p.addr / 2 ^ 45 = s.fab.lid)

def homeLine (p : Packet) : Nat := p.addr % 2 ^ 45 / 128

/-- Nobody but `src` stands in the way of a request for a line. -/
def freeFor (s : State) (line src : Nat) (write : Bool) : Bool :=
  let d := dirLine s line
  decide (d.acks = []) && decide (d.datas = []) && (d.owner.all (fun o => o == src)) && (!write || d.shared.all (fun h => h == src))

def linePsn (s : State) (line : Nat) : BitVec 4 :=
  (List.range 4).foldl (fun m g => if memPoisoned s (128 * line + 32 * g) then m ||| (1#4 <<< g) else m) 0#4

/-- Line data to a requester, which then holds the line. -/
def sendLine (s : State) (line src tag : Nat) : State :=
  let d := dirLine s line
  let s1 := setDir s { d with shared := if d.shared.contains src then d.shared else d.shared ++ [src] }
  sendPkt s1 (pktOf s1 src 1 4 (gaOf s line) (.data tag (BitVec.allOnes 128) (dirBytes s (128 * line) 128) (linePsn s line)))

/-- Bytes of a line written at home for another package, with their poison. -/
def homeWrite (s : State) (line : Nat) (mask : BitVec 128) (bytes : List Byte) (psn : BitVec 4) : State :=
  let s1 := writeLine (wrPost 0) line 0 mask bytes s
  let bad := (List.range 4).filter (fun g => psn.getLsbD g && decide (mask.extractLsb' (32 * g) 32 ≠ 0#32))
  { s1 with memPsn := bad.foldl (fun ks g => if ks.contains (4 * line + g) then ks else (4 * line + g) :: ks) s1.memPsn }

/-- READ_REQUEST (class 0): the line goes to the requester, an engine's line after its operation (10_consistency R205); a remote acquire waits for
its answer (R204). -/
def readRequestAct (p : Packet) (s : State) : State × Bool :=
  match p.body with
  | .req tag rem core =>
    let line := homeLine p
    if !ownAddr s p then (s, true)
    else if rem then
      let d := dirLine s line
      (setDir s { d with reqs := d.reqs ++ [{ src := p.src, own := false, tag := tag, rem := true, core := core }] }, true)
    else if engineHolds s line then (s, false)
    else if freeFor s line p.src false then (sendLine s line p.src tag, true)
    else (invalidateHolders s line p.src, false)
  | _ => (s, true)

def execReadRequest (p : Packet) (s : State) : Outcome State Fault Refusal := .next (deliver 0 readRequestAct p s)

/-- OWNERSHIP_REQUEST (class 2): every other holder acknowledges first, then the grant (R344). -/
def ownershipRequestAct (p : Packet) (s : State) : State × Bool :=
  let line := homeLine p
  if !ownAddr s p then (s, true)
  else if engineHolds s line then (s, false)
  else if freeFor s line p.src true then
    let s1 := setDir s { dirLine s line with owner := some p.src, shared := [] }
    (sendPkt s1 (pktOf s1 p.src 3 0 p.addr (.ack 0)), true)
  else (invalidateHolders s line p.src, false)

def execOwnershipRequest (p : Packet) (s : State) : Outcome State Fault Refusal := .next (deliver 2 ownershipRequestAct p s)

/-- An acknowledgement to a package. -/
def sendAck (s : State) (dst addr tag : Nat) : State := sendPkt s (pktOf s dst 6 0 addr (.ack tag))

/-- The line's row after an answer of a holder; when none is awaited any more, bundles that waited for the line go on. -/
def answered (d : DirLine) (s : State) : State :=
  let t := setDir s (settleDir d)
  if d.acks = [] ∧ d.datas = [] then lineCome (homePage t d.line) t else t

/-- STORE_DATA (class 4): a store, which waits until no other package holds the line and is acknowledged; a holder's data after a recall (tag 0);
an owner's write-back, acknowledged; a release note (10_consistency R204). A lost package's data are never performed (R344; log entry 76, DEDUCED). -/
def storeDataAct (p : Packet) (s : State) : State × Bool :=
  let line := homeLine p
  let d := dirLine s line
  if !ownAddr s p || lostPkg s p.src then (s, true)
  else match p.body with
    | .req _ true core => (setDir s { d with note := some (p.src, core) }, true)
    | .data tag mask bytes psn =>
      if !lineRoom (wrPost 0) line s then (s, false)
      else
        let put := fun s : State => homeWrite s line mask bytes psn
        if tag = 0 then
          (answered { d with datas := d.datas.filter (fun x => x != p.src), owner := if d.owner = some p.src then none else d.owner } (put s), true)
        else if decide (d.owner = some p.src) || d.datas.contains p.src then (sendAck (put s) p.src p.addr tag, true)
        else if engineHolds s line then (s, false)
        else if freeFor s line p.src true then (sendAck (put s) p.src p.addr tag, true)
        else (invalidateHolders s line p.src, false)
    | _ => (s, true)

def execStoreData (p : Packet) (s : State) : Outcome State Fault Refusal := .next (deliver 4 storeDataAct p s)

/-- Lanes of an atomic group that a packet carries, by the packets' common name: its first lane, how many, of how many. -/
def partOf (p : Packet) : Option (Nat × Nat × Nat × Nat) :=
  match p.body with
  | .atomic tag _ _ first total os => some (tag, first, os.length, total)
  | .olds tag first total vs _ => some (tag, first, vs.length, total)
  | _ => none

/-- Packets received before this one that carry the same group's other lanes. -/
def sameGroup (p q : Packet) : Bool :=
  p.src == q.src && p.cls == q.cls && (match partOf p, partOf q with
    | some a, some b => a.1 == b.1
    | _, _ => false)

/-- All packets of a group in lane order, once the last has come; one that is not the last is kept (log entry 75, DESIGN CHOICE). -/
def wholeGroup (p : Packet) (s : State) : Option (List Packet) × State :=
  let ps := sortBy (fun q => match partOf q with
    | some a => a.2.1
    | none => 0) (p :: s.fab.parts.filter (sameGroup p))
  let come : Nat := (ps.map (fun q => match partOf q with
    | some a => a.2.2.1
    | none => 0)).sum
  let total := match partOf p with
    | some a => a.2.2.2
    | none => 0
  if come < total then (none, { s with fab := { s.fab with parts := p :: s.fab.parts } })
  else (some ps, { s with fab := { s.fab with parts := s.fab.parts.filter (fun q => !sameGroup p q) } })

/-- The operands that packets carry. -/
def opndsOf (p : Packet) : List (BitVec 64 × BitVec 64) :=
  match p.body with
  | .atomic _ _ _ _ _ os => os
  | _ => []

def oldsOf (p : Packet) : List (BitVec 64) :=
  match p.body with
  | .olds _ _ _ vs _ => vs
  | _ => []

/-- The packets that answer an atomic request: at most 128 bytes of old values each (R342). -/
def sendOlds (s : State) (dst addr tag n : Nat) (olds : List (BitVec 64)) (psn : List Nat) : State :=
  (runsOf (128 / n) olds).foldl (fun s e => sendPkt s (pktOf s dst 1 ((n * e.2.length + 31) / 32) addr (.olds tag e.1 olds.length e.2 psn))) s

/-- ATOMIC_REQUEST (class 7): one read-modify-write of each location at home, in lane order (10_consistency R210). -/
def atomicRequestAct (p : Packet) (s : State) : State × Bool :=
  match p.body with
  | .atomic tag op wide _ _ _ =>
    let line := homeLine p
    let pa := p.addr % 2 ^ 45
    let n := if wide then 8 else 4
    if !ownAddr s p then (s, true)
    else if engineHolds s line then (s, false)
    else if !homeFree s line true then (homeAsk s line, false)
    else if !lineRoom (wrPost 0) line s then (s, false)
    else match wholeGroup p s with
      | (none, t) => (t, true)
      | (some ps, t) =>
        let psn := (List.range n).filter (fun i => memPoisoned t (pa + i))
        let f := atomFold op.toNat wide (BitVec.ofNat 64 (leNat (dirBytes t pa n))) (ps.flatMap opndsOf)
        let s1 := homeWrite t line (byteMask (pa % 128) n) (lineBytes (pa % 128) (leBytes f.2.toNat n)) 0
        (sendOlds s1 p.src p.addr tag n f.1 psn, true)
  | _ => (s, true)

def execAtomicRequest (p : Packet) (s : State) : Outcome State Fault Refusal := .next (deliver 7 atomicRequestAct p s)

/-! ## Answers at the requester -/

/-- Context and address that an operation's piece had for a line, by the tag of its request. -/
def tagOrigin (s : State) (tag : Nat) : Nat × Nat :=
  match opOf s (tag / 4096) with
  | some o => (o.ctx, match o.pieces[tag % 4096]? with
    | some p => placeVa p.place / 128 * 128
    | none => 0)
  | none => (0, 0)

/-- Line data placed in L2 under the bytes that this package has written; a line that is whole there is as new. -/
def installLine (s : State) (line tag : Nat) (bytes : List Byte) (psn : BitVec 4) : State :=
  match l2Line s true line with
  | some r =>
    if r.filled then s else
    let keep := (wholeGranules r.dirty).foldl (fun x g => x ||| (1#4 <<< g)) 0#4
    let data := mergeBytes r.dirty r.data bytes
    setL2 s { r with data := data, filled := true, zero := data.all (· == 0#8), psn := (r.psn &&& keep) ||| (psn &&& ~~~keep) }
  | none =>
    let o := tagOrigin s tag
    setL2 s { noPeerLine s line o.1 o.2 with data := bytes, filled := true, zero := bytes.all (· == 0#8), psn := psn }

/-- Piece `i` of operation `id`, which waited for the line, when the answer to `tag` has come: a pod-scope or remote read takes what its own answer
gave, where that is kept (`fresh`), others read again. -/
def pieceGot (s : State) (line tag : Nat) (fresh now : Bool) (id i : Nat) (p : Piece) : Piece :=
  let mine := tag == tagOf id i
  if decide (p.st = .sent) && onLine line p.place then
    (match p.place, now with
     | .peer ga _, true =>
       if !mine then p
       else match l2Line s true line with
         | some r => if fresh then { p with st := .done, data := slice r.data (ga % 128) p.len, psn := peerPsn s ga p.len } else { p with st := .todo }
         | none => { p with st := .todo }
     | _, _ => if mine || fresh then { p with st := .todo } else p)
  else p

/-- A group of an atomic performed below pod scope that waited for the line. -/
def groupGot (line tag : Nat) (fresh : Bool) (id scope i : Nat) (x : AtomGroup) : AtomGroup :=
  if decide (x.st = .sent) && decide (scope < 6) && onLine line x.place && (fresh || tag == tagOf id i) then { x with st := .todo } else x

/-- Operations that waited for the line. -/
def opGot (s : State) (line tag : Nat) (fresh : Bool) (o : Op) : Op :=
  let put := fun now : Bool => o.pieces.mapIdx (fun i p => pieceGot s line tag fresh now o.id i p)
  match o.kind with
  | .load _ _ _ scope _ rem => { o with pieces := put (rem || decide (scopePlace scope = 2)) }
  | .atom aop wide scope ord rem ret d gs =>
    { o with pieces := put rem, kind := .atom aop wide scope ord rem ret d (gs.mapIdx (fun i x => groupGot line tag fresh o.id scope i x)) }
  | .store scope _ => if scopePlace scope = 0 then { o with pieces := put false } else o
  | .zfill scope => if scopePlace scope = 0 then { o with pieces := put false } else o
  | _ => o

/-! ### Reduction of a multicast load (R348) -/

/-- One step of the fold on an element. -/
def reduceElem (fmt : Nat) (op : BitVec 2) (a b : Nat) : Nat :=
  let fl := fun f : Fmt => if op = 1#2 then rneAdd f a b else if op = 2#2 then minNum f a b else maxNum f a b
  let sel := fun (x y : Int) (lo hi : Int) => if op = 1#2 then max lo (min hi (x + y)) else if op = 2#2 then min x y else max x y
  match fmt with
  | 0 => fl fmtBf16
  | 1 => fl fmtF16
  | 2 => ((sel (sextN a 8) (sextN b 8) (-128) 127) % 256).toNat
  | 3 => (sel a b 0 255).toNat
  | _ => fl fmtF32

def reduceBytes (d : GroupSpec) (a b : List Byte) : List Byte :=
  let e := groupElem d
  (List.range (a.length / e)).flatMap (fun i => leBytes (reduceElem (trecFmt d.trec) d.op (leNat (slice a (e * i) e)) (leNat (slice b (e * i) e))) e)

/-- An element of a group's format, a float NaN as the canonical one (03_numbers R45). -/
def canonElem (fmt n : Nat) : Nat :=
  let fl := fun f : Fmt => if isNaN f n then fmtNaN f else n
  match fmt with
  | 0 => fl fmtBf16
  | 1 => fl fmtF16
  | 2 => n
  | 3 => n
  | _ => fl fmtF32

def canonBytes (d : GroupSpec) (a : List Byte) : List Byte :=
  let e := groupElem d
  (List.range (a.length / e)).flatMap (fun i => leBytes (canonElem (trecFmt d.trec) (leNat (slice a (e * i) e))) e)

/-- Values folded in rank order; one member's alone with its NaNs canonical (R348, 03_numbers R45; log entry 71, DEDUCED). -/
def reduceAll (d : GroupSpec) : List (List Byte) → List Byte
  | [] => []
  | [v] => canonBytes d v
  | v :: vs => vs.foldl (reduceBytes d) v

/-- The answer to a multicast load: its piece gets the reduced bytes. -/
def mcastGot (s : State) (tag : Nat) (vals : List (List Byte)) (psn : List Nat) : State :=
  match opOf s (tag / 4096) with
  | some o => match o.kind, o.pieces[tag % 4096]? with
    | .load _ _ _ _ _ _, some pc => match pc.place with
      | .mcast grp _ _ => match groupDesc s grp with
        | some d =>
          if decide (pc.st = .sent) && decide (vals.length = d.members.length) && vals.all (fun v => decide (v.length = pc.len)) then
            pieceRead o.id (tag % 4096) pc (reduceAll d vals) psn s
          else s
        | none => s
      | _ => s
    | _, _ => s
  | none => s

/-- The current step of a chunk. -/
def stepOf (k : Chunk) : Option RouteStep := (k.steps.getD [])[k.step]?

/-- The answer to a load of a chunk's PULL: kept, reduced, until the step writes it (R350). -/
def pullGot (s : State) (tag : Nat) (vals : List (List Byte)) (psn : List Nat) (k : Chunk) : Chunk :=
  match stepOf k with
  | some st => match groupDesc s st.grp with
    | some d =>
      if st.kind = 1 ∧ k.busy.any (fun b => b / 2048 == tag) = true ∧ vals.length = d.members.length then
        { k with busy := k.busy.filter (fun b => b / 2048 != tag), got := k.got ++ [(tag - k.tag0, reduceAll d vals, psn)] }
      else k
    | none => k
  | none => k

/-- A chunk's packet acknowledged by a member; a PULL's loads are answered, not acknowledged. -/
def pushAcked (src tag : Nat) (k : Chunk) : Chunk :=
  if (stepOf k).any (fun st => st.kind == 1) then k else { k with busy := k.busy.filter (fun b => b != tag * 2048 + src) }

/-- The old values of a group performed at another package. -/
def oldsGot (s : State) (tag : Nat) (olds : List (BitVec 64)) (psn : List Nat) : State :=
  match opOf s (tag / 4096) with
  | some o => match o.kind with
    | .atom _ _ _ _ _ _ _ gs => match gs[tag % 4096]? with
      | some x => if x.st = .sent then
          let t := match x.place with
            | .peer ga _ => passBy o.core (ga / 128) s
            | _ => s
          groupRead o.id x.lanes (setGroup t o.id (tag % 4096) { x with st := .done, olds := olds, psn := psn }) else s
      | none => s
    | _ => s
  | none => s

/-- Lanes of an operation that read a line which has now come: their acquires take effect (10_consistency R203). -/
def linesRead (line : Nat) (o : Op) (s : State) : State :=
  groupRead o.id ((o.pieces.filter (fun p => decide (p.st = .sent) && onLine line p.place)).map (·.lane)) s

/-- The answer to a read may be kept: the line has not been invalidated since it was asked for, and no bytes of this package are on their way to its
home (10_consistency R198, R199; log entry 86, DEDUCED). -/
def freshRead (s : State) (line : Nat) (ok : Bool) : Bool := ok && !homeBusy s 0 line && !s.fab.wbs.contains line

/-- The answer to a read of a peer line, which is out under its tag: where it may be kept, L2 and the clean bytes of L1's copies hold it; what waited
for it goes on. -/
def lineGot (line tag : Nat) (bytes : List Byte) (psn : BitVec 4) (s : State) : State :=
  match s.fab.reads.find? (fun e => e.1 == line && e.2.1 == tag) with
  | none => s
  | some e =>
    let fresh := freshRead s line e.2.2
    let s0 := { s with fab := { s.fab with reads := s.fab.reads.filter (fun x => !(x.1 == line && x.2.1 == tag)) } }
    let s1 := if fresh then freshenL1 none true line (installLine s0 line tag bytes psn) else s0
    let s2 := s.ops.foldl (fun t o => linesRead line o t) { s1 with ops := s1.ops.map (opGot s1 line tag fresh) }
    lineCome (linePage line) s2

/-- READ_DATA (class 1). -/
def readDataAct (p : Packet) (s : State) : State × Bool :=
  match p.body with
  | .data tag _ bytes psn =>
    (lineGot (p.addr / 128) tag bytes psn s, true)
  | .olds tag _ _ _ psn =>
    if (opOf s (tag / 4096)).isNone then (s, true)
    else match wholeGroup p s with
      | (none, t) => (t, true)
      | (some ps, t) => (oldsGot t tag (ps.flatMap oldsOf) psn, true)
  | .mvals tag vals psn => ({ mcastGot s tag vals psn with chunks := s.chunks.map (pullGot s tag vals psn) }, true)
  | _ => (s, true)

def execReadData (p : Packet) (s : State) : Outcome State Fault Refusal := .next (deliver 1 readDataAct p s)

/-- OWNERSHIP_GRANT (class 3): the posted stores of the line are performed (10_consistency R207), and the ownership is this package's until it is
recalled, whether L2 still holds the line or not. -/
def ownershipGrantAct (p : Packet) (s : State) : State × Bool :=
  let line := p.addr / 128
  if !s.fab.owns.contains line then (s, true)
  else
    let s1 := { s with fab := { s.fab with owns := s.fab.owns.filter (fun x => x != line), mine := line :: s.fab.mine } }
    match l2Line s1 true line with
    | some r => (lineCome (linePage line) (setL2 s1 { r with owned := true, who := [] }), true)
    | none => (s1, true)

def execOwnershipGrant (p : Packet) (s : State) : Outcome State Fault Refusal := .next (deliver 3 ownershipGrantAct p s)

/-- An INVALIDATION of the line's owner that must wait: its grant is still on its way, its write-back is, or an engine keeps the line (R205). -/
def recallWaits (s : State) (line : Nat) (owner : Bool) : Bool :=
  s.fab.wbs.contains line || (owner && (!s.fab.mine.contains line || engineKeeps s line))

/-- INVALIDATION (class 5), tag 1 of the line's owner: an owner's Dirty bytes go home first; the acknowledgement says whether they do (tag 2) or not
(tag 0). Bytes posted without ownership stay posted; a write-back on its way is acknowledged first, and an ownership on its way comes first. -/
def invalidationAct (p : Packet) (s : State) : State × Bool :=
  let line := p.addr / 128
  if recallWaits s line (decide (p.body = .ack 1)) then (s, false) else
  let s0 := staleReads line { s with l1 := s.l1.filter (fun r => !(r.peer && r.line == line && decide (r.dirty = 0))),
                                     fab := { s.fab with mine := s.fab.mine.filter (fun x => x != line) } }
  match l2Line s0 true line with
  | none => (sendAck s0 p.src p.addr 0, true)
  | some r =>
    if r.dirty = 0 then (sendAck (dropL2 s0 true line) p.src p.addr 0, true)
    else if !r.owned then (sendAck (setL2 s0 { r with filled := false }) p.src p.addr 0, true)
    else
      let s1 := captureL2 .c1 r (captureL2 .c0 r s0)
      (sendAck (dropL2 (sendPkt s1 (pktOf s1 p.src 4 4 p.addr (.data 0 r.dirty r.data r.psn))) true line) p.src p.addr 2, true)

def execInvalidation (p : Packet) (s : State) : Outcome State Fault Refusal := .next (deliver 5 invalidationAct p s)

/-- A member's acknowledgement of a piece of an aperture store; the store is performed with the last (R347), a lost member's wait ending at the bound
(10_consistency R208). -/
def mcastAck (s : State) (grp src : Nat) (p : Piece) : Piece :=
  let p1 := { p with psn := insertAsc src p.psn }
  match groupDesc s grp with
  | some d => if d.members.all (fun m => p1.psn.contains m.1) then { p1 with st := .done } else p1
  | none => p1

/-- An acknowledgement of a store's or line operation's piece, of an evicted line's write-back, or of a chunk's packet. -/
def tagAck (s : State) (src tag line : Nat) : State :=
  let back := tag == 3 || (match opOf s (tag / 4096) with
    | some o => (match o.kind with
      | .cline _ => true
      | _ => false)
    | none => false)
  let s := if back then staleReads line { s with fab := { s.fab with wbs := s.fab.wbs.filter (fun l => l != line) } } else s
  let s1 := { s with chunks := s.chunks.map (pushAcked src tag) }
  match opOf s1 (tag / 4096) with
  | some o => match o.pieces[tag % 4096]? with
    | some p =>
      if p.st = .sent then (match p.place, back with
        | .mcast grp _ _, _ => setPiece s1 o.id (tag % 4096) (mcastAck s1 grp src p)
        | .peer ga _, false => setPiece (passBy o.core (ga / 128) s1) o.id (tag % 4096) { p with st := .done }
        | _, _ => setPiece s1 o.id (tag % 4096) { p with st := .done })
      else s1
    | none => s1
  | none => s1

/-- ACKNOWLEDGEMENT (class 6): tags 0 and 2 from a holder of a line, 1 from a promoted core, 4 and 5 of an image's line at its target, others of a
piece. -/
def ackAct (p : Packet) (s : State) : State × Bool :=
  match p.body with
  | .ack tag =>
    let d := dirLine s (homeLine p)
    let d1 := { d with acks := d.acks.filter (fun x => x != p.src), shared := d.shared.filter (fun x => x != p.src),
                       owner := if d.owner = some p.src then none else d.owner }
    if tag = 0 then (answered { d1 with datas := d1.datas.filter (fun x => x != p.src) } s, true)
    else if tag = 1 then ((if d.prom = some p.src then setDir s { d with promOk := true } else s), true)
    else if tag = 2 then (answered d1 s, true)
    else if tag = 4 ∨ tag = 5 then (modHalDie s 0 (if tag = 4 then .c0 else .c1) (fun h => { h with subm := h.subm - 1 }), true)
    else (tagAck s p.src tag (p.addr / 128), true)
  | _ => (s, true)

def execAcknowledgement (p : Packet) (s : State) : Outcome State Fault Refusal := .next (deliver 6 ackAct p s)

/-! ## Multicast apertures (R347, R348) -/

/-- The aperture's group and offset of a packet, and this member's local address there. -/
def apertureAddr (s : State) (p : Packet) : Option Nat :=
  match groupDesc s (p.addr / 2 ^ 32) with
  | some d => (d.members.find? (fun m => m.1 == s.fab.lid)).map (fun m => m.2 + p.addr % 2 ^ 32)
  | none => none

/-- MULTICAST_STORE (class 8), as the home port sends it to this member; collective pushes and flags likewise. -/
def mcastStoreAct (p : Packet) (s : State) : State × Bool :=
  match p.body, apertureAddr s p with
  | .data tag mask bytes psn, some a =>
    let line := a / 128
    if engineHolds s line then (s, false)
    else if !homeFree s line true then (homeAsk s line, false)
    else if !lineRoom (wrPost 0) line s then (s, false)
    else (sendAck (homeWrite s line mask bytes psn) p.src p.addr tag, true)
  | _, _ => (s, true)

def execMulticastStore (p : Packet) (s : State) : Outcome State Fault Refusal := .next (deliver 8 mcastStoreAct p s)

/-- MULTICAST_LOAD (class 9): this member's value, for the home port; an answer holds 128 bytes at most (R342). -/
def mcastLoadAct (p : Packet) (s : State) : State × Bool :=
  match p.body, apertureAddr s p with
  | .mload tag len _, some a =>
    if 128 < len then (s, true) else
    let lines := (List.range ((a + len - 1) / 128 - a / 128 + 1)).map (a / 128 + ·)
    match lines.find? (fun l => !homeFree s l false || engineHolds s l) with
    | some l => (if homeFree s l false then s else homeAsk s l, false)
    | none =>
      (sendPkt s (pktOf s p.src 1 ((len + 31) / 32) p.addr (.mvals tag [dirBytes s a len] ((List.range len).filter (fun i => memPoisoned s (a + i))))),
        true)
  | _, _ => (s, true)

def execMulticastLoad (p : Packet) (s : State) : Outcome State Fault Refusal := .next (deliver 9 mcastLoadAct p s)

/-! ## Remote promotion (10_consistency R204) -/

/-- No store posted to another package lacks its ownership, no bytes written here await another package's answer. -/
def postsDone (s : State) : Bool :=
  s.l2.all (fun r => !r.peer || decide (r.dirty = 0) || r.owned || lostPkg s (r.line * 128 / 2 ^ 45)) && s.dir.all (fun d => decide (d.pend = []))

/-- PROMOTION_REQUEST (class 10): the core writes back every Dirty line, then the acknowledgement. -/
def promotionAct (p : Packet) (s : State) : State × Bool :=
  match p.body with
  | .req _ _ core =>
    let s1 := writeBackBelow core 8 s
    if postsDone s1 then (sendAck s1 p.src p.addr 1, true) else (s1, false)
  | _ => (s, true)

def execPromotionRequest (p : Packet) (s : State) : Outcome State Fault Refusal := .next (deliver 10 promotionAct p s)

/-- The answer from the line: to an operation of this package, or to another's. -/
def answerAcquire (s : State) (line : Nat) (r : DirReq) : State :=
  if r.src = s.fab.lid then
    (match opOf s (r.tag / 4096) with
     | some o => match o.pieces[r.tag % 4096]? with
       | some p => (match o.kind with
         | .load _ _ _ _ _ _ => match readPlace s o.core o.ctx r.tag 5 false p.place p.len with
           | .got bytes psn t => pieceRead o.id (r.tag % 4096) p bytes psn t
           | .sent t => t
           | .wait t => t
         | _ => setPiece s o.id (r.tag % 4096) { p with st := .done })
       | none => s
     | none => s)
  else sendLine s line r.src r.tag

/-- The noted core has written back: on this package at once, on another by a packet and its acknowledgement. -/
def promoted (s : State) (line : Nat) (r : DirReq) : State × Bool :=
  let d := dirLine s line
  match d.note with
  | none => (s, true)
  | some (pkg, core) =>
    if pkg = r.src ∧ core = r.core then (s, true)
    else if pkg = s.fab.lid then
      let s1 := writeBackBelow core 8 s
      (s1, decide (r.src = s.fab.lid) || postsDone s1)
    else if d.promOk && decide (d.prom = some pkg) || lostPkg s pkg then (s, true)
    else if d.prom = some pkg then (s, false)
    else (sendPkt (setDir s { d with prom := some pkg, promOk := false }) (pktOf s pkg 10 0 (gaOf s line) (.req 0 false core)), false)

/-- REMOTE_ACQUIRE_ANSWER: the first waiting acquire of a line. -/
def remoteAnswer (line : Nat) (s : State) : State :=
  match (dirLine s line).reqs with
  | [] => s
  | r :: _ =>
    let a := promoted s line r
    if !a.2 || engineHolds a.1 line then a.1
    else if !freeFor a.1 line r.src false then invalidateHolders a.1 line r.src
    else
      let d := dirLine a.1 line
      answerAcquire (setDir a.1 { d with reqs := d.reqs.drop 1, prom := none, promOk := false }) line r

def execRemoteAcquireAnswer (line : Nat) (s : State) : Outcome State Fault Refusal := .next (remoteAnswer line s)

/-! ## Telltales (16_snapshot R313, R314) -/

/-- The telltale's count for its channel, and its sender among those that cut by request; a coordinator that it makes known is asked what SNAPQ words wait
for. -/
def recordTell (c : Colour) (src : Nat) (count id : Word) (init : Bool) (s : State) : State :=
  let s1 := setChan s (setTel c count (chanOf s src))
  if !init then s1
  else
    let s2 := modCol s1 c (fun r => { r with inits := (src, id) :: r.inits.filter (fun e => e.1 != src) })
    if ledKnown s1 c && decide (coordinatorOf s1 c = coordinatorOf s2 c) then s2 else askSuccessor c s2

/-- The telltale is held, with every later packet of its channel. -/
def holdTell (p : Packet) (s : State) : State :=
  let s1 := setChan s { chanOf s p.src with hold := true }
  if s1.fab.held.contains p then s1 else { s1 with fab := { s1.fab with held := s1.fab.held ++ [p] } }

/-- It is held no longer. -/
def unholdTell (p : Packet) (s : State) : State :=
  let hs := s.fab.held.filter (fun h => h != p)
  setChan { s with fab := { s.fab with held := hs } } { chanOf s p.src with hold := hs.any (fun h => h.src == p.src) }

def otherColour : Colour → Colour
  | .c0 => .c1
  | .c1 => .c0

/-- Fields of a telltale's payload (16_snapshot R313). -/
def tellCount (t : BitVec 128) : Word := t.extractLsb' 96 32

def tellId (t : BitVec 128) : Word := t.extractLsb' 64 32

def tellSeq (t : BitVec 128) : Word := t.extractLsb' 32 32

def tellGroup (t : BitVec 128) : Nat := (t.extractLsb' 8 8).toNat

def tellInit (t : BitVec 128) : Bool := t.getLsbD 1

def tellCol (t : BitVec 128) : Colour := if t.getLsbD 0 then .c1 else .c0

/-- TELLTALE (class 11); it is never logged (16_snapshot R315). -/
def telltaleEvent (p : Packet) (s0 : State) : State :=
  if !deliverable 11 p s0 then s0
  else match p.body with
    | .tell t =>
      let c := tellCol t
      if !fellow s0 p.src || decide (tellGroup t ≠ ownGroup s0) then counted p s0
      else
        let s := stampStep p (otherColour c) s0
        let record := recordTell c p.src (tellCount t) (tellId t) (tellInit t)
        if seqBefore (cutSeqOf s (tellGroup t)) (tellSeq t) then
          (if cuttable s c then counted p (record (unholdTell p (inducedCut c (tellId t) s))) else holdTell p s)
        else
          let s1 := unholdTell p s
          let row := colRow s1 c
          if decide (row.st ≠ .free) && decide (row.seq = tellSeq t) then counted p (record s1) else counted p s1
    | _ => counted p s0

def execTelltale (p : Packet) (s : State) : Outcome State Fault Refusal := .next (telltaleEvent p s)

/-! ## Class 12: collective traffic, and the messages of a snapshot's coordinator (log entry 6, DESIGN CHOICE) -/

/-- What a member's message does (log entry 42, DEDUCED); one sent before the sender's cut of the colour's snapshot here (`old`) speaks of an earlier one. -/
def coordAct (src kind : Nat) (c : Colour) (digest : BitVec 256) (flag : Bool) (st : Nat) (id : Word) (old : Bool) (s : State) : State :=
  if !fellow s src then s
  else match kind with
    | 4 => sendCoord s src 5 c 0 false (groupState s c) id
    | 5 => if src = coordinatorOf s c then snapqAnswer c id st s else s
    | k => if old then s else match k with
      | 0 => freeHere c s
      | 1 => ackFrom c src s
      | 2 => commitHere c s
      | 3 => reportFrom c src digest flag s
      | 6 => abortHere c s
      | 7 => abortedAt c src s
      | _ => s

/-- COLLECTIVE_STEP (class 12). -/
def collectiveAct (p : Packet) (s : State) : State × Bool :=
  match p.body with
  | .data _ _ _ _ => mcastStoreAct p s
  | .coord kind c digest flag st id => (coordAct p.src kind c digest flag st id (stampDiffers s p c) s, true)
  | _ => (s, true)

def execCollectiveStep (p : Packet) (s : State) : Outcome State Fault Refusal := .next (deliver 12 collectiveAct p s)

/-- RESERVED_CLASS_PACKET: discarded and counted, and nothing else changes (R342). -/
def reservedPacket (p : Packet) (s : State) : State :=
  if 13 ≤ p.cls.toNat ∧ p.dst = s.fab.lid ∧ s.fab.member = true then { s with fab := { s.fab with discarded := s.fab.discarded + 1 } } else s

def execReservedClassPacket (p : Packet) (s : State) : Outcome State Fault Refusal := .next (reservedPacket p s)

end Sys2Proof.Machine
end

