-- ==== Sys2Proof/Machine/Collective.lean ====
section
/-! DEFINITION. The collective engine's chunks (18_fabric_collectives R350 to R352). -/

namespace Sys2Proof.Machine

open Host (Outcome)

/-! ## Chunks -/

def chunkOf (s : State) (launch chunk : Nat) : Option Chunk := s.chunks.find? (fun k => k.launch == launch && k.chunk == chunk)

def setChunk (s : State) (x : Chunk) : State :=
  { s with chunks := s.chunks.map (fun k => if k.launch = x.launch ∧ k.chunk = x.chunk then x else k) }

def dropChunk (s : State) (x : Chunk) : State := { s with chunks := s.chunks.filter (fun k => !(k.launch == x.launch && k.chunk == x.chunk)) }

/-- The launch's outcome, unless an earlier one has fixed it (13_queues R258). -/
def chunkStatus (s : State) (x : Chunk) (status code pc : Nat) : State :=
  modLaunch s x.launch (fun l => match l.fatal with
    | some _ => l
    | none => { l with fatal := some { status := status, code := code, block := x.chunk, pc := pc, clock := s.clock } })

/-- A step address fails: the chunk stops (R352) (log entry 49, DEDUCED). -/
def chunkFault (s : State) (x : Chunk) (code : Nat) : State := dropChunk (chunkStatus s x 8 code 0) x

/-- The lost members of a group, ascending. -/
def lostMembers (s : State) (d : GroupSpec) : List Nat := sortAsc ((d.members.filter (fun m => lostPkg s m.1)).map (·.1))

/-- The step has completed, with lost members or without. -/
def chunkNext (s : State) (x : Chunk) (lost : List Nat) : State :=
  let s1 := match lost with
    | [] => s
    | m :: _ => chunkStatus s x 9 0 m
  let n := (x.steps.getD []).length
  if x.step + 1 < n then setChunk s1 { x with step := x.step + 1, busy := [], closed := false, dests := [], got := [], cut0 := false, cut1 := false } else dropChunk s1 x

/-- Parts of a range, line by line. -/
def lineParts (a n : Nat) : List (Nat × Nat) :=
  if n = 0 then [] else
  (List.range ((a + n - 1) / 128 - a / 128 + 1)).map (fun k =>
    let lo := max a (128 * (a / 128 + k))
    (lo, min (a + n) (128 * (a / 128 + k + 1)) - lo))

/-- Where a range of the context lies, part by part, or the fault of its first failing part. -/
def enginePlaces (s : State) (ctx va n : Nat) (acc : Acc) : Except Nat (List (Place × Nat)) :=
  if 2 ^ 56 < va + n then .error fcSpace
  else
    let xs := (lineParts va n).map (fun e => (translateNow s ctx e.1 acc, e.2))
    let bad := firstSome (fun e : Xl × Nat => match e.1 with
      | .fault c => some c
      | .hold _ => some fcXlate
      | .place p => if isMcast p then some fcProtect else none) xs
    match bad with
    | some c => .error c
    | none => .ok (xs.filterMap (fun e => match e.1 with
      | .place p => some (p, e.2)
      | _ => none))

/-- Bytes of a range in runs of at most 128. -/
def runParts (a n : Nat) : List (Nat × Nat) := (List.range ((n + 127) / 128)).map (fun k => (a + 128 * k, min 128 (n - 128 * k)))

/-- The number that stands for the engine where a core's L1 is named: it has none. -/
def noCore : Nat := 160

/-- Lines that must come before the engine reads or writes. -/
def chunkAsk (s : State) (write : Bool) (ps : List (Place × Nat)) : Option State :=
  let missing := missingLines s write ps
  let held := heldLines s write ps
  if missing = [] ∧ held = [] then none else some (askLines s noCore missing held)

/-- The Dirty bytes that the block's core holds of a step's ranges go to L2 (10_consistency R206). -/
def settleStep (x : Chunk) (ps : List (Place × Nat)) (s : State) : State := ps.foldl (settleL1 x.core false) s

/-- An engine operation of a gang owns a line of some places. -/
def opsOwn (s : State) (ps : List (Place × Nat)) : Bool :=
  s.ops.any (fun e => (engineDests s e).any (fun d => ps.any (fun q => ownsLine d q.1 q.2)))

/-- A step of a kind as it stands: launch, binding, chunk, step, descriptor. -/
structure ChunkStep where
  launch : Launch
  bind   : CollBind
  chunk  : Chunk
  step   : RouteStep
  grp    : GroupSpec

/-- A chunk fires: its row of the route table is read, as a system-scope acquire (15_tables_counters R292); one that cannot be read fails the
chunk. -/
def fireChunk (l : Launch) (b : CollBind) (x : Chunk) : State → State := fun s =>
  withLines (routeGaps s l.ctx b x.chunk) (fun s => match routeSteps s l.ctx b x.chunk with
    | some steps => setChunk s { x with steps := some steps }
    | none => chunkFault s x fcXlate) s

/-- The chunk's row is read, where it has not been. -/
def fired (launch chunk : Nat) (s : State) : State :=
  match launchOf s launch, chunkOf s launch chunk with
  | some l, some x => (match l.coll, x.steps with
    | some b, none => fireChunk l b x s
    | _, _ => s)
  | _, _ => s

/-- The chunk's current step, where it has the kind asked for. -/
def currentStep (s : State) (launch chunk kind : Nat) : Except State (Option ChunkStep) :=
  match launchOf s launch, chunkOf s launch chunk with
  | some l, some x => match l.coll with
    | some b => match (x.steps.getD [])[x.step]? with
      | some st =>
        if st.kind ≠ kind then .ok none
        else (match groupDesc s st.grp with
          | some d => .ok (some { launch := l, bind := b, chunk := x, step := st, grp := d })
          | none => .error (chunkFault s x fcXlate))
      | none => .ok none
    | none => .ok none
  | _, _ => .ok none

/-- An event on the current step of a kind; the chunk's first event fires it. -/
def onStep (launch chunk kind : Nat) (f : ChunkStep → State → State) (s0 : State) : State :=
  let s := fired launch chunk s0
  match currentStep s launch chunk kind with
  | .ok (some k) => f k s
  | .ok none => s
  | .error t => t

/-! ## PUSH and FLAG -/

/-- Packets of bytes to an aperture, one to a line of it; every member's acknowledgement of each is awaited (log entry 41, DEDUCED). -/
def sendPush (k : ChunkStep) (off : Nat) (bytes : List Byte) (psn : List Nat) (s : State) : State :=
  let parts := lineParts off bytes.length
  let tag0 := tagOf s.fresh 0
  let s1 := { s with fresh := s.fresh + parts.length / 4096 + 1 }
  let s2 := (parts.zipIdx).foldl (fun s e =>
    let bs := slice bytes (e.1.1 - off) e.1.2
    let bad := (List.range 4).foldl (fun m g => if psn.any (fun i => decide (e.1.1 ≤ off + i) && decide (off + i < e.1.1 + e.1.2) &&
      decide ((off + i) % 128 / 32 = g)) then m ||| (1#4 <<< g) else m) 0#4
    sendPkt s (pktOf s ((k.grp.members.map (·.1)).headD 0) 12 ((e.1.2 + 31) / 32) (k.step.grp * 2 ^ 32 + e.1.1)
      (.data (tag0 + e.2) (byteMask (e.1.1 % 128) e.1.2) (lineBytes (e.1.1 % 128) bs) bad))) s1
  setChunk s2 { k.chunk with closed := true, tag0 := tag0, busy := (List.range parts.length).flatMap (fun i => k.grp.members.map (fun m => (tag0 + i) * 2048 + m.1)) }

/-- Packets sent: the step completes with the last acknowledgement; lost members' are not awaited. -/
def pushDone (k : ChunkStep) (s : State) : State :=
  if k.chunk.busy.all (fun b => lostPkg s (b % 2048)) then chunkNext s k.chunk (lostMembers s k.grp) else s

/-- The bytes of a source range, with the poisoned ones. -/
def engineGather (s : State) (ps : List (Place × Nat)) : List Byte × List Nat :=
  ps.foldl (fun a e => let r := engineBytes s noCore e.1 e.2; (a.1 ++ r.1, a.2 ++ r.2.map (a.1.length + ·))) ([], [])

def pushStep (k : ChunkStep) (s : State) : State :=
  if k.chunk.closed then pushDone k s
  else if k.grp.size < k.step.dst + k.step.len then chunkFault s k.chunk fcSpace
  else match enginePlaces s k.launch.ctx (k.bind.rbase + k.step.src) k.step.len .rd with
    | .error c => chunkFault s k.chunk c
    | .ok ps =>
      let s := settleStep k.chunk ps s
      if opsOwn s ps then s else match chunkAsk s false ps with
      | some t => t
      | none => let r := engineGather s ps; sendPush k k.step.dst r.1 r.2 (eccPlaces k.launch.ctx ps s)

/-- COLLECTIVE_PUSH: local bytes to the aperture, as stores of R347. -/
def execCollectivePush (launch chunk : Nat) (s : State) : Outcome State Fault Refusal := .next (onStep launch chunk 0 pushStep s)

def flagStep (k : ChunkStep) (s : State) : State :=
  if k.chunk.closed then pushDone k s
  else match ownRank s k.step.grp with
    | none => chunkFault s k.chunk fcProtect
    | some r =>
      if k.grp.size < k.step.src + 4 * r + 4 then chunkFault s k.chunk fcSpace
      else
        let s := writeBackBelow k.chunk.core 6 s
        if postsOpen s k.launch.ctx then s
        else sendPush k (k.step.src + 4 * r) (leBytes k.bind.epoch.toNat 4) [] s

/-- COLLECTIVE_FLAG: EPOCH at this rank's flag, a release at pod scope. -/
def execCollectiveFlag (launch chunk : Nat) (s : State) : Outcome State Fault Refusal := .next (onStep launch chunk 2 flagStep s)

/-! ## PULL and WAITF -/

/-- The local address of an aperture offset on this member. -/
def ownBase (s : State) (d : GroupSpec) : Nat := ((d.members.find? (fun m => m.1 == s.fab.lid)).map (·.2)).getD 0

/-- Local lines of a range of physical addresses, as places. -/
def physPlaces (a n : Nat) : List (Place × Nat) := (lineParts a n).map (fun e => (.mem e.1 0, e.2))

/-- A PULL's loads toward the home port, 128 bytes each at most (18_fabric_collectives R348; log entry 41, DEDUCED). -/
def sendPull (k : ChunkStep) (s : State) : State :=
  let home := (k.grp.members.map (·.1)).headD 0
  let parts := runParts k.step.src k.step.len
  let tag0 := tagOf s.fresh 0
  let s1 := (parts.zipIdx).foldl (fun s e =>
    sendPkt s (pktOf s home 9 0 (k.step.grp * 2 ^ 32 + e.1.1) (.mload (tag0 + e.2) e.1.2 false))) { s with fresh := s.fresh + parts.length / 4096 + 1 }
  setChunk s1 { k.chunk with closed := true, tag0 := tag0, got := [], busy := (List.range parts.length).map (fun i => (tag0 + i) * 2048 + home) }

/-- Bytes at an offset of the destination, whose places are in order. -/
def putPull (ctx : Nat) (ps : List (Place × Nat)) (off : Nat) (bytes : List Byte) (psn : List Nat) (s : State) : State :=
  (ps.foldl (fun (a : State × Nat) (p : Place × Nat) =>
    let lo := max a.2 off
    let hi := min (a.2 + p.2) (off + bytes.length)
    (if lo < hi then engineWrite (wrPost ctx) noCore (placeAdd p.1 (lo - a.2)) (slice bytes (lo - off) (hi - lo))
      ((psn.filter (fun i => decide (lo ≤ off + i) && decide (off + i < hi))).map (fun i => off + i - lo)) a.1 else a.1, a.2 + p.2)) (s, 0)).1

/-- Answers that have come are written, the named ones or all; the step completes with the last. -/
def takePull (parts : List Nat) (k : ChunkStep) (ps : List (Place × Nat)) (s : State) : State :=
  let now := k.chunk.got.filter (fun e => parts = [] || parts.contains e.1)
  let rest := k.chunk.got.filter (fun e => !(parts = [] || parts.contains e.1))
  let t := setChunk (now.foldl (fun s e => putPull k.launch.ctx ps (128 * e.1) e.2.1 e.2.2 s) s) { k.chunk with got := rest }
  if k.chunk.busy = [] ∧ rest = [] then chunkNext t { k.chunk with got := rest } [] else t

/-- PULL: the step owns its destination lines from its start on (10_consistency R205), and sends its loads; their answers are written as they come; with a
lost member the range is poison (R352). -/
def pullStep (parts : List Nat) (k : ChunkStep) (s : State) : State :=
  let d := k.grp
  let n := k.step.len
  if d.size < k.step.src + n then chunkFault s k.chunk fcSpace
  else if d.op = 0#2 ∨ n % groupElem d ≠ 0 then chunkFault s k.chunk fcProtect
  else match enginePlaces s k.launch.ctx (k.bind.rbase + k.step.dst) n .wr with
    | .error c => chunkFault s k.chunk c
    | .ok ps =>
      if !k.chunk.closed then
        (if opsOwn s ps then s
         else sendPull { k with chunk := { k.chunk with dests := ps } } (askDests noCore ps (settleStep k.chunk ps s)))
      else
        let s := settleStep k.chunk ps s
        match chunkAsk s true ps with
        | some t => t
        | none =>
          if !ps.all (fun p => writeRoom (wrPost k.launch.ctx) s p.1 p.2) then s
          else match lostMembers s d with
            | [] => takePull parts k ps s
            | lost => chunkNext (putPull k.launch.ctx ps 0 (List.replicate n 0) (List.range n) s) k.chunk lost

/-- COLLECTIVE_PULL: `parts` are the loads whose answers are written now, all that have come where it names none. -/
def execCollectivePull (launch chunk : Nat) (parts : List Nat) (s : State) : Outcome State Fault Refusal :=
  .next (onStep launch chunk 1 (pullStep parts) s)

/-- Every member's flag equals EPOCH; a lost member's is not awaited. -/
def waitStep (k : ChunkStep) (s : State) : State :=
  let d := k.grp
  let a := ownBase s d + k.step.src
  if d.size < k.step.src + 4 * d.members.length then chunkFault s k.chunk fcSpace
  else
    let s := settleStep k.chunk (physPlaces a (4 * d.members.length)) s
    if opsOwn s (physPlaces a (4 * d.members.length)) then s
    else match chunkAsk s false (physPlaces a (4 * d.members.length)) with
    | some t => t
    | none =>
      if (d.members.zipIdx).all (fun m => lostPkg s m.1.1 || decide (leNat (dirBytes s (a + 4 * m.2) 4) = k.bind.epoch.toNat)) then
        chunkNext s k.chunk (lostMembers s d)
      else s

/-- COLLECTIVE_WAITF, an acquire at pod scope. -/
def execCollectiveWaitf (launch chunk : Nat) (s : State) : Outcome State Fault Refusal := .next (onStep launch chunk 3 waitStep s)

end Sys2Proof.Machine
end

