-- ==== Sys2Proof/Machine/LaneCross.lean ====
section
/-! DEFINITION. Words across the lanes of one gang: slides, SHFL, RED, SCAN, VOTE (07_isa_lane R141 to R143; 03_numbers R65). -/

namespace Sys2Proof.Machine

open Host (Outcome)

/-- A slide or shuffle: `f` gives each lane's word (R141). -/
def crossWord (i : Instr) (d : BitVec 6) (f : State → Gang → ModFields → Nat → Word) (s : State) : State :=
  runWord i (fun g m act s => laneResults s g 6 d.toNat act (fun l => { bits := (f s g m l).toNat, flags := 0 })) s

def execSlided (d : BitVec 6) (a b : Src) (s : State) : Outcome State Fault Refusal :=
  .next (crossWord (.slided d a b) d (fun s g m l =>
    if l + 1 < g.width then opA s g .int a (l + 1) else opB s g m .int b 0) s)

def execSlideu (d : BitVec 6) (a b : Src) (s : State) : Outcome State Fault Refusal :=
  .next (crossWord (.slideu d a b) d (fun s g m l =>
    if 0 < l then opA s g .int a (l - 1) else opB s g m .int b (g.width - 1)) s)

def execShfl (d : BitVec 6) (a b : Src) (s : State) : Outcome State Fault Refusal :=
  .next (crossWord (.shfl d a b) d (fun s g m l => opA s g .int a ((opB s g m .int b l).toNat % g.width)) s)

/-! ## Folds -/

/-- One float step of a fold (R65): the sum rounded, or minimumNumber and maximumNumber. -/
def foldFloat (f : Fmt) (op mode : Nat) (x y : Nat) : Res :=
  match op with
  | 0 => roundVal f mode (addVal mode (fval f x) (fval f y))
  | 1 => { bits := minNum f x y, flags := 0 }
  | _ => { bits := maxNum f x y, flags := 0 }

/-- One integer step of `n` bits: wraps, or saturates under .sat (R142). -/
def foldInt (n : Nat) (signed : Bool) (op : Nat) (sat : Bool) (x y : Nat) : Res :=
  let rd := fun z : Nat => if signed then sextN z n else (z % 2 ^ n : Nat)
  match op with
  | 0 => finishInt n signed { finPlain with sat := sat } (rd x + rd y)
  | 1 => finishInt n signed finPlain (min (rd x) (rd y))
  | 2 => finishInt n signed finPlain (max (rd x) (rd y))
  | 3 => { bits := Nat.land x y, flags := 0 }
  | 4 => { bits := Nat.lor x y, flags := 0 }
  | _ => { bits := Nat.xor x y, flags := 0 }

/-- One step of RED or SCAN by type (R103, R142). -/
def foldStep (op ty mode : Nat) (sat : Bool) (x y : Word) : Res :=
  match ty with
  | 0 => foldInt 32 true op sat x.toNat y.toNat
  | 1 => foldInt 32 false op false x.toNat y.toNat
  | 2 => foldFloat fmtF32 op mode x.toNat y.toNat
  | 3 => packHalves (fun j => foldFloat fmtF16 op mode (halfOf x j) (halfOf y j))
  | 4 => packHalves (fun j => foldFloat fmtBf16 op mode (halfOf x j) (halfOf y j))
  | _ => packHalves (fun j => foldInt 16 true op sat (halfOf x j) (halfOf y j))

/-- The left fold of R65 over the lanes' values in ascending order: every prefix, with the flags so far. -/
def foldPrefixes (step : Word → Word → Res) : Word → Word → List Word → List (Word × Word)
  | acc, fl, [] => [(acc, fl)]
  | acc, fl, x :: xs => let r := step acc x
    (acc, fl) :: foldPrefixes step (BitVec.ofNat 32 r.bits) (fl ||| r.flags) xs

/-- A float element that is a NaN as the canonical one (R45). -/
def canonVal (f : Fmt) (x : Nat) : Nat := if isNaN f x then fmtNaN f else x

/-- A lane's own value as RED or SCAN gives it, its NaNs canonical (R45, R65; log entry 71, DEDUCED). -/
def foldOwn (ty : Nat) (x : Word) : Word :=
  match ty with
  | 2 => BitVec.ofNat 32 (canonVal fmtF32 x.toNat)
  | 3 => BitVec.ofNat 32 (packHalves (fun j => { bits := canonVal fmtF16 (halfOf x j), flags := 0 })).bits
  | 4 => BitVec.ofNat 32 (packHalves (fun j => { bits := canonVal fmtBf16 (halfOf x j), flags := 0 })).bits
  | _ => x

/-- The prefixes over the lanes `ls`, lowest first; the steps take the lanes' values as they stand, so a signalling NaN sets its flag. -/
def foldLanes (s : State) (g : Gang) (m : ModFields) (op ty : Nat) (ity : ITy) (a : Src) (ls : List Nat) : List (Word × Word) :=
  match ls.map (opA s g ity a) with
  | [] => []
  | x :: xs => match foldPrefixes (foldStep op ty (effMode g m) m.sat) x 0 xs with
    | [] => []
    | _ :: rs => (foldOwn ty x, 0) :: rs

/-- The immediate type of a fold's operand (R80). -/
def foldImm (ty : Nat) : ITy :=
  match ty with
  | 2 => .f32
  | 3 => .f16x2
  | 4 => .bf16x2
  | 5 => .s16x2
  | _ => .int

def execRed (op : BitVec 4) (ty : BitVec 3) (d : BitVec 6) (a : Src) (s : State) : Outcome State Fault Refusal :=
  .next (runWord (.red op ty d a) (fun g m act s =>
    let r := (foldLanes s g m op.toNat ty.toNat (foldImm ty.toNat) a (lanesOf act)).getLastD (0, 0)
    pushPend s g 10 ((lanesOf act).map (fun l => .write (.v l d.toNat) r.1) ++ flagAct r.2)) s)

def execScan (op : BitVec 4) (ty : BitVec 3) (d : BitVec 6) (a : Src) (s : State) : Outcome State Fault Refusal :=
  .next (runWord (.scan op ty d a) (fun g m act s =>
    let rs := foldLanes s g m op.toNat ty.toNat (foldImm ty.toNat) a (lanesOf act)
    pushPend s g 10 (((lanesOf act).zip rs).map (fun e => .write (.v e.1 d.toNat) e.2.1) ++ flagAct (rs.getLastD (0, 0)).2)) s)

/-- The active lanes that vote true (R143). -/
def votes (s : State) (g : Gang) (a : Src) (act : LaneMask) : LaneMask :=
  maskOf ((lanesOf act).filter (fun l => decide (opA s g .int a l ≠ 0)))

def voteWord (i : Instr) (d : BitVec 6) (a : Src) (f : LaneMask → LaneMask → Word) (s : State) : State :=
  runWord i (fun g _ act s => laneResults s g 10 d.toNat act (fun _ => { bits := (f act (votes s g a act)).toNat, flags := 0 })) s

def execVoteAny (d : BitVec 6) (a : Src) (s : State) : Outcome State Fault Refusal :=
  .next (voteWord (.voteAny d a) d a (fun _ v => if v = 0 then 0 else 1) s)

def execVoteAll (d : BitVec 6) (a : Src) (s : State) : Outcome State Fault Refusal :=
  .next (voteWord (.voteAll d a) d a (fun act v => if v = act then 1 else 0) s)

def execVoteBallot (d : BitVec 6) (a : Src) (s : State) : Outcome State Fault Refusal :=
  .next (runWord (.voteBallot d a) (fun g _ act s => lanePairs s g 10 d.toNat act (fun _ => votes s g a act)) s)

def execVoteCount (d : BitVec 6) (a : Src) (s : State) : Outcome State Fault Refusal :=
  .next (voteWord (.voteCount d a) d a (fun _ v => BitVec.ofNat 32 (popcount v)) s)

end Sys2Proof.Machine
end

