-- ==== Sys2Proof/Machine/LaneFloat.lean ====
section
/-! DEFINITION. FP32, f16 and bf16 arithmetic (07_isa_lane R129 to R131), float compares (R135), the transcendentals (R140). -/

namespace Sys2Proof.Machine

open Host (Outcome)

/-- The arithmetic of an element on patterns a, b and d, operand modifiers applied: FADD, FSUB, FMUL, FFMA and their packed forms. -/
inductive FOp where
  | add
  | sub
  | mul
  | fma
deriving DecidableEq, Repr

/-- The exact value of R48 and R129. -/
def fopVal (op : FOp) (f : Fmt) (mode a b d : Nat) : FVal :=
  match op with
  | .add => addVal mode (fval f a) (fval f b)
  | .sub => addVal mode (fval f a) (fneg (fval f b))
  | .mul => mulVal (fval f a) (fval f b)
  | .fma => fmaVal mode (fval f a) (fval f b) (fval f d)

/-- One element: operand modifiers, the operation, finishing (R54, R129, R131). -/
def fopElem (op : FOp) (f : Fmt) (m : ModFields) (q : Fin) (a b d : Nat) : Res :=
  finishFloat f q (fopVal op f q.mode (floatOp f m.absa m.nega a) (floatOp f m.absb m.negb b) d)

/-- An FP32 word. -/
def fp32Word (i : Instr) (op : FOp) (d : BitVec 6) (a b : Src) (s : State) : State :=
  runWord i (fun g m act s => laneResults s g 4 d.toNat act (fun l =>
    fopElem op fmtF32 m (finOf g m) (opA s g .f32 a l).toNat (opB s g m .f32 b l).toNat (rdV s g l d.toNat).toNat)) s

/-- A packed word: each half on its own (R131). -/
def packedFloat (i : Instr) (op : FOp) (f : Fmt) (ty : ITy) (d : BitVec 6) (a b : Src) (s : State) : State :=
  runWord i (fun g m act s => laneResults s g 4 d.toNat act (fun l => packHalves (fun j =>
    fopElem op f m (finHalf (finOf g m) j) (halfOf (opA s g ty a l) j) (halfOf (opB s g m ty b l) j) (halfOf (rdV s g l d.toNat) j)))) s

/-- FMIN and FMAX (R129): exact, negated under .neg unless a NaN, clamped. -/
def minMaxElem (mx : Bool) (m : ModFields) (q : Fin) (a b : Nat) : Res :=
  let x := floatOp fmtF32 m.absa m.nega a
  let y := floatOp fmtF32 m.absb m.negb b
  let z := if mx then maxNum fmtF32 x y else minNum fmtF32 x y
  clampF fmtF32 q.clamp q.lo q.hi (if m.neg && !isNaN fmtF32 z then floatOp fmtF32 false true z else z)

def minMaxWord (i : Instr) (mx : Bool) (d : BitVec 6) (a b : Src) (s : State) : State :=
  runWord i (fun g m act s => laneResults s g 4 d.toNat act (fun l =>
    minMaxElem mx m (finOf g m) (opA s g .f32 a l).toNat (opB s g m .f32 b l).toNat)) s

def execFadd (d : BitVec 6) (a b : Src) (s : State) : Outcome State Fault Refusal := .next (fp32Word (.fadd d a b) .add d a b s)

def execFsub (d : BitVec 6) (a b : Src) (s : State) : Outcome State Fault Refusal := .next (fp32Word (.fsub d a b) .sub d a b s)

def execFmul (d : BitVec 6) (a b : Src) (s : State) : Outcome State Fault Refusal := .next (fp32Word (.fmul d a b) .mul d a b s)

def execFfma (d : BitVec 6) (a b : Src) (s : State) : Outcome State Fault Refusal := .next (fp32Word (.ffma d a b) .fma d a b s)

def execFmin (d : BitVec 6) (a b : Src) (s : State) : Outcome State Fault Refusal := .next (minMaxWord (.fmin d a b) false d a b s)

def execFmax (d : BitVec 6) (a b : Src) (s : State) : Outcome State Fault Refusal := .next (minMaxWord (.fmax d a b) true d a b s)

def execHadd (d : BitVec 6) (a b : Src) (s : State) : Outcome State Fault Refusal :=
  .next (packedFloat (.hadd d a b) .add fmtF16 .f16x2 d a b s)

def execHmul (d : BitVec 6) (a b : Src) (s : State) : Outcome State Fault Refusal :=
  .next (packedFloat (.hmul d a b) .mul fmtF16 .f16x2 d a b s)

def execHfma (d : BitVec 6) (a b : Src) (s : State) : Outcome State Fault Refusal :=
  .next (packedFloat (.hfma d a b) .fma fmtF16 .f16x2 d a b s)

def execBadd (d : BitVec 6) (a b : Src) (s : State) : Outcome State Fault Refusal :=
  .next (packedFloat (.badd d a b) .add fmtBf16 .bf16x2 d a b s)

def execBmul (d : BitVec 6) (a b : Src) (s : State) : Outcome State Fault Refusal :=
  .next (packedFloat (.bmul d a b) .mul fmtBf16 .bf16x2 d a b s)

def execBfma (d : BitVec 6) (a b : Src) (s : State) : Outcome State Fault Refusal :=
  .next (packedFloat (.bfma d a b) .fma fmtBf16 .bf16x2 d a b s)

def execFcmp (pd cond : BitVec 3) (a b : Src) (s : State) : Outcome State Fault Refusal :=
  .next (runWord (.fcmp pd cond a b) (fun g m act s => predResults s g 4 pd.toNat act (fun l =>
    floatCond fmtF32 cond.toNat (floatOp fmtF32 m.absa m.nega (opA s g .f32 a l).toNat)
      (floatOp fmtF32 m.absb m.negb (opB s g m .f32 b l).toNat))) s)

def execHcmp (pd cond : BitVec 3) (a b : Src) (s : State) : Outcome State Fault Refusal :=
  .next (runWord (.hcmp pd cond a b) (fun g m act s => predResults s g 4 pd.toNat act (fun l =>
    floatCond fmtF16 cond.toNat (floatOp fmtF16 m.absa m.nega (halfOf (opA s g .f16x2 a l) 0))
      (floatOp fmtF16 m.absb m.negb (halfOf (opB s g m .f16x2 b l) 0)))) s)

/-- A transcendental (R51, R140). -/
def xfnWord (i : Instr) (code : Nat) (d : BitVec 6) (a : Src) (s : State) : State :=
  runWord i (fun g m act s => laneResults s g 12 d.toNat act (fun l =>
    xfn code (effMode g m) (fval fmtF32 (floatOp fmtF32 m.absa m.nega (opA s g .f32 a l).toNat)))) s

def execXfnRcp (d : BitVec 6) (a : Src) (s : State) : Outcome State Fault Refusal := .next (xfnWord (.xfnRcp d a) 0 d a s)

def execXfnRsq (d : BitVec 6) (a : Src) (s : State) : Outcome State Fault Refusal := .next (xfnWord (.xfnRsq d a) 1 d a s)

def execXfnSqrt (d : BitVec 6) (a : Src) (s : State) : Outcome State Fault Refusal := .next (xfnWord (.xfnSqrt d a) 2 d a s)

def execXfnExp2 (d : BitVec 6) (a : Src) (s : State) : Outcome State Fault Refusal := .next (xfnWord (.xfnExp2 d a) 3 d a s)

def execXfnLog2 (d : BitVec 6) (a : Src) (s : State) : Outcome State Fault Refusal := .next (xfnWord (.xfnLog2 d a) 4 d a s)

def execXfnSin (d : BitVec 6) (a : Src) (s : State) : Outcome State Fault Refusal := .next (xfnWord (.xfnSin d a) 5 d a s)

def execXfnCos (d : BitVec 6) (a : Src) (s : State) : Outcome State Fault Refusal := .next (xfnWord (.xfnCos d a) 6 d a s)

def execXfnTanh (d : BitVec 6) (a : Src) (s : State) : Outcome State Fault Refusal := .next (xfnWord (.xfnTanh d a) 7 d a s)

end Sys2Proof.Machine
end

