-- ==== Sys2Proof/Machine/LaneInt.lean ====
section
/-! DEFINITION. Integer and bit words (07_isa_lane R128), compares of integers, SEL and PLOG (R135, R136; 08_isa_control R162), and
RAND (R144). -/

namespace Sys2Proof.Machine

open Host (Outcome)

/-- An integer word whose exact result is finished as s32; `y` takes the operands and, for IMAD, d (R128). -/
def finishedInt (i : Instr) (lat : Nat) (d : BitVec 6) (a b : Src) (y : Int → Int → Int → Int) (s : State) : State :=
  runWord i (fun g m act s => laneResults s g lat d.toNat act (fun l =>
    finishInt 32 true (finOf g m) (y (intOp m.absa m.nega (opA s g .int a l)) (intOp m.absb m.negb (opB s g m .int b l))
      (rdV s g l d.toNat).toInt))) s

/-- An integer word that writes its 32-bit pattern directly (R128); `y` takes the operands and d. -/
def plainInt (i : Instr) (lat : Nat) (d : BitVec 6) (a b : Src) (y : Word → Word → Word → Word) (s : State) : State :=
  runWord i (fun g m act s => laneResults s g lat d.toNat act (fun l =>
    { bits := (y (opA s g .int a l) (opB s g m .int b l) (rdV s g l d.toNat)).toNat, flags := 0 })) s

/-- The shift count of SHL, SHR and SAR: zext(b, 8) (R128). -/
def shiftCount (b : Word) : Nat := bitsN b.toNat 0 8

def shlWord (a b : Word) : Word := if 32 ≤ shiftCount b then 0 else a <<< shiftCount b

def shrWord (a b : Word) : Word := if 32 ≤ shiftCount b then 0 else a >>> shiftCount b

def sarWord (a b : Word) : Word := a.sshiftRight (min (shiftCount b) 31)

/-- Position and length of BFE and BFI (R128). -/
def fieldPos (b : Word) : Nat := bitsN b.toNat 0 5

def fieldLen (b : Word) : Nat := min (bitsN b.toNat 8 6) 32

def bfeWord (a b : Word) : Word := BitVec.ofNat 32 (bitsN a.toNat (fieldPos b) (fieldLen b))

/-- Bits [pos + len - 1 : pos] of d replaced; bits above 31 are not written. -/
def bfiWord (a b d : Word) : Word :=
  let mask : Word := BitVec.ofNat 32 ((2 ^ fieldLen b - 1) * 2 ^ fieldPos b)
  (d &&& ~~~mask) ||| (BitVec.ofNat 32 (a.toNat * 2 ^ fieldPos b) &&& mask)

def minS (a b : Word) : Word := if a.toInt ≤ b.toInt then a else b
def maxS (a b : Word) : Word := if a.toInt ≤ b.toInt then b else a
def minN (a b : Word) : Word := if a.toNat ≤ b.toNat then a else b
def maxN (a b : Word) : Word := if a.toNat ≤ b.toNat then b else a

def execIadd (d : BitVec 6) (a b : Src) (s : State) : Outcome State Fault Refusal :=
  .next (finishedInt (.iadd d a b) 4 d a b (fun x y _ => x + y) s)

def execIsub (d : BitVec 6) (a b : Src) (s : State) : Outcome State Fault Refusal :=
  .next (finishedInt (.isub d a b) 4 d a b (fun x y _ => x - y) s)

def execImul (d : BitVec 6) (a b : Src) (s : State) : Outcome State Fault Refusal :=
  .next (finishedInt (.imul d a b) 6 d a b (fun x y _ => x * y) s)

def execImulhs (d : BitVec 6) (a b : Src) (s : State) : Outcome State Fault Refusal :=
  .next (plainInt (.imulhs d a b) 6 d a b (fun x y _ => wrap32 (floorShr (x.toInt * y.toInt) 32)) s)

def execImulhn (d : BitVec 6) (a b : Src) (s : State) : Outcome State Fault Refusal :=
  .next (plainInt (.imulhn d a b) 6 d a b (fun x y _ => BitVec.ofNat 32 (x.toNat * y.toNat / 2 ^ 32)) s)

def execImad (d : BitVec 6) (a b : Src) (s : State) : Outcome State Fault Refusal :=
  .next (finishedInt (.imad d a b) 6 d a b (fun x y z => x * y + z) s)

def execImins (d : BitVec 6) (a b : Src) (s : State) : Outcome State Fault Refusal :=
  .next (plainInt (.imins d a b) 4 d a b (fun x y _ => minS x y) s)

def execIminn (d : BitVec 6) (a b : Src) (s : State) : Outcome State Fault Refusal :=
  .next (plainInt (.iminn d a b) 4 d a b (fun x y _ => minN x y) s)

def execImaxs (d : BitVec 6) (a b : Src) (s : State) : Outcome State Fault Refusal :=
  .next (plainInt (.imaxs d a b) 4 d a b (fun x y _ => maxS x y) s)

def execImaxn (d : BitVec 6) (a b : Src) (s : State) : Outcome State Fault Refusal :=
  .next (plainInt (.imaxn d a b) 4 d a b (fun x y _ => maxN x y) s)

def execAnd (d : BitVec 6) (a b : Src) (s : State) : Outcome State Fault Refusal :=
  .next (plainInt (.and d a b) 4 d a b (fun x y _ => x &&& y) s)

def execOr (d : BitVec 6) (a b : Src) (s : State) : Outcome State Fault Refusal :=
  .next (plainInt (.or d a b) 4 d a b (fun x y _ => x ||| y) s)

def execXor (d : BitVec 6) (a b : Src) (s : State) : Outcome State Fault Refusal :=
  .next (plainInt (.xor d a b) 4 d a b (fun x y _ => x ^^^ y) s)

def execAndn (d : BitVec 6) (a b : Src) (s : State) : Outcome State Fault Refusal :=
  .next (plainInt (.andn d a b) 4 d a b (fun x y _ => x &&& ~~~y) s)

def execShl (d : BitVec 6) (a b : Src) (s : State) : Outcome State Fault Refusal :=
  .next (plainInt (.shl d a b) 4 d a b (fun x y _ => shlWord x y) s)

def execShr (d : BitVec 6) (a b : Src) (s : State) : Outcome State Fault Refusal :=
  .next (plainInt (.shr d a b) 4 d a b (fun x y _ => shrWord x y) s)

def execSar (d : BitVec 6) (a b : Src) (s : State) : Outcome State Fault Refusal :=
  .next (plainInt (.sar d a b) 4 d a b (fun x y _ => sarWord x y) s)

def execRot (d : BitVec 6) (a b : Src) (s : State) : Outcome State Fault Refusal :=
  .next (plainInt (.rot d a b) 4 d a b (fun x y _ => x.rotateLeft (shiftCount y % 32)) s)

def execBfe (d : BitVec 6) (a b : Src) (s : State) : Outcome State Fault Refusal :=
  .next (plainInt (.bfe d a b) 4 d a b (fun x y _ => bfeWord x y) s)

def execBfi (d : BitVec 6) (a b : Src) (s : State) : Outcome State Fault Refusal :=
  .next (plainInt (.bfi d a b) 4 d a b (fun x y z => bfiWord x y z) s)

def execIcmp (pd cond : BitVec 3) (a b : Src) (s : State) : Outcome State Fault Refusal :=
  .next (runWord (.icmp pd cond a b) (fun g m act s => predResults s g 4 pd.toNat act (fun l =>
    intCond cond.toNat (opA s g .int a l) (opB s g m .int b l))) s)

def execSel (d : BitVec 6) (a : Src) (b : BitVec 6) (p : BitVec 3) (s : State) : Outcome State Fault Refusal :=
  .next (runWord (.sel d a b p) (fun g m act s => laneResults s g 4 d.toNat act (fun l =>
    { bits := (if predOf g l p.toNat then opA s g .int a l else opB s g m .int (.vec 0#2 b) l).toNat, flags := 0 })) s)

def execPlog (pd op a b : BitVec 3) (s : State) : Outcome State Fault Refusal :=
  .next (runWord (.plog pd op a b) (fun g _ act s => predResults s g 4 pd.toNat act (fun l =>
    predLogic op.toNat (predOf g l a.toNat) (predOf g l b.toNat))) s)

/-! ## RAND (03_numbers R68) -/

/-- One round of `rand64`. -/
def randRound (key x : BitVec 64) (i : Nat) (mul : BitVec 64) (sh : Nat) : BitVec 64 :=
  let y := (x ^^^ key.rotateLeft (16 * i)) * mul
  y ^^^ (y >>> sh)

/-- `rand64` (R68). -/
def rand64 (key ctr : BitVec 64) : BitVec 64 :=
  randRound key (randRound key (randRound key (randRound key ctr 0 0x8F3B52C16D07A9E5#64 31) 1 0xB4D219A7E36C58F1#64 27) 2
    0xD60E8B3591F42C7B#64 33) 3 0x9A71C4E83B25D063#64 29

def execRand (d : BitVec 6) (a b : Src) (s : State) : Outcome State Fault Refusal :=
  .next (runWord (.rand d a b) (fun g m act s => lanePairs s g 4 d.toNat act (fun l =>
    rand64 (op64 s g a l) (op64 s g b (xbarLane g (xbbPat m) l)))) s)

end Sys2Proof.Machine
end

