-- ==== Sys2Proof/Machine/Snapshot.lean ====
section
/-! DEFINITION. Snapshots after the cut: the image's bytes and digests (16_snapshot R317, R318, R384), sweep, completion, durability, freeing, abort
(R309, R319 to R322), and the requests and questions of a snapshot (R301; 17_isa_sync_system R340). -/

namespace Sys2Proof.Machine

open Host (Outcome)

/-! ## The stream (R317, R384) -/

/-- A record: header and payload. -/
def recBytesOf (type loc ctx : Nat) (psn zmap : Bool) (payload : List Byte) : List Byte :=
  leBytes (type + (if zmap then 256 else 0) + (if psn then 512 else 0) + 65536 * (ctx % 65536) + 2 ^ 32 * payload.length + 2 ^ 64 * (loc % 2 ^ 64)) 16 ++
    payload

/-- A mask of one bit per entry. -/
def maskNat (is : List Nat) : Nat := is.foldl (fun n i => n ||| 2 ^ i) 0

/-- A unit of `n` words: its mask, the nonzero words ascending, the poison mask where there is one. -/
def unitBytes (type loc ctx n : Nat) (ws : List (Nat × Word)) (psn : List Nat) : List Byte :=
  recBytesOf type loc ctx (decide (psn ≠ [])) false
    (leBytes (maskNat (ws.map (·.1))) (n / 8) ++ ws.flatMap (fun w => leBytes w.2.toNat 4) ++
      (if psn = [] then [] else leBytes (maskNat psn) (n / 8)))

/-- Exactly `n` bytes. -/
def fitBytes (n : Nat) (bs : List Byte) : List Byte := bs.take n ++ List.replicate (n - bs.length) 0

/-- The header flit of a packet (18_fabric_collectives R342). -/
def flitBytes (p : Packet) : List Byte :=
  leBytes ((Config.classFields p.body).toNat + 2 ^ 136 * (p.addr % 2 ^ 56) + 2 ^ 192 * (p.len % 16) + 2 ^ 196 * p.cls.toNat +
    2 ^ 200 * (p.dst % 2048) + 2 ^ 211 * (p.src % 2048) + 2 ^ 222 * p.stamp.toNat + 2 ^ 224 * p.seq.toNat) 32

/-- Words of a unit of capture. -/
def unitWords : CapUnit → Nat
  | .line _ _ => 32
  | .bank _ _ => 1024
  | .range _ _ => 1024
  | .slice _ _ _ => 128
  | .l1 _ _ => 32
  | .l2 _ => 32
  | .save _ _ => 32

/-- The nonzero words of a line's bytes. -/
def lineNonzero (bytes : List Byte) : List (Nat × Word) := nonzeroWords (fun w => wordAt (fun i => bytes.getD i 0) w) 32

/-- Words of one line of a save-area entry; a record's and the temporal array's layout is the implementation's own, as a free value gives it (log
entries 13 and 78, DESIGN CHOICE). -/
def saveWords (line : Nat) (v : Saved) : List (Nat × Word) :=
  match v.key with
  | .slice _ _ _ => v.words.map (fun e => (e.1 % 32, e.2))
  | .bank _ _ => v.words.map (fun e => (e.1 % 32, e.2))
  | .obuf _ _ _ => nonzeroWords (fun w => wordAt (fun k => Sparse.get 0#8 v.bytes (128 * line + k)) w) 32
  | .acc _ _ => nonzeroWords (fun w => wordAt (fun k => Sparse.get 0#8 v.bytes (128 * line + k)) w) 32
  | _ => nonzeroWords (fun w => wordAt (fun k => (fitBytes 128 (Config.eagerBytes v)).getD k 0) w) 32

/-- Payload bytes of a packet that is logged whole: a line's 128 bytes where LEN is 4, else the bytes that its mask names; operands in lane order (log
entry 6, DESIGN CHOICE). -/
def bodyBytes (len : Nat) : PktBody → List Byte
  | .data _ mask bytes _ => if len = 4 then bytes else (maskBytes mask bytes).map (·.2)
  | .atomic _ op wide _ _ os =>
    let n := if wide then 8 else 4
    os.flatMap (fun e => leBytes e.1.toNat n ++ (if opndBytes op.toNat wide = n then [] else leBytes e.2.toNat n))
  | .tell t => leBytes t.toNat 16
  | _ => []

def snapBytes : SnapRec → List Byte
  | .eager ctx e => recBytesOf 1 (Config.eagerLoc e).toNat ctx false false (leBytes Config.layoutTag.toNat 16 ++ Config.eagerBytes e)
  | .line ctx va ws psn zmap => if zmap then recBytesOf 2 va ctx false true [] else unitBytes 2 va ctx 32 ws psn
  | .bank ctx _ i ws psn => unitBytes 3 (4096 * i) ctx 1024 ws psn
  | .range ctx _ _ loc ws psn => unitBytes 4 loc ctx 1024 ws psn
  | .slice ctx gid b k ws psn => unitBytes 5 (65536 * gid + 256 * b + k) ctx 128 ws (psn.map (·.1))
  | .patch ctx u loc ws _ => unitBytes 6 loc ctx (unitWords u) ws []
  | .packet src seq p whole => recBytesOf 7 (2 ^ 32 * (src % 2048) + seq.toNat) 0 false false
      (flitBytes p ++ (if whole then fitBytes (32 * p.len) (bodyBytes p.len p.body) else []))
  | .l1 ctx va mask bs psn => recBytesOf 8 va ctx (decide (psn ≠ [])) false
      (leBytes mask.toNat 16 ++ fitBytes ((bs.length + 3) / 4 * 4) bs ++ (if psn = [] then [] else leBytes (maskNat psn) 4))
  | .l2 ctx va _ _ bs psn => unitBytes 9 va ctx 32 (lineNonzero bs) psn
  | .save ctx line v => unitBytes 10 (Config.eagerLoc (v.key, line)).toNat ctx 32 (saveWords line v)
      (sortAsc ((v.psn ++ v.marks.map (·.1)).map (· % 32)))
  | .fin => recBytesOf 15 0 0 false false []

def streamBytes (rs : List SnapRec) : List Byte := rs.flatMap snapBytes

/-- Digests of the 1 MiB chunks (R318). -/
def byteDigests (bs : List Byte) : List (BitVec 256) := (chunksOf 1048576 (bs.length / 1048576 + 1) bs).map sha256

def chunkDigests (rs : List SnapRec) : List (BitVec 256) := byteDigests (streamBytes rs)

/-- The root digest: of the chunk digests, in order. -/
def rootDigest (ds : List (BitVec 256)) : BitVec 256 := sha256 (ds.flatMap (fun d => beBytes d.toNat 32))

/-- The digest trailer (R318): the chunk count, of 8 bytes, the digests, the root (log entry 13, DESIGN CHOICE). -/
def trailerBytes (ds : List (BitVec 256)) : List Byte :=
  leBytes ds.length 8 ++ ds.flatMap (fun d => beBytes d.toNat 32) ++ beBytes (rootDigest ds).toNat 32

/-! ## Sweep and queues (R309, 13_queues R271) -/

def sweptOne (s : State) (ctx : Nat) : State := modCtx s ctx (fun r => { r with swept := r.swept + 1 })

/-- HALYARD_SWEEP: a unit still tagged is read, sent and untagged. -/
def sweepUnit (c : Colour) (u : CapUnit) (s : State) : State :=
  if !capturing s c then s
  else match u with
  | .line ctx va =>
    (match s.ptags.find? (fun t => decide (t.col = c) && t.ctx == ctx && decide (t.va ≤ va) && decide (va < t.va + 128 * t.lines) &&
        !t.done.contains ((va - t.va) / 128)) with
     | some t => let i := (va - t.va) / 128; sweptOne (pageLineDone (emitRec s c (lineRec s t i)) t i) t.ctx
     | none => s)
  | .l1 core line =>
    (s.l1.filter (fun r => r.core == core && r.line == line && l1Mark r c)).foldl (fun s r =>
      sweptOne { emitRec s c (l1Rec r) with
        l1 := s.l1.map (fun x => if x.core == r.core && x.line == r.line && x.peer == r.peer then setMark1 c false x else x) } r.ctx) s
  | .l2 line =>
    (match l2Line s true line with
     | some r =>
       let m := match c with
         | .c0 => r.cap0
         | .c1 => r.cap1
       if m then sweptOne (setL2 (emitRec s c (l2Rec r)) (setMark2 c false r)) r.ctx else s
     | none => s)
  | u =>
    if !tagged s c u then s
    else match unitRec s u with
      | some (ctx, _, r) => sweptOne (untag (emitRec s c r) c u) ctx
      | none => untag s c u

def execHalyardSweep (c : Colour) (u : CapUnit) (s : State) : Outcome State Fault Refusal := .next (sweepUnit c u s)

/-! ### Targets (01_device R17, 13_queues R271, R320) -/

/-- What a colour's engines hold, by that of die 0: firmware gives every die the same target (log entry 81, DESIGN CHOICE). -/
def targetRow (s : State) (c : Colour) : Option HalRow := s.halyard.find? (fun h => h.die == 0 && decide (h.col = c))

/-- Where the colour's image goes: the engines' target, or the one to which firmware is copying it. -/
def halTarget (s : State) (c : Colour) : Option TargetDesc := (targetRow s c).map (fun h => h.copy.getD h.desc)

def isNvme (d : TargetDesc) : Bool :=
  match d.kind with
  | .nvme _ => true
  | _ => false

/-- CAPTURE_QUEUE_ROOM: the target accepts a record of a die's queue; a namespace through the die's submission queue. -/
def captureRoom (die : Nat) (c : Colour) (s : State) : State :=
  let n := capCount s die c
  let s1 := setCapCount s die c (n - 1)
  if 0 < n ∧ (halTarget s c).any isNvme = true then modHalDie s1 die c (fun h => { h with subm := h.subm + 1 }) else s1

def execCaptureQueueRoom (die : Nat) (c : Colour) (s : State) : Outcome State Fault Refusal := .next (captureRoom die c s)

/-- The first byte past the images that a target holds. -/
def targetTop (s : State) (k : TargetKind) : Nat :=
  s.images.foldl (fun n m => m.places.foldl (fun n p => if p.1 = k then max n (p.2 + m.size) else n) n) 0

/-- Bytes written at the expander's memory of this package (01_device R17), L1's clean copies gone. -/
def writeWindow (pa : Nat) (bytes : List Byte) (s : State) : State :=
  let lines := (List.range ((pa + bytes.length) / 128 - pa / 128 + 1)).map (pa / 128 + ·)
  let t := lines.foldl l2ToMem (writePhys (wrPost 0) pa 0 bytes s)
  { t with l1 := t.l1.filter (fun r => r.peer || !lines.contains r.line || decide (r.dirty ≠ 0)) }

/-- Bytes sent to another package's memory, a packet to a line, each acknowledged; tag 4 or 5 is the colour's. -/
def sendTarget (c : Colour) (ga : Nat) (bytes : List Byte) (s : State) : State :=
  (List.range ((ga + bytes.length + 127) / 128 - ga / 128)).foldl (fun s k =>
    let l := ga / 128 + k
    let lo := max ga (128 * l)
    let hi := min (ga + bytes.length) (128 * (l + 1))
    sendPkt s (pktOf s (l * 128 / 2 ^ 45) 4 4 (128 * l) (.data (4 + colBit c) (byteMask (lo % 128) (hi - lo))
      (lineBytes (lo % 128) (slice bytes (lo - ga) (hi - lo))) 0))) s

/-- An image's bytes written at a target from an offset on, where the target takes them: a window of live expanders that has room, another package
of the pod, a namespace (log entry 81, DESIGN CHOICE). -/
def putTarget (c : Colour) (d : TargetDesc) (off : Nat) (bytes : List Byte) (s : State) : Option State :=
  match d.kind with
  | .cxl base size =>
    if off + bytes.length ≤ size ∧ Config.cxlBase ≤ base ∧ base + size ≤ Config.cxlBase + s.boot.cxlBytes ∧
        s.boot.cxlLost.all (fun e => decide (e.1 + e.2 ≤ base) || decide (base + size ≤ e.1)) = true then
      some (writeWindow (base + off) bytes s) else none
  | .peer ga =>
    let n := (ga + off + bytes.length + 127) / 128 - (ga + off) / 128
    if (ga + off) / 2 ^ 45 ≠ s.fab.lid ∧ (ga + off + bytes.length) / 2 ^ 45 = (ga + off) / 2 ^ 45 ∧ podReachable s ((ga + off) / 2 ^ 45) = true then
      some (modHalDie (sendTarget c (ga + off) bytes s) 0 c (fun h => { h with subm := h.subm + n })) else none
  | .nvme _ => some (modHalDie s 0 c (fun h => { h with subm := h.subm + 1 }))

/-! ## Completion (R319) -/

/-- Nothing of the cut is still to come. -/
def captureDone (s : State) (c : Colour) : Bool :=
  s.tags.all (fun t => decide (t.col ≠ c)) && s.ptags.all (fun t => decide (t.col ≠ c)) && s.l1.all (fun x => !l1Mark x c) &&
    s.l2.all (fun x => match c with
      | .c0 => !x.cap0
      | .c1 => !x.cap1) &&
    s.ops.all (fun o => !preOf o c) && s.chunks.all (fun k => !copiesDue c s.fab.lid k) && s.fab.chans.all (fun x => !chanLog x c) &&
    s.capQ.all (fun e => decide (e.2.1 ≠ c))

/-- The coordinator's id, as the telltales tell it (R314). -/
def settledId (r : ColourRow) : Word := ((sortBy (·.1) r.inits).head?.map (·.2)).getD r.snid

/-- LOCAL_DONE: the trailer, the image whole at its target, the settled id, the report. -/
def localDoneEvent (c : Colour) (s : State) : State :=
  let r := colRow s c
  if r.st ≠ .capturing ∨ captureDone s c = false then s
  else match targetRow s c with
    | none => s
    | some h =>
      let d := h.desc
      let recs := r.stream ++ [.fin]
      let bytes := streamBytes recs
      let ds := chunkDigests recs
      let off := targetTop s d.kind
      match putTarget c d off (bytes ++ trailerBytes ds) (modHalyard s c (fun h => { h with copy := none })) with
      | none => s
      | some t =>
        let img : Image := { group := r.group, id := settledId r, lid := s.fab.lid, recs := recs, chunks := ds, root := rootDigest ds, complete := false,
                             size := (bytes ++ trailerBytes ds).length, places := [(d.kind, off)] }
        let s1 := { t with images := t.images.filter (fun m => !(m.group == img.group && m.id == img.id && m.lid == img.lid)) ++ [img] }
        reportHere c false (modCol s1 c (fun r => { r with st := .localDone, snid := img.id, stream := recs, root := some img.root }))

def execLocalDone (c : Colour) (s : State) : Outcome State Fault Refusal := .next (localDoneEvent c s)

/-- An image of a group's member, one of another package, that targets outside this package hold: a restoration here may name it (R323; log entry 89,
DESIGN CHOICE). -/
def imageStored (m : Image) (s : State) : State :=
  let outside := m.places.filter (fun p => match p.1 with
    | .cxl _ _ => false
    | _ => true)
  if s.images.any (fun x => x.group == m.group && x.id == m.id && x.lid == m.lid) then s else { s with images := s.images ++ [{ m with places := outside }] }

/-! ## Durability (R320) -/

def ownPdom (s : State) : Nat :=
  match podEntry s s.fab.lid with
  | some e => e.pdom
  | none => 0

/-- The target's power domain: the peer package's, or the one that the host declares, by default the package's own. -/
def targetPdom (s : State) (d : TargetDesc) : Nat :=
  match d.kind with
  | .peer ga => (match podEntry s (ga / 2 ^ 45) with
    | some e => e.pdom
    | none => ownPdom s)
  | _ => d.pdom.getD (ownPdom s)

/-- Every write to the target has been performed: a peer's at their home, a window's at once, a namespace's by the completion that this event is. -/
def targetSettled (s : State) (c : Colour) (d : TargetDesc) : Bool :=
  isNvme d || s.halyard.all (fun h => decide (h.col ≠ c) || decide (h.subm = 0))

/-- A namespace's writes move to the completion queues. -/
def completeQueues (c : Colour) (d : TargetDesc) (s : State) : State :=
  if isNvme d then modHalyard s c (fun h => { h with comp := h.comp + h.subm, subm := 0 }) else s

/-- The acknowledgement of the colour's target. -/
def targetAcked (c : Colour) (s : State) : State :=
  match halTarget s c with
  | some d =>
    if targetSettled s c d then
      (if targetPdom s d = ownPdom s then modCol (completeQueues c d s) c (fun r => { r with st := .coPowered })
       else reportHere c true (modCol (completeQueues c d s) c (fun r => { r with st := .durable })))
    else s
  | none => s

/-- Firmware copies a CO_POWERED image to another target. -/
def copyImage (c : Colour) (d : TargetDesc) (s : State) : State :=
  let r := colRow s c
  match s.images.find? (isImage r s) with
  | some m =>
    if m.places.any (fun p => decide (p.1 = d.kind)) then s
    else
      let off := targetTop s d.kind
      match putTarget c d off (streamBytes m.recs ++ trailerBytes m.chunks) (modHalyard s c (fun h => { h with copy := some d, subm := 0 })) with
      | some t => { t with images := t.images.map (fun x => if isImage r s x then { x with places := x.places ++ [(d.kind, off)] } else x) }
      | none => s
  | none => s

/-- DURABLE_ACK: the acknowledgement of a colour's target; or, with another target, firmware's copy of a CO_POWERED image to it, whose
acknowledgement follows as soon as its writes are performed. -/
def durableEvent (c : Colour) (copy : Option TargetDesc) (s : State) : State :=
  let r := colRow s c
  match copy with
  | none => if r.st = .localDone ∨ r.st = .coPowered then targetAcked c s else s
  | some d => if r.st = .coPowered then targetAcked c (copyImage c d s) else s

def execDurableAck (c : Colour) (copy : Option TargetDesc) (s : State) : Outcome State Fault Refusal := .next (durableEvent c copy s)

/-! ## Freeing and abort (R321, R322) -/

/-- This package coordinates the colour's snapshot. -/
def coordinates (s : State) (c : Colour) : Bool := decide (coordinatorOf s c = s.fab.lid)

/-- The coordinator has sent FREE: the image is recorded complete, or every live member holds the colour ABORTED. -/
def freeSent (c : Colour) (s : State) : Bool :=
  let r := colRow s c
  (decide (r.st = .durable) && decide (r.grp = 3)) ||
    (decide (r.st = .aborted) && (s.fab.lid :: otherMembers s r.group).all (fun m => r.aborts.contains m))

/-- FREE from the coordinator, which sends it to itself too (24_prog_colours R379). -/
def execFree (c : Colour) (s : State) : Outcome State Fault Refusal :=
  .next (if coordinates s c then (if freeSent c s then freeHere c s else s) else freeHere c s)

/-- FREE_ACK from a member, at the coordinator. -/
def execFreeAck (c : Colour) (member : Nat) (s : State) : Outcome State Fault Refusal :=
  .next (if coordinates s c && (otherMembers s (colRow s c).group).contains member then ackFrom c member s else s)

/-- COMMIT from the coordinator, which sends it to itself too. -/
def execCommit (c : Colour) (s : State) : Outcome State Fault Refusal :=
  .next (if coordinates s c then (if allAcked c s then commitHere c s else s) else commitHere c s)

def underWay (s : State) (c : Colour) : Bool :=
  let st := (colRow s c).st
  decide (st = .capturing) || decide (st = .localDone) || decide (st = .coPowered)

/-- DURABILITY_BOUND_EXPIRY (log entry 9, DESIGN CHOICE). -/
def execDurabilityBoundExpiry (c : Colour) (s : State) : Outcome State Fault Refusal := .next (if underWay s c then abortGroup c s else s)

/-- TARGET_WRITE_FAILURE. -/
def execTargetWriteFailure (c : Colour) (s : State) : Outcome State Fault Refusal := .next (if underWay s c then abortGroup c s else s)

/-- ROOT_DIGEST_REPORT from a member, at the coordinator. -/
def execRootDigestReport (c : Colour) (member : Nat) (digest : BitVec 256) (durable : Bool) (s : State) : Outcome State Fault Refusal :=
  .next (if coordinates s c && (otherMembers s (colRow s c).group).contains member then reportFrom c member digest durable s else s)

/-- GROUP_STATE_QUERY: the state goes back to the member that asks, under the number of its question. -/
def execGroupStateQuery (q : GroupQuery) (c : Colour) (s : State) : Outcome State Fault Refusal :=
  .next (if fellow s q.member then sendCoord s q.member 5 c 0 false (groupState s c) q.tok else s)

/-! ## Requests (R301) -/

/-- SNAPSHOT_REQUEST: the masthead core serves the next request. -/
def execSnapshotRequest (s : State) : Outcome State Fault Refusal := .next (serveRequest s)

/-- HOST_SNAPSHOT_REQUEST: a function asks for a context of its own. -/
def hostSnapEvent (fn ctx group : Nat) (id : Word) (s0 : State) : State :=
  askedBy (ownsCtx s0 fn ctx) fn "snapshot" (fun s => { s with snapReqs := s.snapReqs ++ [{ src := .host ctx, group := group, id := id }] }) s0

def execHostSnapshotRequest (fn ctx group : Nat) (id : Word) (s : State) : Outcome State Fault Refusal := .next (hostSnapEvent fn ctx group id s)

end Sys2Proof.Machine
end

