-- ==== Sys2Proof/Machine/Restore.lean ====
section
/-! DEFINITION. Restoration of an image on this package (16_snapshot R323 to R325; 06_registers R122; 11_isa_memory R231; 12_isa_tiles R251;
17_isa_sync_system R341). -/

namespace Sys2Proof.Machine

open Host (Outcome)

/-! ## What an image holds -/

/-- The eager items of an image with their contexts, in stream order. -/
def eagerItems (m : Image) : List (Nat × EagerItem) :=
  m.recs.filterMap (fun r => match r with
    | .eager ctx e => some (ctx, e)
    | _ => none)

def pickItems {α : Type} (m : Image) (f : EagerItem → Option α) : List α := (eagerItems m).filterMap (fun e => f e.2)

def imgCtxs (m : Image) : List CtxRow := pickItems m (fun e => match e with
  | .ctx r => some r
  | _ => none)

def imgGangs (m : Image) : List Gang := pickItems m (fun e => match e with
  | .gang g => some g
  | _ => none)

def imgBlocks (m : Image) : List Block := pickItems m (fun e => match e with
  | .block b => some b
  | _ => none)

def imgOps (m : Image) : List Op := pickItems m (fun e => match e with
  | .op o => some o
  | _ => none)

def imgBars (m : Image) : List BarRow := pickItems m (fun e => match e with
  | .bar b => some b
  | _ => none)

/-- The pages of an image: context, virtual address, leaf, level. -/
def imgPages (m : Image) : List (Nat × Nat × BitVec 128 × Nat) := pickItems m (fun e => match e with
  | .page ctx va leaf level => some (ctx, va, leaf, level)
  | _ => none)

def inImage (m : Image) (ctx : Nat) : Bool := (imgCtxs m).any (fun r => r.id == ctx)

/-- Cores whose tables the image fills. -/
def imgCores (m : Image) : List Nat := sortAsc ((imgBlocks m).map (·.core))

/-! ### Where the image goes (02_execution R26, 09_memories R190)

A saved core's contents go to a core free of other contexts' blocks, its hardware cluster's cores to cores of one cluster, a die's clusters to one die;
a die range to a free range of that die. Each stays where it was where that is free (log entry 47, DESIGN CHOICE). -/

/-- Free of other contexts' blocks and gangs. -/
def coreFree (s : State) (m : Image) (core : Nat) : Bool :=
  s.blocks.all (fun b => inImage m b.ctx || b.core != core) && s.gangs.all (fun g => inImage m g.ctx || g.core != core)

/-- Cores of one hardware cluster for saved ones: the same numbers where they are free, else in ascending order. -/
def pairCores (free : Nat → Bool) (t : Nat) (cs : List Nat) : Option (List (Nat × Nat)) :=
  let same := cs.map (fun c => 4 * t + c % 4)
  let avail := ((List.range 4).map (4 * t + ·)).filter free
  if same.all free then some (cs.zip same) else if cs.length ≤ avail.length then some (cs.zip avail) else none

/-- A place for each saved cluster among the clusters of a die, `used` cores taken. -/
def fitClusters (free : Nat → Bool) (die : Nat) : List (Nat × List Nat) → List Nat → Option (List (Nat × Nat))
  | [], _ => some []
  | e :: rest, used =>
    firstSome (fun t => match pairCores (fun c => free c && !used.contains c) t e.2 with
      | some ps => (match fitClusters free die rest (used ++ ps.map (·.2)) with
        | some qs => some (ps ++ qs)
        | none => none)
      | none => none) ((10 * die + e.1 % 10) :: (List.range 10).map (10 * die + ·))

/-- The saved cores of a die by cluster. -/
def dieClusters (m : Image) (die : Nat) : List (Nat × List Nat) :=
  ((List.range 10).map (fun k => (10 * die + k, (imgCores m).filter (fun c => c / 4 == 10 * die + k)))).filter (fun e => decide (e.2 ≠ []))

/-- Free ranges of a die for saved ones, as (saved, new). -/
def fitRanges (free : Nat → Bool) : List Nat → List Nat → Option (List (Nat × Nat))
  | [], _ => some []
  | i :: rest, used =>
    let ok := fun x : Nat => free x && !used.contains x
    let pick := if ok i then some i else (List.range 6144).find? (fun x => ok x && !rest.contains x)
    match pick with
    | some x => (fitRanges free rest (x :: used)).map ((i, x) :: ·)
    | none => none

/-- The saved ranges of a die. -/
def dieRanges (m : Image) (die : Nat) : List Nat :=
  (imgCtxs m).flatMap (fun r => (r.windows.filter (fun w => w.1 == die)).flatMap (·.2))

/-- The image uses a die. -/
def usesDie (m : Image) (die : Nat) : Bool := decide (dieClusters m die ≠ []) || decide (dieRanges m die ≠ [])

/-- Where an image goes: names rise by `k`; saved core to core, saved die to die, saved die and range to range. -/
structure Moves where
  k      : Nat
  cores  : List (Nat × Nat)
  dies   : List (Nat × Nat)
  ranges : List ((Nat × Nat) × Nat)

/-- The contents of saved die `die` on die `d`. -/
def fitDie (s : State) (m : Image) (die d : Nat) : Option (List (Nat × Nat) × List ((Nat × Nat) × Nat)) :=
  match fitClusters (coreFree s m) d (dieClusters m die) [], fitRanges (fun i => s.ranges.all (fun e => !(e.1 == d && e.2.1 == i) || inImage m e.2.2)) (dieRanges m die) [] with
  | some cs, some rs => some (cs, rs.map (fun e => ((die, e.1), e.2)))
  | _, _ => none

/-- A die of its own for each saved die, the same one first. -/
def fitDies (s : State) (m : Image) : List Nat → List Nat → Option Moves
  | [], _ => some { k := 0, cores := [], dies := [], ranges := [] }
  | die :: rest, used =>
    firstSome (fun d => if used.contains d then none else match fitDie s m die d with
      | some x => (match fitDies s m rest (d :: used) with
        | some v => some { k := 0, cores := x.1 ++ v.cores, dies := (die, d) :: v.dies, ranges := x.2 ++ v.ranges }
        | none => none)
      | none => none) (die :: List.range 4)

/-- Where the image goes on this package, if it fits. -/
def imageMoves (s : State) (m : Image) : Option Moves := fitDies s m ((List.range 4).filter (usesDie m)) []

def moveTo (ps : List (Nat × Nat)) (i : Nat) : Nat := ((ps.find? (fun e => e.1 == i)).map (·.2)).getD i

def Moves.core (v : Moves) (c : Nat) : Nat := moveTo v.cores c

def Moves.die (v : Moves) (d : Nat) : Nat := moveTo v.dies d

def Moves.range (v : Moves) (die i : Nat) : Nat := ((v.ranges.find? (fun e => e.1 == (die, i))).map (·.2)).getD i

/-! ### Names

Gangs, blocks, launches and operations of an image take new names here, above every name in use. -/

def movePlace (v : Moves) (p : Place) : Place :=
  match p with
  | .scr b off => .scr (b + v.k) off
  | .die ctx die off => .die ctx (v.die die) off
  | _ => p

def moveKind (v : Moves) (kind : OpKind) : OpKind :=
  match kind with
  | .atom aop wide scope ord rem ret d gs => .atom aop wide scope ord rem ret d (gs.map (fun x => { x with place := movePlace v x.place }))
  | .cpy size h slot off ls => .cpy size h slot off (ls.map (fun c => { c with src := movePlace v c.src, dst := movePlace v c.dst }))
  | _ => kind

def moveOp (v : Moves) (o : Op) : Op :=
  { o with id := o.id + v.k, gid := o.gid + v.k, core := v.core o.core, blk := o.blk + v.k, kind := moveKind v o.kind,
           pieces := o.pieces.map (fun p => { p with place := movePlace v p.place }) }

def moveSliceSt (k : Nat) (r : SliceSt) : SliceSt :=
  match r with
  | .held g => .held (g + k)
  | .claimed v n => .claimed (v + k) (n + k)

def moveArray (v : Moves) (a : ArrayRow) : ArrayRow := { a with core := v.core a.core, holder := a.holder.map (· + v.k) }

def moveRcd (v : Moves) (r : RecRow) : RecRow := { r with core := v.core r.core, gid := r.gid + v.k, blk := r.blk + v.k }

def moveKey (k : Nat) (x : SaveKey) : SaveKey :=
  match x with
  | .slice g b i => .slice (g + k) b i
  | .bank b i => .bank (b + k) i
  | .obuf g r i => .obuf (g + k) r i
  | .rcd g r => .rcd (g + k) r
  | .acc b i => .acc (b + k) i
  | .array g => .array (g + k)

def moveSaved (v : Moves) (x : Saved) : Saved :=
  { x with key := moveKey v.k x.key, array := x.array.map (moveArray v), rcd := x.rcd.map (moveRcd v), hnd := x.hnd.map (· + v.k) }

def moveUnit (v : Moves) (u : CapUnit) : CapUnit :=
  match u with
  | .bank core i => .bank (v.core core) i
  | .range die i => .range (v.die die) (v.range die i)
  | .slice core p i => .slice (v.core core) p i
  | .l1 core l => .l1 (v.core core) l
  | .save x i => .save (moveKey v.k x) i
  | _ => u

/-- A context's range maps, rewritten. -/
def moveCtx (v : Moves) (r : CtxRow) : CtxRow := { r with windows := r.windows.map (fun w => (v.die w.1, w.2.map (v.range w.1))) }

/-- ACFREE's bound on operations, which take new names. -/
def moveBlocked (k : Nat) (b : Option Blocked) : Option Blocked :=
  match b with
  | some (.acfree m upto) => some (.acfree m (upto + k))
  | b => b

def moveItem (v : Moves) (e : EagerItem) : EagerItem :=
  match e with
  | .gang g => .gang { g with gid := g.gid + v.k, core := v.core g.core, launch := g.launch + v.k, blk := g.blk + v.k, blocked := moveBlocked v.k g.blocked }
  | .block b => .block { b with id := b.id + v.k, launch := b.launch + v.k, core := v.core b.core }
  | .launch l => .launch { l with id := l.id + v.k }
  | .op o => .op (moveOp v o)
  | .rcd r => .rcd (moveRcd v r)
  | .unit wb core idx bytes psn => .unit wb (v.core core) idx bytes psn
  | .acc a bytes psn => .acc { a with core := v.core a.core, blk := a.blk + v.k, hnd := a.hnd.map (· + v.k) } bytes psn
  | .array a => .array (moveArray v a)
  | .ring r => .ring { r with core := v.core r.core, blk := r.blk + v.k }
  | .ctx r => .ctx (moveCtx v r)
  | .split core n => .split (v.core core) n
  | .sliceRow r => .sliceRow { r with core := v.core r.core, st := moveSliceSt v.k r.st }
  | .chunk c => .chunk { c with launch := c.launch + v.k, core := v.core c.core, dests := [] }
  | e => e

def moveRec (v : Moves) (r : SnapRec) : SnapRec :=
  match r with
  | .eager ctx e => .eager ctx (moveItem v e)
  | .bank ctx b i ws psn => .bank ctx (b + v.k) i ws psn
  | .range ctx die i loc ws psn => .range ctx (v.die die) (v.range die i) loc ws psn
  | .slice ctx g b i ws psn => .slice ctx (g + v.k) b i ws psn
  | .patch ctx u loc ws bs => .patch ctx (moveUnit v u) loc ws bs
  | .save ctx i x => .save ctx i (moveSaved v x)
  | r => r

def moveImage (v : Moves) (m : Image) : Image := { m with recs := m.recs.map (moveRec v) }

/-- Above every name of an image. -/
def imageTop (m : Image) : Nat :=
  (pickItems m (fun e => match e with
    | .gang g => some g.gid
    | .block b => some b.id
    | .launch l => some l.id
    | .op o => some o.id
    | _ => none)).foldl max 0 + 1

/-! ## R323: refusals, the end of what runs, the pod map -/

/-- Frames of an image's local pages: context, base and bytes. -/
def imgFrames (s : State) (m : Image) : List (Nat × Nat × Nat) :=
  (imgPages m).filterMap (fun e => if leafLocal s e.2.2.1 then some (e.1, leafFrame e.2.1 e.2.2.1, leafBytes (pteSize e.2.2.1)) else none)

/-- Frames that other contexts map here. -/
def otherFrames (s : State) (m : Image) : List (Nat × Nat) :=
  (s.ctxs.filter (fun r => !inImage m r.id)).flatMap (fun r => (ctxLeaves s r).filterMap (fun e =>
    if leafLocal s e.2.2.1 then some (leafFrame e.2.1 e.2.2.1, leafBytes (pteSize e.2.2.1)) else none))

/-- The package has what the image needs: free cores and ranges, its barrier slots and its frames. -/
def fitsImage (s : State) (m : Image) : Bool :=
  (imageMoves s m).isSome && (imgBars m).all (fun b => s.bars.all (fun x => !(x.clu == b.clu && x.slot == b.slot && x.valid) || inImage m x.owner)) &&
    (let fs := imgFrames s m
     (otherFrames s m).all (fun o => fs.all (fun f => decide (f.2.1 + f.2.2 ≤ o.1) || decide (o.1 + o.2 ≤ f.2.1))))

/-- A request that a discarded context or its SNAP made. -/
def reqGone (s : State) (gone : Nat → Bool) (r : SnapReq) : Bool :=
  match r.src with
  | .op id => (match opOf s id with
    | some o => gone o.ctx
    | none => true)
  | .host ctx => gone ctx
  | .policy => false

/-- A colour whose capture is not over is aborted: nothing more of it reaches a target (R303, R322; log entry 47, DESIGN CHOICE). -/
def stopColour (c : Colour) (s : State) : State :=
  modCol (clearColour c s) c (fun r => if r.st = .capturing ∨ r.st = .localDone ∨ r.st = .coPowered then { r with st := .aborted, stream := [] } else r)

/-- A slice whose owner, or the newcomer that claims it, is discarded: a surviving newcomer holds it, zeroed; a surviving victim keeps it (06_registers
R113, R115). -/
def passSlice (gone : Nat → Bool) (s : State) (r : SliceRow) : State :=
  let free := { s with slices := s.slices.filter (fun x => !(x.core == r.core && x.part == r.part && x.idx == r.idx)) }
  match r.st with
  | .held g => if gone g then free else s
  | .claimed v n =>
    if gone v && gone n then free
    else if gone v then setSlice (zeroSlice s r.core r.part r.idx) r.core r.part r.idx (.held n)
    else if gone n then setSlice s r.core r.part r.idx (.held v)
    else s

/-- Blocks of other contexts take the banks that have fallen Free, and their gangs start. -/
def settleCores (s : State) : State := (List.range Config.cores).foldl (fun s core => unparkReady (fillOpen core s) core) s

/-- What is left of the captured contexts is discarded, and both colours' captures with it; their barriers and rings are freed, each generation
moving on (15_tables_counters R293, 17_isa_sync_system R333). -/
def discardCtxs (m : Image) (s0 : State) : State :=
  let gone := inImage m
  let blk := fun b : Nat => gone (blockCtx s0 b)
  let gid := fun g : Nat => gone (gangCtx s0 g)
  let s1 := (s0.rings.filter (fun r => r.inuse && blk r.blk)).foldl dropRing (stopColour .c1 (stopColour .c0 s0))
  let s2 := (s1.bars.filter (fun b => b.valid && gone b.owner)).foldl barFree s1
  let s := s2.slices.foldl (passSlice gid) s2
  let t :=
  { s with gangs := s.gangs.filter (fun g => !gone g.ctx), ops := s.ops.filter (fun o => !gone o.ctx), blocks := s.blocks.filter (fun b => !gone b.ctx),
           chunks := s.chunks.filter (fun k => !s.launches.any (fun l => l.id == k.launch && gone l.ctx)),
           launches := s.launches.filter (fun l => !gone l.ctx), saved := s.saved.filter (fun x => !gone x.ctx), recs := s.recs.filter (fun r => !blk r.blk),
           accs := s.accs.filter (fun a => !blk a.blk), arrays := s.arrays.filter (fun a => match a.holder with
             | some g => !gid g
             | none => true),
           queues := s.queues.filter (fun q => !gone q.ctx), ctxs := s.ctxs.filter (fun r => !gone r.id), tlb := s.tlb.filter (fun r => !gone r.ctx),
           invals := s.invals.filter (fun e => !gone e.1), l1 := s.l1.filter (fun r => !gone r.ctx), l2 := s.l2.filter (fun r => !(r.peer && gone r.ctx)),
           banks := s.banks.filter (fun r => !gone r.ctx), ranges := s.ranges.filter (fun e => !gone e.2.2),
           snapReqs := s.snapReqs.filter (fun r => !reqGone s0 gone r),
           snapAcc := match s.snapAcc with
             | some (r, c) => if reqGone s0 gone r then none else some (r, c)
             | none => none }
  settleCores t

/-- A target that the pod map knows, and nowhere as a live package (R323). -/
def deadTarget (s : State) (phys : Nat) : Bool :=
  s.pod.any (fun e => e.phys == phys) && !s.pod.any (fun e => e.phys == phys && decide (e.st = .live))

/-- The revision that binds each logical id to its target. -/
def bindTargets (r : RestoreSpec) (s : State) : State :=
  let epoch := mapEpoch s + 1
  let s1 := r.targets.foldl (fun s t => putPod s { lid := t.1, phys := t.2.1, st := .live, pdom := t.2.2, sgrp := r.group, epoch := epoch }) s
  { s1 with fab := { s1.fab with lid := r.lid, member := true } }

/-- The stream as its target answers it: the bytes in a window of this package; elsewhere what comes with the request, or what was written. -/
def targetBytes (s : State) (r : RestoreSpec) (m : Image) : List Byte :=
  let n := (streamBytes m.recs).length
  match m.places.findSome? (fun p => match p.1 with
    | .cxl base _ => some (base + p.2)
    | _ => none) with
  | some pa => dirBytes s pa n
  | none => r.answer.getD (streamBytes m.recs)

/-- The first chunk whose digest differs; the chunk count where only the root does. -/
def badChunk (s : State) (r : RestoreSpec) (m : Image) : Option Nat :=
  let ds := byteDigests (targetBytes s r m)
  match (List.range (max ds.length m.chunks.length)).find? (fun i => decide (ds[i]? ≠ m.chunks[i]?)) with
  | some i => some i
  | none => if rootDigest ds = m.root then none else some m.chunks.length

/-- START_RESTORATION: the refusals, the discard, the pod map, and phase 1 (log entry 47, DESIGN CHOICE). -/
def startRestore (fn : Nat) (r : RestoreSpec) : State → State :=
  askedBy (fn == 0) fn "restoration" (fun s =>
    match s.images.find? (fun m => m.group == r.group && m.id == r.id && m.lid == r.lid && m.complete) with
    | none => tellHost s (.restore "refused" r.lid 0)
    | some m =>
      if !(r.targets.any (fun t => t.1 == r.lid && t.2.1 == s.fab.phys)) || r.targets.any (fun t => deadTarget s t.2.1) || !fitsImage s m then
        tellHost s (.restore "refused" r.lid 0)
      else
        let s1 := bindTargets r (discardCtxs m s)
        match badChunk s1 r m, imageMoves s m with
        | some i, _ => tellHost s1 (.restore "chunk-mismatch" r.lid i)
        | none, some v =>
          { s1 with restore := some { phase := 1, img := moveImage { v with k := s1.fresh } m, spec := r }, fresh := s1.fresh + imageTop m }
        | none, none => s1)

def execStartRestoration (fn : Nat) (r : RestoreSpec) (s : State) : Outcome State Fault Refusal := .next (startRestore fn r s)

/-- A phase runs once, after the one before it (log entry 48, DEDUCED). -/
def phaseStep (n : Nat) (f : Image → State → State) (s : State) : State :=
  match s.restore with
  | some r => if r.phase + 1 = n then f r.img { s with restore := some { r with phase := n } } else s
  | none => s

/-! ## Phase 2: memory -/

/-- Bytes placed in local memory, its caches dropped. -/
def rawWrite (s : State) (pa : Nat) (bytes : List Byte) : State :=
  let inR := fun line : Nat => decide (pa / 128 ≤ line) && decide (128 * line < pa + bytes.length)
  { s with mem := Sparse.write 0#8 s.mem pa bytes, l1 := s.l1.filter (fun r => r.peer || !inR r.line), l2 := s.l2.filter (fun r => r.peer || !inR r.line) }

/-- A range of local memory at zero and sound, out of every cache and zero map. -/
def rawClear (s : State) (pa n : Nat) : State :=
  let inR := fun line : Nat => decide (pa / 128 ≤ line) && decide (128 * line < pa + n)
  { s with mem := Sparse.clear s.mem pa n, l1 := s.l1.filter (fun r => r.peer || !inR r.line), l2 := s.l2.filter (fun r => r.peer || !inR r.line),
           memPsn := s.memPsn.filter (fun g => decide (32 * g < pa) || decide (pa + n ≤ 32 * g)),
           zmaps := s.zmaps.filter (fun z => decide (z.frame + 128 * z.lines ≤ pa) || decide (pa + n ≤ z.frame)) }

/-- A leaf entry written under a table, with the tables between, taken from `next` on; the next free table. -/
def insertLeaf (va : Nat) (leaf : BitVec 128) (level : Nat) : Nat → Nat → State × Nat → State × Nat
  | 0, _, a => a
  | l + 1, base, (s, next) =>
    let e := base + 16 * walkIndex va (l + 1)
    if l + 1 = level then (rawWrite s e (leBytes leaf.toNat 16), next)
    else
      let p := pteRead s e
      if pteV p then insertLeaf va leaf level l (pteFrame p % 2 ^ 45) (s, next)
      else insertLeaf va leaf level l next (rawWrite (rawClear s next 8192) e (leBytes (next + 1) 16), next + 8192)

/-- Ends of the tables under a table (09_memories R172). -/
def tableEnds (s : State) : Nat → Nat → List Nat
  | 0, _ => []
  | l + 1, base =>
    let n := if l = 3 then 131072 else 512
    (base + 16 * n) :: (tableEntries s base n).flatMap (fun i =>
      let p := pteRead s (base + 16 * i)
      if pteV p && !pteLeaf p then tableEnds s l (pteFrame p % 2 ^ 45) else [])

/-- The first 2 MiB boundary of the firmware's region above every table of another context. -/
def freeTables (s : State) : Nat :=
  let top := (s.ctxs.flatMap (fun r => tableEnds s 4 r.root)).foldl max Config.fwBase
  (top + 0x1FFFFF) / 0x200000 * 0x200000

/-- Bit ZP of a leaf. -/
def leafZp (p : BitVec 128) : Bool := p.getLsbD 109

/-- Local address of a virtual address of an image's context. -/
def imgPa (s : State) (m : Image) (ctx va : Nat) : Option Nat :=
  (imgPages m).findSome? (fun e =>
    let n := leafBytes (pteSize e.2.2.1)
    if e.1 = ctx ∧ e.2.1 ≤ va ∧ va < e.2.1 + n ∧ leafLocal s e.2.2.1 = true then some (leafFrame e.2.1 e.2.2.1 + (va - e.2.1)) else none)

/-- Pod-global address of a virtual address that an image's context maps in another package. -/
def imgGa (s : State) (m : Image) (ctx va : Nat) : Option Nat :=
  (imgPages m).findSome? (fun e =>
    let n := leafBytes (pteSize e.2.2.1)
    if e.1 = ctx ∧ e.2.1 ≤ va ∧ va < e.2.1 + n ∧ leafLocal s e.2.2.1 = false ∧ pteKind e.2.2.1 = 2 then
      some (pteFrame e.2.2.1 + va % pageBytes (pteSize e.2.2.1)) else none)

/-- Local lines that the image says are zero-pending. -/
def pendingLines (s : State) (m : Image) : List Nat :=
  m.recs.filterMap (fun r => match r with
    | .line ctx va _ _ true => (imgPa s m ctx va).map (· / 128)
    | _ => none)

/-- The page tables of one context. -/
def buildTables (m : Image) (acc : State × Nat) (r : CtxRow) : State × Nat :=
  let root := (acc.2 + 0x1FFFFF) / 0x200000 * 0x200000
  let s0 := rawClear acc.1 root 0x200000
  let pages := (imgPages m).filter (fun e => e.1 == r.id)
  let clean := fun p : BitVec 128 => p &&& ~~~(BitVec.ofNat 128 (2 ^ 107 + 2 ^ 108))
  let a := pages.foldl (fun a e => insertLeaf e.2.1 (clean e.2.2.1) e.2.2.2 4 root a) (s0, root + 0x200000)
  ({ a.1 with ctxs := a.1.ctxs ++ [{ r with root := root }] }, a.2)

/-- The zero map of a zero-pending page, its lines pending as the image says. -/
def loadZeroMap (pend : List Nat) (s : State) (e : Nat × Nat × BitVec 128 × Nat) : State :=
  let p := e.2.2.1
  if !leafLocal s p || !leafZp p then s
  else
    let frame := pteFrame p % 2 ^ 45
    let n := pageBytes (pteSize p) / 128
    let pte := ((walk s e.1 e.2.1).map (·.1)).toList
    if s.zmaps.any (fun z => z.frame == frame) then
      { s with zmaps := s.zmaps.map (fun z => if z.frame = frame then { z with ptes := z.ptes ++ pte } else z) }
    else { s with zmaps := { frame := frame, lines := n, clear := (List.range n).filter (fun i => !pend.contains (frame / 128 + i)), ptes := pte } :: s.zmaps }

def putWords (base : Nat) (ws : List (Nat × Word)) (m : Memory) : Memory :=
  ws.foldl (fun m w => Sparse.write 0#8 m (base + 4 * w.1) (leBytes w.2.toNat 4)) m

def putBytes (base : Nat) (bs : List (Nat × Byte)) (m : Memory) : Memory := bs.foldl (fun m b => Memory.setByte m (base + b.1) b.2) m

def addKeys (ks ms : List Nat) : List Nat := ks.foldl (fun ms k => if ms.contains k then ms else k :: ms) ms

/-- Marks outside a range: what is loaded there brings its own (09_memories R190). -/
def outKeys (base n : Nat) (ks : List Nat) : List Nat := ks.filter (fun k => decide (k < base) || decide (base + n ≤ k))

/-- Words that a patch writes whole. -/
def patchWhole (bs : List (Nat × Byte)) : List Nat :=
  (sortAsc (bs.map (·.1 / 4))).filter (fun w => (List.range 4).all (fun j => bs.any (fun b => b.1 == 4 * w + j)))

/-- A mask of the bytes that a list names. -/
def pairMask (bs : List (Nat × Byte)) : BitVec 128 := bs.foldl (fun m b => m ||| (1#128 <<< b.1)) 0

/-- Bytes over a local line: no longer zero-pending (09_memories R178), granules written whole sound again (R188), and some poisoned. -/
def overLine (pa : Nat) (bs : List (Nat × Byte)) (psn : List Nat) (s0 : State) : State :=
  let s := zeroMapWrite s0 pa
  let whole := (wholeGranules (pairMask bs)).map (pa / 32 + ·)
  { s with mem := putBytes pa bs s.mem,
           memPsn := addKeys (psn.map (fun w => (pa + 4 * w) / 32)) (s.memPsn.filter (fun g => !whole.contains g)) }

/-- Save-area entries with a line more. -/
def addSaved (v : Saved) (s : State) : State :=
  match s.saved.find? (fun x => decide (x.key = v.key)) with
  | none => { s with saved := s.saved ++ [v] }
  | some x =>
    let y := { x with words := v.words.foldl (fun m w => Sparse.set 0#32 m w.1 w.2) x.words,
                      bytes := v.bytes.foldl (fun m b => Sparse.set 0#8 m b.1 b.2) x.bytes, psn := sortAsc (x.psn ++ v.psn), marks := x.marks ++ v.marks,
                      array := if x.array.isSome then x.array else v.array, rcd := if x.rcd.isSome then x.rcd else v.rcd,
                      hnd := if x.hnd.isSome then x.hnd else v.hnd }
    { s with saved := s.saved.map (fun z => if z.key = v.key then y else z) }

/-- One record of memory, scratchpads, slices and save areas, in stream order. -/
def loadRec (m : Image) (s : State) (r : SnapRec) : State :=
  match r with
  | .line ctx va ws psn _ => match imgPa s m ctx va with
    | some pa => { s with mem := putWords pa ws s.mem, memPsn := addKeys (psn.map (fun w => (pa + 4 * w) / 32)) s.memPsn }
    | none => s
  | .patch ctx (.line _ va) _ _ bs => match imgPa s m ctx va with
    | some pa => overLine pa bs [] s
    | none => s
  | .bank _ blk i ws psn => match (imgBlocks m).find? (fun b => b.id == blk) with
    | some b => match b.banks.getD i none with
      | some bank =>
        let k := scrKey b.core bank 0
        { s with scr := putWords k ws (Sparse.clear s.scr k 4096), scrPsn := addKeys (psn.map (k / 4 + ·)) (outKeys (k / 4) 1024 s.scrPsn) }
      | none => s
    | none => s
  | .patch _ (.bank core i) _ _ bs =>
    let k := scrKey core i 0
    { s with scr := putBytes k bs s.scr, scrPsn := s.scrPsn.filter (fun g => !((patchWhole bs).map (k / 4 + ·)).contains g) }
  | .range ctx die i _ ws psn =>
    let k := dscKey die i 0
    { s with dsc := putWords k ws (Sparse.clear s.dsc k 4096), dscPsn := addKeys (psn.map (k / 4 + ·)) (outKeys (k / 4) 1024 s.dscPsn),
             ranges := (die, i, ctx) :: s.ranges.filter (fun e => !(e.1 == die && e.2.1 == i)) }
  | .patch _ (.range die i) _ _ bs =>
    let k := dscKey die i 0
    { s with dsc := putBytes k bs s.dsc, dscPsn := s.dscPsn.filter (fun g => !((patchWhole bs).map (k / 4 + ·)).contains g) }
  | .slice _ gid b k ws marks => match (imgGangs m).find? (fun g => g.gid == gid) with
    | some g =>
      let key := sliceKey g.core g.part ((g.smap.getD b []).getD k 0)
      { s with vrf := ws.foldl (fun v w => Sparse.set 0#32 v (key + w.1) w.2) s.vrf, vmark := marks.map (fun e => (key + e.1, e.2)) ++ s.vmark }
    | none => s
  | .save _ _ v => addSaved v s
  | _ => s

/-- L1 Dirty bytes over the lines of local pages, and late pre-cut bytes of an L1 over those. -/
def loadL1 (m : Image) (s : State) (r : SnapRec) : State :=
  match r with
  | .l1 ctx va mask bs psn => match imgPa s m ctx va with
    | some pa => overLine pa (((List.range 128).filter (fun i => mask.getLsbD i)).zip bs) psn s
    | none => s
  | .patch ctx (.l1 _ _) loc _ bs => match imgPa s m ctx loc with
    | some pa => overLine pa bs [] s
    | none => s
  | _ => s

/-- The slices that the image's gangs hold, zero before they are loaded. -/
def loadSliceRow (m : Image) (s : State) (r : SliceRow) : State :=
  let has := fun gid : Nat => (imgGangs m).any (fun g => g.gid == gid)
  let st := match r.st with
    | .held g => SliceSt.held g
    | .claimed v n => if has v && has n then .claimed v n else if has v then .held v else .held n
  setSlice (zeroSlice s r.core r.part r.idx) r.core r.part r.idx st

def memoryPhase (m : Image) (s : State) : State :=
  let s1 := (imgFrames s m).foldl (fun s f => setOwner (rawClear s f.2.1 f.2.2) f.1 f.2.1 f.2.2) s
  let s2 := ((imgCtxs m).foldl (buildTables m) (s1, freeTables s1)).1
  let s3 := (imgPages m).foldl (loadZeroMap (pendingLines s2 m)) s2
  let rows := pickItems m (fun e => match e with
    | .sliceRow r => some r
    | _ => none)
  let s4 := rows.foldl (loadSliceRow m) s3
  m.recs.foldl (loadL1 m) (m.recs.foldl (loadRec m) s4)

def execRestoreMemory (s : State) : Outcome State Fault Refusal := .next (phaseStep 2 memoryPhase s)

/-! ## Phases 3 and 4: channels and peer lines -/

/-- A logged packet acts at its destination, and sends nothing in return. -/
def replayPacket (s : State) (p : Packet) : State :=
  let line := homeLine p
  let pa := p.addr % 2 ^ 45
  match p.body with
  | .req _ true core => if p.cls = 4 then setDir s { dirLine s line with note := some (p.src, core) } else s
  | .data _ mask bytes psn =>
    if p.cls = 4 then homeWrite s line mask bytes psn
    else (match apertureAddr s p with
      | some a => homeWrite s (a / 128) mask bytes psn
      | none => s)
  | .atomic _ op wide _ _ _ => match wholeGroup p s with
    | (none, t) => t
    | (some ps, t) =>
      let n := if wide then 8 else 4
      let f := atomFold op.toNat wide (BitVec.ofNat 64 (leNat (dirBytes t pa n))) (ps.flatMap opndsOf)
      homeWrite t line (byteMask (pa % 128) n) (lineBytes (pa % 128) (leBytes f.2.toNat n)) 0
  | _ => s

/-- Logged packets of the classes replayed, by source, then sequence number. -/
def replayList (m : Image) : List Packet :=
  (sortBy (·.1) (m.recs.filterMap (fun r => match r with
    | .packet src seq p true => some (src * 2 ^ 32 + seq.toNat, p)
    | _ => none))).map (·.2)

/-- RESTORE_CHANNELS; directories start empty. -/
def channelPhase (m : Image) (s : State) : State := (replayList m).foldl replayPacket { s with dir := [] }

def execRestoreChannels (s : State) : Outcome State Fault Refusal := .next (phaseStep 3 channelPhase s)

/-- Dirty bytes of a peer line of the image, sent to its home with their poison (09_memories R188). -/
def sendPeerLine (s : State) (ga : Nat) (bs : List (Nat × Byte)) (psn : List Nat) : State :=
  let data := (List.range 128).map (fun i => ((bs.find? (fun e => e.1 == i)).map (·.2)).getD 0#8)
  let bad := psn.foldl (fun p w => p ||| (1#4 <<< (w / 8))) 0#4
  sendPkt s (pktOf s (ga / 2 ^ 45) 4 4 (ga / 128 * 128) (.data 0 (pairMask bs) data bad))

def maskedPairs (mask : BitVec 128) (bs : List Byte) : List (Nat × Byte) := ((List.range 128).filter (fun i => mask.getLsbD i)).zip bs

/-- L2's lines with their late bytes, then L1's. -/
def peerLinePhase (m : Image) (s : State) : State :=
  let s1 := m.recs.foldl (fun s r => match r with
    | .l2 _ _ ga mask bs psn => sendPeerLine s ga (maskBytes mask (fitLine bs)) (psn.filter (fun k => decide (mask.extractLsb' (4 * k) 4 ≠ 0#4)))
    | .patch _ (.l2 line) _ _ bs => sendPeerLine s (128 * line) bs []
    | _ => s) s
  m.recs.foldl (fun s r => match r with
    | .l1 ctx va mask bs psn => (match imgGa s m ctx va with
      | some ga => sendPeerLine s ga (maskedPairs mask bs) psn
      | none => s)
    | .patch ctx (.l1 _ _) loc _ bs => (match imgGa s m ctx loc with
      | some ga => sendPeerLine s ga bs []
      | none => s)
    | _ => s) s1

def execRestorePeerLines (s : State) : Outcome State Fault Refusal := .next (phaseStep 4 peerLinePhase s)

/-! ## Phase 5: objects -/

/-- Bytes of a unit and its poison placed. -/
def placeUnit (wb : Bool) (core idx : Nat) (bytes : List (Nat × Byte)) (psn : List Nat) (s : State) : State :=
  let s1 := zeroUnit s wb core idx
  let k := bufKey core idx 0
  let s2 := { s1 with bufPsn := sortAsc (psn.map (unitPsnKey wb core idx + ·) ++ s1.bufPsn) }
  if wb then { s2 with wbuf := putBytes k bytes s2.wbuf } else { s2 with obuf := putBytes k bytes s2.obuf }

/-- A chunk goes on: the packets of a PUSH or FLAG sent before the cut are not sent again, a PULL is (16_snapshot R307, 18_fabric_collectives R352). -/
def restChunk (k : Chunk) : Chunk :=
  { k with busy := [], got := [], cut0 := false, cut1 := false, closed := k.closed && !pulls k }

def loadObject (s : State) (e : Nat × EagerItem) : State :=
  match e.2 with
  | .launch l => { s with launches := s.launches ++ [l] }
  | .queue q => { s with queues := s.queues ++ [q] }
  | .rcd r => { s with recs := s.recs ++ [r] }
  | .unit wb core idx bytes psn => placeUnit wb core idx bytes psn s
  | .acc a bytes psn =>
    let k := accKey a.core a.bank 0
    { s with accs := s.accs ++ [a], acc := putBytes k bytes (Sparse.clear s.acc k 32768), accPsn := addKeys (psn.map (k / 4 + ·)) (outKeys (k / 4) 8192 s.accPsn) }
  | .array a => setArray s a
  | .ring r => setRing s r
  | .bar b => setBar s b
  | .chunk k => { s with chunks := s.chunks ++ [restChunk k] }
  | .split core n => growSplit s core n
  | .parity p0 p1 => { s with fab := { s.fab with par0 := p0, par1 := p1 } }
  | .snids i0 i1 => { s with col0 := { ColourRow.reset with snid := i0 }, col1 := { ColourRow.reset with snid := i1 } }
  | .cutSeq grp q => setCutSeq s grp q
  | _ => s

/-- RESTORE_OBJECTS: send sequences and receive marks 0, parities and ids as saved, both colours FREE. -/
def objectPhase (m : Image) (s : State) : State :=
  (eagerItems m).foldl loadObject { s with fab := { s.fab with chans := [], held := [] }, capQ := [] }

def execRestoreObjects (s : State) : Outcome State Fault Refusal := .next (phaseStep 5 objectPhase s)

/-! ## Phases 6 and 7: gangs -/

def freshPiece (p : Piece) : Piece := { p with st := .todo, data := [], psn := [] }

/-- An operation as it is reissued; `again` says that the image holds a later descriptor of it, from when it performed. -/
def reissue (again : Bool) (o : Op) : Option Op :=
  let o1 := { o with pre0 := false, pre1 := false }
  match o.kind with
  | .store _ _ => if again then some o1 else none
  | .zfill _ => none
  | .cline _ => none
  | .atom aop wide scope ord rem ret d gs =>
    if again then some { o1 with pieces := o.pieces.map (fun p => { p with st := .done }),
                                 kind := .atom aop wide scope ord rem ret d (gs.map (fun x => { x with late0 := false, late1 := false })) }
    else none
  | .fence scope pd _ => some { o1 with kind := .fence scope pd [] }
  | .snap kd pd id grp _ => some { o1 with kind := .snap kd pd id grp (some 3) }
  | .snapq kd pd c grp _ => some { o1 with kind := .snapq kd pd c grp (some 0) }
  | .load d width n scope ord rem => some { o1 with pieces := o.pieces.map freshPiece, kind := .load d width n scope ord rem }
  | _ => some o1

/-- The operations of an image that are reissued, in issue order, each from its last descriptor. -/
def reissued (m : Image) : List Op :=
  let os := imgOps m
  let ids := sortAsc (os.map (·.id))
  ids.filterMap (fun id =>
    let mine := os.filter (fun o => o.id == id)
    match mine.getLast? with
    | some o => reissue (decide (1 < mine.length)) o
    | none => none)

/-- Counters of the reissued operations (06_registers R121). -/
def countsOf (os : List Op) (gid : Nat) : Counts :=
  (os.filter (fun o => o.gid == gid)).foldl (fun c o => cntAdd c o.cls) { ld := 0, st := 0, cp := 0, tl := 0 }

/-- A gang as restoration forms it: it waits for the start, and a held bundle issues anew. -/
def formGang (os : List Op) (g : Gang) : Gang :=
  { g with cnt := countsOf os g.gid, parked := true, blocked := (match g.blocked with
      | some (.xlate _) => none
      | b => b) }

def gangPhase (m : Image) (s : State) : State :=
  let os := reissued m
  let bs := imgBlocks m
  { s with blocks := s.blocks ++ bs, gangs := s.gangs ++ (imgGangs m).map (formGang os), ops := sortBy (·.id) (s.ops ++ os),
           banks := s.banks ++ bs.flatMap (fun b => (b.banks.filterMap id).map (fun i => { core := b.core, idx := i, blk := b.id, ctx := b.ctx })) }

def execRestoreGangs (s : State) : Outcome State Fault Refusal := .next (phaseStep 6 gangPhase s)

/-- A restored BFREE, BARV or RREL that has not been applied (17_isa_sync_system R341: each is, before the first bundle). -/
def syncLeft (s : State) : Bool :=
  match s.restore with
  | some r => s.ops.any (fun o => inImage r.img o.ctx && syncKind o)
  | none => false

/-- RESTORE_START: every gang that waits for nothing else issues again. -/
def startPhase (m : Image) (s : State) : State :=
  let s1 := { s with restore := none }
  tellHost ((List.range Config.cores).foldl unparkReady s1) (.restore "complete" m.lid 0)

def execRestoreStart (s : State) : Outcome State Fault Refusal := .next (if syncLeft s then s else phaseStep 7 startPhase s)

end Sys2Proof.Machine
end

