-- ==== Sys2Proof/Machine/Uniform.lean ====
section
/-! DEFINITION. Uniform and index words (08_isa_control R158 to R161). -/

namespace Sys2Proof.Machine

open Host (Outcome)

/-- KOP: kd and kA as they stand give kd, two ticks on (R158). -/
def kopWord (i : Instr) (kd ka : BitVec 9) (f : Word → Word → Word) (s : State) : State :=
  runWord i (fun g _ _ s => uniResult s g 2 kd.toNat (f (rdK g kd.toNat) (rdK g ka.toNat))) s

/-- KOP on pairs. -/
def kopPair (i : Instr) (kd ka : BitVec 9) (f : BitVec 64 → BitVec 64 → BitVec 64) (s : State) : State :=
  runWord i (fun g _ _ s =>
    let r := f (rdK64 g kd.toNat) (rdK64 g ka.toNat)
    pushPend s g 2 [.write (.k kd.toNat) (lo32 r), .write (.k (kd.toNat + 1)) (hi32 r)]) s

def execKopMov (kd ka : BitVec 9) (s : State) : Outcome State Fault Refusal := .next (kopWord (.kopMov kd ka) kd ka (fun _ a => a) s)

def execKopAdd (kd ka : BitVec 9) (s : State) : Outcome State Fault Refusal :=
  .next (kopWord (.kopAdd kd ka) kd ka (fun d a => d + a) s)

def execKopSub (kd ka : BitVec 9) (s : State) : Outcome State Fault Refusal :=
  .next (kopWord (.kopSub kd ka) kd ka (fun d a => d - a) s)

def execKopMul (kd ka : BitVec 9) (s : State) : Outcome State Fault Refusal :=
  .next (kopWord (.kopMul kd ka) kd ka (fun d a => d * a) s)

def execKopAnd (kd ka : BitVec 9) (s : State) : Outcome State Fault Refusal :=
  .next (kopWord (.kopAnd kd ka) kd ka (fun d a => d &&& a) s)

def execKopOr (kd ka : BitVec 9) (s : State) : Outcome State Fault Refusal :=
  .next (kopWord (.kopOr kd ka) kd ka (fun d a => d ||| a) s)

def execKopXor (kd ka : BitVec 9) (s : State) : Outcome State Fault Refusal :=
  .next (kopWord (.kopXor kd ka) kd ka (fun d a => d ^^^ a) s)

def execKopShl (kd ka : BitVec 9) (s : State) : Outcome State Fault Refusal := .next (kopWord (.kopShl kd ka) kd ka shlWord s)

def execKopShr (kd ka : BitVec 9) (s : State) : Outcome State Fault Refusal := .next (kopWord (.kopShr kd ka) kd ka shrWord s)

def execKopSar (kd ka : BitVec 9) (s : State) : Outcome State Fault Refusal := .next (kopWord (.kopSar kd ka) kd ka sarWord s)

def execKopMins (kd ka : BitVec 9) (s : State) : Outcome State Fault Refusal := .next (kopWord (.kopMins kd ka) kd ka minS s)

def execKopMinn (kd ka : BitVec 9) (s : State) : Outcome State Fault Refusal := .next (kopWord (.kopMinn kd ka) kd ka minN s)

def execKopMaxs (kd ka : BitVec 9) (s : State) : Outcome State Fault Refusal := .next (kopWord (.kopMaxs kd ka) kd ka maxS s)

def execKopMaxn (kd ka : BitVec 9) (s : State) : Outcome State Fault Refusal := .next (kopWord (.kopMaxn kd ka) kd ka maxN s)

def execKopAdd64 (kd ka : BitVec 9) (s : State) : Outcome State Fault Refusal :=
  .next (kopPair (.kopAdd64 kd ka) kd ka (fun d a => d + a) s)

def execKopMov64 (kd ka : BitVec 9) (s : State) : Outcome State Fault Refusal :=
  .next (kopPair (.kopMov64 kd ka) kd ka (fun _ a => a) s)

/-- KMOV: the lowest active lane's source value, `lat` ticks on (R159). -/
def kmovWord (i : Instr) (lat : Nat) (kd : BitVec 9) (a : Src) (s : State) : State :=
  runWord i (fun g _ act s => uniResult s g lat kd.toNat (opA s g .int a (lowLane act))) s

def execKmovK (kd : BitVec 9) (a : Src) (s : State) : Outcome State Fault Refusal := .next (kmovWord (.kmovK kd a) 2 kd a s)

def execKmovV (kd : BitVec 9) (a : Src) (s : State) : Outcome State Fault Refusal := .next (kmovWord (.kmovV kd a) 6 kd a s)

def execKliShort (kd : BitVec 9) (imm : BitVec 14) (s : State) : Outcome State Fault Refusal :=
  .next (runWord (.kliShort kd imm) (fun g _ _ s => uniResult s g 2 kd.toNat (imm.signExtend 32)) s)

def execKliPimm (kd : BitVec 9) (hi : BitVec 2) (s : State) : Outcome State Fault Refusal :=
  .next (runWord (.kliPimm kd hi) (fun g _ _ s => uniResult s g 2 kd.toNat (hi ++ s.cur.pimm)) s)

/-- An index register of each active lane, two ticks on (R161). -/
def indexWord (i : Instr) (f : Gang → Nat → Word → List PendAct) (a : Src) (s : State) : State :=
  runWord i (fun g _ act s => pushPend s g 2 ((lanesOf act).flatMap (fun l => f g l (opA s g .int a l)))) s

def execXset (x : BitVec 3) (a : Src) (s : State) : Outcome State Fault Refusal :=
  .next (indexWord (.xset x a) (fun _ l b => [.write (.x l x.toNat) (b &&& 0xFFFFFF#32)]) a s)

def execXadd (x : BitVec 3) (a : Src) (s : State) : Outcome State Fault Refusal :=
  .next (indexWord (.xadd x a) (fun g l b =>
    [.write (.xcur l x.toNat) (BitVec.ofNat 32 ((xCur (xReg g l x.toNat) + bitsN b.toNat 0 8) % 256))]) a s)

end Sys2Proof.Machine
end

