-- ==== Sys2Proof/Machine/Dispatch.lean ====
section
/-! DEFINITION. One arm per row of spec/opcode_table.json. -/

namespace Sys2Proof.Machine

def exec (i : Instr) (s : State) : Host.Outcome State Fault Refusal :=
  match i with
  | .nop rest => Sys2Proof.Machine.execNop rest s
  | .mod m => Sys2Proof.Machine.execMod m s
  | .iadd d a b => Sys2Proof.Machine.execIadd d a b s
  | .isub d a b => Sys2Proof.Machine.execIsub d a b s
  | .imul d a b => Sys2Proof.Machine.execImul d a b s
  | .imulhs d a b => Sys2Proof.Machine.execImulhs d a b s
  | .imulhn d a b => Sys2Proof.Machine.execImulhn d a b s
  | .imad d a b => Sys2Proof.Machine.execImad d a b s
  | .imins d a b => Sys2Proof.Machine.execImins d a b s
  | .iminn d a b => Sys2Proof.Machine.execIminn d a b s
  | .imaxs d a b => Sys2Proof.Machine.execImaxs d a b s
  | .imaxn d a b => Sys2Proof.Machine.execImaxn d a b s
  | .and d a b => Sys2Proof.Machine.execAnd d a b s
  | .or d a b => Sys2Proof.Machine.execOr d a b s
  | .xor d a b => Sys2Proof.Machine.execXor d a b s
  | .andn d a b => Sys2Proof.Machine.execAndn d a b s
  | .shl d a b => Sys2Proof.Machine.execShl d a b s
  | .shr d a b => Sys2Proof.Machine.execShr d a b s
  | .sar d a b => Sys2Proof.Machine.execSar d a b s
  | .rot d a b => Sys2Proof.Machine.execRot d a b s
  | .bfe d a b => Sys2Proof.Machine.execBfe d a b s
  | .bfi d a b => Sys2Proof.Machine.execBfi d a b s
  | .fadd d a b => Sys2Proof.Machine.execFadd d a b s
  | .fsub d a b => Sys2Proof.Machine.execFsub d a b s
  | .fmul d a b => Sys2Proof.Machine.execFmul d a b s
  | .ffma d a b => Sys2Proof.Machine.execFfma d a b s
  | .fmin d a b => Sys2Proof.Machine.execFmin d a b s
  | .fmax d a b => Sys2Proof.Machine.execFmax d a b s
  | .hadd d a b => Sys2Proof.Machine.execHadd d a b s
  | .hmul d a b => Sys2Proof.Machine.execHmul d a b s
  | .hfma d a b => Sys2Proof.Machine.execHfma d a b s
  | .badd d a b => Sys2Proof.Machine.execBadd d a b s
  | .bmul d a b => Sys2Proof.Machine.execBmul d a b s
  | .bfma d a b => Sys2Proof.Machine.execBfma d a b s
  | .padd d a b => Sys2Proof.Machine.execPadd d a b s
  | .psub d a b => Sys2Proof.Machine.execPsub d a b s
  | .pmul d a b => Sys2Proof.Machine.execPmul d a b s
  | .pmac d a b => Sys2Proof.Machine.execPmac d a b s
  | .pshr d a b => Sys2Proof.Machine.execPshr d a b s
  | .pmin d a b => Sys2Proof.Machine.execPmin d a b s
  | .pmax d a b => Sys2Proof.Machine.execPmax d a b s
  | .ppack d a b => Sys2Proof.Machine.execPpack d a b s
  | .lmul d a b => Sys2Proof.Machine.execLmul d a b s
  | .icmp pd cond a b => Sys2Proof.Machine.execIcmp pd cond a b s
  | .fcmp pd cond a b => Sys2Proof.Machine.execFcmp pd cond a b s
  | .hcmp pd cond a b => Sys2Proof.Machine.execHcmp pd cond a b s
  | .sel d a b p => Sys2Proof.Machine.execSel d a b p s
  | .plog pd op a b => Sys2Proof.Machine.execPlog pd op a b s
  | .vunMov d a => Sys2Proof.Machine.execVunMov d a s
  | .vunNot d a => Sys2Proof.Machine.execVunNot d a s
  | .vunIneg d a => Sys2Proof.Machine.execVunIneg d a s
  | .vunIabs d a => Sys2Proof.Machine.execVunIabs d a s
  | .vunPopc d a => Sys2Proof.Machine.execVunPopc d a s
  | .vunClz d a => Sys2Proof.Machine.execVunClz d a s
  | .vunCtz d a => Sys2Proof.Machine.execVunCtz d a s
  | .vunBrev d a => Sys2Proof.Machine.execVunBrev d a s
  | .vunBswap d a => Sys2Proof.Machine.execVunBswap d a s
  | .vunFrint d a => Sys2Proof.Machine.execVunFrint d a s
  | .vunFfloor d a => Sys2Proof.Machine.execVunFfloor d a s
  | .vunFceil d a => Sys2Proof.Machine.execVunFceil d a s
  | .vunFtrunc d a => Sys2Proof.Machine.execVunFtrunc d a s
  | .cvt src dst d a => Sys2Proof.Machine.execCvt src dst d a s
  | .xfnRcp d a => Sys2Proof.Machine.execXfnRcp d a s
  | .xfnRsq d a => Sys2Proof.Machine.execXfnRsq d a s
  | .xfnSqrt d a => Sys2Proof.Machine.execXfnSqrt d a s
  | .xfnExp2 d a => Sys2Proof.Machine.execXfnExp2 d a s
  | .xfnLog2 d a => Sys2Proof.Machine.execXfnLog2 d a s
  | .xfnSin d a => Sys2Proof.Machine.execXfnSin d a s
  | .xfnCos d a => Sys2Proof.Machine.execXfnCos d a s
  | .xfnTanh d a => Sys2Proof.Machine.execXfnTanh d a s
  | .slided d a b => Sys2Proof.Machine.execSlided d a b s
  | .slideu d a b => Sys2Proof.Machine.execSlideu d a b s
  | .shfl d a b => Sys2Proof.Machine.execShfl d a b s
  | .red op ty d a => Sys2Proof.Machine.execRed op ty d a s
  | .scan op ty d a => Sys2Proof.Machine.execScan op ty d a s
  | .voteAny d a => Sys2Proof.Machine.execVoteAny d a s
  | .voteAll d a => Sys2Proof.Machine.execVoteAll d a s
  | .voteBallot d a => Sys2Proof.Machine.execVoteBallot d a s
  | .voteCount d a => Sys2Proof.Machine.execVoteCount d a s
  | .rand d a b => Sys2Proof.Machine.execRand d a b s
  | .kopMov kd ka => Sys2Proof.Machine.execKopMov kd ka s
  | .kopAdd kd ka => Sys2Proof.Machine.execKopAdd kd ka s
  | .kopSub kd ka => Sys2Proof.Machine.execKopSub kd ka s
  | .kopMul kd ka => Sys2Proof.Machine.execKopMul kd ka s
  | .kopAnd kd ka => Sys2Proof.Machine.execKopAnd kd ka s
  | .kopOr kd ka => Sys2Proof.Machine.execKopOr kd ka s
  | .kopXor kd ka => Sys2Proof.Machine.execKopXor kd ka s
  | .kopShl kd ka => Sys2Proof.Machine.execKopShl kd ka s
  | .kopShr kd ka => Sys2Proof.Machine.execKopShr kd ka s
  | .kopSar kd ka => Sys2Proof.Machine.execKopSar kd ka s
  | .kopMins kd ka => Sys2Proof.Machine.execKopMins kd ka s
  | .kopMinn kd ka => Sys2Proof.Machine.execKopMinn kd ka s
  | .kopMaxs kd ka => Sys2Proof.Machine.execKopMaxs kd ka s
  | .kopMaxn kd ka => Sys2Proof.Machine.execKopMaxn kd ka s
  | .kopAdd64 kd ka => Sys2Proof.Machine.execKopAdd64 kd ka s
  | .kopMov64 kd ka => Sys2Proof.Machine.execKopMov64 kd ka s
  | .kmovK kd a => Sys2Proof.Machine.execKmovK kd a s
  | .kmovV kd a => Sys2Proof.Machine.execKmovV kd a s
  | .kliShort kd imm => Sys2Proof.Machine.execKliShort kd imm s
  | .kliPimm kd hi => Sys2Proof.Machine.execKliPimm kd hi s
  | .xset x a => Sys2Proof.Machine.execXset x a s
  | .xadd x a => Sys2Proof.Machine.execXadd x a s
  | .bra p neg off => Sys2Proof.Machine.execBra p neg off s
  | .brx ka => Sys2Proof.Machine.execBrx ka s
  | .call p neg off => Sys2Proof.Machine.execCall p neg off s
  | .ret n => Sys2Proof.Machine.execRet n s
  | .join m => Sys2Proof.Machine.execJoin m s
  | .leave m => Sys2Proof.Machine.execLeave m s
  | .waitm m => Sys2Proof.Machine.execWaitm m s
  | .yieldW => Sys2Proof.Machine.execYieldW s
  | .serb => Sys2Proof.Machine.execSerb s
  | .sere => Sys2Proof.Machine.execSere s
  | .elect ka pd => Sys2Proof.Machine.execElect ka pd s
  | .exitW => Sys2Proof.Machine.execExitW s
  | .trap ka n => Sys2Proof.Machine.execTrap ka n s
  | .tret => Sys2Proof.Machine.execTret s
  | .wait nl ns nc nt => Sys2Proof.Machine.execWait nl ns nc nt s
  | .ld f => Sys2Proof.Machine.execLd f s
  | .st f => Sys2Proof.Machine.execSt f s
  | .ldl f => Sys2Proof.Machine.execLdl f s
  | .psh d width => Sys2Proof.Machine.execPsh d width s
  | .pop d width => Sys2Proof.Machine.execPop d width s
  | .atomAdd f => Sys2Proof.Machine.execAtomAdd f s
  | .atomMins f => Sys2Proof.Machine.execAtomMins f s
  | .atomMinn f => Sys2Proof.Machine.execAtomMinn f s
  | .atomMaxs f => Sys2Proof.Machine.execAtomMaxs f s
  | .atomMaxn f => Sys2Proof.Machine.execAtomMaxn f s
  | .atomAnd f => Sys2Proof.Machine.execAtomAnd f s
  | .atomOr f => Sys2Proof.Machine.execAtomOr f s
  | .atomXor f => Sys2Proof.Machine.execAtomXor f s
  | .atomExch f => Sys2Proof.Machine.execAtomExch f s
  | .atomCas f => Sys2Proof.Machine.execAtomCas f s
  | .atomFadd f => Sys2Proof.Machine.execAtomFadd f s
  | .atomFmin f => Sys2Proof.Machine.execAtomFmin f s
  | .atomFmax f => Sys2Proof.Machine.execAtomFmax f s
  | .redm op f => Sys2Proof.Machine.execRedm op f s
  | .fence pd scope => Sys2Proof.Machine.execFence pd scope s
  | .clineWb addr off => Sys2Proof.Machine.execClineWb addr off s
  | .clineWbi addr off => Sys2Proof.Machine.execClineWbi addr off s
  | .clineMem addr off => Sys2Proof.Machine.execClineMem addr off s
  | .zfill addr scope space off => Sys2Proof.Machine.execZfill addr scope space off s
  | .cpy f => Sys2Proof.Machine.execCpy f s
  | .obres kd kq wb => Sys2Proof.Machine.execObres kd kq wb s
  | .obrel kh => Sys2Proof.Machine.execObrel kh s
  | .obld kh kq space cvt => Sys2Proof.Machine.execObld kh kq space cvt s
  | .wbld kh kq space => Sys2Proof.Machine.execWbld kh kq space s
  | .acalloc kd n => Sys2Proof.Machine.execAcalloc kd n s
  | .acfree km => Sys2Proof.Machine.execAcfree km s
  | .mma kp cp => Sys2Proof.Machine.execMma kp cp s
  | .acmovTogl kt kq clr => Sys2Proof.Machine.execAcmovTogl kt kq clr s
  | .acmovTosp kt kq clr => Sys2Proof.Machine.execAcmovTosp kt kq clr s
  | .acmovFromsp kt kq => Sys2Proof.Machine.execAcmovFromsp kt kq s
  | .acmovToreg kt kq clr => Sys2Proof.Machine.execAcmovToreg kt kq clr s
  | .twset kw max => Sys2Proof.Machine.execTwset kw max s
  | .tldw kq => Sys2Proof.Machine.execTldw kq s
  | .tlnch v => Sys2Proof.Machine.execTlnch v s
  | .tcapt v => Sys2Proof.Machine.execTcapt v s
  | .trst => Sys2Proof.Machine.execTrst s
  | .trstRel => Sys2Proof.Machine.execTrstRel s
  | .balloc kd ke scope pd => Sys2Proof.Machine.execBalloc kd ke scope pd s
  | .bfree kh => Sys2Proof.Machine.execBfree kh s
  | .barvArrive kh kb tx => Sys2Proof.Machine.execBarvArrive kh kb tx s
  | .barvNoarr kh kb => Sys2Proof.Machine.execBarvNoarr kh kb s
  | .barvDrop kh kb tx => Sys2Proof.Machine.execBarvDrop kh kb tx s
  | .bwait kh kp pd => Sys2Proof.Machine.execBwait kh kp pd s
  | .ringCreate kd kq => Sys2Proof.Machine.execRingCreate kd kq s
  | .ringRel kh => Sys2Proof.Machine.execRingRel kh s
  | .rawait kh kd => Sys2Proof.Machine.execRawait kh kd s
  | .rrel kh => Sys2Proof.Machine.execRrel kh s
  | .csrr k n => Sys2Proof.Machine.execCsrr k n s
  | .csrwWrite k n => Sys2Proof.Machine.execCsrwWrite k n s
  | .csrwSet k n => Sys2Proof.Machine.execCsrwSet k n s
  | .csrwClr k n => Sys2Proof.Machine.execCsrwClr k n s
  | .csrwSwap k n => Sys2Proof.Machine.execCsrwSwap k n s
  | .snap kd kq pd => Sys2Proof.Machine.execSnap kd kq pd s
  | .snapq kd kc pd grp => Sys2Proof.Machine.execSnapq kd kc pd grp s
  | .reservedMajor major rest => Sys2Proof.Machine.execReservedMajor major rest s
  | .waitRelease g => Sys2Proof.Machine.execWaitRelease g s
  | .stallRelease g => Sys2Proof.Machine.execStallRelease g s
  | .walkComplete ctx ask => Sys2Proof.Machine.execWalkComplete ctx ask s
  | .loadComplete op ps => Sys2Proof.Machine.execLoadComplete op ps s
  | .storePerformed op ps => Sys2Proof.Machine.execStorePerformed op ps s
  | .atomComplete op ps => Sys2Proof.Machine.execAtomComplete op ps s
  | .fenceComplete op => Sys2Proof.Machine.execFenceComplete op s
  | .lostPeerBound op => Sys2Proof.Machine.execLostPeerBound op s
  | .clineComplete op => Sys2Proof.Machine.execClineComplete op s
  | .cpyComplete op => Sys2Proof.Machine.execCpyComplete op s
  | .engineRecall op ps => Sys2Proof.Machine.execEngineRecall op ps s
  | .obresGrant g => Sys2Proof.Machine.execObresGrant g s
  | .obrelFree core rec => Sys2Proof.Machine.execObrelFree core rec s
  | .obldComplete op => Sys2Proof.Machine.execObldComplete op s
  | .wbldComplete op => Sys2Proof.Machine.execWbldComplete op s
  | .weightFault g => Sys2Proof.Machine.execWeightFault g s
  | .acallocGrant g => Sys2Proof.Machine.execAcallocGrant g s
  | .acfreeDone g => Sys2Proof.Machine.execAcfreeDone g s
  | .mmaBarrierWaitEnd op => Sys2Proof.Machine.execMmaBarrierWaitEnd op s
  | .mmaComplete op => Sys2Proof.Machine.execMmaComplete op s
  | .acmovComplete op => Sys2Proof.Machine.execAcmovComplete op s
  | .twsetClaim g => Sys2Proof.Machine.execTwsetClaim g s
  | .tldwComplete op => Sys2Proof.Machine.execTldwComplete op s
  | .tlnchComplete op => Sys2Proof.Machine.execTlnchComplete op s
  | .tcaptComplete op => Sys2Proof.Machine.execTcaptComplete op s
  | .trstApply op => Sys2Proof.Machine.execTrstApply op s
  | .ballocComplete op => Sys2Proof.Machine.execBallocComplete op s
  | .bfreeApply op => Sys2Proof.Machine.execBfreeApply op s
  | .barvApply op => Sys2Proof.Machine.execBarvApply op s
  | .bwaitDone g => Sys2Proof.Machine.execBwaitDone g s
  | .ringGrant g => Sys2Proof.Machine.execRingGrant g s
  | .ringRelDone g => Sys2Proof.Machine.execRingRelDone g s
  | .rawaitTake g => Sys2Proof.Machine.execRawaitTake g s
  | .rrelApply op => Sys2Proof.Machine.execRrelApply op s
  | .snapComplete op => Sys2Proof.Machine.execSnapComplete op s
  | .snapqComplete op => Sys2Proof.Machine.execSnapqComplete op s
  | .powerOnReset f => Sys2Proof.Machine.execPowerOnReset f s
  | .createContext fn c => Sys2Proof.Machine.execCreateContext fn c s
  | .removeContext fn ctx => Sys2Proof.Machine.execRemoveContext fn ctx s
  | .createQueue fn q => Sys2Proof.Machine.execCreateQueue fn q s
  | .removeQueue fn vf num => Sys2Proof.Machine.execRemoveQueue fn vf num s
  | .enableQueue fn vf num => Sys2Proof.Machine.execEnableQueue fn vf num s
  | .disableQueue fn vf num => Sys2Proof.Machine.execDisableQueue fn vf num s
  | .writePodMap fn entries self => Sys2Proof.Machine.execWritePodMap fn entries self s
  | .writeGroupDescriptor fn idx d => Sys2Proof.Machine.execWriteGroupDescriptor fn idx d s
  | .setSnapshotGroup fn ctx group right => Sys2Proof.Machine.execSetSnapshotGroup fn ctx group right s
  | .setFirmwarePolicy fn p vf value => Sys2Proof.Machine.execSetFirmwarePolicy fn p vf value s
  | .loadSparImage fn vf img => Sys2Proof.Machine.execLoadSparImage fn vf img s
  | .mastheadHandover fn img => Sys2Proof.Machine.execMastheadHandover fn img s
  | .readAttestationReport fn nonce => Sys2Proof.Machine.execReadAttestationReport fn nonce s
  | .kill fn g => Sys2Proof.Machine.execKill fn g s
  | .killHandlerTimeout g => Sys2Proof.Machine.execKillHandlerTimeout g s
  | .stallWatchdog g => Sys2Proof.Machine.execStallWatchdog g s
  | .hostSnapshotRequest fn ctx group id => Sys2Proof.Machine.execHostSnapshotRequest fn ctx group id s
  | .invalidateTranslation fn ctx page => Sys2Proof.Machine.execInvalidateTranslation fn ctx page s
  | .invalidationComplete ctx page => Sys2Proof.Machine.execInvalidationComplete ctx page s
  | .queueScan vf num => Sys2Proof.Machine.execQueueScan vf num s
  | .recordAccept vf num => Sys2Proof.Machine.execRecordAccept vf num s
  | .spliceDecide vf num => Sys2Proof.Machine.execSpliceDecide vf num s
  | .placeBlock launch p => Sys2Proof.Machine.execPlaceBlock launch p s
  | .scratchpadShrink core steps => Sys2Proof.Machine.execScratchpadShrink core steps s
  | .timeSliceEnd blocks => Sys2Proof.Machine.execTimeSliceEnd blocks s
  | .sliceClaim u => Sys2Proof.Machine.execSliceClaim u s
  | .resumeBlock blk p => Sys2Proof.Machine.execResumeBlock blk p s
  | .ownerChangeZero u ctx => Sys2Proof.Machine.execOwnerChangeZero u ctx s
  | .gangEnd g => Sys2Proof.Machine.execGangEnd g s
  | .launchEnd launch => Sys2Proof.Machine.execLaunchEnd launch s
  | .collectivePush launch chunk => Sys2Proof.Machine.execCollectivePush launch chunk s
  | .collectivePull launch chunk parts => Sys2Proof.Machine.execCollectivePull launch chunk parts s
  | .collectiveFlag launch chunk => Sys2Proof.Machine.execCollectiveFlag launch chunk s
  | .collectiveWaitf launch chunk => Sys2Proof.Machine.execCollectiveWaitf launch chunk s
  | .readRequest p => Sys2Proof.Machine.execReadRequest p s
  | .readData p => Sys2Proof.Machine.execReadData p s
  | .ownershipRequest p => Sys2Proof.Machine.execOwnershipRequest p s
  | .ownershipGrant p => Sys2Proof.Machine.execOwnershipGrant p s
  | .storeData p => Sys2Proof.Machine.execStoreData p s
  | .invalidation p => Sys2Proof.Machine.execInvalidation p s
  | .acknowledgement p => Sys2Proof.Machine.execAcknowledgement p s
  | .atomicRequest p => Sys2Proof.Machine.execAtomicRequest p s
  | .multicastStore p => Sys2Proof.Machine.execMulticastStore p s
  | .multicastLoad p => Sys2Proof.Machine.execMulticastLoad p s
  | .promotionRequest p => Sys2Proof.Machine.execPromotionRequest p s
  | .remoteAcquireAnswer line => Sys2Proof.Machine.execRemoteAcquireAnswer line s
  | .telltale p => Sys2Proof.Machine.execTelltale p s
  | .collectiveStep p => Sys2Proof.Machine.execCollectiveStep p s
  | .reservedClassPacket p => Sys2Proof.Machine.execReservedClassPacket p s
  | .snapshotRequest => Sys2Proof.Machine.execSnapshotRequest s
  | .halyardSweep c u => Sys2Proof.Machine.execHalyardSweep c u s
  | .captureQueueRoom die c => Sys2Proof.Machine.execCaptureQueueRoom die c s
  | .localDone c => Sys2Proof.Machine.execLocalDone c s
  | .durableAck c copy => Sys2Proof.Machine.execDurableAck c copy s
  | .free c => Sys2Proof.Machine.execFree c s
  | .freeAck c member => Sys2Proof.Machine.execFreeAck c member s
  | .commit c => Sys2Proof.Machine.execCommit c s
  | .durabilityBoundExpiry c => Sys2Proof.Machine.execDurabilityBoundExpiry c s
  | .targetWriteFailure c => Sys2Proof.Machine.execTargetWriteFailure c s
  | .linkDetectionTimeout lid => Sys2Proof.Machine.execLinkDetectionTimeout lid s
  | .markPackageFailed lid => Sys2Proof.Machine.execMarkPackageFailed lid s
  | .startRestoration fn r => Sys2Proof.Machine.execStartRestoration fn r s
  | .restoreMemory => Sys2Proof.Machine.execRestoreMemory s
  | .restoreChannels => Sys2Proof.Machine.execRestoreChannels s
  | .restorePeerLines => Sys2Proof.Machine.execRestorePeerLines s
  | .restoreObjects => Sys2Proof.Machine.execRestoreObjects s
  | .restoreGangs => Sys2Proof.Machine.execRestoreGangs s
  | .restoreStart => Sys2Proof.Machine.execRestoreStart s
  | .powerWindow watts junction => Sys2Proof.Machine.execPowerWindow watts junction s
  | .junctionHot junction => Sys2Proof.Machine.execJunctionHot junction s
  | .thermalAlarm junction => Sys2Proof.Machine.execThermalAlarm junction s
  | .thermalShutdown junction => Sys2Proof.Machine.execThermalShutdown junction s
  | .healthMonitorTick h => Sys2Proof.Machine.execHealthMonitorTick h s
  | .hbmScrub stack => Sys2Proof.Machine.execHbmScrub stack s
  | .hbmCalibration stack => Sys2Proof.Machine.execHbmCalibration stack s
  | .portRetrain port => Sys2Proof.Machine.execPortRetrain port s
  | .cxlExpanderLost base size => Sys2Proof.Machine.execCxlExpanderLost base size s
  | .hostPcieWrite fn ctx va bytes => Sys2Proof.Machine.execHostPcieWrite fn ctx va bytes s
  | .lineEviction cache line => Sys2Proof.Machine.execLineEviction cache line s
  | .powerLoss => Sys2Proof.Machine.execPowerLoss s
  | .recoveryImageLoad img => Sys2Proof.Machine.execRecoveryImageLoad img s
  | .groupStateQuery member c => Sys2Proof.Machine.execGroupStateQuery member c s
  | .rootDigestReport c member digest durable => Sys2Proof.Machine.execRootDigestReport c member digest durable s

end Sys2Proof.Machine
end

