-- ==== Sys2Proof/Machine/Bundle.lean ====
section
/-! DEFINITION. A bundle's run (02_execution R33, R35, R36, R41, R42; 04_encoding R72 to R78, R88; 08_isa_control R147, R151), and one turn
of the package. -/

namespace Sys2Proof.Machine

open Host (Outcome)

/-! ## Fetch -/

/-- The four words of a packet's bytes. -/
def packetWords (bs : List Byte) : List Word := [wordOf bs 0, wordOf bs 4, wordOf bs 8]

/-- KIND and packet immediate of a control word (R72, R78). -/
def ctlKind (c : Word) : Nat := bitsN c.toNat 30 2

def ctlImm (c : Word) : BitVec 30 := c.extractLsb' 0 30

/-- Poison of the control word or of a word of the bundle (09_memories R183). -/
def fetchPoisoned (psn : Bool × Bool × Bool × Bool) (ws : List (Nat × BitVec 32)) : Bool :=
  psn.2.2.2 || ws.any (fun e => match e.1 with
    | 0 => psn.1
    | 1 => psn.2.1
    | _ => psn.2.2.1)

/-- No word but NOPs beside one other (08_isa_control R167). -/
def soloBundle (ws : List BundleWord) : Bool :=
  decide ((ws.filter (fun w => match w.word with
    | some (.nop _) => false
    | _ => true)).length ≤ 1)

/-- The issue record of a bundle. -/
def issueOf (s : State) (g : Gang) (pc : Addr) (lanes : LaneMask) (ctl : Word) (raw : List (Nat × BitVec 32)) : Issue :=
  let ws := withMods none raw
  let e := mapEntry s g pc
  { gid := g.gid, busy := true, pc := pc, lanes := lanes, pimm := ctlImm ctl, slot := 0,
    last := (raw.map (·.1)).foldl max 0, mod := none, solo := soloBundle ws, checked := false,
    cons := (e.map (·.cons)).getD false, kinds := (e.map (·.kinds)).getD 0, pair := (e.map (·.pair)).getD 0, taken := [], words := ws }

/-! ## Checks -/

/-- The record with one word's turn. -/
def atWord (s : State) (w : BundleWord) : State := { s with cur := { s.cur with slot := w.slot, mod := w.mod } }

/-- Steps 3 to 7, step by step, the lowest slot first (R88). -/
def bundleFault (s : State) (g : Gang) (ws : List BundleWord) : Option Flt :=
  firstSome (fun st => firstSome (fun w => stepFault (atWord s w) g w st) ws) [3, 4, 5, 6, 7]

/-- The barrier objects that a word's issue takes a reference on, one for each name (15_tables_counters R295). -/
def wordRefs (s : State) (g : Gang) : Instr → List Word
  | .cpy f => if rdK g f.h.toNat = 0 ∨ (rdK g f.h.toNat).getLsbD 31 then [] else [rdK g f.h.toNat]
  | .mma kp cp =>
    let b := mmaBlock (mmaWords s g kp.toNat cp)
    (if b.wv then [b.wh] else []) ++ (if b.av then [b.ahb] else [])
  | _ => []

/-- Step 8 of the words in slot order: the first that does not pass, with the PC that TRETPC takes. A word's references count for the words
after it (R295). -/
def bundleStep8 (s : State) (g : Gang) : List BundleWord → Chk × Addr
  | [] => (.ok, s.cur.pc)
  | w :: ws => match w.word with
    | none => bundleStep8 s g ws
    | some i =>
      match wordChk (atWord s w) g i (w.mod.getD plainMod) (activeOf g s.cur.lanes w.word w.mod) with
      | .ok => bundleStep8 (if activeOf g s.cur.lanes w.word w.mod = 0 then s else (wordRefs s g i).foldl barRef s) g ws
      | c => (c, retPcOf s i)

/-! ## The structural stall (R42) -/

/-- The class that a word counts in. -/
def classOf : Instr → OpCls
  | .ld _ => .ld
  | .ldl _ => .ld
  | .pop _ _ => .ld
  | .atomAdd _ => .ld
  | .atomMins _ => .ld
  | .atomMinn _ => .ld
  | .atomMaxs _ => .ld
  | .atomMaxn _ => .ld
  | .atomAnd _ => .ld
  | .atomOr _ => .ld
  | .atomXor _ => .ld
  | .atomExch _ => .ld
  | .atomCas _ => .ld
  | .atomFadd _ => .ld
  | .atomFmin _ => .ld
  | .atomFmax _ => .ld
  | .balloc _ _ _ _ => .ld
  | .snap _ _ _ => .ld
  | .snapq _ _ _ _ => .ld
  | .st _ => .st
  | .psh _ _ => .st
  | .redm _ _ => .st
  | .zfill _ _ _ _ => .st
  | .clineWb _ _ => .st
  | .clineWbi _ _ => .st
  | .clineMem _ _ => .st
  | .fence _ _ => .st
  | .barvArrive _ _ _ => .st
  | .barvNoarr _ _ => .st
  | .barvDrop _ _ _ => .st
  | .bfree _ => .st
  | .rrel _ => .st
  | .cpy _ => .cp
  | .obld _ _ _ _ => .tl
  | .wbld _ _ _ => .tl
  | .mma _ _ => .tl
  | .acmovTogl _ _ _ => .tl
  | .acmovTosp _ _ _ => .tl
  | .acmovFromsp _ _ => .tl
  | .acmovToreg _ _ _ => .tl
  | .tldw _ => .tl
  | .tlnch _ => .tl
  | .tcapt _ => .tl
  | _ => .none

/-- What the words of a bundle with active lanes would add to the counters. -/
def bundleCounts (g : Gang) (lanes : LaneMask) : List BundleWord → Counts
  | [] => { ld := 0, st := 0, cp := 0, tl := 0 }
  | w :: ws => match w.word with
    | some i => if activeOf g lanes w.word w.mod = 0 then bundleCounts g lanes ws else cntAdd (bundleCounts g lanes ws) (classOf i)
    | none => bundleCounts g lanes ws

def countsFit (c d : Counts) : Bool :=
  decide (c.ld + d.ld ≤ 63) && decide (c.st + d.st ≤ 63) && decide (c.cp + d.cp ≤ 63) && decide (c.tl + d.tl ≤ 63)

/-! ## Effects, in the order of the words' nature -/

/-- Words that drain or block: all of pipe T, so at most one stands in a bundle (R43, R77). -/
def isDraining : Instr → Bool
  | .yieldW => true
  | .waitm _ => true
  | .wait _ _ _ _ => true
  | .bwait _ _ _ => true
  | .rawait _ _ => true
  | .acfree _ => true
  | _ => false

/-- Words that read CSRs: counters stand as before the bundle's words (R41). -/
def readsCsr : Instr → Bool
  | .csrr _ _ => true
  | .csrwSet _ _ => true
  | .csrwClr _ _ => true
  | .csrwSwap _ _ => true
  | _ => false

/-- CSR reads first, then ordinary words, TRET, SERB, EXIT, the draining one last: every word of a bundle reads before any of them drains or
blocks, and states follow R147's order, a lane that exits keeping Exited (R41, R147) (log entry 51, DEDUCED). -/
def wordRank (w : BundleWord) : Nat :=
  match w.word with
  | some .tret => 2
  | some .serb => 3
  | some .exitW => 4
  | some i => if isDraining i then 5 else if readsCsr i then 0 else 1
  | none => 1

/-- Each word's meaning in turn. -/
def runWords : List BundleWord → State → Outcome State Fault Refusal
  | [], s => .next s
  | w :: ws, s => match w.word with
    | none => runWords ws s
    | some i => match exec i (atWord s w) with
      | .next t => runWords ws t
      | .fault f => .fault f
      | .refused r => .refused r

/-! ## The end of a bundle -/

/-- Register words that the bundle's words read under a set zero flag (06_registers R114, 15_tables_counters R299) (log entry 50, DEDUCED). -/
def zeroReads (s : State) (g : Gang) (ws : List BundleWord) : Nat :=
  (ws.flatMap (fun w => match w.word with
    | some i => (lanesOf (activeOf g s.cur.lanes w.word w.mod)).flatMap (fun l =>
        (laneReads (atWord s w) g i (w.mod.getD plainMod) l).filter (fun e => decide (rdV s g e.1 e.2 = 0)))
    | none => [])).length

/-- The next PC of a lane (08_isa_control R147). -/
def nextPc (c : Issue) (l : Nat) : Addr :=
  match c.taken.find? (fun e => e.1 == l) with
  | some e => e.2
  | none => fallPc c.pc c.last

/-- PCs move, the tick advances, results fall due, masks release (R147, R40, R41, R151). -/
def finishBundle (packed : Bool) (zw : Nat) (s : State) : State :=
  let c := s.cur
  match gangOf s c.gid with
  | none => { s with cur := Issue.none }
  | some g =>
    let lanes := g.lanes.mapIdx (fun l x => if c.lanes.getLsbD l && decide (x.st ≠ .exited) then { x with pc := nextPc c l } else x)
    let perf := { g.perf with bundles := g.perf.bundles + 1, packed := g.perf.packed + (if packed then 1 else 0),
                              zwords := g.perf.zwords + zw }
    let s1 := setGang { s with cur := Issue.none } { g with lanes := lanes, tick := g.tick + 1, lastIssue := s.clock, perf := perf }
    modGang (retire s1 g.gid (g.tick + 1)) g.gid releaseMasks

/-! ## One gang's issue -/

/-- The requests for lines among the pages of a hold: another package's filled, an own one recalled. -/
def askHeld (s : State) (core : Nat) (pages : List Nat) : State :=
  (pages.filter (fun p => decide (2 ^ 44 ≤ p) && decide (p < 2 ^ 60))).foldl (fun s p =>
    if (p - 2 ^ 44) / 2 ^ 38 = s.fab.lid then homeAsk s ((p - 2 ^ 44) % 2 ^ 38) else askRead s (p - 2 ^ 44) 0 false core) s

/-- The bundle waits for pages or lines (11_isa_memory R216) (log entry 60, DEDUCED). -/
def holdBundle (s : State) (g : Gang) (pages : List Nat) : State :=
  blockOn (askHeld { s with cur := Issue.none } g.core pages) g.gid (.xlate (sortAsc pages))

/-- A walk that failed is not kept once the bundles of its context have met it. -/
def dropFailedWalks (s : State) (ctx : Nat) : State := { s with tlb := s.tlb.filter (fun r => !(r.ctx == ctx && r.leaf.isNone)) }

/-- A trap is entered once the PC map's line and the vector table's are there; until then the bundle is held and meets its fault again. -/
def enterTrap (s : State) (g : Gang) (code : Nat) (pc : Addr) (f : State → State) : State :=
  match trapGaps s g code pc with
  | [] => f s
  | ls => holdBundle s g (ls.map (gapPage s))

/-- A fault of the bundle enters the trap (R164). -/
def faultBundle (s : State) (g : Gang) (f : Flt) (ret : Addr) : State :=
  let c := s.cur
  enterTrap s g f.code c.pc (fun s =>
    trapEntry (dropFailedWalks { s with cur := Issue.none } g.ctx) g.gid f.code f.mask f.addr c.pc ret c.lanes)

/-- A fault of the packet: every issuing lane (R88 steps 0 to 2, 09_memories R183); POOL_ENTRY names the PC of its slot 0 (R74). -/
def packetFault (s : State) (g : Gang) (code : Nat) (pc : Addr) (lanes : LaneMask) (addr : Addr) : State :=
  enterTrap s g code pc (fun s => trapEntry s g.gid code lanes addr pc pc lanes)

/-- Entries of the gang's slice map that name no slice yet and that the bundle's words access (02_execution R39, 06_registers R115). -/
def firstAccess (s : State) (g : Gang) (ws : List BundleWord) : List (Nat × Nat) :=
  ((ws.flatMap (fun w => match w.word with
    | some i => (lanesOf (activeOf g s.cur.lanes w.word w.mod)).flatMap (fun l =>
        laneReads (atWord s w) g i (w.mod.getD plainMod) l ++ (shapeOf g s.cur.cons i).vw.map (fun n => (l, n)))
    | none => [])).map (fun e => (e.2 / 16, e.1 / 8))).filter (fun e => (entriesOf unclaimedSlice g).contains e)

/-- The bundle's first accesses claim their slices; a bundle whose claims are open is held, and issues again once they are served. -/
def claimBundle (s : State) (g : Gang) (es : List (Nat × Nat)) : State :=
  claimEntries g.gid es.dedup { s with cur := Issue.none }

/-- A bundle that has passed steps 0 to 2, its record in place: steps 3 to 8, the stall, its words (log entry 15, DEDUCED). -/
def runBundle (packed : Bool) (g : Gang) (s : State) : Outcome State Fault Refusal :=
  let ws := s.cur.words
  match bundleFault s g ws with
  | some f => .next (faultBundle s g f s.cur.pc)
  | none =>
    if firstAccess s g ws ≠ [] then .next (claimBundle s g (firstAccess s g ws))
    else match bundleStep8 s g ws with
    | (.fault f, ret) => .next (faultBundle s g f ret)
    | (.hold pages, _) => .next (holdBundle s g pages)
    | (.ok, _) =>
      let c := bundleCounts g s.cur.lanes ws
      if !countsFit g.cnt c then .next (blockOn { s with cur := Issue.none } g.gid (.full c.ld c.st c.cp c.tl))
      else
        let zw := zeroReads s g ws
        match runWords (sortBy wordRank ws) { s with cur := { s.cur with checked := true } } with
        | .next t => .next (finishBundle packed zw t)
        | .fault f => .fault f
        | .refused r => .refused r

/-- The packet at `va` has been fetched: its page has been walked where no buffer of the core's held it (R176, 15_tables_counters R299), and an error that ECC
corrects there is met (09_memories R188). -/
def fetched (g : Gang) (va : Nat) (s : State) : State :=
  let t := match translateFetch s g.core g.ctx va .ex with
    | .place p => eccAt g.ctx p 16 s
    | _ => s
  if (coreRow s g.core g.ctx (va / 4096)).isNone then walkEvent g.core g.ctx (va / 4096) t else t

/-- One gang issues: selection, a pending WEIGHT fault, fetch, steps 0 to 2, the bundle (R33, R88). A gang chosen for the turn issues though a
fault of a gang packed with it has stopped their launch in that very clock: a fault stops one gang alone there (R36). -/
def issueGang (packed : Bool) (gid : Nat) (s : State) : Outcome State Fault Refusal :=
  match gangOf s gid with
  | none => .next s
  | some g0 =>
    if !canIssue { g0 with dead := false } then .next s
    else match selectLanes g0 with
      | none => .next s
      | some (g, pc, lanes) =>
        let s := setGang s g
        match g.handler, g.weight with
        | false, w :: _ => .next (enterTrap s g fcWeight w.pc (fun s => takeWeight s g w pc lanes))
        | _, _ =>
          let pkt := pc &&& ~~~0xF#64
          match fetchPacket s g.core g.ctx pkt.toNat with
          | .error p =>
            if 2 ^ 44 ≤ p then .next (holdBundle s g [p]) else .next (packetFault s g p pc lanes pkt)
          | .ok (bs, psn) =>
            let s := fetched g pkt.toNat s
            let ctl := wordOf bs 12
            let raw := bundleWords (bitsN pc.toNat 2 2) ((packetWords bs).drop (bitsN pc.toNat 2 2))
            if fetchPoisoned psn raw then .next (packetFault s g fcPoison pc lanes pkt)
            else if ctlKind ctl ≠ 0 then .next (packetFault s g fcPoolEntry pkt lanes 0)
            else if chainBad raw then .next (packetFault s g fcChain pc lanes 0)
            else if mapGaps s g pc ≠ [] then .next (holdBundle s g ((mapGaps s g pc).map (gapPage s)))
            else runBundle packed g { s with cur := issueOf s g pc lanes ctl raw }

/-! ## A partition's turn (R35, R36) -/

/-- Before another: issued longer ago, or never, ties to the lower slot. -/
def issuesBefore (a b : Gang) : Bool := decide (a.lastIssue < b.lastIssue) || (decide (a.lastIssue = b.lastIssue) && decide (a.slot < b.slot))

/-- The gang that issues among some. -/
def chooseGang : List Gang → Option Gang
  | [] => none
  | g :: gs => match chooseGang gs with
    | none => some g
    | some h => if issuesBefore g h then some g else some h

def onPartition (s : State) (core part : Nat) : List Gang := s.gangs.filter (fun g => g.core == core && g.part == part)

def selectedPc (g : Gang) : Option Addr := (selectLanes g).map (fun e => e.2.1)

/-- The gangs packed with `g`, in ascending slot order, the summed widths at most 64. -/
def packWith (g : Gang) : Nat → List Gang → List Nat
  | _, [] => []
  | w, h :: hs =>
    if h.gid != g.gid && h.launch == g.launch && canIssue h && decide (selectedPc h = selectedPc g) && decide (w + h.width ≤ 64) then
      h.gid :: packWith g (w + h.width) hs
    else packWith g w hs

/-- BLOCKED and FULLSTALL of a partition's gangs count its turn (15_tables_counters R299). -/
def countBlocked (core part : Nat) (s : State) : State :=
  { s with gangs := s.gangs.map (fun g => if g.core = core ∧ g.part = part then
      (match g.blocked with
       | some (.full _ _ _ _) => { g with perf := { g.perf with fullstall := g.perf.fullstall + 1 } }
       | some _ => { g with perf := { g.perf with blocked := g.perf.blocked + 1 } }
       | none => g) else g) }

/-- A clock in which nothing happens counts for every blocked gang (R299). -/
def countIdle (s : State) : State := s.gangs.foldl (fun s g => if (onPartition s g.core g.part).head?.map (·.gid) = some g.gid then countBlocked g.core g.part s else s) s

/-- No capture queue of a die holds more than it can in `t`, or than it did in `s` (13_queues R271). -/
def queuesHold (s t : State) : Bool :=
  t.capQ.all (fun e => decide (e.2.2 ≤ Config.captureDepth) || decide (e.2.2 ≤ capCount s e.1 e.2.1))

/-- What happens where the capture queues have room for it; where one has not, the access whose write needs capture waits, and nothing happens
(13_queues R271, 16_snapshot R312; log entry 79, DEDUCED). -/
def roomed (s : State) (o : Outcome State Fault Refusal) : Outcome State Fault Refusal :=
  match o with
  | .next t => .next (if queuesHold s t then t else s)
  | .fault f => .fault f
  | .refused r => .refused r

def issueAll (packed : Bool) : List Nat → State → Outcome State Fault Refusal
  | [], s => .next s
  | gid :: gids, s => match roomed s (issueGang packed gid s) with
    | .next t => issueAll packed gids t
    | .fault f => .fault f
    | .refused r => .refused r

/-- Gangs that issue in one clock, in ascending slot order: so CPY words are assigned to a ring's slots (13_queues R266). -/
def turnOrder (gs : List Gang) (gids : List Nat) : List Nat := ((sortBy (·.slot) gs).map (·.gid)).filter (fun i => gids.contains i)

def issueTurn (core part : Nat) (s0 : State) : Outcome State Fault Refusal :=
  let s := countBlocked core part s0
  let gs := onPartition s core part
  match chooseGang (gs.filter canIssue) with
  | none => .next s
  | some g =>
    let others := if g.width < 64 then packWith g g.width (sortBy (·.slot) gs) else []
    issueAll (others != []) (if others = [] then [g.gid] else turnOrder gs (g.gid :: others)) s

/-! ## One turn of the package -/

/-- No supply, or shut down (19_host_firmware R358, R359) (log entry 56, DESIGN CHOICE). -/
def halted (s : State) : Bool := !s.power.on || s.power.shut

/-- What may happen to a halted package. -/
def startsUp : Turn → Bool
  | .event (.powerOnReset _) => true
  | _ => false

/-- The turn that comes when the environment names none: the gang that issued least recently issues. -/
def defaultTurn (s : State) : Turn :=
  match chooseGang (sortBy (fun g => g.core) (s.gangs.filter canIssue)) with
  | some g => .issue g.core g.part
  | none => .idle

/-- The turn to come. -/
def nextTurn (s : State) : Turn :=
  match s.agenda with
  | t :: _ => t
  | [] => defaultTurn s

def runTurn (t : Turn) (s : State) : Outcome State Fault Refusal :=
  match t with
  | .issue c p => issueTurn c p s
  | .event i => roomed s (exec i s)
  | .upset u => .next (upsetEvent u s)
  | .paced ctx => .next (modCtx s ctx (fun x => { x with recent := false }))
  | .stored m => .next (imageStored m s)
  | .idle => .next (countIdle s)

/-- One step: the next turn, in a package that runs; each turn takes one clock. -/
def turn (s : State) : Outcome State Fault Refusal :=
  if halted s && !startsUp (nextTurn s) then .fault .stopped
  else runTurn (nextTurn s) { s with agenda := s.agenda.drop 1, clock := s.clock + 1 }

end Sys2Proof.Machine
end

