-- ==== Sys2Proof/Machine/Program.lean ====
section
/-! DEFINITION. A program placed where the next step fetches: the packet of the gang that issues next; and, where no gang can issue (after reset),
the load from outside that log entry 1 describes (DESIGN CHOICE): a context, its pages, a launch and one gang. -/

namespace Sys2Proof.Machine

/-- A packet with a word at a slot, NOPs after it, KIND 00 (04_encoding R72 to R76). -/
def packetWith (slot : Nat) (w : Word) : List Byte :=
  (List.replicate slot (0#32) ++ [w] ++ List.replicate (3 - slot) (0#32)).flatMap (fun x => leBytes x.toNat 4)

/-- The words from a slot on, at a local address of memory, L2's copy gone. -/
def placeWords (s : State) (pa slot : Nat) (w : Word) : State :=
  let bytes := (packetWith slot w).drop (4 * slot)
  { s with mem := Sparse.write 0#8 s.mem (pa + 4 * slot) bytes, l2 := s.l2.filter (fun r => r.peer || decide (r.line ≠ pa / 128)),
           memPsn := s.memPsn.filter (fun g => decide (g ≠ pa / 32)), zmaps := s.zmaps.filter (fun z => decide (z.frame + 128 * z.lines ≤ pa) || decide (pa < z.frame)) }

/-! ## The program's surroundings after reset -/

/-- Root, level 3 and level 2 tables, and the one 2 MiB page at virtual address 0, read, write and execute, of context 1. -/
def programTables : Memory :=
  Sparse.write 0#8 (Sparse.write 0#8 (Sparse.write 0#8 [] 0x200000 (leBytes (0x400000 + 1) 16)) 0x400000 (leBytes (0x402000 + 1) 16)) 0x402000
    (leBytes (0x600000 + 1 + 4 + 8 + 16 + 64 + 256 + 2 ^ 112) 16)

def programCtx : CtxRow :=
  { id := 1, fn := 0, root := 0x200000, trapvec := 0, group := 0, right := false, rate := 0, recent := false, windows := [], spliced := 0, refusals := List.replicate 6 0,
    captures := 0, swept := 0, ecccorr := 0, walks := 0, barovf := 0 }

/-- The PC of the program's first bundle. -/
def programEntry : Addr := 0x1000#64

/-- A grid launch of one block of one gang, eight lanes, one bank. -/
def programLaunch : Launch :=
  { id := 1, ctx := 1, vf := 0, queue := 0, pool := false, kid := 0, width := 8, banks := 1, gangs := 1, cshape := 1, prio := 0, snap := false, split := 1,
    entry := programEntry, param := 0, gx := 1, gy := 1, gz := 1, spbytes := 4096, spillKb := 0, spillB := 0, wv := false, wh := 0, av := false,
    ahb := 0, coll := none, cpla := 0, recs := [], next := 1, ended := 0, fatal := none, stopped := false, fused := none }

def programBlock : Block :=
  { id := 2, launch := 1, index := 0, bx := 0, by_ := 0, bz := 0, cluster := 0, core := 0, ctx := 1, bytes := 4096, banks := [some 0], away := false }

/-- The package as firmware and the host leave it with that one launch resident. -/
def programLoaded (s : State) : State :=
  let boot := { s.boot with step := 8, failed := 0, recovery := false }
  let power := { s.power with on := true, shut := false }
  { s with agenda := [], cur := Issue.none, power := power, boot := boot, fresh := 4, mem := programTables, memPsn := [], zmaps := [],
           scr := [], scrPsn := [], vrf := [], vmark := [], l1 := [], l2 := [], dir := [], tlb := [], invals := [], ctxs := [programCtx],
           launches := [programLaunch], blocks := [programBlock], gangs := [newGang programLaunch programBlock 3 0 0 (0, [0]) false],
           slices := [{ core := 0, part := 0, idx := 0, st := .held 3 }], banks := [{ core := 0, idx := 0, blk := 2, ctx := 1 }], splits := [(0, 1)],
           owners := [] }

/-- The gang that issues next when the agenda is empty. -/
def nextGang (s : State) : Option Gang := chooseGang (sortBy (fun g => g.core) (s.gangs.filter canIssue))

/-- The word where the next step fetches (Step.withFetchWord). -/
def placeWord (s : State) (w : Word) : State :=
  match nextGang s with
  | some g =>
    let s1 := { s with agenda := [] }
    (match selectedPc g with
     | some pc => match translateNow s1 g.ctx (pc.toNat / 16 * 16) .ex with
       | .place (.mem pa _) => placeWords s1 pa (bitsN pc.toNat 2 2) w
       | _ => placeWords (programLoaded s) 0x601000 0 w
     | none => placeWords (programLoaded s) 0x601000 0 w)
  | none => placeWords (programLoaded s) 0x601000 0 w

end Sys2Proof.Machine
end

