-- ==== Sys2Proof/Machine/Step.lean ====
section
/-! DEFINITION. One step of the package: one turn (02_execution R33 to R36, or one event of the opcode table), and the program word of the host's
probe. -/

namespace Sys2Proof.Machine

/-- The step: the next turn of the agenda, or the next gang's issue (log entry 1, DESIGN CHOICE). -/
def step (s : State) : Host.Outcome State Fault Refusal := turn s

/-- The table's word where the next step fetches. -/
def State.withFetchWord (s : State) (_nbits w : Nat) : State := placeWord s (BitVec.ofNat 32 w)

end Sys2Proof.Machine
end

