-- ==== Sys2Proof/WellFormed.lean ====
section
/-! DEFINITION. Which terms of `Instr` are well formed: a word whose fields its instruction accepts (`wordOk` of Decode.lean), an
event whose names lie in the ranges the manual gives them. -/

namespace Sys2Proof

/-- Functions 0 (physical) to 16 (19_host_firmware R354). -/
def fnOk (fn : Nat) : Bool := decide (fn ≤ 16)

/-- Queue numbers 0 to 63 of a function (13_queues R252). -/
def queueOk (vf num : Nat) : Bool := fnOk vf && decide (num < 64)

/-- A logical chip id (15_tables_counters R291). -/
def lidOk (l : Nat) : Bool := decide (l < 2048)

/-- A core (01_device R13) and a partition (R14). -/
def coreOk (c : Nat) : Bool := decide (c < 160)

def dieOk (d : Nat) : Bool := decide (d < 4)

/-- A context id, 1 to 65,535 (09_memories R173). -/
def ctxOk (c : Nat) : Bool := decide (1 ≤ c) && decide (c < 65536)

def capUnitOk : CapUnit → Bool
  | .line c _ => ctxOk c
  | .bank c i => coreOk c && decide (i < 192)
  | .range d i => dieOk d && decide (i < 6144)
  | .slice c p i => coreOk c && decide (p < 16) && decide (i < 128)
  | .l1 c _ => coreOk c
  | .l2 _ => true
  | .save _ l => decide (l < 256)

def ownedUnitOk : OwnedUnit → Bool
  | .page va frame size => decide (0 < size) && decide (va % size = 0) && decide (frame % size = 0)
  | .bank c i => coreOk c && decide (i < 192)
  | .range d i => dieOk d && decide (i < 6144)
  | .slice c p i => coreOk c && decide (p < 16) && decide (i < 128)
  | .obuf c u => coreOk c && decide (u < 256)
  | .wbuf c u => coreOk c && decide (u < 256)
  | .acc c b => coreOk c && decide (b < 16)

def claimUnitOk : ClaimUnit → Bool
  | .slice c p i => coreOk c && decide (p < 16) && decide (i < 128)
  | .bank c i => coreOk c && decide (i < 192)
  | .obuf c u => coreOk c && decide (u < 256)
  | .wbuf c u => coreOk c && decide (u < 256)
  | .acc c b => coreOk c && decide (b < 16)
  | .array c => coreOk c
  | .rcd c r => coreOk c && decide (r < 64)

/-- A packet's header fields within their widths, and its class the row's (18_fabric_collectives R342). -/
def packetOk (cls : Nat) (p : Packet) : Bool :=
  lidOk p.src && lidOk p.dst && decide (p.len ≤ 4) && decide (p.addr < 2 ^ 56) && decide (p.cls.toNat = cls) &&
    (match p.body with
     | .mload _ n _ => decide (n ≤ 128)
     | _ => true)

/-- The names an event carries lie in their ranges. -/
def eventOk : Instr → Bool
  | .createContext fn c => fnOk fn && fnOk c.fn && ctxOk c.id && decide (c.group < 256)
  | .removeContext fn c => fnOk fn && ctxOk c
  | .createQueue fn q => fnOk fn && queueOk q.vf q.num
  | .removeQueue fn vf n => fnOk fn && queueOk vf n
  | .enableQueue fn vf n => fnOk fn && queueOk vf n
  | .disableQueue fn vf n => fnOk fn && queueOk vf n
  | .writePodMap fn es _ => fnOk fn && es.all (fun e => lidOk e.lid)
  | .writeGroupDescriptor fn i w => fnOk fn && decide (i < 4096) && decide (w.array.length ≤ 2048)
  | .setSnapshotGroup fn c g _ => fnOk fn && ctxOk c && decide (g < 256)
  | .setFirmwarePolicy fn _ vf _ => fnOk fn && fnOk vf
  | .loadSparImage fn vf _ => fnOk fn && decide (1 ≤ vf) && fnOk vf
  | .mastheadHandover fn _ => fnOk fn
  | .readAttestationReport fn _ => fnOk fn
  | .kill fn _ => fnOk fn
  | .hostSnapshotRequest fn c g _ => fnOk fn && ctxOk c && decide (g < 256)
  | .invalidateTranslation fn c _ => fnOk fn && ctxOk c
  | .invalidationComplete c _ => ctxOk c
  | .walkComplete c a => coreOk a.core && ctxOk c && decide (a.page < 2 ^ 44)
  | .queueScan vf n => queueOk vf n
  | .recordAccept vf n => queueOk vf n
  | .spliceDecide vf n => queueOk vf n
  | .placeBlock _ p => p.cores.all coreOk
  | .scratchpadShrink c n => coreOk c && decide (n ≤ 11)
  | .sliceClaim u => claimUnitOk u
  | .resumeBlock _ p => p.cores.all coreOk
  | .ownerChangeZero u c => ownedUnitOk u && decide (c < 65536)
  | .readRequest p => packetOk 0 p
  | .readData p => packetOk 1 p
  | .ownershipRequest p => packetOk 2 p
  | .ownershipGrant p => packetOk 3 p
  | .storeData p => packetOk 4 p
  | .invalidation p => packetOk 5 p
  | .acknowledgement p => packetOk 6 p
  | .atomicRequest p => packetOk 7 p
  | .multicastStore p => packetOk 8 p
  | .multicastLoad p => packetOk 9 p
  | .promotionRequest p => packetOk 10 p
  | .telltale p => packetOk 11 p
  | .collectiveStep p => packetOk 12 p
  | .reservedClassPacket p => decide (13 ≤ p.cls.toNat) && lidOk p.src && lidOk p.dst && decide (p.len ≤ 4)
  | .halyardSweep _ u => capUnitOk u
  | .captureQueueRoom d _ => dieOk d
  | .freeAck _ m => lidOk m
  | .linkDetectionTimeout l => lidOk l
  | .markPackageFailed l => lidOk l
  | .startRestoration fn r => fnOk fn && lidOk r.lid && r.targets.all (fun t => lidOk t.1)
  | .hbmScrub st => decide (st < 8)
  | .hbmCalibration st => decide (st < 8)
  | .portRetrain p => decide (p < 32)
  | .hostPcieWrite fn c _ _ => fnOk fn && ctxOk c
  | .groupStateQuery q _ => lidOk q.member
  | .rootDigestReport _ m _ _ => lidOk m
  | _ => true

/-- A well-formed instruction. -/
def Instr.wf (i : Instr) : Bool := wordOk i && eventOk i

end Sys2Proof
end

