-- ==== Sys2Proof/Safety.lean ====
section
/-! DEFINITION. The terms that the claims use: when a word runs, what it delivers, the invariants of a safe run, and the manual's tables of
results written out a second time, each beside the rule it follows. -/

namespace Sys2Proof.Machine

/-! ## When a word runs -/

/-- Word `i` runs in gang `g`: its turn in the bundle being issued has come, `m` is what the MOD word before it says (04_encoding R86), `act` are
its active lanes (00_scope R9) and there is one, and no check of R88 stops it: its bundle has passed them, or the word alone does. -/
def Runs (s : State) (g : Gang) (i : Instr) (m : ModFields) (act : LaneMask) : Prop :=
  curGang s = some g ∧ m = s.cur.mod.getD plainMod ∧ act = activeOf g s.cur.lanes (some i) s.cur.mod ∧ act ≠ 0 ∧
    (s.cur.checked = true ∨ fullChk s g i = .ok)

/-- Register `d` of every active lane gets `f`'s value `lat` ticks on, and the flags of all those results are set then (02_execution R41,
03_numbers R49). Nothing else of the state changes before. -/
def delivered (s : State) (g : Gang) (lat d : Nat) (act : LaneMask) (f : Nat → Res) : State :=
  pushPend s g lat ((lanesOf act).map (fun l => .write (.v l d) (BitVec.ofNat 32 (f l).bits)) ++
    flagAct (((lanesOf act).map (fun l => (f l).flags)).foldl (· ||| ·) 0))

/-- A result without flags. -/
def quiet (w : Word) : Res := { bits := w.toNat, flags := 0 }

/-- What a lane word delivers: its latency, its destination, its result in each lane. -/
structure LaneRule where
  lat : Nat
  d   : Nat
  val : State → Gang → ModFields → Nat → Res

/-- The integer that an operand of an integer word stands for: |A| before -A (03_numbers R54). -/
def intModded (abs neg : Bool) (x : Word) : Int := (if neg then -1 else 1) * (if abs then |x.toInt| else x.toInt)

/-! ## Results of integer words (07_isa_lane R128) -/

/-- An integer word whose exact result is finished as s32: `y` of operands a, b and of d. -/
def intFin (lat : Nat) (d : BitVec 6) (a b : Src) (y : Int → Int → Int → Int) : LaneRule :=
  { lat := lat, d := d.toNat, val := fun s g m l => finishInt 32 true (finOf g m)
      (y (intModded m.absa m.nega (opA s g .int a l)) (intModded m.absb m.negb (opB s g m .int b l)) (rdV s g l d.toNat).toInt) }

/-- An integer word that writes its pattern directly. -/
def intRaw (lat : Nat) (d : BitVec 6) (a b : Src) (y : Word → Word → Word → Word) : LaneRule :=
  { lat := lat, d := d.toNat, val := fun s g m l => quiet (y (opA s g .int a l) (opB s g m .int b l) (rdV s g l d.toNat)) }

/-- Bit `i` of BFE: bit `pos + i` of a where `i < len` and that bit exists. -/
def bfeBit (a b : Word) (i : Nat) : Bool := decide (i < min (b.toNat / 256 % 64) 32) && a.getLsbD (b.toNat % 32 + i)

/-- Bit `i` of BFI: bit `i - pos` of a inside the field, d's own bit outside it. -/
def bfiBit (a b d : Word) (i : Nat) : Bool :=
  if b.toNat % 32 ≤ i ∧ i < b.toNat % 32 + min (b.toNat / 256 % 64) 32 then a.getLsbD (i - b.toNat % 32) else d.getLsbD i

/-- The table of R128. -/
def integerRule : Instr → Option LaneRule
  | .iadd d a b => some (intFin 4 d a b (fun x y _ => x + y))
  | .isub d a b => some (intFin 4 d a b (fun x y _ => x - y))
  | .imul d a b => some (intFin 6 d a b (fun x y _ => x * y))
  | .imad d a b => some (intFin 6 d a b (fun x y z => x * y + z))
  | .imulhs d a b => some (intRaw 6 d a b (fun x y _ => ((x.signExtend 64 * y.signExtend 64) >>> 32).setWidth 32))
  | .imulhn d a b => some (intRaw 6 d a b (fun x y _ => ((x.setWidth 64 * y.setWidth 64) >>> 32).setWidth 32))
  | .imins d a b => some (intRaw 4 d a b (fun x y _ => if x.sle y then x else y))
  | .iminn d a b => some (intRaw 4 d a b (fun x y _ => if x.ule y then x else y))
  | .imaxs d a b => some (intRaw 4 d a b (fun x y _ => if x.sle y then y else x))
  | .imaxn d a b => some (intRaw 4 d a b (fun x y _ => if x.ule y then y else x))
  | .and d a b => some (intRaw 4 d a b (fun x y _ => x &&& y))
  | .or d a b => some (intRaw 4 d a b (fun x y _ => x ||| y))
  | .xor d a b => some (intRaw 4 d a b (fun x y _ => x ^^^ y))
  | .andn d a b => some (intRaw 4 d a b (fun x y _ => x &&& ~~~y))
  | .shl d a b => some (intRaw 4 d a b (fun x y _ => BitVec.ofNat 32 (x.toNat * 2 ^ (y.toNat % 256))))
  | .shr d a b => some (intRaw 4 d a b (fun x y _ => BitVec.ofNat 32 (x.toNat / 2 ^ (y.toNat % 256))))
  | .sar d a b => some (intRaw 4 d a b (fun x y _ => BitVec.ofInt 32 (x.toInt / 2 ^ (y.toNat % 256))))
  | .rot d a b => some (intRaw 4 d a b (fun x y _ => x.rotateLeft (y.toNat % 32)))
  | .bfe d a b => some (intRaw 4 d a b (fun x y _ => bfeWord x y))
  | .bfi d a b => some (intRaw 4 d a b (fun x y z => bfiWord x y z))
  | _ => none

/-! ## Results of float words (07_isa_lane R129 to R131, R140; 03_numbers R48, R50, R51) -/

/-- An f32 word: the exact value `y` of the modified operands a, b and of d as it stands, finished. -/
def fpRule (d : BitVec 6) (a b : Src) (y : Nat → FVal → FVal → FVal → FVal) : LaneRule :=
  { lat := 4, d := d.toNat, val := fun s g m l => finishFloat fmtF32 (finOf g m) (y (effMode g m)
      (fval fmtF32 (floatOp fmtF32 m.absa m.nega (opA s g .f32 a l).toNat))
      (fval fmtF32 (floatOp fmtF32 m.absb m.negb (opB s g m .f32 b l).toNat)) (fval fmtF32 (rdV s g l d.toNat).toNat)) }

/-- A packed word: the same in each half, in the half's format and with the half's clamp bounds. -/
def halfRule (f : Fmt) (ty : ITy) (d : BitVec 6) (a b : Src) (y : Nat → FVal → FVal → FVal → FVal) : LaneRule :=
  { lat := 4, d := d.toNat, val := fun s g m l =>
      let e := fun j => finishFloat f (finHalf (finOf g m) j) (y (effMode g m)
        (fval f (floatOp f m.absa m.nega (halfOf (opA s g ty a l) j))) (fval f (floatOp f m.absb m.negb (halfOf (opB s g m ty b l) j)))
        (fval f (halfOf (rdV s g l d.toNat) j)))
      packHalves e }

/-- FMIN and FMAX: exact, negated under .neg unless a NaN, clamped. -/
def minMaxRule (d : BitVec 6) (a b : Src) (pick : Nat → Nat → Nat) : LaneRule :=
  { lat := 4, d := d.toNat, val := fun s g m l =>
      let z := pick (floatOp fmtF32 m.absa m.nega (opA s g .f32 a l).toNat) (floatOp fmtF32 m.absb m.negb (opB s g m .f32 b l).toNat)
      clampF fmtF32 m.clamp.toNat (rdK g 126).toNat (rdK g 127).toNat
        (if m.neg && !isNaN fmtF32 z then floatOp fmtF32 false true z else z) }

/-- A transcendental: the function of R102 of the modified operand, rounded once, twelve ticks on. -/
def xfnRule (code : Nat) (d : BitVec 6) (a : Src) : LaneRule :=
  { lat := 12, d := d.toNat, val := fun s g m l =>
      xfn code (effMode g m) (fval fmtF32 (floatOp fmtF32 m.absa m.nega (opA s g .f32 a l).toNat)) }

def fSum (mode : Nat) (x y _ : FVal) : FVal := addVal mode x y

def fDifference (mode : Nat) (x y _ : FVal) : FVal := addVal mode x (fneg y)

def fProduct (_ : Nat) (x y _ : FVal) : FVal := mulVal x y

def fFused (mode : Nat) (x y z : FVal) : FVal := addVal mode (mulVal x y) z

/-- The float words' results. -/
def floatRule : Instr → Option LaneRule
  | .fadd d a b => some (fpRule d a b fSum)
  | .fsub d a b => some (fpRule d a b fDifference)
  | .fmul d a b => some (fpRule d a b fProduct)
  | .ffma d a b => some (fpRule d a b fFused)
  | .fmin d a b => some (minMaxRule d a b (minNum fmtF32))
  | .fmax d a b => some (minMaxRule d a b (maxNum fmtF32))
  | .hadd d a b => some (halfRule fmtF16 .f16x2 d a b fSum)
  | .hmul d a b => some (halfRule fmtF16 .f16x2 d a b fProduct)
  | .hfma d a b => some (halfRule fmtF16 .f16x2 d a b fFused)
  | .badd d a b => some (halfRule fmtBf16 .bf16x2 d a b fSum)
  | .bmul d a b => some (halfRule fmtBf16 .bf16x2 d a b fProduct)
  | .bfma d a b => some (halfRule fmtBf16 .bf16x2 d a b fFused)
  | .xfnRcp d a => some (xfnRule 0 d a)
  | .xfnRsq d a => some (xfnRule 1 d a)
  | .xfnSqrt d a => some (xfnRule 2 d a)
  | .xfnExp2 d a => some (xfnRule 3 d a)
  | .xfnLog2 d a => some (xfnRule 4 d a)
  | .xfnSin d a => some (xfnRule 5 d a)
  | .xfnCos d a => some (xfnRule 6 d a)
  | .xfnTanh d a => some (xfnRule 7 d a)
  | _ => none

/-! ## Exact values and their rounding (03_numbers R44, R46 to R49, R51, R55, R58, R60) -/

/-- m * 2^e. -/
def dyadic (m e : Int) : ℚ := m * (2 : ℚ) ^ e

/-- The value of magnitude code `n` (R44, R46): below the least normal `n` units, beyond it the fraction with its leading one at the exponent that the
code names; codes from the infinity's on go on past the largest finite value. -/
def magVal (f : Fmt) (n : Nat) : ℚ :=
  let unit := (2 : ℚ) ^ ((1 : Int) - fmtBias f - f.fbits)
  if n < 2 ^ f.fbits then n * unit else ((n % 2 ^ f.fbits + 2 ^ f.fbits : Nat) : ℚ) * 2 ^ (n / 2 ^ f.fbits - 1) * unit

/-- The value of a finite pattern. -/
def patVal (f : Fmt) (x : Nat) : ℚ := (if signOf f x then -1 else 1) * magVal f (magOf f x)

/-- `r` is the number of sign `s` whose magnitude lies to each `c` as `cmp c` says of `c`, rounded once (R47, R48) with its flags (R49): `n` is the code
just below it. -/
def RoundsTo (f : Fmt) (mode : Nat) (s : Bool) (cmp : ℚ → Ordering) (r : Res) : Prop :=
  ∃ n : Nat, cmp (magVal f n) ≠ .gt ∧ cmp (magVal f (n + 1)) = .gt ∧
    let exact := decide (cmp (magVal f n) = .eq)
    let mid := cmp ((magVal f n + magVal f (n + 1)) / 2)
    let away := match mode with
      | 0 => decide (mid = .lt) || (decide (mid = .eq) && decide (n % 2 = 1))
      | 1 => false
      | 2 => s
      | _ => !s
    let k := if exact || !away then n else n + 1
    let inf := match mode with
      | 0 => true
      | 1 => false
      | 2 => s
      | _ => !s
    r = if k < fmtInf f then { bits := withSign f s k, flags := if exact then 0 else if k < 2 ^ f.fbits then flUF ||| flNX else flNX }
      else { bits := withSign f s (if inf then fmtInf f else fmtMax f), flags := flOF ||| flNX }

/-- A magnitude rounded to an integer's magnitude under sign `s` (R55, 07_isa_lane R137). -/
def nearInt (mode : Nat) (s : Bool) (a : ℚ) : Nat :=
  let n := ⌊a⌋₊
  let away := match mode with
    | 0 => decide (1 / 2 < a - n) || (decide (a - n = 1 / 2) && decide (n % 2 = 1))
    | 1 => false
    | 2 => s && decide (a ≠ n)
    | _ => !s && decide (a ≠ n)
  if away then n + 1 else n

/-- The table's significands over 2^23 (R58). -/
def logTable : List ℚ := [8388608 / 8388608, 9975792 / 8388608, 11863283 / 8388608, 14107901 / 8388608]

/-- The magnitude of log `l` under block scale `e` (R58). -/
def logMag (l e : Int) : ℚ := logTable.getD (l % 4).toNat 0 * (2 : ℚ) ^ (l / 4 + e)

/-- Float formats and integer types by the type code of CVT (05_opcode_map R101): width and whether signed. -/
def floatTypes : List (Nat × Fmt) := [(0, fmtF32), (1, fmtF16), (2, fmtBf16)]

def intTypes : List (Nat × Nat × Bool) := [(3, 32, true), (4, 32, false), (5, 16, true), (6, 16, false), (7, 8, true), (8, 8, false)]

/-- The integer in the low `n` bits of a register, and the bounds of such integers. -/
def intIn (n : Nat) (signed : Bool) (x : Word) : Int := if signed then (x.setWidth n).toInt else (x.setWidth n).toNat

def intLeast (n : Nat) (signed : Bool) : Int := if signed then -2 ^ (n - 1) else 0

def intMost (n : Nat) (signed : Bool) : Int := if signed then 2 ^ (n - 1) - 1 else 2 ^ n - 1

/-- A float converted to an integer type (R55): `a` is the magnitude, `s` the sign. -/
def toIntRule (n : Nat) (signed : Bool) (mode : Nat) (s : Bool) (a : ℚ) : Res :=
  let k : Int := if s then -nearInt mode s a else nearInt mode s a
  if k < intLeast n signed then { bits := (BitVec.ofInt 32 (intLeast n signed)).toNat, flags := flNV }
  else if intMost n signed < k then { bits := (BitVec.ofInt 32 (intMost n signed)).toNat, flags := flNV }
  else { bits := (BitVec.ofInt 32 k).toNat, flags := if (nearInt mode s a : ℚ) = a then 0 else flNX }

/-- An integer narrowed to an integer type, by wrapping or saturating (R54, R55), as a register holds it. -/
def narrowRule (n : Nat) (signed sat : Bool) (v : Int) : Res :=
  let y := if sat then min (max v (intLeast n signed)) (intMost n signed) else v
  { bits := (BitVec.ofInt 32 (intIn n signed (BitVec.ofInt 32 y))).toNat, flags := if y = v then 0 else flSAT }

/-- `r` is the LNS6 element of a number of sign `s` and magnitude `a`, not zero, under block scale `e` and bound `b` (R60): `l` is the integer nearest
4 log2 a - 4 e. -/
def ToLns (s : Bool) (a : ℚ) (e : Int) (b : Nat) (r : Res) : Prop :=
  ∃ l : Int, (2 : ℚ) ^ (2 * (l + 4 * e) - 1) < a ^ 8 ∧ a ^ 8 < (2 : ℚ) ^ (2 * (l + 4 * e) + 1) ∧
    let sg := if s then 32 else 0
    r = if l < -15 then { bits := 0x10, flags := flUF ||| flNX }
      else if (b : Int) < l then { bits := sg + b, flags := flSAT ||| flNX }
      else { bits := sg + (l % 32).toNat, flags := if logMag l e = a then 0 else flNX }

/-! ## Matrix arithmetic (03_numbers R59, R61 to R64; 12_isa_tiles R239, R244, R245) -/

/-- An exact sum rounded once to f32, to nearest even; only OF of its flags is set (R61, R63). -/
def SumRounds (y : ℚ) (r : Res) : Prop :=
  if y = 0 then r = { bits := 0, flags := 0 }
  else ∃ x : Res, RoundsTo fmtF32 0 (decide (y < 0)) (fun c => compare c |y|) x ∧ r = { bits := x.bits, flags := x.flags &&& flOF }

/-- Some term of a float K-block is an infinity of sign `neg`: the accumulator, or a product (R61). -/
def InfTerm (f : Fmt) (neg : Bool) (acc : Nat) (as bs : List Nat) : Prop :=
  (magOf fmtF32 acc = fmtInf fmtF32 ∧ signOf fmtF32 acc = neg) ∨
    ∃ e ∈ as.zip bs, (magOf f e.1 = fmtInf f ∨ magOf f e.2 = fmtInf f) ∧ xor (signOf f e.1) (signOf f e.2) = neg

/-- The terms of a float K-block, all finite. -/
def blockTerms (f : Fmt) (acc : Nat) (as bs : List Nat) : List ℚ :=
  patVal fmtF32 acc :: (as.zip bs).map (fun e => patVal f e.1 * patVal f e.2)

/-- Element n of expanded group `grp` of the stream in a weight reservation. -/
def groupCode (s : State) (rb : RecRow) (grp n : Nat) : Nat :=
  ((expandGroups s rb (grp + 1) (streamBase s rb)).getD grp ([], 0, 0)).1.getD n (zeroCode rb.fmt)

/-- Element (m, n) after K-block `kb` from its value `acc` before it: A(kb, m, k) and B(kb, k, n) by R244. -/
def mmaBlockRes (s : State) (ra rb : RecRow) (p : Product) (b : MmaBlock) (kb m n acc : Nat) : Res :=
  let ia := fun k : Nat => b.aoff * 8 / fmtBits ra.fmt + kb * 64 * kbOf p + m * kbOf p + k
  let gb := fun k : Nat => b.bgrp + kb * kbOf p + k
  let as := (List.range (kbOf p)).map (fun k => opElem s ra (ia k))
  let bs := (List.range (kbOf p)).map (fun k => groupCode s rb (gb k) n)
  match p with
  | .float f => kblockFloat f acc as bs
  | .int8 => kblockInt (decide (ra.fmt = 2)) (decide (rb.fmt = 2)) acc as bs
  | .lns6 => kblockLns acc ((List.range 128).map (fun k => lnsProduct (as.getD k 0) (scaleByte s ra (ra.scale + ia k / blenOf ra.blen))
      (bs.getD k 0) (scaleByte s rb (4 + (64 * gb k + n) / blenOf rb.blen))))

/-- Element (m, n) before K-block `kb`: the tile's word or zero, then the K-blocks in ascending order (R64, R245). -/
def mmaElem (s : State) (core : Nat) (ra rb : RecRow) (p : Product) (b : MmaBlock) (m n : Nat) : Nat → Nat
  | 0 => if b.acc then (tileWord s core b.bank b.half m n).toNat else 0
  | kb + 1 => (mmaBlockRes s ra rb p b kb m n (mmaElem s core ra rb p b m n kb)).bits

/-! ## Weight streams (12_isa_tiles R238, R239) -/

/-- Element `i` of packed data. -/
def packedElem (fmt : Nat) (data : List Byte) (i : Nat) : Nat := leNat data / 2 ^ (fmtBits fmt * i) % 2 ^ fmtBits fmt

/-- A group's set mask bit `i`, counted from the lowest, carries the format's zero; bit `i` of its data is a pad bit that is set. -/
def ZeroElem (fmt : Nat) (mask : BitVec 64) (data : List Byte) (i : Nat) : Prop :=
  i < popcount mask ∧ let c := packedElem fmt data i
    if fmt < 2 then c % 2 ^ 15 = 0 else if fmt = 4 then c = 0x10 else c = 0

def PadBit (fmt : Nat) (mask : BitVec 64) (data : List Byte) (i : Nat) : Prop :=
  popcount mask * fmtBits fmt ≤ i ∧ i < 8 * data.length ∧ (leNat data).testBit i = true

/-- Bytes of the elements that a mask names, to whole words. -/
def dataLength (fmt : Nat) (mask : BitVec 64) : Nat := (popcount mask * fmtBits fmt + 31) / 32 * 4

def GoodGroup (fmt : Nat) (bs : List Byte) : Prop :=
  ∃ (mask : BitVec 64) (data : List Byte), bs = leBytes mask.toNat 8 ++ data ∧ data.length = dataLength fmt mask ∧
    (∀ i, ¬ZeroElem fmt mask data i) ∧ ∀ i, ¬PadBit fmt mask data i

/-- The header of a stream of `n` groups and, for l6, its scales, one byte a block, padded with zeros to whole words. -/
def StreamHead (fmt blen n : Nat) (bs : List Byte) : Prop :=
  n < 2 ^ 16 ∧ let used := (64 * n + blenOf blen - 1) / blenOf blen
    if fmt = 4 then ∃ scales : List Byte, scales.length = used ∧ bs = leBytes (n + 2 ^ 16) 4 ++ scales ++ List.replicate ((used + 3) / 4 * 4 - used) 0
    else bs = leBytes n 4

def GoodStream (fmt blen : Nat) (bs : List Byte) : Prop :=
  ∃ (hd : List Byte) (gs : List (List Byte)), StreamHead fmt blen gs.length hd ∧ (∀ g ∈ gs, GoodGroup fmt g) ∧ bs = hd ++ gs.flatten

/-! ## Results of packed, LNS6 and unary words, selection and conversion (07_isa_lane R132 to R134, R136 to R139) -/

/-- Half `j` of a register as s16. -/
def s16Half (x : Word) (j : Nat) : Int := (BitVec.ofNat 16 (x.toNat / 2 ^ (16 * j))).toInt

/-- Two 16-bit results side by side. -/
def pairRes (f : Nat → Res) : Res := { bits := (f 0).bits % 65536 + 65536 * ((f 1).bits % 65536), flags := (f 0).flags ||| (f 1).flags }

/-- A packed int16 word; `fin` says whether the MOD fields finish it. -/
def packRule (fin : Bool) (d : BitVec 6) (a b : Src) (y : Int → Int → Int) : LaneRule :=
  { lat := 4, d := d.toNat, val := fun s g m l => pairRes (fun j => finishInt 16 true (if fin then finHalf (finOf g m) j else finPlain)
      (y (s16Half (opA s g .s16x2 a l) j) (s16Half (opB s g m .s16x2 b l) j))) }

/-- The rounding right shift of PSHR, ties up. -/
def roundShift (x y : Int) : Int := if y % 16 = 0 then x else (x + 2 ^ ((y % 16).toNat - 1)) / 2 ^ (y % 16).toNat

/-- A unary word on the 32-bit pattern. -/
def unRule (ty : ITy) (d : BitVec 6) (a : Src) (f : Gang → ModFields → Word → Res) : LaneRule :=
  { lat := 4, d := d.toNat, val := fun s g m l => f g m (opA s g ty a l) }

/-- Their results. -/
def packedRule : Instr → Option LaneRule
  | .padd d a b => some (packRule true d a b (fun x y => x + y))
  | .psub d a b => some (packRule true d a b (fun x y => x - y))
  | .pmul d a b => some (packRule true d a b (fun x y => x * y))
  | .pshr d a b => some (packRule false d a b roundShift)
  | .pmin d a b => some (packRule false d a b (fun x y => min x y))
  | .pmax d a b => some (packRule false d a b (fun x y => max x y))
  | .ppack d a b => some
      { lat := 4, d := d.toNat, val := fun s g m l => pairRes (fun j => finishInt 16 true (finHalf (finOf g m) j)
          (if j = 0 then (opA s g .int a l).toInt else (opB s g m .int b l).toInt)) }
  | .pmac d a b => some
      { lat := 4, d := d.toNat, val := fun s g m l =>
          let x := opA s g .s16x2 a l
          let y := opB s g m .s16x2 b l
          finishInt 32 true { finOf g m with sat := true }
            ((rdV s g l d.toNat).toInt + s16Half x 0 * s16Half y 0 + s16Half x 1 * s16Half y 1) }
  | .lmul d a b => some
      { lat := 4, d := d.toNat, val := fun s g m l =>
          let e := fun j => lmulElem (l6Elem (opA s g .l6 a l) j) (l6Elem (opB s g m .l6 b l) j)
          { bits := (e 0).bits + 256 * (e 1).bits + 65536 * (e 2).bits + 16777216 * (e 3).bits,
            flags := (e 0).flags ||| (e 1).flags ||| (e 2).flags ||| (e 3).flags } }
  | .vunMov d a => some (unRule .int d a (fun _ _ x => quiet x))
  | .vunNot d a => some (unRule .int d a (fun _ _ x => quiet (~~~x)))
  | .vunIneg d a => some (unRule .int d a (fun g m x => finishInt 32 true (finOf g m) (-x.toInt)))
  | .vunIabs d a => some (unRule .int d a (fun g m x => finishInt 32 true (finOf g m) |x.toInt|))
  | .vunPopc d a => some (unRule .int d a (fun _ _ x => { bits := ((List.range 32).filter (fun i => x.getLsbD i)).length, flags := 0 }))
  | .vunClz d a => some (unRule .int d a (fun _ _ x => quiet x.clz))
  | .vunCtz d a => some (unRule .int d a (fun _ _ x => quiet x.reverse.clz))
  | .vunBrev d a => some (unRule .int d a (fun _ _ x => quiet x.reverse))
  | .vunBswap d a => some (unRule .int d a (fun _ _ x =>
      quiet (x.extractLsb' 0 8 ++ x.extractLsb' 8 8 ++ x.extractLsb' 16 8 ++ x.extractLsb' 24 8)))
  | .vunFrint d a => some (unRule .f32 d a (fun g m x => roundIntegral fmtF32 (effMode g m) true x.toNat))
  | .vunFfloor d a => some (unRule .f32 d a (fun _ _ x => roundIntegral fmtF32 2 false x.toNat))
  | .vunFceil d a => some (unRule .f32 d a (fun _ _ x => roundIntegral fmtF32 3 false x.toNat))
  | .vunFtrunc d a => some (unRule .f32 d a (fun _ _ x => roundIntegral fmtF32 1 false x.toNat))
  | .sel d a b p => some
      { lat := 4, d := d.toNat, val := fun s g m l =>
          quiet (if predOf g l p.toNat then opA s g .int a l else rdV s g (xbarLane g m.xbb.toNat l) b.toNat) }
  | .cvt src dst d a => some
      { lat := 6, d := d.toNat, val := fun s g m l =>
          cvtOne src.toNat dst.toNat (finOf g m) (rdK g 125) (opA s g (cvtImm src.toNat) a l) }
  | _ => none

/-! ## Results across lanes (07_isa_lane R141, R143) -/

/-- The lanes that vote true, of the active ones. -/
def trueVotes (s : State) (g : Gang) (a : Src) (act : LaneMask) : List Nat := (lanesOf act).filter (fun l => decide (opA s g .int a l ≠ 0))

/-- Slides and SHFL, which read lanes whatever their state. -/
def slideRule (d : BitVec 6) (f : State → Gang → ModFields → Nat → Word) : LaneRule :=
  { lat := 6, d := d.toNat, val := fun s g m l => quiet (f s g m l) }

/-- Their results. -/
def crossRule : Instr → Option LaneRule
  | .slided d a b => some (slideRule d (fun s g m l => if l + 1 < g.width then opA s g .int a (l + 1) else opB s g m .int b 0))
  | .slideu d a b => some (slideRule d (fun s g m l => if l = 0 then opB s g m .int b (g.width - 1) else opA s g .int a (l - 1)))
  | .shfl d a b => some (slideRule d (fun s g m l => opA s g .int a ((opB s g m .int b l).toNat % g.width)))
  | _ => none

/-! ## Uniform results (08_isa_control R158, R159, R160) -/

/-- KOP's functions of kd and kA. -/
def kopRule : Instr → Option (BitVec 9 × (BitVec 9) × (Word → Word → Word))
  | .kopMov d a => some (d, a, fun _ y => y)
  | .kopAdd d a => some (d, a, fun x y => x + y)
  | .kopSub d a => some (d, a, fun x y => x - y)
  | .kopMul d a => some (d, a, fun x y => x * y)
  | .kopAnd d a => some (d, a, fun x y => x &&& y)
  | .kopOr d a => some (d, a, fun x y => x ||| y)
  | .kopXor d a => some (d, a, fun x y => x ^^^ y)
  | .kopShl d a => some (d, a, fun x y => BitVec.ofNat 32 (x.toNat * 2 ^ (y.toNat % 256)))
  | .kopShr d a => some (d, a, fun x y => BitVec.ofNat 32 (x.toNat / 2 ^ (y.toNat % 256)))
  | .kopSar d a => some (d, a, fun x y => BitVec.ofInt 32 (x.toInt / 2 ^ (y.toNat % 256)))
  | .kopMins d a => some (d, a, fun x y => if x.sle y then x else y)
  | .kopMinn d a => some (d, a, fun x y => if x.ule y then x else y)
  | .kopMaxs d a => some (d, a, fun x y => if x.sle y then y else x)
  | .kopMaxn d a => some (d, a, fun x y => if x.ule y then y else x)
  | _ => none

/-! ## Folds, conditions, random numbers -/

/-- The left fold of R65 over values in order, with the flags of every step; a single value of the type `ty` stands as it is, but that no
NaN's payload reaches the result (R45; log entry 71, the model's reading). -/
def leftFold (ty : Nat) (step : Word → Word → Res) : List Word → Word × Word
  | [] => (0, 0)
  | [x] => (foldOwn ty x, 0)
  | x :: xs => xs.foldl (fun acc y => let r := step acc.1 y; (BitVec.ofNat 32 r.bits, acc.2 ||| r.flags)) (x, 0)

/-- ICMP's conditions eq ne lts les ltn len gts gtn (05_opcode_map R98). -/
def intHolds (c : Nat) (a b : Word) : Bool :=
  match c with
  | 0 => decide (a = b)
  | 1 => decide (a ≠ b)
  | 2 => a.slt b
  | 3 => a.sle b
  | 4 => a.ult b
  | 5 => a.ule b
  | 6 => b.slt a
  | _ => b.ult a

/-- The numbers of two patterns compared exactly, a zero of either sign as 0. -/
def numLess (f : Fmt) (a b : Nat) : Bool :=
  match fval f a, fval f b with
  | .num m1 e1 _, .num m2 e2 _ => decide ((addDy m1 e1 (-m2) e2).1 < 0)
  | .inf s, .inf t => s && !t
  | .inf s, .num _ _ _ => s
  | .num _ _ _, .inf t => !t
  | _, _ => false

def numSame (f : Fmt) (a b : Nat) : Bool := !isNaN f a && !isNaN f b && !numLess f a b && !numLess f b a

/-- FCMP's and HCMP's conditions eq ne lt le gt ge un or (R98). -/
def floatHolds (f : Fmt) (c a b : Nat) : Bool :=
  match c with
  | 0 => numSame f a b
  | 1 => !numSame f a b
  | 2 => numLess f a b
  | 3 => numLess f a b || numSame f a b
  | 4 => numLess f b a
  | 5 => numLess f b a || numSame f a b
  | 6 => isNaN f a || isNaN f b
  | _ => !(isNaN f a || isNaN f b)

/-- PLOG's operations and or xor andn orn nand nor xnor (R99). -/
def predRule (op : Nat) (a b : Bool) : Bool :=
  match op with
  | 0 => a && b
  | 1 => a || b
  | 2 => a != b
  | 3 => a && !b
  | 4 => a || !b
  | 5 => !a || !b
  | 6 => !a && !b
  | _ => a == b

/-- The four rounds of `rand64` (03_numbers R68): key rotation, multiplier, shift. -/
def randTable : List (Nat × BitVec 64 × Nat) :=
  [(0, 0x8F3B52C16D07A9E5#64, 31), (16, 0xB4D219A7E36C58F1#64, 27), (32, 0xD60E8B3591F42C7B#64, 33), (48, 0x9A71C4E83B25D063#64, 29)]

def randRule (key ctr : BitVec 64) : BitVec 64 :=
  randTable.foldl (fun x r => let y := (x ^^^ key.rotateLeft r.1) * r.2.1; y ^^^ (y >>> r.2.2)) ctr

/-! ## What a step leaves alone -/

/-- `t` is `s` but for the gang named `gid`: nothing outside the gangs differs, and no other gang. -/
def OnlyGang (s t : State) (gid : Nat) : Prop := t = { s with gangs := t.gangs } ∧ ∀ n, n ≠ gid → gangOf t n = gangOf s n

/-- Word `i` is a word of a bundle (not an event), and neither NOP nor MOD, which have no effect and no checks of their own. -/
def CheckedWord (i : Instr) : Prop := (encode i).isSome = true ∧ (∀ r, i ≠ .nop r) ∧ ∀ m, i ≠ .mod m

/-- An operation has entered flight (02_execution R42): it stands last in issue order under a new name, its counter is one higher, and nothing else
differs; `b` is how the gang stood, but for the counter. -/
def Issued (s t : State) (b : Gang) (cls : OpCls) (kind : OpKind) (act : LaneMask) (ps : List Piece) : Prop :=
  ∃ o : Op, t.ops = s.ops ++ [o] ∧ o.id = s.fresh ∧ o.gid = b.gid ∧ o.core = b.core ∧ o.ctx = b.ctx ∧ o.blk = b.blk ∧ o.cls = cls ∧ o.kind = kind ∧
    o.lanes = act ∧ o.pieces = ps ∧ o.pc = s.cur.pc ∧ o.hnd = b.handler ∧ o.pre0 = false ∧ o.pre1 = false ∧
    t = { s with fresh := s.fresh + 1, ops := t.ops, gangs := t.gangs } ∧ (∀ n, n ≠ b.gid → gangOf t n = gangOf s n) ∧
    gangOf t b.gid = some { b with cnt := cntAdd b.cnt cls }

/-- The four counters, a count of one class one higher (R42). -/
def bumped (c : Counts) (cls : OpCls) : Nat × Nat × Nat × Nat :=
  match cls with
  | .ld => (c.ld + 1, c.st, c.cp, c.tl)
  | .st => (c.ld, c.st + 1, c.cp, c.tl)
  | .cp => (c.ld, c.st, c.cp + 1, c.tl)
  | .tl => (c.ld, c.st, c.cp, c.tl + 1)
  | .none => (c.ld, c.st, c.cp, c.tl)

/-! ## What words leave in flight (11_isa_memory R218 to R228, 12_isa_tiles R249, 17_isa_sync_system R329, R330, R338) -/

/-- A memory word's scope: at most block on the core scratchpad, at most die on the die scratchpad (10_consistency R193). -/
def scopeRule (space : BitVec 2) (scope : BitVec 3) : Nat :=
  if space = 1#2 then min scope.toNat 2 else if space = 2#2 then min scope.toNat 4 else scope.toNat

/-- The pieces of the active lanes' accesses. -/
def wordPieces (s : State) (g : Gang) (i : Instr) (act : LaneMask) : List Piece := lanePieces (laneAccesses s g i act)

/-- The operation code of an ATOM word (05_opcode_map R109), with its fields. -/
def atomCode : Instr → Option (Nat × AtomFields)
  | .atomAdd f => some (0, f)
  | .atomMins f => some (1, f)
  | .atomMinn f => some (2, f)
  | .atomMaxs f => some (3, f)
  | .atomMaxn f => some (4, f)
  | .atomAnd f => some (5, f)
  | .atomOr f => some (6, f)
  | .atomXor f => some (7, f)
  | .atomExch f => some (8, f)
  | .atomCas f => some (9, f)
  | .atomFadd f => some (10, f)
  | .atomFmin f => some (11, f)
  | .atomFmax f => some (12, f)
  | _ => none

/-- The word of an atomic operation's operand pair in one lane: cas compares with the first register and swaps in the second. -/
def atomPair (s : State) (g : Gang) (cas wide : Bool) (d l : Nat) : BitVec 64 × BitVec 64 :=
  if wide then (let x := pair64 (rdV s g l d) (rdV s g l (d + 1)); (x, if cas then pair64 (rdV s g l (d + 2)) (rdV s g l (d + 3)) else x))
  else (let x := (rdV s g l d).setWidth 64; (x, if cas then (rdV s g l (d + 1)).setWidth 64 else x))

/-- The words that leave an operation in flight and change nothing else, with what they leave: words that are no copy, no engine's and no ring's, in
packets that are not forwarded (14_splicer R281). -/
def issueRule (s : State) (g : Gang) (m : ModFields) (act : LaneMask) (i : Instr) : Option (OpCls × OpKind × List Piece) :=
  let ps := wordPieces s g i act
  match i with
  | .ld f => some (.ld, .load f.d.toNat f.width.toNat (l6Len g) (scopeRule f.space f.scope) (orderOf m) m.neg, ps)
  | .ldl f => some (.ld, .load f.d.toNat f.width.toNat (l6Len g) f.scope.toNat .relaxed false, ps)
  | .st f => some (.st, .store (scopeRule f.space f.scope) (orderOf m), withData ps (storeBytes s g f.d.toNat f.width.toNat))
  | .fence pd scope => if scope = 0#3 then none else some (.st, .fence scope.toNat pd.toNat [], [])
  | .zfill _ scope space _ => some (.st, .zfill (scopeRule space scope), withData (onePerLine ps) (fun _ => List.replicate 128 0))
  | .tlnch v => some (.tl, .tlnch ((List.range 64).map (fun l => if act.getLsbD l then (rdV s g l v.toNat).toNat % 256 else 255))
      (arrayOf s g.core).max (arrayOf s g.core).win, [])
  | .tcapt v => some (.tl, .tcapt v.toNat, [])
  | .trst => some (.none, .trst false, [])
  | .acmovToreg kt kq clr =>
      let t := (rdK g kt.toNat).toNat
      let q := (rdK g kq.toNat).toNat
      some (.tl, .acmov 3 (t % 16) (t / 16 % 2) clr (q % 256 + (if s.cur.cons then g.side.np else 0)) (q / 256 % 64) (q / 16384 % 128) (q / 2097152 % 64), [])
  | .balloc kd ke scope pd => some (.ld, .balloc kd.toNat pd.toNat scope.toNat ((rdK g ke.toNat).toNat % 2 ^ 20), [])
  | .bfree kh => some (.st, .bfree (rdK g kh.toNat), [])
  | .barvArrive kh kb tx => some (.st, .barv (rdK g kh.toNat) 0 tx (if tx then rdK g kb.toNat else 0), [])
  | .barvNoarr kh kb => some (.st, .barv (rdK g kh.toNat) 1 true (rdK g kb.toNat), [])
  | .barvDrop kh kb tx => some (.st, .barv (rdK g kh.toNat) 2 tx (if tx then rdK g kb.toNat else 0), [])
  | _ => none

/-- The core's Dirty bytes of some ranges written back to L2 before an engine reads or writes them (10_consistency R206). -/
def settled (core : Nat) (ps : List (Place × Nat)) (s : State) : State := ps.foldl (fun s e => settleL1 core false s e) s

/-- The lanes of a CPY with their two places. -/
def copyLanes (s : State) (g : Gang) (f : CpyFields) (act : LaneMask) : List CpyLane :=
  (lanesOf act).filterMap (fun l => match cpySrc s g f l, cpyDst s g f l with
    | .ok (p :: _), .ok (q :: _) => some { lane := l, src := p.place, dst := q.place : CpyLane }
    | _, _ => none)

/-- The bytes of an engine operation's range. -/
def engineRange (s : State) (g : Gang) : Instr → List Piece
  | .obld _ q sp _ => chkPieces (obldRange s g q.toNat sp.toNat)
  | .wbld _ q sp => chkPieces (wbldRange s g q.toNat sp.toNat)
  | .acmovTogl _ q _ => chkPieces (acmovRange s g 0 q.toNat)
  | .acmovTosp _ q _ => chkPieces (acmovRange s g 1 q.toNat)
  | .acmovFromsp _ q => chkPieces (acmovRange s g 2 q.toNat)
  | .tldw q => chkPieces (tldwRange s g q.toNat)
  | _ => []

/-- What the engine words leave in flight, but WBLD and MMA, which read memory at issue (12_isa_tiles R237, R242, R249). -/
def engineRule (s : State) (g : Gang) (i : Instr) : Option OpKind :=
  match i with
  | .obld h q sp cvt =>
      let rcd := (rdK g h.toNat).toNat % 64
      let off := (rdK g (q.toNat + 2)).toNat
      let first := (rdK g q.toNat).toNat % 256 + (if s.cur.cons then g.side.np else 0)
      let count := (rdK g q.toNat).toNat / 256 % 256
      if sp = 3#2 then some (.obldReg rcd off cvt ((List.range count).flatMap (fun j => (List.range g.width).map (fun l => rdV s g l (first + j)))))
      else some (.obldMem rcd off)
  | .acmovTogl t _ clr => some (.acmov 0 ((rdK g t.toNat).toNat % 16) ((rdK g t.toNat).toNat / 16 % 2) clr 0 0 0 0)
  | .acmovTosp t _ clr => some (.acmov 1 ((rdK g t.toNat).toNat % 16) ((rdK g t.toNat).toNat / 16 % 2) clr 0 0 0 0)
  | .acmovFromsp t _ => some (.acmov 2 ((rdK g t.toNat).toNat % 16) ((rdK g t.toNat).toNat / 16 % 2) false 0 0 0 0)
  | .tldw q => some (.tldw (rdK64 g q.toNat).toNat)
  | _ => none

/-- Words that wait for a grant (02_execution R32), with what they wait for. -/
def waitRule (s : State) (g : Gang) (act : LaneMask) : Instr → Option Blocked
  | .obres d q wb => some (.obres d.toNat (rdK g q.toNat) (rdK g (q.toNat + 1)) wb)
  | .acalloc d n => some (.acalloc d.toNat n.toNat)
  | .ringCreate d q => some (.ring d.toNat (rdK g q.toNat) (rdK g (q.toNat + 1)))
  | .ringRel h => some (.ringRel (rdK g h.toNat))
  | .rawait h d => some (.rawait (rdK g h.toNat) d.toNat act)
  | .acfree m => some (.acfree ((rdK g m.toNat).setWidth 16) s.fresh)
  | _ => none

/-- Those of them that drain first (R43; 12_isa_tiles R241). -/
def drainsFirst : Instr → Bool
  | .rawait _ _ => true
  | .acfree _ => true
  | _ => false

/-! ## When an operation in flight may be performed -/

/-- Nothing stands in the way of operation `o`: it is in flight under a name of its own, no other operation of its gang is, and neither an engine
nor a collective chunk owns lines. -/
def Clear (s : State) (o : Op) : Prop :=
  opOf s o.id = some o ∧ (∀ x ∈ s.ops, x.id = o.id → x = o) ∧ (∀ x ∈ s.ops, x.id ≠ o.id → x.gid ≠ o.gid ∧ engineDests s x = []) ∧
    ∀ k ∈ s.chunks, k.dests = []

/-- Operation `o` has completed (02_execution R42): it has left flight and its counter is one lower; the gang's PCs, states and trap state stand. -/
def Completed (s t : State) (o : Op) : Prop :=
  opOf t o.id = none ∧ (∀ n, n ≠ o.id → opOf t n = opOf s n) ∧
    ∀ g, gangOf s o.gid = some g → ∃ h, gangOf t o.gid = some h ∧ h.cnt = cntSub g.cnt o.cls ∧ h.smap = g.smap ∧ h.core = g.core ∧ h.part = g.part ∧
      h.handler = g.handler ∧ ∀ l, (laneAt h l).pc = (laneAt g l).pc ∧ (laneAt h l).st = (laneAt g l).st

/-- The slices that the gang's map names are its own, each once; of the others some are spilled, some not claimed yet (02_execution R28, R39); the
register file is in its canonical form. -/
def RegsApart (s : State) (g : Gang) : Prop :=
  (∀ i ∈ g.smap.flatten, i < 128 ∨ i = spilledSlice ∨ i = unclaimedSlice) ∧ (g.smap.flatten.filter (fun i => decide (i < 128))).Nodup ∧
    Sparse.wf 0#32 s.vrf = true

/-- Lane `l`'s bytes of an operation's pieces, in order. -/
def loadedBytes (o : Op) (l : Nat) : List Byte := (laneParts o l).flatMap (fun p => p.data)

/-- One piece a lane, of `n` bytes at an offset of a block's scratchpad, not performed yet. -/
def scratchPieces (lanes : LaneMask) (blk n : Nat) (off : Nat → Nat) (data : Nat → List Byte) : List Piece :=
  (lanesOf lanes).map (fun l => { lane := l, off := 0, place := .scr blk (off l), len := n, st := .todo, data := data l, psn := [] })

/-- An offset of a block's scratchpad stands in a bank that is there, with `n` bytes of it. -/
def InBank (blk : Block) (off n bank : Nat) : Prop := blk.banks.getD (off / 4096) none = some bank ∧ off % 4096 + n ≤ 4096

/-- `n` bytes written from key `k` on, every other byte as it was. -/
def BytesPut (old new : Memory) (k : Nat) (bytes : List Byte) : Prop :=
  ∀ a, Memory.byte new a = if k ≤ a ∧ a < k + bytes.length then bytes.getD (a - k) 0 else Memory.byte old a

/-! ## Images and policies (19_host_firmware R356, R359) -/

/-- An image whose LMS signature holds under the fused key and which fits a firmware core's 1 MiB (01_device R20). -/
def Verified (fuse : BitVec 256) (i : FwImage) : Prop :=
  sha256 i.key = fuse ∧ lmsValid i.key i.bytes i.sig = true ∧ i.bytes.length ≤ 2 ^ 20


/-- The table of R356, times in microseconds, the scrub pass in hours: least and greatest value. The snapshot interval may also be off, 0. -/
def policyTable : List (Policy × Nat × Nat) :=
  [(.powerCeiling, 1000, 3000), (.lostPeerBound, 50, 1000000), (.linkInterval, 100, 10000000), (.killBound, 1000, 10000000)] ++
  [(.stallInterval, 1000000, 3600000000), (.durabilityBound, 1000000, 3600000000), (.snapInterval, 300000000, 86400000000)] ++
  [(.scrubPass, 1, 168), (.spliceCeiling, 256, 2048), (.sliceLength, 100, 1000000), (.sliceWeight, 1, 255)]

/-- A policy as it stands; the last two are per function. -/
def policyValue (q : Policies) (p : Policy) (vf : Nat) : Nat :=
  match p with
  | .powerCeiling => q.powerCeiling
  | .lostPeerBound => q.lostPeerBound
  | .linkInterval => q.linkInterval
  | .killBound => q.killBound
  | .stallInterval => q.stallInterval
  | .durabilityBound => q.durabilityBound
  | .snapInterval => q.snapInterval
  | .scrubPass => q.scrubPass
  | .spliceCeiling => q.spliceCeiling
  | .sliceLength => q.sliceLength.getD vf 0
  | .sliceWeight => q.sliceWeight.getD vf 0

/-! ## Packets (13_queues R269, R270; 18_fabric_collectives R343) -/

/-- A packet of a class that this package is to handle now, its stamps those of the package's own parities: no cut is to be taken for it and nothing is
to be logged. -/
def Arrives (s : State) (cls : BitVec 4) (p : Packet) : Prop :=
  deliverable cls p s = true ∧ p.stamp = stampOf s ∧ (chanOf s p.src).got.length < 2 ^ 30

/-- The packet's number has been received. -/
def Came (t : State) (p : Packet) : Prop := received (chanOf t p.src) p.seq = true

/-- Bytes of a line merged under a mask in the directory's value; every other byte as it was. -/
def LinePut (s t : State) (line : Nat) (mask : BitVec 128) (bytes : List Byte) : Prop :=
  ∀ a, dirByte t a = if a / 128 = line ∧ mask.getLsbD (a % 128) = true then bytes.getD (a % 128) 0 else dirByte s a

/-- The step that a chunk stood at has completed: its next step stands open; after the last one the chunk is gone. -/
def StepDone (t : State) (x : Chunk) : Prop :=
  (x.step + 1 < (x.steps.getD []).length →
    chunkOf t x.launch x.chunk = some { x with step := x.step + 1, busy := [], closed := false, dests := [], got := [], cut0 := false, cut1 := false }) ∧
  ((x.steps.getD []).length ≤ x.step + 1 → chunkOf t x.launch x.chunk = none)

/-- A launch's outcome, unless it has had one before. -/
def OutcomeSet (s t : State) (launch block status code pc : Nat) : Prop :=
  ∀ l, launchOf s launch = some l → launchOf t launch = some (match l.fatal with
    | some _ => l
    | none => { l with fatal := some { status := status, code := code, block := block, pc := pc, clock := s.clock } })

/-- A chunk has stopped with an outcome, which its launch keeps unless it has had one before (18_fabric_collectives R352). -/
def ChunkStopped (s t : State) (launch chunk status code pc : Nat) : Prop :=
  chunkOf t launch chunk = none ∧ OutcomeSet s t launch chunk status code pc

/-- The last packet's tags: `n` packets from `tag0` on, each awaited of some members. -/
def Awaits (x : Chunk) (n : Nat) (members : List Nat) : Prop :=
  ∀ b, b ∈ x.busy ↔ ∃ j m, j < n ∧ m ∈ members ∧ b = (x.tag0 + j) * 2048 + m

/-- The local addresses of places' bytes, in order. -/
def localBytes (ps : List (Place × Nat)) : List Nat :=
  ps.flatMap (fun e => match e.1 with
    | .mem pa _ => (List.range e.2).map (fun i => pa + i)
    | _ => [])

/-! ## One gang's issue (02_execution R33, R36) -/

/-- The state that a partition's turn starts from: the turn taken, the clock one on, the waiting gangs counted. -/
def ticked (s : State) (core part : Nat) : State := countBlocked core part { s with agenda := s.agenda.drop 1, clock := s.clock + 1 }

/-- In the coming turn one gang of the partition issues, unpacked: after its selection it stands as `g`, its lanes `lanes` at `pc`; no WEIGHT fault is
pending on it, and the packet at `pc` is `pkt`, unpoisoned. -/
def IssuesAt (s : State) (core part : Nat) (g : Gang) (pc : Addr) (lanes : LaneMask) (pkt : List Byte) : Prop :=
  halted s = false ∧ nextTurn s = .issue core part ∧
    ∃ g0, chooseGang ((onPartition (ticked s core part) core part).filter canIssue) = some g0 ∧ gangOf (ticked s core part) g0.gid = some g0 ∧
      (64 ≤ g0.width ∨ ∀ h ∈ onPartition (ticked s core part) core part, canIssue h = true → h.gid = g0.gid) ∧ (g0.handler = true ∨ g0.weight = []) ∧
      selectLanes g0 = some (g, pc, lanes) ∧
      fetchPacket (setGang (ticked s core part) g) g.core g.ctx (pc.toNat / 16 * 16) = .ok (pkt, false, false, false, false)

/-! ## The canonical form of memories and registers -/

/-- Memory, both scratchpads, both buffers, the accumulators and the register file are in their one form: addresses rise strictly and no entry is zero. -/
def TablesCanonical (s : State) : Prop :=
  Memory.wf s.mem = true ∧ Memory.wf s.scr = true ∧ Memory.wf s.dsc = true ∧ Memory.wf s.obuf = true ∧ Memory.wf s.wbuf = true ∧
    Memory.wf s.acc = true ∧ Sparse.wf 0#32 s.vrf = true

end Sys2Proof.Machine
end

