-- ==== Sys2Proof/Certificates/Slice0/Obligations.lean ====
section
/-! DEFINITION. The statements for the provers. Each docstring names the rules of spec/ that the statement formalises, and says where a clause is the
model's own choice. -/

open Sys2Proof
open Sys2Proof.Machine
open Host (Outcome)

/-! ## Results of lane words -/

/-- R128 (07_isa_lane), R41 (02_execution): each integer word runs, and the only change is that its results are due in its active lanes. -/
def Obligations.IntegerWordsDeliver : Prop :=
  ∀ (s : State) (g : Gang) (i : Instr) (m : ModFields) (act : LaneMask) (r : LaneRule),
    Runs s g i m act → integerRule i = some r → exec i s = .next (delivered s g r.lat r.d act (r.val s g m))

/-- R128 (07_isa_lane): BFE keeps `len` bits from `pos` on and reads zero above bit 31; BFI replaces exactly the bits of the field that exist. R54
(03_numbers), the case that only .sat selects: a signed or natural result of `n` bits saturates to the format's range and sets SAT exactly when that
changes it; without .sat it wraps and sets nothing. R134 (07_isa_lane): LNS6 products: NaR first, then zero, then the log sum with its two range cases;
otherwise exact, no flag. -/
def Obligations.IntegerAndLnsArithmetic : Prop :=
  (∀ (a b d : Word) (i : Nat), i < 32 → (bfeWord a b).getLsbD i = bfeBit a b i ∧ (bfiWord a b d).getLsbD i = bfiBit a b d i) ∧
  (∀ (n : Nat) (signed : Bool) (y : Int), 0 < n →
     finishInt n signed finPlain y = { bits := (y % 2 ^ n).toNat, flags := 0 } ∧
     (let lo : Int := if signed then -2 ^ (n - 1) else 0
      let hi : Int := if signed then 2 ^ (n - 1) - 1 else 2 ^ n - 1
      let r := finishInt n signed { finPlain with sat := true } y
      (y < lo → r = { bits := (lo % 2 ^ n).toNat, flags := flSAT }) ∧ (hi < y → r = { bits := hi.toNat, flags := flSAT }) ∧
        (lo ≤ y → y ≤ hi → r = { bits := (y % 2 ^ n).toNat, flags := 0 }))) ∧
  (∀ (a b : Nat), a < 64 → b < 64 →
     ((a = 0x30 ∨ b = 0x30) → lmulElem a b = { bits := 0x30, flags := 0 }) ∧
     (a ≠ 0x30 → b ≠ 0x30 → (a = 0x10 ∨ b = 0x10) → lmulElem a b = { bits := 0x10, flags := 0 }) ∧
     (a ≠ 0x30 → b ≠ 0x30 → a ≠ 0x10 → b ≠ 0x10 →
       (let t := (BitVec.ofNat 5 a).toInt + (BitVec.ofNat 5 b).toInt
        let s := if a / 32 = b / 32 then 0 else 32
        (t < -15 → lmulElem a b = { bits := 0x10, flags := flUF ||| flNX }) ∧
        (15 < t → lmulElem a b = { bits := s + 15, flags := flSAT ||| flNX }) ∧
        (-15 ≤ t → t ≤ 15 → lmulElem a b = { bits := s + (t % 32).toNat, flags := 0 }))))

/-- R129 to R131, R140 (07_isa_lane): each float word runs, and the only change is that its results are due. -/
def Obligations.FloatWordsDeliver : Prop :=
  ∀ (s : State) (g : Gang) (i : Instr) (m : ModFields) (act : LaneMask) (r : LaneRule),
    Runs s g i m act → floatRule i = some r → exec i s = .next (delivered s g r.lat r.d act (r.val s g m))

/-- R44, R46 to R49 (03_numbers): a finite pattern stands for its magnitude's value under its sign; products and sums of numbers are exact, a sum that
cancels being +0, or -0 in mode down; a number is rounded once in the mode, to a subnormal, to zero, beyond the largest finite value, with UF, NX and OF;
one that the format has, subnormals included, gives itself in every mode and sets no flag. R45, R48, R50 (03_numbers): NaNs and infinities in sums, products and minima. A NaN operand gives the canonical NaN, with NV exactly when one is signalling;
infinities of opposite sign and 0 × ∞ give the canonical NaN with NV; minimum and maximum return the other operand beside a NaN. -/
def Obligations.FloatRoundingAndSpecials : Prop :=
  (∀ (f : Fmt) (mode x : Nat), f = fmtF32 ∨ f = fmtF16 ∨ f = fmtBf16 → mode < 4 → x < 2 ^ fmtWidth f → isNaN f x = false →
    roundVal f mode (fval f x) = { bits := x, flags := 0 }) ∧
  (∀ (f : Fmt) (mode : Nat) (m e : Int) (z : Bool), f = fmtF32 ∨ f = fmtF16 ∨ f = fmtBf16 → mode < 4 →
    (m ≠ 0 → RoundsTo f mode (decide (m < 0)) (fun c => compare c |dyadic m e|) (roundVal f mode (.num m e z))) ∧
    roundVal f mode (.num 0 e z) = { bits := withSign f z 0, flags := 0 }) ∧
  (∀ (f : Fmt) (x : Nat), f = fmtF32 ∨ f = fmtF16 ∨ f = fmtBf16 → x < 2 ^ fmtWidth f → magOf f x < fmtInf f →
    ∃ m e : Int, fval f x = .num m e (signOf f x) ∧ dyadic m e = patVal f x) ∧
  (∀ (mode : Nat) (m1 e1 m2 e2 : Int) (z1 z2 : Bool),
    (∃ m e : Int, mulVal (.num m1 e1 z1) (.num m2 e2 z2) = .num m e (xor z1 z2) ∧ dyadic m e = dyadic m1 e1 * dyadic m2 e2) ∧
    ∃ (m e : Int) (z : Bool), addVal mode (.num m1 e1 z1) (.num m2 e2 z2) = .num m e z ∧ dyadic m e = dyadic m1 e1 + dyadic m2 e2 ∧
      (m = 0 → z = if m1 = 0 ∧ z1 = z2 then z1 else decide (mode = 2))) ∧
  (∀ (f : Fmt) (mode x y : Nat), f = fmtF32 ∨ f = fmtF16 ∨ f = fmtBf16 → x < 2 ^ fmtWidth f → y < 2 ^ fmtWidth f →
    let nv : Res := { bits := fmtNaN f, flags := flNV }
    let q := fun v => roundVal f mode v
    ((isNaN f x = true ∨ isNaN f y = true) →
      (let r : Res := { bits := fmtNaN f, flags := if isSig f x || isSig f y then flNV else 0 }
       q (addVal mode (fval f x) (fval f y)) = r ∧ q (mulVal (fval f x) (fval f y)) = r)) ∧
    (magOf f x = fmtInf f → magOf f y = fmtInf f → signOf f x ≠ signOf f y → q (addVal mode (fval f x) (fval f y)) = nv) ∧
    (magOf f x = fmtInf f → magOf f y = 0 → q (mulVal (fval f x) (fval f y)) = nv ∧ q (mulVal (fval f y) (fval f x)) = nv) ∧
    (isNaN f x = true → isNaN f y = false → minNum f x y = y ∧ maxNum f x y = y ∧ minNum f y x = y ∧ maxNum f y x = y) ∧
    (isNaN f x = true → isNaN f y = true → minNum f x y = fmtNaN f ∧ maxNum f x y = fmtNaN f))

/-- R132 to R134, R136 to R139 (07_isa_lane): each packed, LNS6, unary, select and conversion word runs, and the only change is that its results are
due. R137: FRINT, FFLOOR, FCEIL and FTRUNC give the integral value in the word's mode, down, up or toward zero, under the operand's sign. R55, R58, R60
(03_numbers), R138, R139 (07_isa_lane): what each conversion gives, LNS6 under the block scale and bound of k125, with its range, NaN and infinity cases
and flags. -/
def Obligations.PackedAndUnaryWordsDeliver : Prop :=
  (∀ (s : State) (g : Gang) (i : Instr) (m : ModFields) (act : LaneMask) (r : LaneRule),
    Runs s g i m act → packedRule i = some r → exec i s = .next (delivered s g r.lat r.d act (r.val s g m))) ∧
  (∀ (mode x : Nat) (nx : Bool), mode < 4 → x < 2 ^ 32 →
    let a := magVal fmtF32 (magOf fmtF32 x)
    let k := nearInt mode (signOf fmtF32 x) a
    let r := roundIntegral fmtF32 mode nx x
    (magOf fmtF32 x < fmtInf fmtF32 → r.bits < 2 ^ 32 ∧ signOf fmtF32 r.bits = signOf fmtF32 x ∧ magOf fmtF32 r.bits < fmtInf fmtF32 ∧
      magVal fmtF32 (magOf fmtF32 r.bits) = k ∧ r.flags = if nx = true ∧ (k : ℚ) ≠ a then flNX else 0) ∧
    (magOf fmtF32 x = fmtInf fmtF32 → r = { bits := x, flags := 0 }) ∧
    (isNaN fmtF32 x = true → r = { bits := fmtNaN fmtF32, flags := if isSig fmtF32 x then flNV else 0 })) ∧
  (∀ (q : Fin) (k125 x : Word), q.neg = false → q.clamp = 0 → q.mode < 4 →
    let scaled := fun f : Fmt => magVal f (magOf f (x.toNat % 2 ^ fmtWidth f)) * (2 : ℚ) ^ q.scale
    let e := (k125.setWidth 8).toInt
    let b := (k125.extractLsb' 8 4).toNat
    (∀ c ∈ floatTypes, let p := x.toNat % 2 ^ fmtWidth c.2
      let s := signOf c.2 p
      (∀ d ∈ intTypes, let r := cvtOne c.1 d.1 q k125 x
        (magOf c.2 p < fmtInf c.2 → r = toIntRule d.2.1 d.2.2 q.mode s (scaled c.2)) ∧
        (magOf c.2 p = fmtInf c.2 →
          r = { bits := (BitVec.ofInt 32 (if s then intLeast d.2.1 d.2.2 else intMost d.2.1 d.2.2)).toNat, flags := flNV }) ∧
        (isNaN c.2 p = true → r = { bits := 0, flags := flNV })) ∧
      (∀ d ∈ floatTypes, c.1 ≠ d.1 → let r := cvtOne c.1 d.1 q k125 x
        (0 < magOf c.2 p → magOf c.2 p < fmtInf c.2 → RoundsTo d.2 q.mode s (fun y => compare y (scaled c.2)) r) ∧
        (magOf c.2 p = 0 → r = { bits := withSign d.2 s 0, flags := 0 }) ∧
        (magOf c.2 p = fmtInf c.2 → r = { bits := withSign d.2 s (fmtInf d.2), flags := 0 }) ∧
        (isNaN c.2 p = true → r = { bits := fmtNaN d.2, flags := if isSig c.2 p then flNV else 0 }))) ∧
    (∀ c ∈ intTypes, let v := intIn c.2.1 c.2.2 x
      (∀ d ∈ intTypes, c.1 ≠ d.1 → q.scale = 0 → cvtOne c.1 d.1 q k125 x = narrowRule d.2.1 d.2.2 q.sat v) ∧
      (∀ d ∈ floatTypes,
        (v ≠ 0 → RoundsTo d.2 q.mode (decide (v < 0)) (fun y => compare y (|(v : ℚ)| * (2 : ℚ) ^ q.scale)) (cvtOne c.1 d.1 q k125 x)) ∧
        (v = 0 → cvtOne c.1 d.1 q k125 x = { bits := 0, flags := 0 }))) ∧
    (let m := magOf fmtF32 x.toNat
     let r := cvtOne 0 9 q k125 x
     (0 < m → m < fmtInf fmtF32 → ToLns (signOf fmtF32 x.toNat) (scaled fmtF32) e b r) ∧
     (m = 0 → r = { bits := 0x10, flags := 0 }) ∧ (fmtInf fmtF32 ≤ m → r = { bits := 0x30, flags := flNV })) ∧
    (let y := x.setWidth 6
     let r := cvtOne 9 0 q k125 x
     (y = 0x10#6 → r = { bits := 0, flags := 0 }) ∧ (y = 0x30#6 → r = { bits := fmtNaN fmtF32, flags := flNV }) ∧
     (y ≠ 0x10#6 → y ≠ 0x30#6 →
       RoundsTo fmtF32 q.mode (y.getLsbD 5) (fun c => compare c (logMag (y.setWidth 5).toInt e * (2 : ℚ) ^ q.scale)) r)))

/-- R51 (03_numbers): the special cases of the transcendentals, in every rounding mode, with their flags. Codes 0 to 7 are RCP, RSQ, SQRT, EXP2, LOG2,
SIN, COS, TANH. The exact value rounded once (R48) of RCP, RSQ and SQRT at every operand, of EXP2 at the integers and of LOG2 at the powers of two; at
other operands EXP2, LOG2, SIN, COS and TANH are never exact, and the statement says of them only that SIN and TANH are odd and COS is even, the directed
modes changing places with the sign. -/
def Obligations.TranscendentalSpecialCases : Prop :=
  ∀ (mode : Nat),
    let f := fun code x => xfn code mode (fval fmtF32 x)
    let r := fun (b : Nat) (fl : Word) => ({ bits := b, flags := fl } : Res)
    let pinf := 0x7F800000
    let ninf := 0xFF800000
    let nan := 0x7FC00000
    (∀ code x, code < 8 → x < 2 ^ 32 → isNaN fmtF32 x = true → f code x = r nan (if isSig fmtF32 x then flNV else 0)) ∧
    f 0 0 = r pinf flDZ ∧ f 0 0x80000000 = r ninf flDZ ∧ f 0 pinf = r 0 0 ∧ f 0 ninf = r 0x80000000 0 ∧
    f 1 0 = r pinf flDZ ∧ f 1 0x80000000 = r ninf flDZ ∧ f 1 pinf = r 0 0 ∧ f 1 ninf = r nan flNV ∧
    f 2 0 = r 0 0 ∧ f 2 0x80000000 = r 0x80000000 0 ∧ f 2 pinf = r pinf 0 ∧ f 2 ninf = r nan flNV ∧
    f 3 ninf = r 0 0 ∧ f 3 pinf = r pinf 0 ∧
    f 4 0 = r ninf flDZ ∧ f 4 0x80000000 = r ninf flDZ ∧ f 4 pinf = r pinf 0 ∧ f 4 ninf = r nan flNV ∧ f 4 0x3F800000 = r 0 0 ∧
    f 5 pinf = r nan flNV ∧ f 5 ninf = r nan flNV ∧ f 6 pinf = r nan flNV ∧ f 6 ninf = r nan flNV ∧
    f 5 0 = r 0 0 ∧ f 5 0x80000000 = r 0x80000000 0 ∧ f 7 0 = r 0 0 ∧ f 7 0x80000000 = r 0x80000000 0 ∧
    f 7 pinf = r 0x3F800000 0 ∧ f 7 ninf = r 0xBF800000 0 ∧
    (∀ x, 0x80000000 < x → x < ninf → f 1 x = r nan flNV ∧ f 2 x = r nan flNV ∧ f 4 x = r nan flNV) ∧
    (mode < 4 → ∀ x, x < 2 ^ 32 → 0 < magOf fmtF32 x → magOf fmtF32 x < pinf →
      let y := magVal fmtF32 (magOf fmtF32 x)
      let s := signOf fmtF32 x
      let turned := fun code => xfn code (if mode = 2 then 3 else if mode = 3 then 2 else mode) (fval fmtF32 (x ^^^ 0x80000000))
      RoundsTo fmtF32 mode s (fun c => compare (c * y) 1) (f 0 x) ∧
      (s = false → RoundsTo fmtF32 mode false (fun c => compare (c * c * y) 1) (f 1 x) ∧
        RoundsTo fmtF32 mode false (fun c => compare (c * c) y) (f 2 x)) ∧
      (∀ k : Int, (if s then -1 else 1) * y = k → RoundsTo fmtF32 mode false (fun c => compare c ((2 : ℚ) ^ k)) (f 3 x)) ∧
      (∀ k : Int, s = false → k ≠ 0 → y = (2 : ℚ) ^ k → RoundsTo fmtF32 mode (decide (k < 0)) (fun c => compare c |(k : ℚ)|) (f 4 x)) ∧
      (∀ code, code = 5 ∨ code = 7 → (turned code).bits = (f code x).bits ^^^ 0x80000000 ∧ (turned code).flags = (f code x).flags) ∧
      xfn 6 mode (fval fmtF32 (x ^^^ 0x80000000)) = f 6 x)

/-- R141, R143 (07_isa_lane): slides and SHFL read lanes whatever their state; VOTE writes one result, or one pair, to every active lane. -/
def Obligations.CrossLaneWordsDeliver : Prop :=
  (∀ (s : State) (g : Gang) (i : Instr) (m : ModFields) (act : LaneMask) (r : LaneRule),
    Runs s g i m act → crossRule i = some r → exec i s = .next (delivered s g r.lat r.d act (r.val s g m))) ∧
  (∀ (s : State) (g : Gang) (m : ModFields) (act : LaneMask) (d : BitVec 6) (a : Src),
    let t := trueVotes s g a act
    (Runs s g (.voteAny d a) m act → exec (.voteAny d a) s = .next (delivered s g 10 d.toNat act (fun _ => quiet (if t = [] then 0 else 1)))) ∧
    (Runs s g (.voteAll d a) m act →
      exec (.voteAll d a) s = .next (delivered s g 10 d.toNat act (fun _ => quiet (if t = lanesOf act then 1 else 0)))) ∧
    (Runs s g (.voteCount d a) m act →
      exec (.voteCount d a) s = .next (delivered s g 10 d.toNat act (fun _ => quiet (BitVec.ofNat 32 t.length)))) ∧
    (Runs s g (.voteBallot d a) m act → exec (.voteBallot d a) s = .next (pushPend s g 10 ((lanesOf act).flatMap (fun l =>
      [.write (.v l d.toNat) (lo32 (maskOf t)), .write (.v l (d.toNat + 1)) (hi32 (maskOf t))])))))

/-- R65 (03_numbers), R142 (07_isa_lane): RED writes the left fold over the active lanes in ascending order to every active lane, SCAN the fold over
the active lanes at or below each; the flags of every step are set. A NaN standing alone is written as the canonical one (R45, 03_numbers; the model's
reading, log entry 71). -/
def Obligations.FoldWordsDeliver : Prop :=
  ∀ (s : State) (g : Gang) (m : ModFields) (act : LaneMask) (op : BitVec 4) (ty : BitVec 3) (d : BitVec 6) (a : Src),
    let fold := fun ls : List Nat => leftFold ty.toNat (foldStep op.toNat ty.toNat (effMode g m) m.sat) (ls.map (opA s g (foldImm ty.toNat) a))
    (Runs s g (.red op ty d a) m act → exec (.red op ty d a) s = .next (pushPend s g 10 ((lanesOf act).map (fun l =>
        .write (.v l d.toNat) (fold (lanesOf act)).1) ++ flagAct (fold (lanesOf act)).2))) ∧
    (Runs s g (.scan op ty d a) m act → exec (.scan op ty d a) s = .next (pushPend s g 10 ((lanesOf act).map (fun l =>
        .write (.v l d.toNat) (fold ((lanesOf act).filter (fun j => decide (j ≤ l)))).1) ++ flagAct (fold (lanesOf act)).2)))

/-- R135, R162, R155 (07_isa_lane, 08_isa_control), R98, R99 (05_opcode_map): compares, PLOG and ELECT write predicates of their active lanes, and
ELECT its uniform; nothing else changes. R144 (07_isa_lane), R68 (03_numbers): RAND writes rand64(key, counter) to the pair of each active lane. -/
def Obligations.PredicateAndRandomWordsDeliver : Prop :=
  (∀ (s : State) (g : Gang) (m : ModFields) (act : LaneMask) (pd c : BitVec 3) (a b : Src) (pa pb : BitVec 3) (k : BitVec 9),
     let put := fun (lat : Nat) (f : Nat → Bool) => pushPend s g lat ((lanesOf act).map (fun l => .write (.p l pd.toNat) (if f l then 1 else 0)))
     (Runs s g (.icmp pd c a b) m act →
       exec (.icmp pd c a b) s = .next (put 4 (fun l => intHolds c.toNat (opA s g .int a l) (opB s g m .int b l)))) ∧
     (Runs s g (.fcmp pd c a b) m act → exec (.fcmp pd c a b) s = .next (put 4 (fun l => floatHolds fmtF32 c.toNat
       (floatOp fmtF32 m.absa m.nega (opA s g .f32 a l).toNat) (floatOp fmtF32 m.absb m.negb (opB s g m .f32 b l).toNat)))) ∧
     (Runs s g (.hcmp pd c a b) m act → exec (.hcmp pd c a b) s = .next (put 4 (fun l => floatHolds fmtF16 c.toNat
       (floatOp fmtF16 m.absa m.nega ((opA s g .f16x2 a l).toNat % 65536)) (floatOp fmtF16 m.absb m.negb ((opB s g m .f16x2 b l).toNat % 65536))))) ∧
     (Runs s g (.plog pd c pa pb) m act →
       exec (.plog pd c pa pb) s = .next (put 4 (fun l => predRule c.toNat (predOf g l pa.toNat) (predOf g l pb.toNat)))) ∧
     (Runs s g (.elect k pd) m act → exec (.elect k pd) s = .next (pushPend s g 2 ((lanesOf act).map (fun l =>
       .write (.p l pd.toNat) (if some l = (lanesOf act).head? then 1 else 0)) ++ [.write (.k k.toNat) (BitVec.ofNat 32 ((lanesOf act).headD 0))])))) ∧
  (∀ (s : State) (g : Gang) (m : ModFields) (act : LaneMask) (d : BitVec 6) (a b : Src), Runs s g (.rand d a b) m act →
     exec (.rand d a b) s = .next (pushPend s g 4 ((lanesOf act).flatMap (fun l =>
       let r := randRule (op64 s g a l) (op64 s g b (xbarLane g m.xbb.toNat l))
       [.write (.v l d.toNat) (lo32 r), .write (.v l (d.toNat + 1)) (hi32 r)]))))

/-- R160 (08_isa_control): KLI writes kd, visible two ticks on, with the sign extension of bits 13:0 where H is set, else with bits 1:0 before the packet
immediate; its words at major 0x42 in layout KI of R106 (05_opcode_map), and the worked one. Beside it, R158, R159, R161: KOP, KMOV, XSET and XADD act once
for the gang, or in each active lane, two ticks on (six for KMOV.v); the lowest active lane supplies KMOV's value. -/
def Obligations.UniformWordsDeliver : Prop :=
  (∀ (s : State) (g : Gang) (i : Instr) (m : ModFields) (act : LaneMask) (d a : BitVec 9) (f : Word → Word → Word),
    Runs s g i m act → kopRule i = some (d, a, f) → exec i s = .next (pushPend s g 2 [.write (.k d.toNat) (f (rdK g d.toNat) (rdK g a.toNat))])) ∧
  (∀ (s : State) (g : Gang) (m : ModFields) (act : LaneMask) (d a : BitVec 9) (src : Src) (imm : BitVec 14) (hi : BitVec 2) (x : BitVec 3),
    let low := (lanesOf act).headD 0
    let pair := fun v : BitVec 64 => Outcome.next (φ := Fault) (ρ := Refusal)
      (pushPend s g 2 [.write (.k d.toNat) (lo32 v), .write (.k (d.toNat + 1)) (hi32 v)])
    (Runs s g (.kopAdd64 d a) m act → exec (.kopAdd64 d a) s = pair (rdK64 g d.toNat + rdK64 g a.toNat)) ∧
    (Runs s g (.kopMov64 d a) m act → exec (.kopMov64 d a) s = pair (rdK64 g a.toNat)) ∧
    (Runs s g (.kmovK d src) m act → exec (.kmovK d src) s = .next (pushPend s g 2 [.write (.k d.toNat) (opA s g .int src low)])) ∧
    (Runs s g (.kmovV d src) m act → exec (.kmovV d src) s = .next (pushPend s g 6 [.write (.k d.toNat) (opA s g .int src low)])) ∧
    (Runs s g (.kliShort d imm) m act → exec (.kliShort d imm) s = .next (pushPend s g 2 [.write (.k d.toNat) (BitVec.ofInt 32 imm.toInt)])) ∧
    (Runs s g (.kliPimm d hi) m act →
      exec (.kliPimm d hi) s = .next (pushPend s g 2 [.write (.k d.toNat) (BitVec.ofNat 32 (hi.toNat * 2 ^ 30 + s.cur.pimm.toNat))])) ∧
    (Runs s g (.xset x src) m act → exec (.xset x src) s = .next (pushPend s g 2 ((lanesOf act).map (fun l =>
      .write (.x l x.toNat) (BitVec.ofNat 32 ((opA s g .int src l).toNat % 2 ^ 24)))))) ∧
    (Runs s g (.xadd x src) m act → exec (.xadd x src) s = .next (pushPend s g 2 ((lanesOf act).map (fun l =>
      .write (.xcur l x.toNat) (BitVec.ofNat 32 ((xCur (xReg g l x.toNat) + (opA s g .int src l).toNat) % 256)))))) ∧
    encode (.kliShort d imm) = some (0x42004000#32 ||| d.setWidth 32 <<< 15 ||| imm.setWidth 32) ∧
    encode (.kliPimm d hi) = some (0x42000000#32 ||| d.setWidth 32 <<< 15 ||| hi.setWidth 32)) ∧
  encode (.kliShort 9 1000) = some 0x4204C3E8


/-! ## Registers, pending results, the end of a bundle -/

/-- R79 to R83 (04_encoding): what a source field gives in a lane: a direct register through its crossbar pattern, a uniform, an immediate exact in
the operand's type and in each of its elements, the special values, the window of an index register; a register pair for a 64-bit operand. R215 (11_isa_memory), R169, R170 (09_memories): a lane's
address is its uniform pair, its vector pair through the pattern, or the zero-extended register in its window, plus, where the word says so, the signed
packet immediate; an access of the core scratchpad beyond the block's bytes is SPACE,
then a misaligned one ALIGN, else it stands at that offset of the block. -/
def Obligations.OperandAndAddressForms : Prop :=
  (∀ (s : State) (g : Gang) (ty : ITy) (l : Nat) (n : BitVec 6) (k : BitVec 7) (i : BitVec 6) (x : BitVec 3),
    let xb := g.csr.xbar.toNat
    opA s g ty (.vec 0 n) l = rdV s g l n.toNat ∧
    opA s g ty (.vec 1 n) l = rdV s g (xb % 64 % g.width) n.toNat ∧
    opA s g ty (.vec 2 n) l = rdV s g ((l + xb / 64 % 64) % g.width) n.toNat ∧
    opA s g ty (.vec 3 n) l = rdV s g (if g.csr.xbar.getLsbD 18 then g.width - 1 - l else l ^^^ (xb / 4096 % 64 % g.width)) n.toNat ∧
    opA s g ty (.uni k) l = rdK g k.toNat ∧
    opA s g .int (.imm i) l = BitVec.ofInt 32 i.toInt ∧
    (∀ mode, mode < 4 → roundVal fmtF32 mode (.num i.toInt 0 false) = { bits := (opA s g .f32 (.imm i) l).toNat, flags := 0 } ∧
      ∀ j, j < 2 → roundVal fmtF16 mode (.num i.toInt 0 false) = { bits := halfOf (opA s g .f16x2 (.imm i) l) j, flags := 0 } ∧
        roundVal fmtBf16 mode (.num i.toInt 0 false) = { bits := halfOf (opA s g .bf16x2 (.imm i) l) j, flags := 0 } ∧
        s16Half (opA s g .s16x2 (.imm i) l) j = i.toInt) ∧
    (∀ j, j < 4 → l6Elem (opA s g .l6 (.imm i) l) j = i.toNat) ∧
    opA s g ty (.spec 0x00) l = 0 ∧ opA s g ty (.spec 0x01) l = BitVec.ofNat 32 (laneAt g l).num ∧
    opA s g ty (.spec 0x02) l = BitVec.ofNat 32 g.index ∧
    (∀ b : Block, blockOf s g.blk = some b → opA s g ty (.spec 0x03) l = BitVec.ofNat 32 b.bx ∧ opA s g ty (.spec 0x04) l = BitVec.ofNat 32 b.by_ ∧
      opA s g ty (.spec 0x05) l = BitVec.ofNat 32 b.bz ∧ opA s g ty (.spec 0x06) l = BitVec.ofNat 32 b.cluster) ∧
    opA s g ty (.spec 0x07) l = BitVec.ofNat 32 (g.core / 20) ∧ opA s g ty (.spec 0x08) l = BitVec.ofNat 32 (g.core / 40) ∧
    opA s g ty (.spec 0x09) l = BitVec.ofNat 32 s.fab.lid ∧ opA s g ty (.spec 0x0E) l = BitVec.ofNat 32 g.tick ∧
    opA s g ty (.spec 0x0F) l = 0xFFFFFFFF#32 ∧
    op64 s g (.uni k) l = rdK g (k.toNat + 1) ++ rdK g k.toNat ∧ op64 s g (.imm i) l = BitVec.ofInt 64 i.toInt ∧
    op64 s g (.spec 0x0B) l = BitVec.ofInt 64 s.cur.pimm.toInt ∧ op64 s g (.spec 0x0F) l = BitVec.allOnes 64 ∧
    (∀ off : Bool, let plus := if off then BitVec.ofInt 64 s.cur.pimm.toInt else 0
      (∀ pp : BitVec 2, let j := if pp = 0 then l else if pp = 1 then xb % 64 % g.width else if pp = 2 then (l + xb / 64 % 64) % g.width
          else if g.csr.xbar.getLsbD 18 then g.width - 1 - l else l ^^^ (xb / 4096 % 64 % g.width)
        op64 s g (.vec pp n) l = rdV s g j (n.toNat + 1) ++ rdV s g j n.toNat ∧
        memAddr s g (.vec pp n) off l = (rdV s g j (n.toNat + 1) ++ rdV s g j n.toNat) + plus) ∧
      (s.cur.cons = false → xCur (xReg g l x.toNat) < xLen (xReg g l x.toNat) →
        xBase (xReg g l x.toNat) + xCur (xReg g l x.toNat) < 16 * g.banks →
        memAddr s g (.ind x false) off l = (rdV s g l (xBase (xReg g l x.toNat) + xCur (xReg g l x.toNat))).setWidth 64 + plus)) ∧
    opA s g ty (.spec 0x0B) l = BitVec.ofInt 32 s.cur.pimm.toInt ∧ opA s g ty (.spec 0x0C) l = BitVec.ofNat 32 s.cur.pimm.toNat ∧
    opA s g ty (.spec 0x0D) l = BitVec.ofNat 32 (4 * s.cur.pimm.toNat) ∧ opA s g ty (.spec 0x0A) l = BitVec.ofNat 32 g.width ∧
    (s.cur.cons = false → xCur (xReg g l x.toNat) < xLen (xReg g l x.toNat) →
      (let j := xBase (xReg g l x.toNat) + xCur (xReg g l x.toNat)
       opA s g ty (.ind x true) l = rdK g j ∧ (j < 16 * g.banks → opA s g ty (.ind x false) l = rdV s g l j)))) ∧
  (∀ (s : State) (g : Gang) (f : MemFields) (acc : Acc) (u : McUse) (l : Nat) (b : Block), f.space = 1#2 → f.width ≠ 7#3 → blockOf s g.blk = some b →
    let va := memAddr s g f.addr f.off l
    let n := [1, 1, 2, 2, 4, 8, 16].getD f.width.toNat 0
    (∀ k, f.addr = .uni k → va = rdK64 g k.toNat + (if f.off then BitVec.ofInt 64 s.cur.pimm.toInt else 0)) ∧
    (4096 * b.banks.length < va.toNat + n → memLane s g f acc u l = .bad fcSpace va.toNat) ∧
    (va.toNat + n ≤ 4096 * b.banks.length → va.toNat % n ≠ 0 → memLane s g f acc u l = .bad fcAlign va.toNat) ∧
    (va.toNat + n ≤ 4096 * b.banks.length → va.toNat % n = 0 → ∃ ps, memLane s g f acc u l = .ok ps ∧
      ps.map (fun p => (p.lane, p.off, p.place, p.len)) =
        if n = 16 then [(l, 0, .scr g.blk va.toNat, 8), (l, 8, .scr g.blk (va.toNat + 8), 8)] else [(l, 0, .scr g.blk va.toNat, n)]))

/-- R41 (02_execution), the frame of a word with fixed-latency results: no register, no flag, no CSR, no byte of any memory changes at issue; only the gang's
record of pending results grows. It holds for every word of the tables above. -/
def Obligations.LaneWordsFrame : Prop :=
  ∀ (s : State) (g : Gang) (i : Instr) (m : ModFields) (act : LaneMask) (r : LaneRule),
    Runs s g i m act → (integerRule i = some r ∨ floatRule i = some r ∨ packedRule i = some r ∨ crossRule i = some r) →
    ∃ t ps, exec i s = .next t ∧ OnlyGang s t g.gid ∧ gangOf t g.gid = some { g with pend := g.pend ++ ps } ∧
      (∀ p ∈ ps, p.vis = g.tick + r.lat ∧ ((∃ l v, act.getLsbD l = true ∧ p.act = .write (.v l r.d) v) ∨ ∃ f, p.act = .flags f)) ∧
      (∀ l n, rdV t { g with pend := g.pend ++ ps } l n = rdV s g l n) ∧
      (∀ a, Memory.byte t.mem a = Memory.byte s.mem a ∧ Memory.byte t.scr a = Memory.byte s.scr a)

/-- R41 (02_execution): a result is not seen before its tick; at its tick its register, predicate, uniform, index register or flags hold it, and of
two results due together the one with the later tick stands, of equal ticks the later one. R116 (06_registers), R161 (08_isa_control): XSET's result is the
whole index register, XADD's its CURSOR alone. R119 (06_registers), R337 (17_isa_sync_system): a CSR write takes effect so, flags and writes of GSTAT in
the order of their ticks, no other CSR changing. -/
def Obligations.ResultsLandAtTheirTick : Prop :=
  ∀ (s : State) (gid tick vis : Nat) (g : Gang), gangOf s gid = some g →
    let t := retire s gid tick
    ((∀ p ∈ g.pend, tick < p.vis) → gangOf t gid = some g ∧ t = { s with gangs := t.gangs }) ∧
    (∀ n v, vis ≤ tick → g.pend = [{ vis := vis, act := .write (.k n) v }] → gangOf t gid = some { wrK g n v with pend := [] }) ∧
    (∀ n v w vis2, Sparse.wf 0#32 g.k = true → vis ≤ tick → vis2 ≤ tick →
      g.pend = [{ vis := vis, act := .write (.k n) v }, { vis := vis2, act := .write (.k n) w }] →
      ∃ h, gangOf t gid = some h ∧ rdK h n = if vis ≤ vis2 then w else v) ∧
    (∀ l n v, vis ≤ tick → n < 7 → l < g.lanes.length → g.pend = [{ vis := vis, act := .write (.p l n) v }] →
      ∃ h, gangOf t gid = some h ∧ predOf h l n = decide (v ≠ 0) ∧ ∀ l2 n2, (l2, n2) ≠ (l, n) → predOf h l2 n2 = predOf g l2 n2) ∧
    (∀ l n v w vis2, vis ≤ tick → vis2 ≤ tick → n < 7 → l < g.lanes.length →
      g.pend = [{ vis := vis, act := .write (.p l n) v }, { vis := vis2, act := .write (.p l n) w }] →
      ∃ h, gangOf t gid = some h ∧ predOf h l n = decide ((if vis ≤ vis2 then w else v) ≠ 0)) ∧
    (∀ l n v, vis ≤ tick → l < g.lanes.length → n < (laneAt g l).x.length →
      (g.pend = [{ vis := vis, act := .write (.x l n) v }] → ∃ h, gangOf t gid = some h ∧ xReg h l n = v.setWidth 24 ∧
        ∀ l2 n2, (l2, n2) ≠ (l, n) → xReg h l2 n2 = xReg g l2 n2) ∧
      (g.pend = [{ vis := vis, act := .write (.xcur l n) v }] → ∃ h, gangOf t gid = some h ∧ xCur (xReg h l n) = v.toNat % 256 ∧
        xBase (xReg h l n) = xBase (xReg g l n) ∧ xLen (xReg h l n) = xLen (xReg g l n) ∧
        ∀ l2 n2, (l2, n2) ≠ (l, n) → xReg h l2 n2 = xReg g l2 n2) ∧
      ∀ w vis2, vis2 ≤ tick → g.pend = [{ vis := vis, act := .write (.x l n) v }, { vis := vis2, act := .write (.x l n) w }] →
        ∃ h, gangOf t gid = some h ∧ xReg h l n = (if vis ≤ vis2 then w else v).setWidth 24) ∧
    (∀ n v, vis ≤ tick → n ∈ [0x000, 0x001, 0x002, 0x017, 0x020, 0x040] → g.pend = [{ vis := vis, act := .write (.csr n) v }] →
      ∃ h, gangOf t gid = some h ∧ h = { g with pend := [], csr := h.csr } ∧ csrGet h.csr n = v ∧ ∀ k, k ≠ n → csrGet h.csr k = csrGet g.csr k) ∧
    (∀ v f vis2, vis ≤ tick → vis2 ≤ tick → g.pend = [{ vis := vis, act := .write (.csr 0) v }, { vis := vis2, act := .flags f }] →
      ∃ h, gangOf t gid = some h ∧ csrGet h.csr 0 = if vis ≤ vis2 then v ||| f else v) ∧
    (∀ f, vis ≤ tick → g.pend = [{ vis := vis, act := .flags f }] →
      gangOf t gid = some { g with pend := [], csr := { g.csr with gstat := g.csr.gstat ||| f } }) ∧
    (∀ l n v k, vis ≤ tick → vKey g l n = some k → (g.smap.getD (n / 16) [])[l / 8]? ≠ some spilledSlice → Sparse.wf 0#32 s.vrf = true →
      g.pend = [{ vis := vis, act := .write (.v l n) v }] →
      rdV t g l n = v ∧ vMarkOf t g l n = none ∧ ∀ k2, k2 ≠ k → Sparse.get 0#32 t.vrf k2 = Sparse.get 0#32 s.vrf k2) ∧
    (∀ l n v w vis2 k, vis ≤ tick → vis2 ≤ tick → vKey g l n = some k → (g.smap.getD (n / 16) [])[l / 8]? ≠ some spilledSlice →
      Sparse.wf 0#32 s.vrf = true →
      g.pend = [{ vis := vis, act := .write (.v l n) v }, { vis := vis2, act := .write (.v l n) w }] → rdV t g l n = if vis ≤ vis2 then w else v)

/-- R43 (02_execution): a drain leaves nothing pending and gives each register the value that a tick beyond every pending one gives; lanes keep their
PCs and states. -/
def Obligations.DrainSettlesResults : Prop :=
  ∀ (s : State) (gid tick : Nat) (g : Gang), (s.gangs.map (fun x => x.gid)).Nodup → gangOf s gid = some g → (∀ p ∈ g.pend, p.vis ≤ tick) →
    drain s gid = retire s gid tick ∧
    ∃ h, gangOf (drain s gid) gid = some h ∧ h.pend = [] ∧ h.tick = g.tick ∧ h.m = g.m ∧ h.serial = g.serial ∧ h.cnt = g.cnt ∧
      ∀ l, (laneAt h l).pc = (laneAt g l).pc ∧ (laneAt h l).st = (laneAt g l).st ∧ (laneAt h l).yield = (laneAt g l).yield

/-- R75 (04_encoding), R147 (08_isa_control), R40 (02_execution): as a bundle ends, its issuing lanes that have not exited go to the target of the
transfer word that took them, or to the fall-through PC; the other lanes keep their PCs; the tick is one higher; no bundle is being issued. -/
def Obligations.BundleEndMovesPcs : Prop :=
  ∀ (s : State) (packed : Bool) (zw : Nat) (g : Gang), gangOf s s.cur.gid = some g →
    (finishBundle packed zw s).cur.busy = false ∧
    (∃ h, gangOf (finishBundle packed zw s) g.gid = some h ∧ h.tick = g.tick + 1 ∧ h.lastIssue = s.clock ∧ h.lanes.length = g.lanes.length ∧
      ∀ l, l < g.lanes.length →
        (laneAt h l).pc = if s.cur.lanes.getLsbD l = true ∧ (laneAt g l).st ≠ .exited then
          (match s.cur.taken.find? (fun e => e.1 == l) with
           | some e => e.2
           | none => fallPc s.cur.pc s.cur.last) else (laneAt g l).pc) ∧
    (∀ pc : Addr, pc.toNat % 16 = 0 → pc.toNat + 16 < 2 ^ 64 →
      ∀ slot, slot < 3 → (fallPc (pc + BitVec.ofNat 64 (4 * slot)) slot).toNat = if slot = 2 then pc.toNat + 16 else pc.toNat + 4 * (slot + 1))

/-- R151 (08_isa_control): a mask on which some lane waits releases when every lane whose bit is set in it waits on it; then every lane waiting on it
becomes Eligible; no other lane changes, and the mask keeps its bits. So no mask whose lanes all wait on it is left when a bundle has ended. -/
def Obligations.MasksRelease : Prop :=
  (∀ (s : State) (packed : Bool) (zw : Nat) (g h : Gang), gangOf s s.cur.gid = some g → g.width ≤ 64 → g.lanes.length = g.width →
    gangOf (finishBundle packed zw s) g.gid = some h → ∀ n, n < 12 → (∃ l, l < g.width ∧ (laneAt h l).st = .waiting n) →
    ∃ j, (h.m.getD n 0).getLsbD j = true ∧ (laneAt h j).st ≠ .waiting n) ∧
  (∀ (g : Gang), g.width ≤ 64 → g.lanes.length = g.width →
    (releaseMasks g).m = g.m ∧
    ∀ l, l < g.width → (laneAt (releaseMasks g) l).pc = (laneAt g l).pc ∧
      ((∀ n, (laneAt g l).st ≠ .waiting n) → laneAt (releaseMasks g) l = laneAt g l) ∧
      (∀ n, n < 12 → (laneAt g l).st = .waiting n →
        ((∀ j, j < 64 → (g.m.getD n 0).getLsbD j = true → j < g.width ∧ (laneAt g j).st = .waiting n) → (laneAt (releaseMasks g) l).st = .eligible) ∧
        ((∃ j, (g.m.getD n 0).getLsbD j = true ∧ (laneAt g j).st ≠ .waiting n) → laneAt (releaseMasks g) l = laneAt g l)))

/-! ## Control words -/

/-- R148, R149 (08_isa_control): the lanes that a transfer word takes and their targets; CALL's link is due in v0, v1 of those lanes at the next tick. -/
def Obligations.TransferWordsTakeLanes : Prop :=
  ∀ (s : State) (g : Gang) (m : ModFields) (act : LaneMask) (p : BitVec 3) (neg : Bool) (off : BitVec 20) (k : BitVec 9) (n : BitVec 6),
    let took := fun ts : List (Nat × Addr) => { s with cur := { s.cur with taken := s.cur.taken ++ ts } }
    let br := ((lanesOf act).filter (fun l => (decide (p = 7#3) || (laneAt g l).p.getLsbD p.toNat) != neg)).map
      (fun l => (l, BitVec.ofInt 64 ((s.cur.pc.toNat / 16 * 16 : Nat) + 16 * off.toInt)))
    let link := fallPc s.cur.pc s.cur.last
    (Runs s g (.bra p neg off) m act → exec (.bra p neg off) s = .next (took br)) ∧
    (Runs s g (.brx k) m act → exec (.brx k) s = .next (took ((lanesOf act).map (fun l => (l, rdK64 g k.toNat))))) ∧
    (Runs s g (.ret n) m act →
      exec (.ret n) s = .next (took ((lanesOf act).map (fun l => (l, pair64 (rdV s g l n.toNat) (rdV s g l (n.toNat + 1))))))) ∧
    (Runs s g (.call p neg off) m act → s.cur.cons = false →
      exec (.call p neg off) s = .next (pushPend (took br) g 1 (br.flatMap (fun e => [.write (.v e.1 0) (lo32 link), .write (.v e.1 1) (hi32 link)])))) ∧
    (Runs s g (.call p neg off) m act → s.cur.cons = true →
      exec (.call p neg off) s = .next (pushPend (took br) g 1 (br.flatMap (fun e =>
        [.write (.v e.1 g.side.np) (lo32 link), .write (.v e.1 (g.side.np + 1)) (hi32 link)]))))

/-- R150, R153 (08_isa_control): JOIN sets and LEAVE clears the active lanes' bits of the mask, at issue; WAITM leaves the active lanes waiting on it
and YIELD sets their yield bits, both with the pipes drained; nothing else of the lanes or masks changes. Their words are in format T at their majors: R76
(04_encoding), R95 (05_opcode_map). That a lane that has exited stays so is the model's order of a bundle's effects (log entry 51, DEDUCED). -/
def Obligations.LaneMaskWords : Prop :=
  (∀ m : BitVec 6, m.toNat < 12 → encode (.join m) = some (0x4C000000#32 ||| m.setWidth 32) ∧ encode (.leave m) = some (0x4D000000#32 ||| m.setWidth 32) ∧
    encode (.waitm m) = some (0x4E000000#32 ||| m.setWidth 32)) ∧ decode 0x4C000003 = .ok (.join 3) ∧ encode .yieldW = some 0x4F000000 ∧
  (∀ (s : State) (g : Gang) (md : ModFields) (act : LaneMask) (m : BitVec 6), m.toNat < 12 → g.m.length = 12 →
    (Runs s g (.join m) md act → ∃ (t : State) (h : Gang), exec (.join m) s = .next t ∧ OnlyGang s t g.gid ∧ gangOf t g.gid = some h ∧ h = { g with m := h.m } ∧
      ∀ n, h.m.getD n 0 = if n = m.toNat then g.m.getD n 0 ||| act else g.m.getD n 0) ∧
    (Runs s g (.leave m) md act → ∃ (t : State) (h : Gang), exec (.leave m) s = .next t ∧ OnlyGang s t g.gid ∧ gangOf t g.gid = some h ∧ h = { g with m := h.m } ∧
      ∀ n, h.m.getD n 0 = if n = m.toNat then g.m.getD n 0 &&& ~~~act else g.m.getD n 0) ∧
    (Runs s g (.waitm m) md act → ∃ (t : State) (h : Gang), exec (.waitm m) s = .next t ∧ gangOf t g.gid = some h ∧ h.pend = [] ∧ h.m = g.m ∧ h.blocked = g.blocked ∧
      ∀ l, l < g.lanes.length → (laneAt h l).pc = (laneAt g l).pc ∧ (laneAt h l).yield = (laneAt g l).yield ∧
        (laneAt h l).st = if act.getLsbD l = true ∧ (laneAt g l).st ≠ .exited then .waiting m.toNat else (laneAt g l).st) ∧
    (Runs s g .yieldW md act → ∃ (t : State) (h : Gang), exec .yieldW s = .next t ∧ gangOf t g.gid = some h ∧ h.pend = [] ∧ h.m = g.m ∧
      ∀ l, l < g.lanes.length → (laneAt h l).pc = (laneAt g l).pc ∧ (laneAt h l).st = (laneAt g l).st ∧
        (laneAt h l).yield = ((act.getLsbD l && decide ((laneAt g l).st ≠ .exited)) || (laneAt g l).yield)))

/-- R154 (08_isa_control): SERB forms a group of its active lanes, which have not exited, the lowest inside it and the others Held; SERE by the
proceeding lane of a group releases the lowest Held lane, and the group falls with its last lane; SERE by a lane that proceeds in none has no effect. -/
def Obligations.SerialSections : Prop :=
  (∀ (s : State) (g : Gang) (md : ModFields) (act : LaneMask), Runs s g .serb md act → ∃ (t : State) (h : Gang), exec .serb s = .next t ∧ OnlyGang s t g.gid ∧
    gangOf t g.gid = some h ∧ h = { g with lanes := h.lanes, serial := h.serial } ∧
    (∀ l ls, (lanesOf act).filter (fun j => decide ((laneAt g j).st ≠ .exited)) = l :: ls → h.serial = { cur := l, held := ls } :: g.serial ∧
      ∀ j, j < g.lanes.length → (laneAt h j).pc = (laneAt g j).pc ∧ (laneAt h j).st = if j ∈ ls then .held else (laneAt g j).st) ∧
    ((∀ l, act.getLsbD l = true → (laneAt g l).st = .exited) → h = g)) ∧
  (∀ (s : State) (g : Gang) (md : ModFields) (act : LaneMask), Runs s g .sere md act → ∃ t : State, exec .sere s = .next t ∧ OnlyGang s t g.gid ∧
    gangOf t g.gid = some ((lanesOf act).foldl serialStep g)) ∧
  (∀ (g : Gang) (l h : Nat) (hs : List Nat) (rest : List SerialGroup),
    (g.serial = { cur := l, held := h :: hs } :: rest → (∀ j ∈ h :: hs, (laneAt g j).st = .held) →
      (serialStep g l).serial = { cur := h, held := hs } :: rest ∧ (laneAt (serialStep g l) h).st = .eligible ∧
      ∀ j, j ≠ h → laneAt (serialStep g l) j = laneAt g j) ∧
    (g.serial = { cur := l, held := hs } :: rest → (∀ j ∈ hs, (laneAt g j).st ≠ .held) → serialStep g l = { g with serial := rest }) ∧
    ((∀ x ∈ g.serial, x.cur ≠ l) → serialStep g l = g))

/-- R156 (08_isa_control): EXIT makes its active lanes Exited, clears their bits of every lane mask, and leaves no serial section in which one of them
proceeds or is Held; another lane changes only by becoming Eligible where such a section released it. -/
def Obligations.ExitLeavesTheGang : Prop :=
  ∀ (s : State) (g : Gang) (md : ModFields) (act : LaneMask), Runs s g .exitW md act → ∃ (t : State) (h : Gang), exec .exitW s = .next t ∧ OnlyGang s t g.gid ∧
    gangOf t g.gid = some h ∧ h.m = g.m.map (fun x => x &&& ~~~act) ∧ h.lanes.length = g.lanes.length ∧
    (∀ x ∈ h.serial, act.getLsbD x.cur = false ∧ ∀ l ∈ x.held, act.getLsbD l = false) ∧
    (∀ l, l < g.lanes.length → l < 64 → (laneAt h l).pc = (laneAt g l).pc ∧
      (act.getLsbD l = true → (laneAt h l).st = .exited) ∧
      (act.getLsbD l = false → laneAt h l = laneAt g l ∨
        laneAt h l = { laneAt g l with st := .eligible } ∧ ∃ x ∈ g.serial, l ∈ x.held)) ∧
    (h.handler = (g.handler && (lanesOf g.trapLanes).any (fun l => decide ((laneAt h l).st ≠ .exited))))

/-- R157 (08_isa_control), R76, R86 (04_encoding): WAIT drains, and blocks the gang exactly where a counter is above its count; NOP has no effect;
MOD stands before the next word. R167 (08_isa_control), R96 (05_opcode_map): TRAP n enters the trap with code 0x80 + n, its pair as FLTADDR and the
fall-through PC for TRETPC; a word of a reserved major enters it with ILLEGAL. -/
def Obligations.WaitNopModAndTrap : Prop :=
  (∀ (s : State) (g : Gang) (md : ModFields) (act : LaneMask) (nl ns nc nt : BitVec 6), Runs s g (.wait nl ns nc nt) md act →
    ∃ (t : State) (h : Gang), exec (.wait nl ns nc nt) s = .next t ∧ gangOf t g.gid = some h ∧ h.pend = [] ∧ h.lanes.map (fun x => x.pc) = g.lanes.map (fun x => x.pc) ∧
      h.cnt = g.cnt ∧
      h.blocked = if g.cnt.ld ≤ nl.toNat ∧ g.cnt.st ≤ ns.toNat ∧ g.cnt.cp ≤ nc.toNat ∧ g.cnt.tl ≤ nt.toNat then g.blocked
        else some (.wait nl.toNat ns.toNat nc.toNat nt.toNat)) ∧
  (∀ (s : State) (rest : BitVec 24), exec (.nop rest) s = .next s) ∧
  (∀ (s : State) (m : ModFields), s.cur.busy = true → exec (.mod m) s = .next { s with cur := { s.cur with mod := some m } }) ∧
  (∀ (s : State) (g : Gang), curGang s = some g →
     (∀ (k : BitVec 9) (n : BitVec 4), let i := Instr.trap k n
       let act := activeOf g s.cur.lanes (some i) s.cur.mod
       act ≠ 0 → illegalWord g s.cur.solo (some i) s.cur.mod = false → guardLocked s g (some i) s.cur.mod = false → k.toNat % 2 = 0 →
       locked s g.gid (.k k.toNat) = false → locked s g.gid (.k (k.toNat + 1)) = false →
       exec i s = .next (trapEntry s g.gid (0x80 + n.toNat) act (rdK64 g k.toNat) s.cur.pc (fallPc s.cur.pc s.cur.last) s.cur.lanes)) ∧
     (∀ (mj : BitVec 7) (rest : BitVec 24), let i := Instr.reservedMajor mj rest
       let act := checkLanes s g s.cur.lanes (some i) s.cur.mod
       act ≠ 0 → exec i s = .next (trapEntry s g.gid fcIllegal act 0 s.cur.pc s.cur.pc s.cur.lanes)))

/-- R164, R165 (08_isa_control): trap entry settles pending results; it writes FLTCODE, FLTMASK, FLTADDR, FLTPC, FLTORG and TRETPC, makes the issuing
lanes the trap lanes, sets handler mode and sends them to the handler; the registers stay. In handler mode, and where the table gives no handler,
the gang stops and the launch keeps its first fatal status. The gang is not fused. -/
def Obligations.TrapEntrySavesAndJumps : Prop :=
  ∀ (s : State) (gid code : Nat) (bad lanes : LaneMask) (addr : BitVec 64) (flpc ret : Addr) (g : Gang),
    gangOf (drain s gid) gid = some g → g.side.spl = false →
    let d := drain s gid
    let t := trapEntry s gid code bad addr flpc ret lanes
    (∀ h : Nat, g.handler = false → vectorEntry d g.ctx (faultClass code) = some h → h ≠ 0 → h < 2 ^ 64 → pcOk g (BitVec.ofNat 64 h) = true →
      ∃ x, gangOf t gid = some x ∧ x = { g with csr := x.csr, lanes := x.lanes, trapLanes := lanes, handler := true, blocked := none } ∧
        x.csr = { g.csr with fltcode := BitVec.ofNat 32 code, fltmask := bad, fltaddr := addr, fltpc := (flpc >>> 2).setWidth 32, fltorg := 0,
                             tretpc := (ret >>> 2).setWidth 32 } ∧
        (∀ l, l < g.lanes.length → laneAt x l = if lanes.getLsbD l then { laneAt g l with pc := BitVec.ofNat 64 h } else laneAt g l) ∧
        t = { d with gangs := t.gangs, recs := t.recs, accs := t.accs, arrays := t.arrays }) ∧
    (∀ l : Launch, launchOf d g.launch = some l → l.fatal = none → l.id = g.launch →
      (g.handler = true ∨ (g.handler = false ∧ vectorEntry d g.ctx (faultClass code) = some 0)) →
      ∃ x f, launchOf t g.launch = some { l with stopped := true, fatal := some f } ∧ f.status = (if g.handler then 2 else 1) ∧ f.code = code ∧
        f.pc = flpc.toNat ∧ gangOf t gid = some x ∧ x = { g with dead := true, blocked := none })

/-- R168, R165 (08_isa_control): TRET in handler mode sends the trap lanes that have not exited to the PC formed from the gang's region and TRETPC,
Eligible, and clears handler mode; a gang that KILL entered ends. -/
def Obligations.TretReturns : Prop :=
  ∀ (s : State) (g : Gang) (md : ModFields) (act : LaneMask), Runs s g .tret md act → g.handler = true → ∃ (t : State) (h : Gang), exec .tret s = .next t ∧
    gangOf t g.gid = some h ∧ h.handler = false ∧ h.lanes.length = g.lanes.length ∧ t = { s with gangs := t.gangs, cur := t.cur } ∧
    (g.killed = false → ∀ l, l < g.lanes.length → laneAt h l = if g.trapLanes.getLsbD l = true ∧ (laneAt g l).st ≠ .exited then
      { laneAt g l with pc := ((g.entry >>> 34) <<< 34) ||| (g.csr.tretpc.setWidth 64 <<< 2), st := .eligible } else laneAt g l) ∧
    (g.killed = true → ∀ l, l < g.lanes.length → (laneAt h l).st = .exited)

/-- R9 (00_scope), R88 (04_encoding): a word with no active lane has no effect and raises no fault. -/
def Obligations.InactiveWordsDoNothing : Prop :=
  ∀ (s : State) (g : Gang) (i : Instr), CheckedWord i → curGang s = some g → checkLanes s g s.cur.lanes (some i) s.cur.mod = 0 → exec i s = .next s

/-- R88 (04_encoding), R164 (08_isa_control): a word that a check stops has no effect: the gang enters the trap with that fault; a word that waits for
pages or lines leaves the gang held, and changes nothing else. -/
def Obligations.FaultingWordsEnterTheTrap : Prop :=
  ∀ (s : State) (g : Gang) (i : Instr), CheckedWord i → curGang s = some g → s.cur.checked = false →
    checkLanes s g s.cur.lanes (some i) s.cur.mod ≠ 0 →
    (∀ f, fullChk s g i = .fault f → exec i s = .next (trapEntry s g.gid f.code f.mask f.addr s.cur.pc
      (if 0x80 ≤ f.code then fallPc s.cur.pc s.cur.last else s.cur.pc) s.cur.lanes)) ∧
    (∀ ps, fullChk s g i = .hold ps → ∃ t : State, exec i s = .next t ∧ OnlyGang s t g.gid ∧
      gangOf t g.gid = some { g with blocked := some (.xlate (sortAsc ps)), since := s.clock })

/-- R337 (17_isa_sync_system), R42 (02_execution), R117 (06_registers): CSRR reads a CSR at issue, the outstanding counters among them; CSRW writes,
sets, clears or swaps the writable bits alone; all are visible two ticks on, and reading an even performance counter latches its high half. -/
def Obligations.CsrWordsReadAndWrite : Prop :=
  (∀ (s : State) (g : Gang) (m : ModFields) (act : LaneMask) (k : BitVec 9) (n : BitVec 12),
    let v := rdK g k.toNat &&& csrMask n.toNat
    let old := csrValue s g n.toNat
    (Runs s g (.csrr k n) m act → (¬(0x100 ≤ n.toNat ∧ n.toNat ≤ 0x1FF ∧ n.toNat % 2 = 0)) →
      exec (.csrr k n) s = .next (pushPend s g 2 [.write (.k k.toNat) old])) ∧
    (Runs s g (.csrr k n) m act → 0x100 ≤ n.toNat → n.toNat ≤ 0x1FF → n.toNat % 2 = 0 → ∃ (t : State) (h : Gang), exec (.csrr k n) s = .next t ∧ OnlyGang s t g.gid ∧
      gangOf t g.gid = some h ∧ h = { g with latch := h.latch, pend := g.pend ++ [{ vis := g.tick + 2, act := .write (.k k.toNat) old }] } ∧
      h.latch.map (fun w => w ++ old) = some (BitVec.ofNat 64 (perfCounter s g n.toNat))) ∧
    (Runs s g (.csrwWrite k n) m act → exec (.csrwWrite k n) s = .next (pushPend s g 2 [.write (.csr n.toNat) v])) ∧
    (Runs s g (.csrwSet k n) m act → exec (.csrwSet k n) s = .next (pushPend s g 2 [.write (.csr n.toNat) ((old ||| rdK g k.toNat) &&& csrMask n.toNat)])) ∧
    (Runs s g (.csrwClr k n) m act → exec (.csrwClr k n) s = .next (pushPend s g 2 [.write (.csr n.toNat) ((old &&& ~~~(rdK g k.toNat)) &&& csrMask n.toNat)])) ∧
    (Runs s g (.csrwSwap k n) m act → exec (.csrwSwap k n) s = .next (pushPend s g 2 [.write (.k k.toNat) old, .write (.csr n.toNat) v]))) ∧
  (∀ (s : State) (g : Gang), csrValue s g 0x060 = BitVec.ofNat 32 g.cnt.ld ∧ csrValue s g 0x061 = BitVec.ofNat 32 g.cnt.st ∧
    csrValue s g 0x062 = BitVec.ofNat 32 g.cnt.cp ∧ csrValue s g 0x063 = BitVec.ofNat 32 g.cnt.tl ∧
    csrValue s g 0x000 = g.csr.gstat ∧ csrValue s g 0x002 = g.csr.rmode ∧ csrValue s g 0x017 = g.csr.tretpc)

/-! ## Operations at issue -/

/-- R42 (02_execution), R218 to R227 (11_isa_memory), R249 (12_isa_tiles), R329, R330 (17_isa_sync_system): each of these words leaves one operation in
flight, one counter one higher, and changes nothing else: no register, no byte of any memory. PSH and POP move SSP, TRST.rel clears TWIN two ticks on.
R224 (11_isa_memory): a FENCE at scope thread waits for nothing: it completes at once. That a TLNCH carries the mode and window which stood at its issue is log
entry 34 (DEDUCED). -/
def Obligations.OperationsEnterFlight : Prop :=
  ∀ (s : State) (g : Gang) (m : ModFields) (act : LaneMask),
    (∀ i cls kind ps, Runs s g i m act → fwdKind s g = 0 → issueRule s g m act i = some (cls, kind, ps) →
      ∃ t : State, exec i s = .next t ∧ Issued s t g cls kind act ps) ∧
    (∀ pd : BitVec 3, Runs s g (.fence pd 0) m act → exec (.fence pd 0) s = .next (if pd = 7#3 then s
      else pushPend s g 1 ((lanesOf act).map (fun l => .write (.p l pd.toNat) 1)))) ∧
    (∀ (d : BitVec 6) (w : BitVec 3), let n := (if w = 4#3 then 4 else if w = 5#3 then 8 else 16) * g.width
      (Runs s g (.psh d w) m act → ∃ t : State, exec (.psh d w) s = .next t ∧ Issued s t { g with ssp := g.ssp + n } .st (.store 0 .relaxed) act
        (withData (wordPieces s g (.psh d w) act) (storeBytes s g d.toNat w.toNat))) ∧
      (Runs s g (.pop d w) m act → ∃ t : State, exec (.pop d w) s = .next t ∧ Issued s t { g with ssp := g.ssp - n } .ld
        (.load d.toNat w.toNat 0 0 .relaxed false) act (wordPieces s g (.pop d w) act))) ∧
    (∀ (a : Src) (off : Bool) (which : Nat) (i : Instr), (which, i) ∈ [(0, Instr.clineWb a off), (1, .clineWbi a off), (2, .clineMem a off)] →
      Runs s g i m act → ∃ t : State, exec i s = .next t ∧ Issued s t g .st (.cline which) act
        ((onePerLine (wordPieces s g i act)).map (fun p => { p with place := lineStart p.place, len := 128, off := 0 }))) ∧
    (Runs s g .trstRel m act → ∃ t : State, exec .trstRel s = .next t ∧
      Issued s t { g with pend := g.pend ++ [{ vis := g.tick + 2, act := .write (.csr 0x020) 0 }] } .none (.trst true) act []) ∧
    (∀ c : Counts, ∀ cls, let d := cntAdd c cls
      (d.ld, d.st, d.cp, d.tl) = bumped c cls)

/-- R222, R223 (11_isa_memory), R210 (10_consistency): ATOM and REDM leave one operation in flight whose groups hold the active lanes by address, each lane
in one group in ascending order, with its operands read at issue. -/
def Obligations.AtomicWordsEnterFlight : Prop :=
  (∀ (s : State) (g : Gang) (m : ModFields) (act : LaneMask) (i : Instr) (aop : Nat) (f : AtomFields),
    ((atomCode i = some (aop, f) ∨ ∃ op : BitVec 4, i = .redm op f ∧ aop = op.toNat) → Runs s g i m act →
      ∃ t ps, exec i s = .next t ∧
        (let gs := atomGroups (atomPair s g (aop == 9) f.wide f.d.toNat) (wordPieces s g i act)
         let ret := (atomCode i).isSome
         Issued s t g (if ret then .ld else .st)
           (.atom aop f.wide (scopeRule (if f.sp then 1 else 0) f.scope) (orderOf m) (m.neg && !f.sp) ret f.d.toNat gs) act ps ∧
         ps.map (fun p => p.place) = if m.neg && !f.sp then gs.map (fun x => x.place) else []))) ∧
  (∀ (opnd : Nat → BitVec 64 × BitVec 64) (ps : List Piece), (ps.map (fun p => p.lane)).Pairwise (· < ·) →
    let gs := atomGroups opnd ps
    (gs.map (fun x => x.place)).Nodup ∧ ((gs.flatMap (fun x => x.lanes)).Perm (ps.map (fun p => p.lane))) ∧
    (∀ x ∈ gs, x.lanes.Pairwise (· < ·) ∧ x.opnds = x.lanes.map opnd ∧ x.olds = [] ∧ x.st = .todo) ∧
    (∀ p ∈ ps, ∃ x ∈ gs, x.place = p.place ∧ p.lane ∈ x.lanes))

/-- R237 to R239, R242, R243 (12_isa_tiles), R228, R229 (11_isa_memory), R205, R206 (10_consistency): the engines' words leave one operation in flight after
the core's Dirty bytes of their ranges have gone to L2, and CPY and ACMOV to memory after the ownership of their destinations' lines is asked for; an MMA's
parameter block in memory meets its correctable errors, R188 (09_memories), log entry 72; WBLD takes G and SC of its record from the stream's header; MMA and CPY take a reference on each
barrier they name, and a CPY to a ring takes its slot. -/
def Obligations.EngineWordsEnterFlight : Prop :=
  ∀ (s : State) (g : Gang) (m : ModFields) (act : LaneMask), fwdKind s g = 0 →
    (∀ i kind, Runs s g i m act → engineRule s g i = some kind →
      let ps := match kind with
        | .obldReg _ _ _ _ => []
        | _ => engineRange s g i
      let s1 := match kind with
        | .acmov a _ _ _ _ _ _ _ => if a < 2 then askDests g.core (placesOf ps) s else s
        | _ => s
      ∃ t : State, exec i s = .next t ∧ Issued (settled g.core (placesOf ps) s1) t g .tl kind act ps) ∧
    (∀ (h q : BitVec 9) (sp : BitVec 2) (r : RecRow), let i := Instr.wbld h q sp
      let hd := leNat (engineRead s g.core (chkPieces (rangeAccess s g sp.toNat (rdK64 g q.toNat).toNat 4 1 .rd 0))).1
      let rcd := (rdK g h.toNat).toNat % 64
      Runs s g i m act → recLive s g rcd = some r →
      ∃ t : State, exec i s = .next t ∧ Issued (settled g.core (placesOf (engineRange s g i)) (setRec s { r with g := hd % 65536, sc := decide (hd / 65536 % 2 = 1) })) t g
        .tl (.wbld rcd (rdK g (q.toNat + 3)).toNat (hd % 65536) (decide (hd / 65536 % 2 = 1)) (BitVec.ofNat 32 hd)) act (engineRange s g i)) ∧
    (∀ (p : BitVec 9) (cp : Bool), Runs s g (.mma p cp) m act →
      let b := mmaBlock (mmaWords s g p.toNat cp)
      let s1 := if b.wv then barRef s b.wh else s
      ∃ t : State, exec (.mma p cp) s = .next t ∧
        Issued (eccPlaces g.ctx (placesOf (chkPieces (mmaPlace s g p.toNat cp))) (if b.av then barRef s1 b.ahb else s1)) t g .tl
        (.mma { b with phase := ((barNamed s b.wh).map (fun r => r.phase)).getD false, go := !b.wv }) act []) ∧
    (∀ (f : CpyFields), Runs s g (.cpy f) m act →
      let n := if f.size = 0#2 then 4 else if f.size = 1#2 then 8 else 16
      let h := rdK g f.h.toNat
      let cl := copyLanes s g f act
      let s1 := askDests g.core (cl.map (fun c => (c.dst, n))) (settled g.core (cl.flatMap (fun c => [(c.src, n), (c.dst, n)])) s)
      ∃ t : State, exec (.cpy f) s = .next t ∧
        (h = 0 → Issued s1 t g .cp (.cpy n 0 none false cl) act []) ∧
        (h ≠ 0 → h.getLsbD 31 = false → Issued (barRef s1 h) t g .cp (.cpy n h none false cl) act []) ∧
        (∀ r, h.getLsbD 31 = true → ringLive s g h = some r →
          Issued (setRing s1 (ringAssign r (n * popcount act)).1) t g .cp (.cpy n h (some (r.obj, r.rnd)) false cl) act []))

/-- R281, R283 (14_splicer): in a fused image a matched store writes its lanes' bytes in the pair's forwarding entry, of each lane as many as the entry holds
for one, the entry keeping its length and the inactive lanes' bytes; an elided one writes no memory at all, and a forwarded load or OBLD takes its bytes from
there; each still counts as its word does. That the entry is written and read at issue, and that an elided store is an operation without pieces, is log
entry 23 (DEDUCED). -/
def Obligations.ForwardedWords : Prop :=
  ∀ (s : State) (g : Gang) (m : ModFields) (act : LaneMask) (e : FwdEntry), g.fwd[s.cur.pair]? = some e →
    (∀ (f : MemFields), Runs s g (.st f) m act → fwdKind s g = 1 ∨ fwdKind s g = 2 → (∀ l ∈ lanesOf act, (l + 1) * e.b ≤ e.bytes.length) →
      ∃ (t : State) (h : Gang) (x : FwdEntry), exec (.st f) s = .next t ∧ h = { g with fwd := h.fwd } ∧ h.fwd[s.cur.pair]? = some x ∧
        x.bytes.length = e.bytes.length ∧
        (∀ l ∈ lanesOf act, let w := (storeBytes s g f.d.toNat f.width.toNat l).take e.b
          slice x.bytes (l * e.b) w.length = w) ∧
        (∀ k, 0 < e.b → act.getLsbD (k / e.b) = false → x.bytes[k]? = e.bytes[k]?) ∧
        (∀ n, n ≠ s.cur.pair → h.fwd[n]? = g.fwd[n]?) ∧
        Issued s t h .st (.store (scopeRule f.space f.scope) (orderOf m)) act
          (if fwdKind s g = 2 then [] else withData (wordPieces s g (.st f) act) (storeBytes s g f.d.toNat f.width.toNat))) ∧
    (∀ (f : MemFields), Runs s g (.ld f) m act → fwdKind s g = 3 → ∃ t : State, exec (.ld f) s = .next t ∧ Issued s t g .ld
      (.fwdLoad f.d.toNat f.width.toNat (l6Len g) ((lanesOf act).map (fun l => (l, slice e.bytes (l * e.b) (widthBytes g f.width.toNat))))) act []) ∧
    (∀ (h q : BitVec 9) (sp : BitVec 2) (cvt : Bool), Runs s g (.obld h q sp cvt) m act → fwdKind s g = 3 → ∃ t : State, exec (.obld h q sp cvt) s = .next t ∧
      Issued s t g .tl (.obldFwd ((rdK g h.toNat).toNat % 64) (rdK g (q.toNat + 2)).toNat e.bytes) act [])

/-- R32 (02_execution), R235, R236, R240, R241, R248 (12_isa_tiles), R331, R334 to R336 (17_isa_sync_system): words that wait for a grant block the gang and
change nothing else, RAWAIT and ACFREE after a drain; TWSET claims a free array that no gang waits for; OBREL kills the handle; RREL is pending;
BWAIT completes at once where the phase differs from its parity or the object is gone. That OBRES, ACALLOC and RING block until an event grants them, even where
enough is free, is log entry 31 (DEDUCED). -/
def Obligations.BlockingWords : Prop :=
  ∀ (s : State) (g : Gang) (m : ModFields) (act : LaneMask),
    (∀ i b, Runs s g i m act → waitRule s g act i = some b → b ≠ .acfree 0 s.fresh → ∃ (t : State) (h : Gang), exec i s = .next t ∧ gangOf t g.gid = some h ∧ h.blocked = some b ∧
      h.since = s.clock ∧ (∀ n, n ≠ g.gid → gangOf t n = gangOf s n) ∧ t.ops = s.ops ∧ t.mem = s.mem ∧ t.scr = s.scr ∧
      (drainsFirst i = false → OnlyGang s t g.gid ∧ h = { g with blocked := some b, since := s.clock }) ∧ (drainsFirst i = true → h.pend = [])) ∧
    (∀ k : BitVec 9, Runs s g (.acfree k) m act → (rdK g k.toNat).setWidth 16 = 0#16 → exec (.acfree k) s = .next (drain s g.gid)) ∧
    (∀ (k : BitVec 9) (r : RecRow), Runs s g (.obrel k) m act → recLive s g ((rdK g k.toNat).toNat % 64) = some r → ∃ t : State, exec (.obrel k) s = .next t ∧
      t = { s with recs := t.recs } ∧ recLive t g ((rdK g k.toNat).toNat % 64) = none ∧
      ∀ c i, (c, i) ≠ (r.core, r.idx) → recOf t c i = recOf s c i) ∧
    (∀ (k : BitVec 9) (max : Bool), Runs s g (.twset k max) m act →
      let win := (rdK g k.toNat).toNat % 256
      let p : Pend := { vis := g.tick + 1, act := .write (.csr 0x020) (BitVec.ofNat 32 win) }
      ∃ t : State, exec (.twset k max) s = .next t ∧
        (holdsArray s g = true → arrayOf t g.core = { arrayOf s g.core with core := (arrayOf s g.core).core, max := max, win := win } ∧
          gangOf t g.gid = some { g with pend := g.pend ++ [p] }) ∧
        ((arrayOf s g.core).holder = none → s.gangs.any (twsetWaiting g.core) = false →
          arrayOf t g.core = { core := g.core, holder := some g.gid, max := max, win := win, w := [], out := [], wpsn := [], opsn := [], hnd := g.handler } ∧
          gangOf t g.gid = some { g with pend := g.pend ++ [p] }) ∧
        (holdsArray s g = false → ((arrayOf s g.core).holder ≠ none ∨ s.gangs.any (twsetWaiting g.core) = true) →
          t.arrays = s.arrays ∧ gangOf t g.gid = some { g with blocked := some (.twset win max), since := s.clock })) ∧
    (∀ (k : BitVec 9) (r : RingRow), Runs s g (.rrel k) m act → ringLive s g (rdK g k.toNat) = some r → r.core = g.core →
      r.obj = (rdK g k.toNat).toNat % 32 → ∃ t : State, exec (.rrel k) s = .next t ∧
        Issued (setRing s { r with rpend := r.rpend + 1 }) t g .st (.rrel (rdK g k.toNat)) act [] ∧ ringAt t r.core r.obj = { r with rpend := r.rpend + 1 }) ∧
    (∀ (kh kp : BitVec 9) (pd : BitVec 3), Runs s g (.bwait kh kp pd) m act → ∃ (t : State) (h : Gang), exec (.bwait kh kp pd) s = .next t ∧ gangOf t g.gid = some h ∧
      h.pend = [] ∧
      (∀ b, barNamed s (rdK g kh.toNat) = some b → b.phase = (rdK g kp.toNat).getLsbD 0 →
        h.blocked = some (.bwait (rdK g kh.toNat) pd.toNat act none) ∧ t.l1 = s.l1) ∧
      (∀ b, barNamed s (rdK g kh.toNat) = some b → b.phase ≠ (rdK g kp.toNat).getLsbD 0 →
        h.blocked = g.blocked ∧ (∀ l, l < g.lanes.length → act.getLsbD l = true → predOf h l pd.toNat = true) ∧
        (3 ≤ b.scope → ∀ x ∈ t.l1, x.core ≠ g.core)) ∧
      (barNamed s (rdK g kh.toNat) = none → h.blocked = g.blocked ∧ t.l1 = s.l1 ∧
        (pd ≠ 7#3 → ∀ l, l < g.lanes.length → act.getLsbD l = true → predOf h l pd.toNat = false)))

/-- R338, R340 (17_isa_sync_system), R301 (16_snapshot): SNAP leaves a request with the masthead core; SNAPQ leaves a question, answered by this package
unless .grp names a coordinator elsewhere, or one that is not known yet; then the question waits. The question's body and class are log entry 6 (DESIGN
CHOICE). -/
def Obligations.SnapshotWords : Prop :=
  ∀ (s : State) (g : Gang) (m : ModFields) (act : LaneMask) (kd kq : BitVec 9) (pd : BitVec 3),
    (Runs s g (.snap kd kq pd) m act → let id := rdK g kq.toNat
      let grp := (rdK g (kq.toNat + 1)).toNat % 256
      ∃ t : State, exec (.snap kd kq pd) s = .next t ∧
        Issued { s with snapReqs := s.snapReqs ++ [{ src := .op s.fresh, group := grp, id := id }] } t g .ld (.snap kd.toNat pd.toNat id grp none) act []) ∧
    (∀ grp : Bool, Runs s g (.snapq kd kq pd grp) m act → let c : Colour := if (rdK g kq.toNat).getLsbD 0 then .c1 else .c0
      (grp = false ∨ gangMember s g = false ∨ (colRow s c).ever = false ∨ (ledKnown s c = true ∧ coordinatorOf s c = s.fab.lid)) →
      ∃ t : State, exec (.snapq kd kq pd grp) s = .next t ∧ Issued s t g .ld (.snapq kd.toNat pd.toNat c grp (some (groupState s c))) act []) ∧
    (Runs s g (.snapq kd kq pd true) m act → let c : Colour := if (rdK g kq.toNat).getLsbD 0 then .c1 else .c0
      gangMember s g = true → (colRow s c).ever = true →
      (ledKnown s c = true → coordinatorOf s c ≠ s.fab.lid →
        ∃ (t : State) (o : Op) (p : Packet), exec (.snapq kd kq pd true) s = .next t ∧ t.ops = s.ops ++ [o] ∧ o.id = s.fresh ∧ o.gid = g.gid ∧
          o.kind = .snapq kd.toNat pd.toNat c true none ∧ t.fab.out = s.fab.out ++ [p] ∧ p.dst = coordinatorOf s c ∧ p.cls = 12 ∧
          p.body = .coord 4 c 0 false 0 (BitVec.ofNat 32 s.fresh) ∧ gangOf t g.gid = some { g with cnt := cntAdd g.cnt .ld }) ∧
      (ledKnown s c = false → ∃ t : State, exec (.snapq kd kq pd true) s = .next t ∧ Issued s t g .ld (.snapq kd.toNat pd.toNat c true none) act []))

/-! ## Memory operations performed (the events of 11_isa_memory) -/

/-- R157 (08_isa_control), R42 (02_execution), R172, R176, R189 (09_memories), R216 (11_isa_memory): WAIT_RELEASE and STALL_RELEASE let a gang go on once
its counts hold, and change nothing else; WALK_COMPLETE keeps what the walk found in the core's buffer and its die's, or what the die's buffer already
holds, and frees the die's bundles of the context held for that page alone. That a walk is one event is log entry 60, that a walk to a frame which another context owns
waits for its zeroing log entry 84 (both DEDUCED). -/
def Obligations.WaitsEnd : Prop :=
  (∀ (s : State) (gid : Nat) (g : Gang) (nl ns nc nt : Nat), gangOf s gid = some g → g.blocked = some (.wait nl ns nc nt) →
    g.cnt.ld ≤ nl → g.cnt.st ≤ ns → g.cnt.cp ≤ nc → g.cnt.tl ≤ nt →
    ∃ t : State, exec (.waitRelease gid) s = .next t ∧ OnlyGang s t gid ∧ gangOf t gid = some { g with blocked := none }) ∧
  (∀ (s : State) (gid : Nat) (g : Gang) (nl ns nc nt : Nat), gangOf s gid = some g → g.blocked = some (.full nl ns nc nt) →
    g.cnt.ld + nl ≤ 63 → g.cnt.st + ns ≤ 63 → g.cnt.cp + nc ≤ 63 → g.cnt.tl + nt ≤ 63 →
    ∃ t : State, exec (.stallRelease gid) s = .next t ∧ OnlyGang s t gid ∧ gangOf t gid = some { g with blocked := none }) ∧
  (∀ (s : State) (core ctx page : Nat) (r : CtxRow), ctxRow s ctx = some r →
    let found := walkFrom s (page * 4096) 4 r.root
    let row := fun b : Nat => ({ buf := b, ctx := ctx, page := page, leaf := found.map (fun e => (e.2.1, e.2.2)),
                                 pte := (found.map (fun e => e.1)).getD 0 } : TlbRow)
    let later := fun f : Nat × Nat => framePending s ctx f.1 f.2 = true
    (tlbRow s core ctx page = none → tlbRow s (dieBuf core) ctx page = none → (∀ f, pageFrame s ctx page = some f → ¬later f) →
      ∃ t : State, exec (.walkComplete ctx { core := core, page := page }) s = .next t ∧ t = { s with tlb := t.tlb, ctxs := t.ctxs, gangs := t.gangs, owners := t.owners } ∧
        tlbRow t core ctx page = some (row core) ∧ tlbRow t (dieBuf core) ctx page = some (row (dieBuf core)) ∧
        (∀ b c p, ((c, p) ≠ (ctx, page) ∨ (b ≠ core ∧ b ≠ dieBuf core)) → tlbRow t b c p = tlbRow s b c p) ∧
        ∀ n g, gangOf s n = some g → g.ctx = ctx → g.core / 40 = core / 40 → g.blocked = some (.xlate [page]) →
          gangOf t n = some { g with blocked := none }) ∧
    (∀ x, tlbRow s core ctx page = none → tlbRow s (dieBuf core) ctx page = some x →
      ∃ t : State, exec (.walkComplete ctx { core := core, page := page }) s = .next t ∧ t = { s with tlb := t.tlb, gangs := t.gangs } ∧
        tlbRow t core ctx page = some { x with buf := core } ∧
        ∀ n g, gangOf s n = some g → g.ctx = ctx → g.core / 40 = core / 40 → g.blocked = some (.xlate [page]) →
          gangOf t n = some { g with blocked := none }) ∧
    (∀ f, tlbRow s core ctx page = none → tlbRow s (dieBuf core) ctx page = none → pageFrame s ctx page = some f → later f →
      exec (.walkComplete ctx { core := core, page := page }) s = .next s))

/-- R217, R218 (11_isa_memory), R203 (10_consistency): a load whose pieces have been read writes the words of each active lane's bytes from d on, and
completes. From the scratchpads it reads the bytes as they stand, from local memory at cluster scope or wider the directory's, below it the core's L1 line's. An
acquire at cluster scope or wider leaves its core no L1 line once its lanes have read. No scratchpad byte changes, and without an acquire no byte of memory.
R202 (10_consistency), R342, R348 (18_fabric_collectives): another package's memory is read in L2 where it holds the line and the scope allows it, else asked of
its home; an aperture is asked of its group's home, and the load waits for the answer. -/
def Obligations.LoadsComplete : Prop :=
  ∀ (s : State) (o : Op) (g : Gang) (d width n scope : Nat) (ord : Order) (rem : Bool),
    Clear s o → gangOf s o.gid = some g → RegsApart s g → o.kind = .load d width n scope ord rem →
    (let delivers := fun (bytes : Nat → List Byte) (t : State) =>
      exec (.loadComplete o.id []) s = .next t ∧ Completed s t o ∧ (isAcq ord = false → t.mem = s.mem) ∧ t.scr = s.scr ∧ t.dsc = s.dsc ∧
      (∀ l, o.lanes.getLsbD l = true → ∀ j, j < (loadWords width (bytes l)).length → (vKey g l (d + j)).isSome = true →
        rdV t g l (d + j) = (loadWords width (bytes l)).getD j 0) ∧
      (∀ k, (∀ l j, o.lanes.getLsbD l = true → j < (loadWords width (bytes l)).length → vKey g l (d + j) ≠ some k) →
        Sparse.get 0#32 t.vrf k = Sparse.get 0#32 s.vrf k)
     let acquires := fun (t : State) => isAcq ord = true → 3 ≤ scope → ∀ x ∈ t.l1, x.core ≠ o.core
     ((∀ p ∈ o.pieces, p.st = .done) → ∃ t : State, delivers (loadedBytes o) t) ∧
     (∀ b blk len off data, rem = false → blockOf s b = some blk → o.lanes ≠ 0 → o.pieces = scratchPieces o.lanes b len off data →
       ∃ t : State, delivers (fun l => (List.range len).map (fun i => scrByte s blk (off l + i))) t ∧ acquires t) ∧
     (∀ l pa va len data psn, rem = false → l < 64 → 3 ≤ scope → pa % 128 + len ≤ 128 → homeFree s (pa / 128) false = true →
       l1Line s o.core false (pa / 128) = none →
       o.pieces = [{ lane := l, off := 0, place := .mem pa va, len := len, st := .todo, data := data, psn := psn }] →
       ∃ t : State, delivers (fun j => if j = l then dirBytes s pa len else []) t ∧ acquires t) ∧
     (∀ (l len : Nat) (pl : Place) (data : List Byte) (psn : List Nat), rem = false → l < 64 →
       o.pieces = [{ lane := l, off := 0, place := pl, len := len, st := .todo, data := data, psn := psn }] →
       (let one := fun (bytes : List Byte) => ∃ t : State, delivers (fun j => if j = l then bytes else []) t
        let asks := fun (dst : Nat) (cls : BitVec 4) (addr : Nat) (body : PktBody) => ∃ (t : State) (q : Packet), exec (.loadComplete o.id []) s = .next t ∧
          t.fab.out = s.fab.out ++ [q] ∧ q.dst = dst ∧ q.cls = cls ∧ q.addr = addr ∧ q.body = body ∧ t.vrf = s.vrf ∧ t.mem = s.mem ∧ t.scr = s.scr ∧
          opOf t o.id = some { o with pieces := [{ lane := l, off := 0, place := pl, len := len, st := .sent, data := data, psn := psn }] }
        (∀ c d off, pl = .die c d off → one ((List.range len).map (fun i => dieByte s c d (off + i)))) ∧
        (∀ pa va, pl = .mem pa va → scope < 3 → pa % 128 + len ≤ 128 → homeFree s (pa / 128) false = true →
          one (match l1Line s o.core false (pa / 128) with
            | some r => slice r.data (pa % 128) len
            | none => dirBytes s pa len)) ∧
        (∀ ga va, pl = .peer ga va → ga % 128 + len ≤ 128 → homeBusy s o.id (ga / 128) = false →
          (∀ r, scope < 3 → l1Line s o.core true (ga / 128) = some r → one (slice r.data (ga % 128) len)) ∧
          (∀ r, 3 ≤ scope → l1Line s o.core true (ga / 128) = none → l2Line s true (ga / 128) = some r → r.filled = true →
            (r.owned = true ∨ scope < 6) → one (slice r.data (ga % 128) len)) ∧
          (l1Line s o.core true (ga / 128) = none → l2Line s true (ga / 128) = none → s.fab.member = true →
            (∀ e ∈ s.fab.reads, e.1 ≠ ga / 128) → asks (ga / 128 * 128 / 2 ^ 45) 0 (ga / 128 * 128) (.req (tagOf o.id 0) false o.core))) ∧
        (∀ grp off va d, pl = .mcast grp off va → groupDesc s grp = some d → s.fab.member = true →
          asks ((d.members.map (·.1)).headD 0) 9 (grp * 2 ^ 32 + off) (.mload (tagOf o.id 0) len (isAcq ord))))))

/-- R219 (11_isa_memory), R202 (10_consistency): a store to a scratchpad writes exactly its bytes; a store to local memory at cluster scope or wider is
performed in L2, where the directory then gives exactly its bytes, and memory proper stands; below that it is performed in the core's L1, whose line is
Dirty there, and the directory gives what it gave; no register changes. R202, R207 (10_consistency), R342, R347 (18_fabric_collectives): a store to another package's
memory is performed in L2 at die scope or where this package owns the line, else sent to its home with its bytes; one to an aperture is sent to the group's
home; both wait for the answer. R185 (09_memories), R201 (10_consistency): a release leaves its core no Dirty L1 line below its scope before it is performed, and
at pod scope or wider waits while posted bytes have not reached their homes (those of other threads of the context: log entry 88). -/
def Obligations.StoresPerform : Prop :=
  (∀ (s : State) (o : Op) (scope : Nat) (ord : Order) (p : Piece), Clear s o → (o.kind = .store scope ord ∧ isRel ord = false ∨ o.kind = .zfill scope) →
    o.pieces = [p] → p.st = .todo → p.len = p.data.length → 0 < p.len →
    (∀ b off blk bank, p.place = .scr b off → blockOf s b = some blk → InBank blk off p.len bank → Memory.wf s.scr = true →
      ∃ t : State, exec (.storePerformed o.id []) s = .next t ∧ Completed s t o ∧ BytesPut s.scr t.scr (scrKey blk.core bank (off % 4096)) p.data ∧
        t.mem = s.mem ∧ t.dsc = s.dsc ∧ t.vrf = s.vrf ∧ t.l1 = s.l1 ∧ t.l2 = s.l2) ∧
    (∀ pa va, p.place = .mem pa va → 3 ≤ scope → scope < 8 → pa % 128 + p.len ≤ 128 → homeFree s (pa / 128) true = true →
      l1Line s o.core false (pa / 128) = none → s.zmaps = [] → s.ptags = [] →
      ∃ t : State, exec (.storePerformed o.id []) s = .next t ∧ Completed s t o ∧
        (∀ a, dirByte t a = if pa ≤ a ∧ a < pa + p.len then p.data.getD (a - pa) 0 else dirByte s a) ∧
        t.mem = s.mem ∧ t.scr = s.scr ∧ t.dsc = s.dsc ∧ t.vrf = s.vrf) ∧
    (let inside := fun k i => k ≤ i ∧ i < k + p.len
     let kept := fun t : State => t.mem = s.mem ∧ t.scr = s.scr ∧ t.vrf = s.vrf
     let sends := fun (dst : Nat) (cls : BitVec 4) (addr k : Nat) => ∃ (t : State) (q : Packet) (psn : List Nat) (mask : BitVec 128) (bytes : List Byte),
       exec (.storePerformed o.id []) s = .next t ∧ kept t ∧ t.dsc = s.dsc ∧ opOf t o.id = some { o with pieces := [{ p with st := .sent, psn := psn }] } ∧
       t.fab.out = s.fab.out ++ [q] ∧ q.dst = dst ∧ q.cls = cls ∧ q.addr = addr ∧ q.body = .data (tagOf o.id 0) mask bytes 0 ∧
       ∀ i, i < 128 → mask.getLsbD i = decide (inside k i) ∧ (inside k i → bytes.getD i 0 = p.data.getD (i - k) 0)
     (∀ c d off rg, p.place = .die c d off → (windowOf s c d)[off / 4096]? = some rg → off % 4096 + p.len ≤ 4096 → Memory.wf s.dsc = true →
       ∃ t : State, exec (.storePerformed o.id []) s = .next t ∧ Completed s t o ∧ kept t ∧ BytesPut s.dsc t.dsc (dscKey d rg (off % 4096)) p.data) ∧
     (∀ pa va, p.place = .mem pa va → scope < 3 → pa % 128 + p.len ≤ 128 → homeFree s (pa / 128) true = true →
       ∃ (t : State) (r : L1Line), exec (.storePerformed o.id []) s = .next t ∧ Completed s t o ∧ kept t ∧ (∀ a, dirByte t a = dirByte s a) ∧
         l1Line t o.core false (pa / 128) = some r ∧ ∀ i, i < 128 →
           (r.data.getD i 0 = if inside (pa % 128) i then p.data.getD (i - pa % 128) 0 else
             (match l1Line s o.core false (pa / 128) with
              | some x => x.data.getD i 0
              | none => dirByte s (pa / 128 * 128 + i))) ∧
           (r.dirty.getLsbD i = true ↔ inside (pa % 128) i ∨ ∃ x, l1Line s o.core false (pa / 128) = some x ∧ x.dirty.getLsbD i = true)) ∧
     (∀ ga va, p.place = .peer ga va → 3 ≤ scope → scope < 8 → ga % 128 + p.len ≤ 128 → homeBusy s o.id (ga / 128) = false →
       l1Line s o.core true (ga / 128) = none → o.pre0 = false → o.pre1 = false →
       ((scope < 6 ∨ ∃ x, l2Line s true (ga / 128) = some x ∧ x.owned = true) →
         ∃ (t : State) (r : L2Line), exec (.storePerformed o.id []) s = .next t ∧ Completed s t o ∧ kept t ∧ l2Line t true (ga / 128) = some r ∧
           ∀ i, i < 128 → (r.data.getD i 0 = if inside (ga % 128) i then p.data.getD (i - ga % 128) 0 else
             (match l2Line s true (ga / 128) with
              | some x => x.data.getD i 0
              | none => 0)) ∧
             (r.dirty.getLsbD i = true ↔ inside (ga % 128) i ∨ ∃ x, l2Line s true (ga / 128) = some x ∧ x.dirty.getLsbD i = true)) ∧
       (6 ≤ scope → l2Line s true (ga / 128) = none → s.fab.member = true → sends (ga / 2 ^ 45) 4 ga (ga % 128))) ∧
     (∀ grp off va d, p.place = .mcast grp off va → off % 128 + p.len ≤ 128 → groupDesc s grp = some d → s.fab.member = true →
       sends ((d.members.map (·.1)).headD 0) 8 (grp * 2 ^ 32 + off) (off % 128)))) ∧
  (∀ (s : State) (o : Op) (scope : Nat) (ord : Order) (p : Piece), Clear s o → o.kind = .store scope ord → isRel ord = true → o.pieces = [p] →
    p.st = .todo → p.len = p.data.length → 0 < p.len → scope < 8 →
    (∀ b off blk bank, p.place = .scr b off → blockOf s b = some blk → InBank blk off p.len bank → Memory.wf s.scr = true → scope < 6 →
      ∃ t : State, exec (.storePerformed o.id []) s = .next t ∧ Completed s t o ∧ BytesPut s.scr t.scr (scrKey blk.core bank (off % 4096)) p.data ∧ t.vrf = s.vrf ∧
        ∀ x ∈ t.l1, x.core = o.core → x.dirty ≠ 0 → scope < 3 ∧ scope ≤ x.tag) ∧
    (∀ pa va, p.place = .mem pa va → 3 ≤ scope → pa % 128 + p.len ≤ 128 → homeFree s (pa / 128) true = true → s.zmaps = [] → s.ptags = [] →
      (∀ x ∈ s.l1, x.core ≠ o.core) →
      ((scope < 6 ∨ (unownedPeers s o.gid p.lane = [] ∧ othersPosted s o.ctx = false)) →
        ∃ t : State, exec (.storePerformed o.id []) s = .next t ∧ Completed s t o ∧ t.mem = s.mem ∧ t.vrf = s.vrf ∧
          ∀ a, dirByte t a = if pa ≤ a ∧ a < pa + p.len then p.data.getD (a - pa) 0 else dirByte s a) ∧
      (6 ≤ scope → (unownedPeers s o.gid p.lane ≠ [] ∨ othersPosted s o.ctx = true) → exec (.storePerformed o.id []) s = .next s)))

/-- R222 (11_isa_memory), R210, R211 (10_consistency), R66 (03_numbers): the new value of each atomic operation; an address group on the scratchpad, or in
local memory at cluster scope or wider, where the directory gives its value, is one read-modify-write whose lanes follow each other in ascending order,
each receiving the value it found; one of pod or system scope on another package's memory goes to its home with its operands, R342 (18_fabric_collectives). -/
def Obligations.AtomicsPerform : Prop :=
  (∀ (v : Word) (o : Word × Word), atomNew32 0 v o = v + o.1 ∧ (atomNew32 1 v o).toInt = min v.toInt o.1.toInt ∧
    (atomNew32 2 v o).toNat = min v.toNat o.1.toNat ∧ (atomNew32 3 v o).toInt = max v.toInt o.1.toInt ∧ (atomNew32 4 v o).toNat = max v.toNat o.1.toNat ∧
    atomNew32 5 v o = v &&& o.1 ∧ atomNew32 6 v o = v ||| o.1 ∧ atomNew32 7 v o = v ^^^ o.1 ∧ atomNew32 8 v o = o.1 ∧
    (v = o.1 → atomNew32 9 v o = o.2) ∧ (v ≠ o.1 → atomNew32 9 v o = v) ∧
    atomNew32 10 v o = BitVec.ofNat 32 (roundVal fmtF32 0 (addVal 0 (fval fmtF32 v.toNat) (fval fmtF32 o.1.toNat))).bits ∧
    atomNew32 11 v o = BitVec.ofNat 32 (minNum fmtF32 v.toNat o.1.toNat) ∧ atomNew32 12 v o = BitVec.ofNat 32 (maxNum fmtF32 v.toNat o.1.toNat)) ∧
  (∀ (aop : Nat) (v : BitVec 64) (o : BitVec 64 × BitVec 64), atomNew aop false v o = (atomNew32 aop (lo32 v) (lo32 o.1, lo32 o.2)).setWidth 64 ∧
    atomNew 0 true v o = v + o.1 ∧ (atomNew 1 true v o).toInt = min v.toInt o.1.toInt ∧ (atomNew 4 true v o).toNat = max v.toNat o.1.toNat ∧
    (v = o.1 → atomNew 9 true v o = o.2) ∧ (v ≠ o.1 → atomNew 9 true v o = v)) ∧
  (∀ (s : State) (o : Op) (g : Gang) (aop scope d : Nat) (wide rem ret : Bool) (x : AtomGroup) (b off bank : Nat) (blk : Block),
    let n := if wide then 8 else 4
    let v := BitVec.ofNat 64 (leNat ((List.range n).map (fun i => scrByte s blk (off + i))))
    let step := fun (u : BitVec 64) (e : BitVec 64 × BitVec 64) => atomNew aop wide u e
    Clear s o → gangOf s o.gid = some g → RegsApart s g → o.kind = .atom aop wide scope .relaxed rem ret d [x] → x.place = .scr b off → x.st = .todo →
    blockOf s b = some blk → InBank blk off n bank → Memory.wf s.scr = true → x.opnds.length = x.lanes.length → x.lanes.Nodup → (∀ p ∈ o.pieces, p.st = .done) →
    ∃ t : State, exec (.atomComplete o.id []) s = .next t ∧ Completed s t o ∧ t.mem = s.mem ∧ t.dsc = s.dsc ∧
      BytesPut s.scr t.scr (scrKey blk.core bank (off % 4096)) (leBytes (x.opnds.foldl step v).toNat n) ∧
      (ret = false → t.vrf = s.vrf) ∧
      (ret = true → ∀ i l, x.lanes[i]? = some l → (vKey g l d).isSome = true →
        rdV t g l d = lo32 ((x.opnds.take i).foldl step v) ∧
        (wide = true → (vKey g l (d + 1)).isSome = true → rdV t g l (d + 1) = hi32 ((x.opnds.take i).foldl step v)))) ∧
  (∀ (s : State) (o : Op) (g : Gang) (aop scope d : Nat) (wide rem ret : Bool) (x : AtomGroup),
    let n := if wide then 8 else 4
    Clear s o → gangOf s o.gid = some g → RegsApart s g → o.kind = .atom aop wide scope .relaxed rem ret d [x] → x.st = .todo → rem = false → 3 ≤ scope →
    x.opnds.length = x.lanes.length → x.lanes.Nodup → (∀ p ∈ o.pieces, p.st = .done) →
    (∀ pa va, x.place = .mem pa va → pa % 128 + n ≤ 128 → homeFree s (pa / 128) true = true → l1Line s o.core false (pa / 128) = none →
      s.zmaps = [] → s.ptags = [] →
      let v := BitVec.ofNat 64 (leNat (dirBytes s pa n))
      let step := fun (u : BitVec 64) (e : BitVec 64 × BitVec 64) => atomNew aop wide u e
      ∃ t : State, exec (.atomComplete o.id []) s = .next t ∧ Completed s t o ∧ t.mem = s.mem ∧ t.scr = s.scr ∧ t.dsc = s.dsc ∧
        (∀ a, dirByte t a = if pa ≤ a ∧ a < pa + n then (leBytes (x.opnds.foldl step v).toNat n).getD (a - pa) 0 else dirByte s a) ∧
        (ret = true → ∀ i l, x.lanes[i]? = some l → (vKey g l d).isSome = true → rdV t g l d = lo32 ((x.opnds.take i).foldl step v))) ∧
    (∀ ga va, x.place = .peer ga va → 6 ≤ scope → aop < 13 → s.fab.member = true → l2Line s true (ga / 128) = none → l1Line s o.core true (ga / 128) = none →
      homeBusy s o.id (ga / 128) = false → x.opnds ≠ [] → x.opnds.length * opndBytes aop wide ≤ 128 →
      ∃ (t : State) (q : Packet) (z : AtomGroup), exec (.atomComplete o.id []) s = .next t ∧ t.fab.out = s.fab.out ++ [q] ∧ q.dst = ga / 2 ^ 45 ∧ q.cls = 7 ∧ q.addr = ga ∧
        q.body = .atomic (tagOf o.id 0) (BitVec.ofNat 4 aop) wide 0 x.opnds.length x.opnds ∧ t.vrf = s.vrf ∧ t.mem = s.mem ∧
        opOf t o.id = some { o with kind := .atom aop wide scope .relaxed rem ret d [z] } ∧ z.st = .sent ∧ z.lanes = x.lanes ∧ z.opnds = x.opnds))

/-- R224, R225 (11_isa_memory), R203, R185 (10_consistency, 09_memories): a FENCE with nothing before it and nothing Dirty completes: its predicate is true in
its active lanes, a system FENCE leaves FENSTAT 0, and at cluster scope or wider the core keeps no L1 line. A Dirty L1 line below its scope reaches L2:
the directory then gives its bytes. R196 (10_consistency): a FENCE at pod scope or wider waits for posted bytes of its lanes and, the model's reading (log entry 88), of every
thread of the context. -/
def Obligations.FencesComplete : Prop :=
  ∀ (s : State) (o : Op) (scope pd : Nat), Clear s o → o.kind = .fence scope pd [] → scope < 8 →
    (∀ g, gangOf s o.gid = some g → pd < 8 → (∀ r ∈ s.l1, r.core = o.core → r.dirty = 0) → (∀ l, unownedPeers s o.gid l = []) →
      othersPosted s o.ctx = false →
      ∃ (t : State) (h : Gang), exec (.fenceComplete o.id) s = .next t ∧ Completed s t o ∧ t.mem = s.mem ∧ t.l2 = s.l2 ∧ t.scr = s.scr ∧ t.vrf = s.vrf ∧ gangOf t o.gid = some h ∧
        (∀ l, l < g.lanes.length → o.lanes.getLsbD l = true → predOf h l pd = true) ∧
        (∀ l p, (o.lanes.getLsbD l = false ∨ p ≠ pd) → predOf h l p = predOf g l p) ∧
        h.csr = (if scope = 7 then { g.csr with fenstat := 0 } else g.csr) ∧
        t.l1 = if 3 ≤ scope then s.l1.filter (fun r => r.core != o.core) else s.l1) ∧
    (∀ r : L1Line, s.l1 = [r] → r.core = o.core → r.peer = false → r.cap0 = false → r.cap1 = false → 0 < scope → scope < 6 →
      (3 ≤ scope ∨ r.tag < scope) → s.zmaps = [] → s.ptags = [] →
      ∃ t : State, exec (.fenceComplete o.id) s = .next t ∧ Completed s t o ∧ t.mem = s.mem ∧
        (∀ i, i < 128 → dirByte t (128 * r.line + i) = if r.dirty.getLsbD i then r.data.getD i 0 else dirByte s (128 * r.line + i)) ∧
        ∀ a, a / 128 ≠ r.line → dirByte t a = dirByte s a) ∧
    (6 ≤ scope → (∀ r ∈ s.l1, r.core = o.core → r.dirty = 0) →
      ((∃ l, o.lanes.getLsbD l = true ∧ unownedPeers s o.gid l ≠ []) ∨ othersPosted s o.ctx = true) → exec (.fenceComplete o.id) s = .next s)

/-- R226 (11_isa_memory): CLINE.mem carries the directory's bytes to memory, CLINE.wbi drops the core's copy; neither changes a byte that the directory
gives. R228 (11_isa_memory), R206 (10_consistency): a CPY of one lane between scratchpads copies the source's bytes as they stood, whatever overlaps, and changes
no other byte. R205 (10_consistency), ENGINE_RECALL: an access that an engine delayed is then performed as it would have been. -/
def Obligations.LineAndCopyOperations : Prop :=
  (∀ (s : State) (o : Op) (which line va : Nat) (p : Piece), Clear s o → o.kind = .cline which → o.pieces = [p] → p.place = .mem (128 * line) va →
    p.len = 128 → p.st = .todo → which < 3 → s.zmaps = [] → (∀ r, l1Line s o.core false line = some r → r.dirty = 0) →
    ∃ t : State, exec (.clineComplete o.id) s = .next t ∧ Completed s t o ∧ (∀ a, dirByte t a = dirByte s a) ∧ t.scr = s.scr ∧ t.vrf = s.vrf ∧
      (which = 1 → l1Line t o.core false line = none) ∧ (which ≠ 2 → t.mem = s.mem ∧ t.l2 = s.l2) ∧
      (which = 2 → Memory.wf s.mem = true → ∀ r, l2Line s false line = some r → r.dirty ≠ 0 → r.data.length = 128 →
        ∀ i, i < 128 → Memory.byte t.mem (128 * line + i) = dirByte s (128 * line + i))) ∧
  (∀ (s : State) (o : Op) (c : CpyLane) (n b so b2 dof bank : Nat) (x y : Block), Clear s o → o.kind = .cpy n 0 none false [c] → c.src = .scr b so →
    c.dst = .scr b2 dof → blockOf s b = some x → blockOf s b2 = some y → InBank y dof n bank → 0 < n → s.tags = [] → Memory.wf s.scr = true →
    ∃ t : State, exec (.cpyComplete o.id) s = .next t ∧ Completed s t o ∧ t.mem = s.mem ∧ t.vrf = s.vrf ∧ t.dsc = s.dsc ∧
      BytesPut s.scr t.scr (scrKey y.core bank (dof % 4096)) ((List.range n).map (fun i => scrByte s x (so + i)))) ∧
  (∀ (s : State) (o : Op) (ps : List Nat), opOf s o.id = some o →
    ((∃ d w n sc ord rem, o.kind = .load d w n sc ord rem) → ∃ t : State, exec (.loadComplete o.id ps) s = .next t ∧ exec (.engineRecall o.id ps) s = .next t) ∧
    ((∃ sc ord, o.kind = .store sc ord ∨ o.kind = .zfill sc) → ∃ t : State, exec (.storePerformed o.id ps) s = .next t ∧ exec (.engineRecall o.id ps) s = .next t) ∧
    ((∃ a w sc ord rem ret d gs, o.kind = .atom a w sc ord rem ret d gs) →
      ∃ t : State, exec (.atomComplete o.id ps) s = .next t ∧ exec (.engineRecall o.id ps) s = .next t))

/-- R208 (10_consistency), R225 (11_isa_memory): LOST_PEER_BOUND completes what waits only for lost packages. A system FENCE: its predicate is false in the
lanes whose stores they have not taken, and FENSTAT names the least of them. A load or an atomic: zeros in its registers, for the poisoned data that the
rule gives. A store: its registers stand, and a later FENCE of the lane finds the package. A ZFILL and a CLINE: nothing more is awaited. That a later FENCE finds the
package by the bytes it posted, and for an aperture's members in a list, is log entry 35 (DEDUCED). -/
def Obligations.LostPeersAreReported : Prop :=
  (∀ (s : State) (o : Op) (g : Gang) (pd : Nat), Clear s o → gangOf s o.gid = some g → o.kind = .fence 7 pd [] → pd < 8 → s.l1 = [] →
    (∀ r ∈ s.l2, r.line * 128 / 2 ^ 45 < 2048) → (∀ e ∈ s.fab.mlost, e.2.2 < 2048) → othersPosted s o.ctx = false → (∀ l, ∀ p ∈ unownedPeers s o.gid l, lostPkg s p = true) →
    ∃ (t : State) (h : Gang), exec (.lostPeerBound o.id) s = .next t ∧ Completed s t o ∧ gangOf t o.gid = some h ∧
      (pd < 7 → ∀ l, l < g.lanes.length → o.lanes.getLsbD l = true → predOf h l pd = (unownedPeers s o.gid l).isEmpty) ∧
      ((∀ l, o.lanes.getLsbD l = true → unownedPeers s o.gid l = []) → h.csr.fenstat = 0) ∧
      (∀ l p, o.lanes.getLsbD l = true → p ∈ unownedPeers s o.gid l →
        (∀ j q, o.lanes.getLsbD j = true → q ∈ unownedPeers s o.gid j → p ≤ q) → h.csr.fenstat = BitVec.ofNat 32 (65536 * p + 1))) ∧
  (∀ (s : State) (o : Op) (g : Gang) (d width n scope len : Nat) (ga va : Nat → Nat), Clear s o → gangOf s o.gid = some g → RegsApart s g →
    o.kind = .load d width n scope .relaxed false → (∀ l, lostPkg s (ga l / 2 ^ 45) = true) →
    o.pieces = (lanesOf o.lanes).map (fun l => { lane := l, off := 0, place := .peer (ga l) (va l), len := len, st := .sent, data := [], psn := [] }) →
    ∃ t : State, exec (.lostPeerBound o.id) s = .next t ∧ Completed s t o ∧ ∀ l, o.lanes.getLsbD l = true →
      ∀ j, j < (loadWords width (List.replicate len 0)).length → (vKey g l (d + j)).isSome = true → rdV t g l (d + j) = 0) ∧
  (∀ (s : State) (o : Op) (g : Gang) (aop scope d : Nat) (wide rem : Bool) (x : AtomGroup) (ga va : Nat), Clear s o → gangOf s o.gid = some g →
    RegsApart s g → o.kind = .atom aop wide scope .relaxed rem true d [x] → x.place = .peer ga va → x.st ≠ .done → lostPkg s (ga / 2 ^ 45) = true →
    ∃ t : State, exec (.lostPeerBound o.id) s = .next t ∧ Completed s t o ∧ ∀ l ∈ x.lanes, (vKey g l d).isSome = true → rdV t g l d = 0) ∧
  (∀ (s : State) (o : Op) (p : Piece) (scope ga va : Nat), Clear s o → o.kind = .store scope .relaxed → o.pieces = [p] → p.place = .peer ga va →
    p.st ≠ .done → 0 < p.data.length → ga % 128 + p.data.length ≤ 128 → lostPkg s (ga / 2 ^ 45) = true →
    (∀ r, l2Line s true (ga / 128) = some r → r.owned = false) →
    ∃ t : State, exec (.lostPeerBound o.id) s = .next t ∧ Completed s t o ∧ t.vrf = s.vrf ∧ t.mem = s.mem ∧ ga / 2 ^ 45 ∈ unownedPeers t o.gid p.lane) ∧
  (∀ (s : State) (o : Op), Clear s o → ((∃ scope, o.kind = .zfill scope) ∨ ∃ which, o.kind = .cline which) →
    (∀ p ∈ o.pieces, p.st = .done ∨ ∃ ga va, p.place = .peer ga va ∧ lostPkg s (ga / 2 ^ 45) = true) →
    ∃ t : State, exec (.lostPeerBound o.id) s = .next t ∧ Completed s t o ∧ t.vrf = s.vrf ∧ t.mem = s.mem ∧ t.scr = s.scr)

/-! ## Tile and temporal operations performed (the events of 12_isa_tiles) -/

/-- R61, R62 (03_numbers): a K-block of 8-bit integers adds the exact products to the accumulator and saturates once; in a K-block of floats a NaN operand
gives the canonical NaN without NV, a product of zero and infinity and infinities of both signs NV, infinities of one sign that infinity, an all-zero sum +0,
and finite terms the sum of their parts above the window of 2^(emax - 90), rounded once. R59, R63 (03_numbers): the LNS6 product on the logs, NaR and zero in it; a K-block
of such products, a NaR or NaN accumulator with NV, an infinite accumulator unchanged, else the exact sum rounded once; that NaR and NaN come before an
infinite accumulator is the model's reading (log entry 19). R67 (03_numbers): the temporal sum, 255 for a code or a sum beyond the window. -/
def Obligations.MatrixAndTemporalArithmetic : Prop :=
  (∀ (sa sb : Bool) (acc : Nat) (as bs : List Nat), acc < 2 ^ 32 →
    let rd := fun (sg : Bool) (x : Nat) => if sg then (BitVec.ofNat 8 x).toInt else ((x % 256 : Nat) : Int)
    let y := (BitVec.ofNat 32 acc).toInt + ((as.zip bs).map (fun e => rd sa e.1 * rd sb e.2)).sum
    kblockInt sa sb acc as bs = { bits := ((max (-2 ^ 31) (min y (2 ^ 31 - 1))) % 2 ^ 32).toNat,
                                  flags := if -2 ^ 31 ≤ y ∧ y ≤ 2 ^ 31 - 1 then 0 else flSAT }) ∧
  (∀ (f : Fmt) (acc : Nat) (as bs : List Nat), f = fmtF16 ∨ f = fmtBf16 → acc < 2 ^ 32 → as.length = bs.length → (∀ x ∈ as ++ bs, x < 2 ^ 16) →
    ((isNaN fmtF32 acc = true ∨ (∃ x ∈ as ++ bs, isNaN f x = true)) → kblockFloat f acc as bs = { bits := 0x7FC00000, flags := 0 }) ∧
    ((∀ x ∈ as, magOf f x = 0) → (∀ x ∈ bs, magOf f x ≠ fmtInf f ∧ isNaN f x = false) → magOf fmtF32 acc = 0 →
      kblockFloat f acc as bs = { bits := 0, flags := 0 }) ∧
    (isNaN fmtF32 acc = false → (∀ x ∈ as ++ bs, isNaN f x = false) →
      let zeroInf := ∃ e ∈ as.zip bs, (magOf f e.1 = 0 ∧ magOf f e.2 = fmtInf f) ∨ (magOf f e.1 = fmtInf f ∧ magOf f e.2 = 0)
      ((zeroInf ∨ (InfTerm f false acc as bs ∧ InfTerm f true acc as bs)) → kblockFloat f acc as bs = { bits := 0x7FC00000, flags := flNV }) ∧
      (¬zeroInf → InfTerm f false acc as bs → ¬InfTerm f true acc as bs → kblockFloat f acc as bs = { bits := 0x7F800000, flags := 0 }) ∧
      (¬zeroInf → InfTerm f true acc as bs → ¬InfTerm f false acc as bs → kblockFloat f acc as bs = { bits := 0xFF800000, flags := 0 }) ∧
      (magOf fmtF32 acc < fmtInf fmtF32 → (∀ x ∈ as ++ bs, magOf f x < fmtInf f) → ∀ emax : Int,
        (∃ y ∈ blockTerms f acc as bs, (2 : ℚ) ^ emax ≤ |y|) → (∀ y ∈ blockTerms f acc as bs, |y| < (2 : ℚ) ^ (emax + 1)) →
        SumRounds ((blockTerms f acc as bs).map (fun y => (⌊y / (2 : ℚ) ^ (emax - 90)⌋ : ℚ) * (2 : ℚ) ^ (emax - 90))).sum (kblockFloat f acc as bs)))) ∧
  (∀ (a b : Nat) (ea eb : Int), a < 64 → b < 64 →
    ((a = 0x30 ∨ b = 0x30) → lnsProduct a ea b eb = .nan true) ∧
    (a ≠ 0x30 → b ≠ 0x30 → (a = 0x10 ∨ b = 0x10) → lnsProduct a ea b eb = .num 0 0 false) ∧
    (a ≠ 0x30 → b ≠ 0x30 → a ≠ 0x10 → b ≠ 0x10 → ∃ m e : Int, lnsProduct a ea b eb = .num m e (a / 32 != b / 32) ∧
      dyadic m e = (if a / 32 = b / 32 then 1 else -1) * logMag ((BitVec.ofNat 5 a).toInt + (BitVec.ofNat 5 b).toInt) (ea + eb))) ∧
  (∀ (acc : Nat) (ps : List FVal) (ds : List (Int × Int × Bool)), acc < 2 ^ 32 →
    ((isNaN fmtF32 acc = true ∨ FVal.nan true ∈ ps) → kblockLns acc ps = { bits := 0x7FC00000, flags := flNV }) ∧
    (magOf fmtF32 acc = fmtInf fmtF32 → kblockLns acc (ds.map (fun d => .num d.1 d.2.1 d.2.2)) = { bits := acc, flags := 0 }) ∧
    (magOf fmtF32 acc < fmtInf fmtF32 →
      SumRounds (patVal fmtF32 acc + (ds.map (fun d => dyadic d.1 d.2.1)).sum) (kblockLns acc (ds.map (fun d => .num d.1 d.2.1 d.2.2))))) ∧
  (∀ a b twin : Nat, (a = 255 ∨ b = 255 ∨ twin < a + b → tickAdd a b twin = 255) ∧
    (a ≠ 255 → b ≠ 255 → a + b ≤ twin → tickAdd a b twin = a + b))

/-- R235, R236 (12_isa_tiles), R288 (15_tables_counters): OBRES_GRANT gives the first waiting gang a free record and free units, all zero, and the
record's number as handle; OBREL_FREE returns a dead record that no operation names, and only that. That the lowest free ones are taken, and that each buffer's
requests are in an order of their own, is log entry 31 (DEDUCED). -/
def Obligations.ReservationsComeAndGo : Prop :=
  (∀ (s : State) (g : Gang) (kd idx : Nat) (q0 q1 : Word) (wb : Bool), gangOf s g.gid = some g → g.blocked = some (.obres kd q0 q1 wb) →
    firstWaiting s g.gid (obresWaiting g.core wb) = true → q0.toNat % 512 ≤ (freeUnits s g.core wb).length → freeRec s g.core = some idx →
    ∃ t r, exec (.obresGrant g.gid) s = .next t ∧ t.recs = s.recs ++ [r] ∧ r.core = g.core ∧ r.idx = idx ∧ r.st = .live ∧ r.wb = wb ∧ r.gid = g.gid ∧
      r.blk = g.blk ∧ r.units = (freeUnits s g.core wb).take (q0.toNat % 512) ∧ r.fmt = q0.toNat / 512 % 8 ∧ r.blen = q0.toNat / 4096 % 4 ∧
      r.scale = q1.toNat % 2 ^ 18 ∧ r.bound = q1.toNat / 2 ^ 18 % 16 ∧
      (∀ u ∈ r.units, ∀ o, o < 1024 → Memory.byte (if wb then t.wbuf else t.obuf) (bufKey g.core u o) = 0) ∧
      gangOf t g.gid = some (wrK { g with blocked := none } kd (BitVec.ofNat 32 idx)) ∧ t.mem = s.mem ∧ t.scr = s.scr ∧ t.vrf = s.vrf ∧ t.acc = s.acc) ∧
  (∀ (s : State) (r : RecRow), recOf s r.core r.idx = some r → r.st = .dead → inFlight s r.core r.idx = 0 →
    ∃ t : State, exec (.obrelFree r.core r.idx) s = .next t ∧ t = { s with recs := t.recs } ∧ recOf t r.core r.idx = none ∧
      ∀ c i, (c, i) ≠ (r.core, r.idx) → recOf t c i = recOf s c i)

/-- R237 to R239 (12_isa_tiles): OBLD puts its bytes at its offset of the record, registers word by word in element order, with .cvt each as CVT to the record's
format converts it, R55, R60 (03_numbers), to nearest even, its flags set; WBLD puts the stream, its header as it was read at issue, in the weight buffer and,
where it is malformed, notes its first malformed byte and leaves a WEIGHT fault pending, which the gang's next selection takes. A stream is well formed exactly
where its header, its scales and its groups are as R238 and R239 have them; which byte a malformed item is reported at is log entry 22 (DEDUCED). A group's
elements stand at its set mask bits, zeros elsewhere, and everywhere in a group that does not end before the malformed byte. -/
def Obligations.BufferLoadsComplete : Prop :=
  (∀ (s : State) (o : Op) (r : RecRow) (h off : Nat) (bytes : List Byte), Clear s o → tileTurn s o = true → engineReady s o false = true →
    recOf s o.core h = some r → r.wb = false → r.units.Nodup → off + bytes.length ≤ 1024 * r.units.length → Memory.wf s.obuf = true →
    (o.kind = .obldFwd h off bytes ∨ (o.kind = .obldMem h off ∧ bytes = (engineRead s o.core o.pieces).1) ∨
      (∃ ws, o.kind = .obldReg h off false ws ∧ bytes = ws.flatMap (fun w => leBytes w.toNat 4))) →
    ∃ t : State, exec (.obldComplete o.id) s = .next t ∧ Completed s t o ∧ (∀ i, i < bytes.length → recByte t r (off + i) = bytes.getD i 0) ∧
      (∀ a, (∀ i, i < bytes.length → a ≠ recKey r (off + i)) → Memory.byte t.obuf a = Memory.byte s.obuf a) ∧
      t.recs = s.recs ∧ t.wbuf = s.wbuf ∧ t.mem = s.mem ∧ t.scr = s.scr ∧ t.vrf = s.vrf) ∧
  (∀ (s : State) (o : Op) (r : RecRow) (g : Gang) (h count gn : Nat) (sc : Bool) (hdr : Word), Clear s o → tileTurn s o = true → engineReady s o false = true →
    o.kind = .wbld h count gn sc hdr → mapGaps s g o.pc = [] → recOf s o.core h = some r → r.wb = true → r.core = o.core → r.idx = h → r.units.Nodup →
    gangOf s o.gid = some g → Memory.wf s.wbuf = true →
    let bytes := (leBytes hdr.toNat 4 ++ (engineRead s o.core o.pieces).1.drop 4).take count
    bytes.length ≤ 1024 * r.units.length →
    ∃ t : State, exec (.wbldComplete o.id) s = .next t ∧ opOf t o.id = none ∧ (∀ i, i < bytes.length → recByte t r i = bytes.getD i 0) ∧
      t.mem = s.mem ∧ t.vrf = s.vrf ∧ t.obuf = s.obuf ∧
      (streamBad r.fmt r.blen bytes = none → Completed s t o ∧ recOf t o.core h = some { r with badv := false, badoff := 0 }) ∧
      (∀ off, streamBad r.fmt r.blen bytes = some off → recOf t o.core h = some { r with badv := true, badoff := off } ∧
        (o.hnd = false → (∃ x ∈ g.lanes, x.st ≠ .exited) → ∃ x, gangOf t o.gid = some x ∧
          x.weight = g.weight ++ [{ pc := o.pc, off := off, lane := lowLane o.lanes }]))) ∧
  (∀ (s : State) (g g1 : Gang) (w : WeightFault) (ws : List WeightFault) (pc : Addr) (lanes : LaneMask), gangOf s g.gid = some g → g.handler = false →
    canIssue g = true → g.weight = w :: ws → selectLanes g = some (g1, pc, lanes) → trapGaps s g 0x22 w.pc = [] →
    exec (.weightFault g.gid) s =
      .next (trapEntry (setGang s { g1 with weight := ws }) g.gid 0x22 (1#64 <<< w.lane) (BitVec.ofNat 64 w.off) w.pc pc lanes)) ∧
  (∀ (s : State) (o : Op) (r : RecRow) (g : Gang) (h off : Nat) (ws : List Word), Clear s o → tileTurn s o = true → o.pieces = [] →
    o.kind = .obldReg h off true ws → recOf s o.core h = some r → gangOf s o.gid = some g → r.wb = false → r.units.Nodup → r.fmt < 5 →
    (if r.fmt = 4 then off % 48 = 0 ∧ ws.length % 4 = 0 else off % (fmtBits r.fmt / 8) = 0) →
    8 * off + fmtBits r.fmt * ws.length ≤ 8192 * r.units.length → Memory.wf s.obuf = true →
    let e0 := 8 * off / fmtBits r.fmt
    let k125 := fun i => BitVec.ofNat 32 (256 * r.bound + (recByte s r (r.scale + (e0 + i) / blenOf r.blen)).toNat)
    let y := fun i => cvtOne 0 ([2, 1, 7, 8, 9].getD r.fmt 0) finPlain (k125 i) (ws.getD i 0)
    r.bound < 16 →
    ∃ (t : State) (x : Gang), exec (.obldComplete o.id) s = .next t ∧ Completed s t o ∧ gangOf t o.gid = some x ∧
      (∀ i, i < ws.length → opElem t r (e0 + i) = (y i).bits % 2 ^ fmtBits r.fmt) ∧
      (∀ a, (∀ i, 8 * i < fmtBits r.fmt * ws.length → a ≠ recKey r (off + i)) → Memory.byte t.obuf a = Memory.byte s.obuf a) ∧
      ∀ j, x.csr.gstat.getLsbD j = true ↔ g.csr.gstat.getLsbD j = true ∨ ∃ i, i < ws.length ∧ (y i).flags.getLsbD j = true) ∧
  (∀ (fmt blen : Nat) (bs : List Byte), fmt < 5 →
    (streamBad fmt blen bs = none ↔ GoodStream fmt blen bs) ∧
    ((bs.length < 4 ∨ leNat (bs.take 4) / 2 ^ 17 ≠ 0 ∨ (leNat (bs.take 4)).testBit 16 ≠ decide (fmt = 4)) → streamBad fmt blen bs = some 0) ∧
    (∀ (n : Nat) (hd : List Byte) (gs : List (List Byte)) (rest : List Byte), StreamHead fmt blen n hd → (∀ g ∈ gs, GoodGroup fmt g) →
      bs = hd ++ gs.flatten ++ rest →
      let o := (hd ++ gs.flatten).length
      (gs.length = n → rest ≠ [] → streamBad fmt blen bs = some o) ∧
      (gs.length < n → rest.length < 8 → streamBad fmt blen bs = some o) ∧
      (gs.length < n → ∀ (mask : BitVec 64) (data more : List Byte), rest = leBytes mask.toNat 8 ++ data ++ more →
        (data.length < dataLength fmt mask → more = [] → streamBad fmt blen bs = some o) ∧
        (data.length = dataLength fmt mask → ∀ i, ZeroElem fmt mask data i → (∀ j, j < i → ¬ZeroElem fmt mask data j) →
          streamBad fmt blen bs = some (o + 8 + fmtBits fmt * i / 8)) ∧
        (data.length = dataLength fmt mask → (∀ j, ¬ZeroElem fmt mask data j) → ∀ i, PadBit fmt mask data i → (∀ j, j < i → ¬PadBit fmt mask data j) →
          streamBad fmt blen bs = some (o + 8 + i / 8))))) ∧
  (∀ (s : State) (rb : RecRow) (hd : List Byte) (gs : List (List Byte)) (grp n : Nat) (mask : BitVec 64) (data : List Byte), rb.fmt < 5 → n < 64 →
    StreamHead rb.fmt rb.blen gs.length hd → (∀ g ∈ gs, GoodGroup rb.fmt g) →
    (∀ i, i < (hd ++ gs.flatten).length → recByte s rb i = (hd ++ gs.flatten).getD i 0) → gs[grp]? = some (leBytes mask.toNat 8 ++ data) →
    groupCode s rb grp n =
      if rb.badv = false ∨ (hd ++ (gs.take (grp + 1)).flatten).length ≤ rb.badoff then
        (if mask.getLsbD n then packedElem rb.fmt data ((List.range n).filter (fun i => mask.getLsbD i)).length else if rb.fmt = 4 then 0x10 else 0)
      else if rb.fmt = 4 then 0x10 else 0)

/-- R240, R241 (12_isa_tiles), R181 (09_memories): ACALLOC_GRANT gives the first waiting gang free banks, all zero, and their mask, the lowest ones (log
entry 31, DEDUCED); ACFREE_DONE frees the block's named banks once no operation that was issued before the ACFREE works on them, and lets the gang go on. -/
def Obligations.AccumulatorBanksComeAndGo : Prop :=
  (∀ (s : State) (g : Gang) (kd n : Nat), gangOf s g.gid = some g → g.blocked = some (.acalloc kd n) →
    firstWaiting s g.gid (acallocWaiting g.core) = true → n ≤ (freeBanks s g.core).length →
    let bs := (freeBanks s g.core).take n
    ∃ t : State, exec (.acallocGrant g.gid) s = .next t ∧ gangOf t g.gid = some (wrK { g with blocked := none } kd (bankMask bs)) ∧
      (∀ b, b < 16 → (bankMask bs).getLsbD b = decide (b ∈ bs)) ∧
      (∀ b ∈ bs, accOf t g.core b = some { core := g.core, bank := b, blk := g.blk, hnd := if g.handler then some g.gid else none } ∧
        ∀ half m c, half < 2 → m < 64 → c < 64 → tileWord t g.core b half m c = 0) ∧
      (∀ b, b ∉ bs → accOf t g.core b = accOf s g.core b) ∧ t.mem = s.mem ∧ t.vrf = s.vrf ∧ t.obuf = s.obuf) ∧
  (∀ (s : State) (g : Gang) (m : BitVec 16) (n : Nat), gangOf s g.gid = some g → g.blocked = some (.acfree m n) →
    (∀ o ∈ s.ops, o.core = g.core → o.blk = g.blk → o.id < n → ∀ x ∈ opTiles o, m.getLsbD x.1 = false) →
    ∃ t : State, exec (.acfreeDone g.gid) s = .next t ∧ gangOf t g.gid = some { g with blocked := none } ∧ t = { s with accs := t.accs, gangs := t.gangs } ∧
      ∀ a, a ∈ t.accs ↔ a ∈ s.accs ∧ ¬(a.core = g.core ∧ a.blk = g.blk ∧ m.getLsbD a.bank = true))

/-- R242, R244 to R246 (12_isa_tiles), R64 (03_numbers): MMA proceeds when its awaited phase has completed, with an acquire at the barrier's scope; it then
writes each word of its tile with the K-blocks of A and B folded in ascending order into the old word or zero, and nothing else of the accumulators, sets
their flags, counts its K-blocks, and arrives on the barrier it names; the zero of the product is the word 0. An element of A is the format's bits at its index
of the reservation. ACMOV gives each active lane its tile words in d on, moves a tile to global memory or to or from the scratchpad byte for byte, and
zeroes it under .clr. -/
def Obligations.TilesComplete : Prop :=
  (∀ (s : State) (o : Op) (b : MmaBlock) (r : BarRow), Clear s o → o.kind = .mma b → b.waited = true → b.go = false → barNamed s b.wh = some r →
    ∃ t : State, exec (.mmaBarrierWaitEnd o.id) s = .next t ∧ opOf t o.id = some { o with kind := .mma { b with go := true } } ∧ t.vrf = s.vrf ∧ t.acc = s.acc ∧
      (3 ≤ r.scope → ∀ x ∈ t.l1, x.core ≠ o.core) ∧ (r.scope < 3 → t.l1 = s.l1 ∧ t.mem = s.mem)) ∧
  (∀ (s : State) (o : Op) (b : MmaBlock) (ra rb : RecRow) (g : Gang), Clear s o → tileTurn s o = true → o.kind = .mma b → b.go = true → b.wv = false →
    b.av = false → recOf s o.core b.ah = some ra → recOf s o.core b.bh = some rb → ∀ p, productOf ra.fmt rb.fmt = some p → gangOf s o.gid = some g →
    b.bank < 16 → b.half < 2 →
    ∃ (t : State) (h : Gang), exec (.mmaComplete o.id) s = .next t ∧ Completed s t o ∧ gangOf t o.gid = some h ∧ h.perf.kblocks = g.perf.kblocks + b.nkb ∧
      t = { s with acc := t.acc, accPsn := t.accPsn, ops := t.ops, gangs := t.gangs } ∧
      (Memory.wf s.acc = true → ∀ m n, m < 64 → n < 64 →
        tileWord t o.core b.bank b.half m n = BitVec.ofNat 32 (mmaElem s o.core ra rb p b m n b.nkb)) ∧
      (∀ i, h.csr.gstat.getLsbD i = true ↔ g.csr.gstat.getLsbD i = true ∨ ∃ kb m n, kb < b.nkb ∧ m < 64 ∧ n < 64 ∧
        (mmaBlockRes s ra rb p b kb m n (mmaElem s o.core ra rb p b m n kb)).flags.getLsbD i = true) ∧
      (Memory.wf s.acc = true → ∀ a, (a < accKey o.core b.bank (16384 * b.half) ∨ accKey o.core b.bank (16384 * b.half) + 16384 ≤ a) →
        Memory.byte t.acc a = Memory.byte s.acc a)) ∧
  (∀ (s : State) (r : RecRow) (i j : Nat), r.fmt < 5 → let k := fmtBits r.fmt
    opElem s r i < 2 ^ k ∧ (j < k → (opElem s r i).testBit j = (recByte s r ((k * i + j) / 8)).getLsbD ((k * i + j) % 8))) ∧
  (∀ (s : State) (o : Op) (b : MmaBlock) (r : BarRow) (n : Nat), b.av = true → b.wv = false → b.akind = false → b.acount = n → barNamed s b.ahb = some r →
    (∀ x ∈ s.l1, x.core = o.core → x.dirty = 0) → 2 ≤ r.ref → r.arr + n < 2 ^ 21 → r.arr + n < r.exp → -0x80000000 ≤ r.txb → r.txb ≤ 0x7FFFFFFF →
    barNamed (mmaArrive o b s) b.ahb = some { r with arr := r.arr + n, ref := r.ref - 1 }) ∧
  (∀ (s : State) (o : Op) (g : Gang) (bank half d rowa c cola : Nat) (clr : Bool), Clear s o → tileTurn s o = true → gangOf s o.gid = some g → RegsApart s g →
    o.kind = .acmov 3 bank half clr d rowa c cola → o.pieces = [] →
    ∃ t : State, exec (.acmovComplete o.id) s = .next t ∧ Completed s t o ∧ t.mem = s.mem ∧ t.scr = s.scr ∧ (clr = false → t.acc = s.acc) ∧
      (clr = true → ∀ i, i < 16384 → Memory.byte t.acc (accKey o.core bank (16384 * half) + i) = 0) ∧
      ∀ l j, o.lanes.getLsbD l = true → j < c → (vKey g l (d + j)).isSome = true →
        rdV t g l (d + j) = tileWord s o.core bank half (rowa + j) (cola + l)) ∧
  (∀ (s : State) (o : Op) (bank half d rowa c cola b off : Nat) (blk : Block), Clear s o → tileTurn s o = true → engineReady s o false = true →
    o.kind = .acmov 2 bank half false d rowa c cola → blockOf s b = some blk →
    o.pieces = [{ lane := 0, off := 0, place := .scr b off, len := 16384, st := .todo, data := [], psn := [] }] → Memory.wf s.acc = true →
    ∃ t : State, exec (.acmovComplete o.id) s = .next t ∧ Completed s t o ∧ t.mem = s.mem ∧ t.scr = s.scr ∧ t.vrf = s.vrf ∧
      BytesPut s.acc t.acc (accKey o.core bank (16384 * half)) ((List.range 16384).map (fun i => scrByte s blk (off + i)))) ∧
  (∀ (s : State) (o : Op) (aop bank half d rowa c cola b off : Nat) (clr : Bool) (blk : Block), Clear s o → tileTurn s o = true →
    engineReady s o true = true → aop < 2 → o.kind = .acmov aop bank half clr d rowa c cola → blockOf s b = some blk → s.tags = [] →
    o.pieces = [{ lane := 0, off := 0, place := .scr b off, len := 16384, st := .todo, data := [], psn := [] }] → Memory.wf s.scr = true →
    (∀ i j x, blk.banks.getD i none = some x → blk.banks.getD j none = some x → i = j) → (∀ i, i < 5 → (blk.banks.getD (off / 4096 + i) none).isSome = true) →
    ∃ t : State, exec (.acmovComplete o.id) s = .next t ∧ Completed s t o ∧ t.mem = s.mem ∧ t.vrf = s.vrf ∧ (clr = false → t.acc = s.acc) ∧
      ∀ i, i < 16384 → scrByte t blk (off + i) = Memory.byte s.acc (accKey o.core bank (16384 * half) + i)) ∧
  (∀ (s : State) (o : Op) (bank half d rowa c cola : Nat) (clr : Bool) (ps : List (Nat × Nat × Nat × Nat)), Clear s o → tileTurn s o = true →
    engineReady s o true = true → o.kind = .acmov 0 bank half clr d rowa c cola → s.zmaps = [] → s.ptags = [] → (∀ x ∈ s.l1, x.core ≠ o.core) →
    o.pieces = ps.map (fun p => { lane := 0, off := p.2.2.1, place := .mem p.1 p.2.1, len := p.2.2.2, st := .todo, data := [], psn := [] }) →
    (∀ p ∈ ps, p.2.2.1 + p.2.2.2 ≤ 16384) → ps.Pairwise (fun x y => x.1 + x.2.2.2 ≤ y.1 ∨ y.1 + y.2.2.2 ≤ x.1) →
    ∃ t : State, exec (.acmovComplete o.id) s = .next t ∧ Completed s t o ∧ t.scr = s.scr ∧ t.vrf = s.vrf ∧ (clr = false → t.acc = s.acc) ∧
      ∀ a, dirByte t a = match ps.find? (fun p => decide (p.1 ≤ a) && decide (a < p.1 + p.2.2.2)) with
        | some p => Memory.byte s.acc (accKey o.core bank (16384 * half) + p.2.2.1 + (a - p.1))
        | none => dirByte s a)

/-- R247 to R249 (12_isa_tiles): TWSET_CLAIM gives the free array to the first waiting gang, its matrix and outputs at 255; TLDW loads the matrix; TLNCH leaves
in each output the least, or in max mode the greatest, of the 64 temporal sums; TCAPT gives each active lane its output; TRST clears, and with .rel
releases the array. That a launch runs with the mode and window carried from its issue is log entry 34 (DEDUCED). -/
def Obligations.TemporalWordsComplete : Prop :=
  (∀ (s : State) (g : Gang) (win : Nat) (mx : Bool), gangOf s g.gid = some g → g.blocked = some (.twset win mx) → (arrayOf s g.core).holder = none →
    firstWaiting s g.gid (twsetWaiting g.core) = true →
    ∃ t : State, exec (.twsetClaim g.gid) s = .next t ∧ t = { s with arrays := t.arrays, gangs := t.gangs } ∧
      gangOf t g.gid = some { g with blocked := none, csr := { g.csr with twin := BitVec.ofNat 32 win } } ∧
      arrayOf t g.core = { core := g.core, holder := some g.gid, max := mx, win := win, w := [], out := [], wpsn := [], opsn := [], hnd := g.handler } ∧
      ∀ c, c ≠ g.core → arrayOf t c = arrayOf s c) ∧
  (∀ (s : State) (o : Op) (off b : Nat) (blk : Block), Clear s o → tileTurn s o = true → engineReady s o false = true → o.kind = .tldw off →
    blockOf s b = some blk → o.pieces = [{ lane := 0, off := 0, place := .scr b off, len := 4096, st := .todo, data := [], psn := [] }] →
    ∃ t : State, exec (.tldwComplete o.id) s = .next t ∧ Completed s t o ∧ t.scr = s.scr ∧ t.vrf = s.vrf ∧ (arrayOf t o.core).out = (arrayOf s o.core).out ∧
      ∀ i j, i < 64 → j < 64 → Sparse.get 255 (arrayOf t o.core).w (64 * i + j) = (scrByte s blk (off + 64 * i + j)).toNat) ∧
  (∀ (s : State) (o : Op) (codes : List Nat) (mx : Bool) (win : Nat), Clear s o → tileTurn s o = true → o.kind = .tlnch codes mx win →
    (∀ c ∈ codes, c ≤ 255) → (∀ e ∈ (arrayOf s o.core).w, e.2 ≤ 255) → win ≤ 255 →
    let a := arrayOf s o.core
    let sum := fun j i => tickAdd (codes.getD i 255) (Sparse.get 255 a.w (64 * i + j)) win
    ∃ t : State, exec (.tlnchComplete o.id) s = .next t ∧ Completed s t o ∧ (arrayOf t o.core).w = a.w ∧ t.vrf = s.vrf ∧ t.scr = s.scr ∧
      ∀ j, j < 64 → let y := Sparse.get 255 (arrayOf t o.core).out j
        (∃ i, i < 64 ∧ y = sum j i) ∧ ∀ i, i < 64 → if mx then sum j i ≤ y else y ≤ sum j i) ∧
  (∀ (s : State) (o : Op) (g : Gang) (d : Nat), Clear s o → tileTurn s o = true → o.kind = .tcapt d → gangOf s o.gid = some g → RegsApart s g →
    ∃ t : State, exec (.tcaptComplete o.id) s = .next t ∧ Completed s t o ∧ t.arrays = s.arrays ∧ t.mem = s.mem ∧ t.scr = s.scr ∧
      ∀ l, o.lanes.getLsbD l = true → (vKey g l d).isSome = true → rdV t g l d = BitVec.ofNat 32 (Sparse.get 255 (arrayOf s o.core).out l)) ∧
  (∀ (s : State) (o : Op) (rel : Bool), Clear s o → tileTurn s o = true → o.kind = .trst rel →
    ∃ t : State, exec (.trstApply o.id) s = .next t ∧ Completed s t o ∧ (arrayOf t o.core).w = [] ∧ (arrayOf t o.core).out = [] ∧
      (arrayOf t o.core).holder = (if rel then none else (arrayOf s o.core).holder) ∧ t.vrf = s.vrf ∧ t.scr = s.scr ∧
      ∀ c, c ≠ o.core → arrayOf t c = arrayOf s c)

/-! ## Barriers, rings and predicates in flight (the events of 17_isa_sync_system) -/

/-- R328 to R331 (17_isa_sync_system), R294 to R296 (15_tables_counters): BALLOC takes the pool's lowest free object with a live handle, or answers 0 and
false; BFREE drops a reference, and the last one frees the object and tells its waiters false; BARV applies its change whole, and a phase that it completes
tells them true; BWAIT ends with its predicate, and with true as an acquire. -/
def Obligations.BarriersServe : Prop :=
  (∀ (s : State) (o : Op) (g : Gang) (kd pd scope exp : Nat), Clear s o → gangOf s o.gid = some g → o.kind = .balloc kd pd scope exp → pd < 8 →
    Sparse.wf 0#32 g.k = true →
    ∃ (t : State) (h : Gang), exec (.ballocComplete o.id) s = .next t ∧ Completed s t o ∧ gangOf t o.gid = some h ∧ t.mem = s.mem ∧ t.vrf = s.vrf ∧
      (∀ n, n ≠ kd → rdK h n = rdK g n) ∧ (∀ l p, (o.lanes.getLsbD l = false ∨ p ≠ pd) → predOf h l p = predOf g l p) ∧
      (∀ i, freeBar s (o.core / 4) = some i → o.core < 160 → (barAt s (o.core / 4) i).gen < 2 ^ 14 →
        barNamed t (rdK h kd) = some { barAt s (o.core / 4) i with valid := true, owner := o.ctx, scope := scope, exp := exp, arr := 0, txb := 0,
                                                                   phase := false, ref := 1 } ∧
        (∀ l, l < g.lanes.length → o.lanes.getLsbD l = true → predOf h l pd = true) ∧
        ∀ c j, (c, j) ≠ (o.core / 4, i) → barAt t c j = barAt s c j) ∧
      (freeBar s (o.core / 4) = none → rdK h kd = 0 ∧ t.bars = s.bars ∧
        (pd < 7 → ∀ l, l < g.lanes.length → o.lanes.getLsbD l = true → predOf h l pd = false))) ∧
  (∀ (s : State) (o : Op) (h : Word), Clear s o → o.kind = .bfree h → h.toNat < 2 ^ 30 → syncTurn s o = true →
    ∃ t : State, exec (.bfreeApply o.id) s = .next t ∧ opOf t o.id = none ∧ t.mem = s.mem ∧ t.vrf = s.vrf ∧
      (barNamed s h = none → Completed s t o ∧ t.bars = s.bars) ∧
      (∀ b, barNamed s h = some b → 2 ≤ b.ref → Completed s t o ∧ barNamed t h = some { b with ref := b.ref - 1 }) ∧
      (∀ b, barNamed s h = some b → b.ref ≤ 1 → barNamed t h = none ∧ ∀ x pd lanes, gangOf s x.gid = some x → x.gid ≠ o.gid →
        x.blocked = some (.bwait h pd lanes none) → gangOf t x.gid = some { x with blocked := some (.bwait h pd lanes (some false)) })) ∧
  (∀ (s : State) (o : Op) (b : BarRow) (h kb : Word) (mode : Nat) (tx : Bool), Clear s o → o.kind = .barv h mode tx kb → barNamed s h = some b →
    h.toNat < 2 ^ 30 → (∀ x ∈ s.l1, x.core = o.core → x.dirty = 0) →
    (6 ≤ b.scope → (∀ l, unownedPeers s o.gid l = []) ∧ othersPosted s o.ctx = false) → syncTurn s o = true → b.arr + 1 < 2 ^ 21 →
    let tb : Int := if tx then b.txb + kb.toNat else b.txb
    tb < 0x80000000 → -0x80000000 ≤ tb →
    ∃ t : State, exec (.barvApply o.id) s = .next t ∧ opOf t o.id = none ∧ t.mem = s.mem ∧ t.vrf = s.vrf ∧ t.scr = s.scr ∧
      (mode = 0 → (b.arr + 1 < b.exp ∨ tb ≠ 0) → Completed s t o ∧ barNamed t h = some { b with txb := tb, arr := b.arr + 1 }) ∧
      (mode = 0 → b.arr + 1 = b.exp → tb = 0 → barNamed t h = some { b with txb := 0, arr := 0, phase := !b.phase } ∧
        ∀ x pd lanes, gangOf s x.gid = some x → x.gid ≠ o.gid → x.blocked = some (.bwait h pd lanes none) →
          gangOf t x.gid = some { x with blocked := some (.bwait h pd lanes (some true)) }) ∧
      (mode = 1 → (b.arr < b.exp ∨ tb ≠ 0) → Completed s t o ∧ barNamed t h = some { b with txb := tb }) ∧
      (mode = 2 → b.exp = 1 → Completed s t o ∧ t.bars = s.bars ∧
        ∀ r, ctxRow s b.owner = some r → ctxRow t b.owner = some { r with barovf := r.barovf + 1 }) ∧
      (mode = 2 → 1 < b.exp → (b.arr + 1 < b.exp ∨ tb ≠ 0) → Completed s t o ∧ barNamed t h = some { b with txb := tb, exp := b.exp - 1 })) ∧
  (∀ (s : State) (g : Gang) (h : Word) (pd : Nat) (lanes : LaneMask) (ok : Bool), gangOf s g.gid = some g → g.blocked = some (.bwait h pd lanes (some ok)) →
    ∃ t x, exec (.bwaitDone g.gid) s = .next t ∧ gangOf t g.gid = some x ∧ x.blocked = none ∧ x.pend = g.pend ∧ t.vrf = s.vrf ∧ t.bars = s.bars ∧
      (pd < 7 → ∀ l, l < g.lanes.length → lanes.getLsbD l = true → predOf x l pd = ok) ∧
      (∀ l p, (lanes.getLsbD l = false ∨ p ≠ pd) → predOf x l p = predOf g l p) ∧
      (ok = false → OnlyGang s t g.gid) ∧
      (∀ b, ok = true → barNamed s h = some b → (3 ≤ b.scope → ∀ r ∈ t.l1, r.core ≠ g.core) ∧ (b.scope < 3 → OnlyGang s t g.gid)))

/-- R334 to R336 (17_isa_sync_system), R265 to R267 (13_queues): RING_GRANT gives the first waiting gang a free ring object of the core, the lowest one (log entry 31,
DEDUCED), every slot Free and every pointer and count zero; RING.rel ends the ring, and RAWAITs on it answer all ones and 0; RAWAIT takes the Full slot at the read pointer with its
offset and byte count; RREL frees the slot at the release pointer. -/
def Obligations.RingsServe : Prop :=
  (∀ (s : State) (g : Gang) (kd obj : Nat) (q0 q1 : Word), gangOf s g.gid = some g → g.blocked = some (.ring kd q0 q1) → freeRing s g.core = some obj →
    firstWaiting s g.gid (ringWaiting g.core) = true →
    ∃ t r, exec (.ringGrant g.gid) s = .next t ∧ t = { s with rings := t.rings, gangs := t.gangs } ∧
      gangOf t g.gid = some (wrK { g with blocked := none } kd (ringHandle (ringAt s g.core obj).gen obj)) ∧ ringAt t g.core obj = r ∧
      r.inuse = true ∧ r.blk = g.blk ∧ r.gen = (ringAt s g.core obj).gen ∧ r.base = q0.toNat % 2 ^ 20 ∧ r.ssize = 128 * (q1.toNat % 1024) ∧
      r.nslot = q1.toNat / 1024 % 64 + 1 ∧ r.fill = (if q1.toNat / 65536 % 32768 = 0 then r.ssize else 4 * (q1.toNat / 65536 % 32768)) ∧
      r.wp = 0 ∧ r.rp = 0 ∧ r.lp = 0 ∧ r.fillP = 0 ∧ r.rpend = 0 ∧ r.counts = List.replicate r.nslot 0 ∧ r.st = List.replicate r.nslot .free ∧
      (∀ c j, (c, j) ≠ (g.core, obj) → ringAt t c j = ringAt s c j) ∧ ∀ n, n ≠ g.gid → gangOf t n = gangOf s n) ∧
  (∀ (s : State) (g : Gang) (h : Word) (r : RingRow), gangOf s g.gid = some g → g.blocked = some (.ringRel h) → ringNamed s g.core h = some r →
    ringCopies s g.core r.obj = [] →
    ∃ t : State, exec (.ringRelDone g.gid) s = .next t ∧ gangOf t g.gid = some { g with blocked := none } ∧ ringNamed t g.core h = none ∧ t.scr = s.scr ∧ t.mem = s.mem ∧
      (ringAt t g.core r.obj).inuse = false ∧ (ringAt t g.core r.obj).gen = (r.gen + 1) % 2 ^ 14 ∧
      ∀ x kd lanes, gangOf s x.gid = some x → x.gid ≠ g.gid → x.core = g.core → x.blocked = some (.rawait h kd lanes) →
        gangOf t x.gid = some (wrK (wrK { x with blocked := none } kd 0xFFFFFFFF#32) (kd + 1) 0)) ∧
  (∀ (s : State) (g : Gang) (h : Word) (kd : Nat) (lanes : LaneMask) (r : RingRow), gangOf s g.gid = some g → g.blocked = some (.rawait h kd lanes) →
    ringNamed s g.core h = some r → r.st[r.rp]? = some .full → firstWaiting s g.gid (rawaitWaiting g.core h) = true →
    ∃ t : State, exec (.rawaitTake g.gid) s = .next t ∧ t = { s with rings := t.rings, gangs := t.gangs } ∧
      gangOf t g.gid = some (wrK (wrK { g with blocked := none } kd (BitVec.ofNat 32 (r.base + r.rp * r.ssize))) (kd + 1)
        (BitVec.ofNat 32 (r.counts.getD r.rp 0))) ∧
      ringNamed t g.core h = some { r with st := r.st.set r.rp .held, rp := (r.rp + 1) % r.nslot } ∧ ∀ n, n ≠ g.gid → gangOf t n = gangOf s n) ∧
  (∀ (s : State) (o : Op) (h : Word) (r : RingRow), Clear s o → o.kind = .rrel h → ringNamed s o.core h = some r →
    (∀ x ∈ s.l1, x.core = o.core → x.dirty = 0) → syncTurn s o = true →
    ∃ t : State, exec (.rrelApply o.id) s = .next t ∧ Completed s t o ∧ t = { s with rings := t.rings, ops := t.ops, gangs := t.gangs } ∧
      ringNamed t o.core h = some { r with counts := r.counts.set r.lp 0, st := r.st.set r.lp (if copyWaits s r then .filling else .free),
                                           lp := (r.lp + 1) % r.nslot, rel := r.rel + 1, rpend := r.rpend - 1 })

/-! ## The device (the events of 19_host_firmware) -/

/-- R354, R355, R356, R358 to R363 (19_host_firmware), R188 (09_memories), R343 (18_fabric_collectives): start-up runs to the ready report or stops at the
step that fails; the banks, the fuses, the identity, the leaf counter and the targets' images outlive the supply; expanders are mapped in the host's order;
power and temperature move the reef level; images, policies and reports go by the function and its table; service changes no value. The model's: an
attestation's signature is a free value (log entry 12, DESIGN CHOICE); which image a recovery load starts and where it goes (log entry 27, DESIGN CHOICE);
the way an LMS signature is verified (log entry 77, PRESUMED); fuses and identity as manufacture brings them (log entries 85
and 91, DESIGN CHOICE); a new package's first images (log entry 92, DESIGN CHOICE); what survives a supply (log entry 57, DEDUCED); the targets' descriptors (log
entry 81, DESIGN CHOICE); values out of a policy's range (log entry 62, DEDUCED); where errors of ECC come from and when they are counted (log entry 72, DESIGN
CHOICE). -/
def Obligations.DeviceServes : Prop :=
  (∀ (s : State) (f : BootFacts),
    let fuse := if s.boot.fuse = 0 then f.fuse else s.boot.fuse
    let a := f.bankA.or s.boot.bankA
    let b := f.bankB.or s.boot.bankB
    let okA := ∃ i ∈ a, Verified fuse i
    let okB := ∃ i ∈ b, Verified fuse i
    let spars := f.spars.length = 16 ∧ ∀ i ∈ f.spars, Verified fuse i
    ∃ t : State, exec (.powerOnReset f) s = .next t ∧
      t = { State.reset with agenda := s.agenda, clock := s.clock, fresh := s.fresh, images := s.images, mem := t.mem, boot := t.boot, host := t.host,
                             halyard := t.halyard, fab := { State.reset.fab with phys := t.boot.ident.phys } } ∧
      t.mem = s.mem.filter (fun e => inImages s e.1) ∧ t.boot.tree = s.boot.tree ∧ t.boot.leaf = s.boot.leaf ∧ t.boot.fuse = fuse ∧
      t.boot.ident = (if s.boot.fuse = 0 then f.ident else s.boot.ident) ∧ t.boot.bankA = a ∧ t.boot.bankB = b ∧ t.boot.cxlLost = [] ∧
      (okA → t.boot.masthead = a ∧ t.boot.inB = false) ∧ (¬okA → okB → t.boot.masthead = b ∧ t.boot.inB = true) ∧
      t.boot.cxlBytes = (t.boot.expanders.map (fun e => e.2)).sum ∧
      (∀ k base n, t.boot.expanders[k]? = some (base, n) → k < 16 ∧ base = Config.cxlBase + ((t.boot.expanders.take k).map (fun e => e.2)).sum ∧
        n = min (f.expanders.getD k 0) (Config.cxlEnd - base) ∧ base + n ≤ Config.cxlEnd) ∧
      (¬okA → ¬okB → t.boot.step = 0 ∧ t.boot.failed = 1 ∧ t.boot.recovery = true ∧ t.boot.masthead = none ∧ t.host = [.bootFailed 1] ∧ t.halyard = []) ∧
      (okA ∨ okB → t.boot.recovery = false) ∧
      (okA ∨ okB → ¬spars → t.boot.step = 1 ∧ t.boot.failed = 2 ∧ t.host = [.bootFailed 2] ∧ t.halyard = []) ∧
      (okA ∨ okB → spars → 3 ≤ f.failStep → f.failStep ≤ 7 → t.boot.step = f.failStep - 1 ∧ t.boot.failed = f.failStep ∧ t.host = [.bootFailed f.failStep] ∧
        t.halyard = []) ∧
      (okA ∨ okB → spars → (f.failStep < 3 ∨ 7 < f.failStep) → t.boot.step = 8 ∧ t.boot.failed = 0 ∧ t.host = [] ∧ t.boot.spars = f.spars ∧
        t.boot.expanders.length = min 16 f.expanders.length ∧
        (∀ r ∈ t.halyard, r.die < 4 ∧ r.copy = none ∧ r.subm = 0 ∧ r.comp = 0 ∧ (if r.col = .c0 then f.target0 else f.target1) = some r.desc) ∧
        ∀ die d, die < 4 → (f.target0 = some d → ∃ r ∈ t.halyard, r.die = die ∧ r.col = .c0 ∧ r.desc = d) ∧
          (f.target1 = some d → ∃ r ∈ t.halyard, r.die = die ∧ r.col = .c1 ∧ r.desc = d))) ∧
  (∀ s : State, ∃ t : State, exec .powerLoss s = .next t ∧
    t = { State.reset with agenda := s.agenda, clock := s.clock, fresh := s.fresh, images := s.images, mem := s.mem.filter (fun e => inImages s e.1),
                           power := { State.reset.power with on := false },
                           boot := { Boot.reset with bankA := s.boot.bankA, bankB := s.boot.bankB, fuse := s.boot.fuse, ident := s.boot.ident,
                                                     tree := s.boot.tree, leaf := s.boot.leaf } }) ∧
  (∀ (s : State) (img : FwImage), s.boot.recovery = true → ∃ t : State, exec (.recoveryImageLoad img) s = .next t ∧
    (Verified s.boot.fuse img → t = { s with boot := { s.boot with recovery := false, masthead := some img, bankA := some img, inB := false } }) ∧
    (¬Verified s.boot.fuse img → t = { s with host := t.host } ∧ t.host.length = s.host.length + 1)) ∧
  (∀ (s : State) (w : Nat) (j : Int), ∃ t : State, exec (.powerWindow w j) s = .next t ∧
    t = { s with power := { s.power with reef := t.power.reef, cool := t.power.cool, alarm := decide (115 ≤ j), shut := s.power.shut || decide (125 ≤ j) },
                 host := if 115 ≤ j then s.host ++ [.alarm] else s.host } ∧
    (115 ≤ j → t.power.reef = 3 ∧ t.power.cool = 0) ∧
    (j < 115 → (s.policies.powerCeiling < w ∨ 105 ≤ j) → t.power.reef = min 3 (s.power.reef + 1) ∧ t.power.cool = 0) ∧
    (w ≤ s.policies.powerCeiling → j < 100 → 10 * w < 9 * s.policies.powerCeiling → s.power.cool + 1 = 10 →
      t.power.reef = s.power.reef - 1 ∧ t.power.cool = 0) ∧
    (w ≤ s.policies.powerCeiling → j < 100 → 10 * w < 9 * s.policies.powerCeiling → s.power.cool + 1 ≠ 10 →
      t.power.reef = s.power.reef ∧ t.power.cool = s.power.cool + 1) ∧
    (w ≤ s.policies.powerCeiling → j < 105 → (100 ≤ j ∨ 9 * s.policies.powerCeiling ≤ 10 * w) → t.power.reef = s.power.reef ∧ t.power.cool = 0)) ∧
  (∀ (s : State) (j : Int),
    let held : State := { s with power := { s.power with reef := 3, cool := 0, alarm := true, shut := s.power.shut || decide (125 ≤ j) }, host := s.host ++ [.alarm] }
    exec (.junctionHot j) s = .next (if 115 ≤ j then held
      else if 105 ≤ j then { s with power := { s.power with reef := min 3 (s.power.reef + 1), cool := 0 } } else s) ∧
    exec (.thermalAlarm j) s = .next (if 115 ≤ j then held else s) ∧ exec (.thermalShutdown j) s = .next (if 125 ≤ j then held else s)) ∧
  (∀ (s : State) (fn vf : Nat) (img : FwImage), s.boot.step = 8 →
    (∃ t : State, exec (.loadSparImage fn vf img) s = .next t ∧
      (fn = 0 → 1 ≤ vf → vf ≤ 16 → Verified s.boot.fuse img → t = { s with boot := { s.boot with spars := t.boot.spars } } ∧
        t.boot.spars.length = s.boot.spars.length ∧
        (vf ≤ s.boot.spars.length → ∀ k, t.boot.spars[k]? = if k = vf - 1 then some img else s.boot.spars[k]?)) ∧
      ((fn ≠ 0 ∨ vf = 0 ∨ 16 < vf ∨ ¬Verified s.boot.fuse img) → t = { s with host := t.host } ∧ t.host.length = s.host.length + 1)) ∧
    (∃ t : State, exec (.mastheadHandover fn img) s = .next t ∧ (fn = 0 → Verified s.boot.fuse img →
        t = { s with boot := { s.boot with masthead := some img, inB := !s.boot.inB, bankA := t.boot.bankA, bankB := t.boot.bankB } } ∧
        (s.boot.inB = false → t.boot.bankA = s.boot.bankA ∧ t.boot.bankB = some img) ∧ (s.boot.inB = true → t.boot.bankA = some img ∧ t.boot.bankB = s.boot.bankB)) ∧
      ((fn ≠ 0 ∨ ¬Verified s.boot.fuse img) → t = { s with host := t.host } ∧ t.host.length = s.host.length + 1))) ∧
  (∀ (s : State) (fn : Nat) (nonce : BitVec 256), s.boot.step = 8 → fn ≤ 16 → ∃ t : State, exec (.readAttestationReport fn nonce) s = .next t ∧
    (16 ≤ s.boot.tree → t = { s with host := s.host ++ [.keyExhausted fn] }) ∧
    (s.boot.tree < 16 → ∃ (e : Nat) (ds : List (BitVec 256)) (sig : List Byte),
      t = { s with boot := t.boot, host := s.host ++ [.report fn nonce s.boot.tree s.boot.leaf ds e s.power.reef s.policies.powerCeiling sig] } ∧
      ds = (s.boot.masthead.toList ++ s.boot.spars).map (fun i => sha256 i.bytes) ∧ (∀ p ∈ s.pod, p.epoch ≤ e) ∧ (e = 0 ∨ ∃ p ∈ s.pod, e = p.epoch) ∧
      sig = reportSig (s.boot.ident.keys.getD s.boot.tree []) s.boot.leaf
        (reportMessage nonce s.boot.tree s.boot.leaf ds e s.power.reef s.policies.powerCeiling) ∧ sig.length = 1772 ∧
      (∀ j, j < 4 → sig.getD j 0 = (BitVec.ofNat 32 s.boot.leaf).extractLsb' (8 * (3 - j)) 8) ∧
      (s.boot.leaf + 1 < 2 ^ 20 → t.boot = { s.boot with leaf := s.boot.leaf + 1 }) ∧
      (s.boot.leaf + 1 = 2 ^ 20 → t.boot = { s.boot with tree := s.boot.tree + 1, leaf := 0 }))) ∧
  (∀ (s : State) (p : Policy) (vf v lo hi : Nat), s.boot.step = 8 → (p, lo, hi) ∈ policyTable → vf < 17 → s.policies.sliceLength.length = 17 →
    s.policies.sliceWeight.length = 17 → ∃ t : State, exec (.setFirmwarePolicy 0 p vf v) s = .next t ∧
      ((lo ≤ v ∧ v ≤ hi ∨ p = .snapInterval ∧ v = 0) → t = { s with policies := t.policies } ∧ policyValue t.policies p vf = v ∧
        ∀ q n, (q ≠ p ∨ (p = .sliceLength ∨ p = .sliceWeight) ∧ n ≠ vf) → policyValue t.policies q n = policyValue s.policies q n) ∧
      (¬(lo ≤ v ∧ v ≤ hi) → ¬(p = .snapInterval ∧ v = 0) → t.policies = s.policies ∧ t = { s with host := t.host })) ∧
  (∀ (s : State) (h : HealthInputs), ∃ t : State, exec (.healthMonitorTick h) s = .next t ∧ t = { s with power := { s.power with risk := t.power.risk }, snapReqs := t.snapReqs } ∧
    (3 ≤ t.power.risk ↔ 1000 ≤ h.ecc ∨ 50 ≤ h.retrains ∨ 115 ≤ h.junction) ∧ (2 ≤ t.power.risk ↔ 100 ≤ h.ecc ∨ 10 ≤ h.retrains ∨ 105 ≤ h.junction) ∧
    (1 ≤ t.power.risk ↔ 10 ≤ h.ecc ∨ 2 ≤ h.retrains ∨ 95 ≤ h.junction) ∧ t.power.risk ≤ 3 ∧
    t.snapReqs = s.snapReqs ++ if s.policies.snapInterval ≠ 0 ∧ s.policies.snapInterval ≤ h.elapsed * 2 ^ t.power.risk then [{ src := .policy, group := h.group, id := h.id }] else []) ∧
  (∀ (s : State) (n : Nat), exec (.hbmCalibration n) s = .next s ∧ ∃ t : State, exec (.hbmScrub n) s = .next t ∧
    t = { s with upsets := t.upsets, power := { s.power with ecc := t.power.ecc }, ctxs := t.ctxs } ∧
    (∀ u, u ∈ t.upsets ↔ u ∈ s.upsets ∧ ¬(u.at_ = .mem ∧ 32 * u.g / 0xC00000000 = n)) ∧ t.power.ecc + t.upsets.length = s.power.ecc + s.upsets.length) ∧
  (∀ (s : State) (n : Nat), n < 32 → (s.fab.ports = [] ∨ n ∈ s.fab.ports) → ∃ t : State, exec (.portRetrain n) s = .next t ∧
    t = { s with fab := { s.fab with ports := if n ∈ s.fab.ports then s.fab.ports.filter (fun p => p != n) else [n] } })

/-- R354, R355 (19_host_firmware), R252 (13_queues), R291 (15_tables_counters), R346 (18_fabric_collectives), R300, R301 (16_snapshot), R176, R180, R186
(09_memories), R208, R211 (10_consistency): the functions create and remove contexts and queues, write the pod map, group descriptors and snapshot groups, ask for
invalidations, snapshots and writes; an eviction changes no value; a lost package is known as lost and holds no line. A request outside a function's row
is refused and changes nothing. The model's: a context still at work is not removed (log entry 28, DESIGN CHOICE); EPOCH is the greatest plus one (log entry 80,
DESIGN CHOICE); which descriptors are refused (log entry 82, DESIGN CHOICE); how the host's writes are addressed (log entry 29, DESIGN CHOICE); what a function
may not ask (log entry 54, DEDUCED); requests and their rate (log entry 44, DESIGN CHOICE); the queue header at creation (log entry 37, DEDUCED); a lost expander's memory
reads poisoned (log entry 58, DEDUCED). Lines that other packages hold come first (log entry 74, DEDUCED) and stand in the hypotheses. -/
def Obligations.HostRequestsServed : Prop :=
  (∀ (s : State) (c : CtxSpec), s.boot.step = 8 → ctxSpecOk s c = true → (∀ x ∈ s.tags, ∀ die idx, x.unit ≠ .range die idx) →
    opsUse s (fun p _ => match p with
      | .die _ _ _ => true
      | _ => false) = false → ∃ t : State, exec (.createContext 0 c) s = .next t ∧
    t = { s with ctxs := s.ctxs ++ [newCtx c], dsc := t.dsc, dscPsn := t.dscPsn, ranges := t.ranges } ∧
    ctxRow t c.id = some (newCtx c) ∧ ∀ w ∈ c.windows, ∀ r ∈ w.2, (w.1, r, c.id) ∈ t.ranges) ∧
  (∀ (s : State) (ctx : Nat) (r : CtxRow), s.boot.step = 8 → ctxRow s ctx = some r →
    (ctxBusy s ctx = true → exec (.removeContext 0 ctx) s = .next { s with host := s.host ++ [.refused 0 "context"] }) ∧
    (ctxBusy s ctx = false → ∃ t : State, exec (.removeContext 0 ctx) s = .next t ∧ ctxRow t ctx = none ∧ (∀ q ∈ t.queues, q.ctx ≠ ctx) ∧
      (∀ l ∈ t.launches, l.ctx ≠ ctx) ∧ (∀ e ∈ t.ranges, e.2.2 ≠ ctx) ∧ (∀ x ∈ t.tlb, x.ctx ≠ ctx) ∧ (ctx ≠ 0 → ∀ e ∈ t.owners, e.2.2 ≠ ctx) ∧ t.gangs.length = s.gangs.length)) ∧
  (∀ (s : State) (fn : Nat) (q : QueueSpec), queueSpecOk s fn q = true → ctxGaps s q.ctx true [(q.base, 128)] = [] →
    ctxRoom s q.ctx [(q.base, 128)] = true → ∃ t : State, exec (.createQueue fn q) s = .next t ∧
    (∀ vf num, (vf, num) ≠ (q.vf, q.num) → queueOf t vf num = queueOf s vf num) ∧ ∃ r, queueOf t q.vf q.num = some r ∧ r.ctx = q.ctx ∧ r.base = q.base ∧ r.slots = q.slots ∧
      r.enabled = false ∧ r.head = 0 ∧ r.tail = 0 ∧ r.qerr = 0) ∧
  (∀ (s : State) (vf num : Nat) (q : QueueRow), queueOf s vf num = some q →
    (∃ t : State, exec (.removeQueue 0 vf num) s = .next t ∧ t = { s with queues := t.queues } ∧ queueOf t vf num = none ∧
      ∀ v n, (v, n) ≠ (vf, num) → queueOf t v n = (queueOf s v n).map (fun x =>
        if v = vf ∧ x.plan.map (fun y => y.partner) = some num then { x with plan := none } else x)) ∧
    (∀ fn, fn ≠ 0 → exec (.removeQueue fn vf num) s = .next { s with host := s.host ++ [.refused fn "queue"] }) ∧
    (∃ t : State, exec (.enableQueue vf vf num) s = .next t ∧ t = { s with queues := t.queues } ∧ queueOf t vf num = some { q with enabled := true } ∧
      ∀ v n, (v, n) ≠ (vf, num) → queueOf t v n = queueOf s v n) ∧
    (∃ t : State, exec (.disableQueue vf vf num) s = .next t ∧ t = { s with queues := t.queues } ∧ queueOf t vf num = some { q with enabled := false } ∧
      ∀ v n, (v, n) ≠ (vf, num) → queueOf t v n = queueOf s v n)) ∧
  (∀ (s : State) (es : List PodEntry) (self : Nat), s.boot.step = 8 → (es.map (fun e => e.lid)).Nodup → (s.pod.map (fun e => e.lid)).Nodup →
    (∀ e ∈ es, e.lid < 2048 ∧ e.sgrp < 256) → self < 2048 →
    ∃ t : State, exec (.writePodMap 0 es self) s = .next t ∧
      (∀ e ∈ es, podEntry t e.lid = some { e with epoch := mapEpoch s + 1 }) ∧ (∀ n, n ∉ es.map (fun e => e.lid) → podEntry t n = podEntry s n) ∧
      t.fab.lid = self ∧ t.fab.phys = s.fab.phys ∧ (t.fab.member = true ↔ ∃ e, podEntry t self = some e ∧ e.st ≠ .absent ∧ e.phys = s.fab.phys) ∧
      (∀ l, l ∈ t.fab.down ↔ l ∈ s.fab.down ∧ ∀ e ∈ es, e.lid = l → ∃ x, podEntry s l = some x ∧ x.phys = e.phys) ∧
      ((∀ e ∈ es, e.st = .failed → inService s e.lid = false) →
        t = { s with pod := t.pod, col0 := t.col0, col1 := t.col1, fab := { s.fab with lid := self, member := t.fab.member, down := t.fab.down } } ∧
        (entryGroup t self = entryGroup s s.fab.lid → t.col0 = s.col0 ∧ t.col1 = s.col1) ∧
        (entryGroup t self ≠ entryGroup s s.fab.lid → t.col0 = { s.col0 with ever := false, grp := 0 } ∧ t.col1 = { s.col1 with ever := false, grp := 0 })) ∧
      (s.col0.st = .free → s.col1.st = .free → snapqAsks s .c0 = [] → snapqAsks s .c1 = [] → ∀ e ∈ es, e.st = .failed → inService s e.lid = true →
        lostPkg s e.lid = false → lostPkg t e.lid = true ∧ HostMsg.lost e.lid ∈ t.host ∧
        ∀ line, e.lid ∉ (dirLine t line).shared ∧ (dirLine t line).owner ≠ some e.lid ∧ e.lid ∉ (dirLine t line).acks)) ∧
  (∀ (s : State) (i : Nat) (w : GroupWrite), s.boot.step = 8 →
    (i < 4096 → groupOk s w = true → (s.groups.map (fun e => e.1)).Nodup → Memory.wf s.mem = true → s.zmaps = [] →
      ∃ t d, exec (.writeGroupDescriptor 0 i w) s = .next t ∧ t = { s with groups := t.groups, mem := t.mem, l2 := t.l2 } ∧ groupDesc t i = some d ∧
        d.op = w.desc.extractLsb' 18 2 ∧ d.port = w.desc.extractLsb' 32 6 ∧ d.switch = w.desc.extractLsb' 48 16 ∧
        d.size = (w.desc.extractLsb' 64 64).toNat ∧ d.trec = w.desc.extractLsb' 128 128 ∧ d.mema = (w.desc.extractLsb' 256 64).toNat ∧
        d.members = w.array.map (fun e => ((e.extractLsb' 45 11).toNat, (e.extractLsb' 0 45).toNat)) ∧
        (∀ k j, k < w.array.length → j < 8 → dirByte t (d.mema + 8 * k + j) = (w.array.getD k 0).extractLsb' (8 * j) 8) ∧
        ((∀ r ∈ s.l2, r.peer = false → r.dirty = 0 → ∀ n, n < 128 → r.data.getD n 0 = Memory.byte s.mem (128 * r.line + n)) →
          ∀ a, (a < d.mema ∨ d.mema + 8 * w.array.length ≤ a) → dirByte t a = dirByte s a) ∧
        ∀ j, j ≠ i → groupDesc t j = groupDesc s j) ∧
    (∀ fn, (fn ≠ 0 ∨ 4096 ≤ i ∨ groupOk s w = false) → exec (.writeGroupDescriptor fn i w) s = .next { s with host := s.host ++ [.refused fn "group"] })) ∧
  (∀ (s : State) (ctx grp rate : Nat) (right : Bool) (r : CtxRow), s.boot.step = 8 → grp < 256 → ctxRow s ctx = some r →
    ∃ t : State, exec (.setSnapshotGroup 0 ctx grp { held := right, rate := rate }) s = .next t ∧ t = { s with ctxs := t.ctxs } ∧
      ctxRow t ctx = some { r with group := grp, right := right, rate := rate } ∧
      ∀ c, c ≠ ctx → ctxRow t c = ctxRow s c) ∧
  (∀ (s : State) (fn ctx page : Nat) (r : CtxRow), s.boot.step = 8 → ctxRow s ctx = some r → r.fn = fn →
    (∃ t : State, exec (.invalidateTranslation fn ctx page) s = .next t ∧ t = { s with invals := t.invals } ∧ (ctx, page) ∈ t.invals) ∧
    (∀ grp id, exec (.hostSnapshotRequest fn ctx grp id) s =
      .next { s with snapReqs := s.snapReqs ++ [{ src := .host ctx, group := grp, id := id }] }) ∧
    (∀ va pa bytes, va < 2 ^ 56 → va % 4096 + bytes.length ≤ 4096 → pa % 4096 + bytes.length ≤ 4096 → bytes ≠ [] →
      translateNow s ctx va .wr = .place (.mem pa va) → s.zmaps = [] → s.ptags = [] → ctxGaps s ctx true [(va, bytes.length)] = [] →
      ∃ t : State, exec (.hostPcieWrite fn ctx va bytes) s = .next t ∧ (∀ a, dirByte t a = if pa ≤ a ∧ a < pa + bytes.length then bytes.getD (a - pa) 0 else dirByte s a) ∧
        t.scr = s.scr ∧ t.vrf = s.vrf)) ∧
  (∀ (s : State) (fn ctx page grp va : Nat) (id : Word) (bytes : List Byte) (r : CtxRow), s.boot.step = 8 → ctxRow s ctx = some r → r.fn ≠ fn →
    exec (.invalidateTranslation fn ctx page) s = .next { s with host := s.host ++ [.refused fn "invalidation"] } ∧
    exec (.hostSnapshotRequest fn ctx grp id) s = .next { s with host := s.host ++ [.refused fn "snapshot"] } ∧
    exec (.hostPcieWrite fn ctx va bytes) s = .next { s with host := s.host ++ [.refused fn "write"] }) ∧
  (∀ (s : State) (ctx page : Nat), (ctx, page) ∈ s.invals → (∀ o ∈ s.ops, o.ctx ≠ ctx) → ∃ t : State, exec (.invalidationComplete ctx page) s = .next t ∧
    t = { s with tlb := t.tlb, invals := t.invals } ∧ (∀ b, tlbRow t b ctx page = none) ∧ (ctx, page) ∉ t.invals ∧
    ∀ r, r ∈ t.tlb ↔ r ∈ s.tlb ∧ ¬(r.ctx = ctx ∧ rowCovers page r = true)) ∧
  (∀ (s : State) (line : Nat),
    (∀ core, (∀ r ∈ s.l1, r.core = core → r.line = line → r.dirty = 0) → ∃ t : State, exec (.lineEviction (.l1 core) line) s = .next t ∧ t = { s with l1 := t.l1 } ∧
      ∀ r, r ∈ t.l1 ↔ r ∈ s.l1 ∧ ¬(r.core = core ∧ r.line = line)) ∧
    (∀ r, l2Line s false line = some r → r.dirty ≠ 0 → l2Line s true line = none → s.zmaps = [] → Memory.wf s.mem = true →
      ∃ t : State, exec (.lineEviction .l2 line) s = .next t ∧ t = { s with mem := t.mem, l2 := t.l2 } ∧ l2Line t false line = none ∧ Memory.wf t.mem = true ∧
        ∀ a, dirByte t a = dirByte s a) ∧
    (∀ r, l2Line s false line = none → l2Line s true line = some r → line ∉ s.fab.wbs →
      (r.dirty = 0 → ∃ t : State, exec (.lineEviction .l2 line) s = .next t ∧ t = { s with l2 := t.l2 } ∧ l2Line t true line = none ∧
        ∀ peer n, (peer, n) ≠ (true, line) → l2Line t peer n = l2Line s peer n) ∧
      (r.dirty ≠ 0 → r.owned = false → exec (.lineEviction .l2 line) s = .next s) ∧
      (r.dirty ≠ 0 → r.owned = true → s.fab.member = true → ∃ (t : State) (p : Packet), exec (.lineEviction .l2 line) s = .next t ∧
        t.fab.out = s.fab.out ++ [p] ∧ p.cls = 4 ∧ p.dst = line * 128 / 2 ^ 45 ∧ p.addr = 128 * line ∧ p.body = .data 3 r.dirty r.data r.psn ∧
        line ∈ t.fab.wbs ∧ ∃ x, l2Line t true line = some x ∧ x.dirty = 0 ∧ x.data = r.data)) ∧
    (l2Line s false line = none → line ∈ s.fab.wbs → exec (.lineEviction .l2 line) s = .next s)) ∧
  (∀ (s : State) (base size : Nat),
    ((base, size) ∉ s.boot.expanders → exec (.cxlExpanderLost base size) s = .next s) ∧
    ((base, size) ∈ s.boot.expanders → ∃ t : State, exec (.cxlExpanderLost base size) s = .next t ∧
      t = { s with boot := { s.boot with cxlLost := t.boot.cxlLost }, l1 := t.l1, l2 := t.l2 } ∧ (base, size) ∈ t.boot.cxlLost ∧
      (∀ a, base ≤ a → a < base + size → memPoisoned t a = true) ∧ (∀ a, (a < base ∨ base + size ≤ a) → memPoisoned t a = memPoisoned s a) ∧
      ((base, size) ∉ s.boot.cxlLost → ∀ line, (l2Line t false line = none ∨ line < base / 128 ∨ (base + size) / 128 ≤ line) ∧
        l2Line t true line = l2Line s true line))) ∧
  (∀ (s : State) (lid : Nat) (e : PodEntry), podEntry s lid = some e → (e.st = .live ∨ e.st = .retiring) → s.col0.st = .free → s.col1.st = .free →
    snapqAsks s .c0 = [] → snapqAsks s .c1 = [] →
    (lid ≠ s.fab.lid → lid ∉ s.fab.down → ∃ t : State, exec (.linkDetectionTimeout lid) s = .next t ∧
      t = { s with dir := t.dir, host := s.host ++ [.lost lid], gangs := t.gangs,
                   fab := { s.fab with parts := s.fab.parts.filter (fun p => p.src != lid), wbs := t.fab.wbs, down := lid :: s.fab.down } } ∧
      (∀ n, n ∈ t.fab.wbs ↔ n ∈ s.fab.wbs ∧ n * 128 / 2 ^ 45 ≠ lid) ∧ lostPkg t lid = true ∧
      ∀ line, lid ∉ (dirLine t line).shared ∧ (dirLine t line).owner ≠ some lid ∧ lid ∉ (dirLine t line).acks) ∧
    ((lid = s.fab.lid ∨ lid ∈ s.fab.down) → exec (.linkDetectionTimeout lid) s = .next s) ∧
    (lid ∉ s.fab.down → ∃ t : State, exec (.markPackageFailed lid) s = .next t ∧
      t = { s with pod := t.pod, dir := t.dir, host := s.host ++ [.lost lid], gangs := t.gangs,
                   fab := { s.fab with parts := s.fab.parts.filter (fun p => p.src != lid), wbs := t.fab.wbs } } ∧
      (∀ n, n ∈ t.fab.wbs ↔ n ∈ s.fab.wbs ∧ n * 128 / 2 ^ 45 ≠ lid) ∧ podEntry t lid = some { e with st := .failed, epoch := mapEpoch s + 1 } ∧
      lostPkg t lid = true ∧ (∀ n, n ≠ lid → podEntry t n = podEntry s n) ∧
      ∀ line, lid ∉ (dirLine t line).shared ∧ (dirLine t line).owner ≠ some lid ∧ lid ∉ (dirLine t line).acks) ∧
    (lid ∈ s.fab.down → ∃ t : State, exec (.markPackageFailed lid) s = .next t ∧ t = { s with pod := t.pod } ∧
      podEntry t lid = some { e with st := .failed, epoch := mapEpoch s + 1 } ∧ ∀ n, n ≠ lid → podEntry t n = podEntry s n))

/-! ## Queues, dispatch, residency (the events of 13_queues, 14_splicer, 02_execution) -/

/-- R254 to R258, R262 (13_queues), R275, R276, R282 to R284 (14_splicer), R113 (06_registers): a scan takes TAIL, or stops the queue with its code; the head
record is skipped, rejected with the status of R257's first row that fails and its completion record (R258), accepted as a launch, or waits; a splice pair is
refused and counted, or becomes one fused launch whose image and PC map are laid out as R282 and R283 have them; a launch's next cluster enters its cores, each gang
at the entry PC; a launch that is done ends with its completion record, or reports that it was dropped. The model's: lines that another package holds come
first (log entry 74, DEDUCED); a record is rejected at once (log entry 36, DEDUCED); a kernel whose code cannot be read and words that two tile entries name (log
entry 38, DEDUCED); placement takes what the launch asks for (log entry 55, DESIGN CHOICE); a growing portion writes back all of L1 (log entry 11, DESIGN
CHOICE). -/
def Obligations.DispatcherServes : Prop :=
  (∀ (s : State) (vf num n : Nat) (q : QueueRow), queueOf s vf num = some q → q.enabled = true → q.qerr = 0 →
    let pend := (n + 2 ^ 32 - q.head) % 2 ^ 32
    let readable := ∀ i, i < pend → pageOk s q.ctx (slotAt q (q.head + i)) .rd = true
    let header := headerOk s q = true ∧ readGaps s q.ctx [(q.base, 4)] = [] ∧ ctxNat s q.ctx q.base 4 .rd = some n
    let stops := ctxGaps s q.ctx true [(q.base, 128)] = [] ∧ ctxRoom s q.ctx [(q.base, 128)] = true
    ∃ t : State, exec (.queueScan vf num) s = .next t ∧ t.gangs = s.gangs ∧ t.launches = s.launches ∧
      (headerOk s q = false → queueOf t vf num = some { q with qerr := 2 } ∧ t.host = s.host ++ [.queueStopped vf num 2]) ∧
      (header → q.slots < pend → stops → queueOf t vf num = some { q with tail := n, qerr := 1 } ∧ t.host = s.host ++ [.queueStopped vf num 1]) ∧
      (header → pend ≤ q.slots → ¬readable → stops →
        queueOf t vf num = some { q with tail := n, qerr := 2 } ∧ t.host = s.host ++ [.queueStopped vf num 2]) ∧
      (header → pend ≤ q.slots → readable → (pend = 0 ∨ readGaps s q.ctx [(slotAt q q.head, 128)] = []) →
        t = { s with queues := t.queues } ∧ ∃ x : QueueRow, queueOf t vf num = some x ∧ x.tail = n ∧ x = { q with tail := n, seen := x.seen })) ∧
  (∀ (s : State) (vf num : Nat) (q x : QueueRow) (r : LaunchRec), queueOf s vf num = some q → headRecord s q = some r →
    readGaps s q.ctx [(slotAt q q.head, 128)] = [] →
    firstGaps [descGaps s q.ctx r, recordGaps s q.ctx r, ctxGaps s q.ctx true (takeWrites q r)] = [] → ctxRoom s q.ctx (takeWrites q r) = true →
    let s1 := noteSeen s q
    queueOf s1 vf num = some x →
    let s2 := if deafProducer s1 x r = true then countRefusal s1 q.ctx 0 else s1
    let malformed := r.kind = 2 ∨ r.rsvd = true ∨ 720896 < r.spbytes ∨ r.cpla % 16 ≠ 0 ∨ r.coll % 16 ≠ 0 ∨ 65536 * r.split < r.spbytes ∨ 12 ≤ r.split ∨
      (r.kind = 0 ∧ 4096 < r.gangs * r.width) ∨
      (r.kind ≠ 1 ∧ (r.cshape = 3 ∨ r.gx = 0 ∨ r.gy = 0 ∨ r.gz = 0 ∨ r.entry % 16 ≠ 0 ∨ pageOk s1 q.ctx r.entry .ex = false)) ∨
      (r.kind = 1 ∧ (r.poolN = 0 ∨ 2 ^ 24 < r.poolN ∨ r.poolA % 64 ≠ 0 ∨ ∃ e ∈ pageParts r.poolA (poolBytes r), pageOk s1 q.ctx (e.1 + e.2 - 1) .rd = false))
    let right := r.snap = true ∧ ∀ c, ctxRow s1 q.ctx = some c → c.right = false
    let barrier := recordBarriers s1 q.ctx r = false
    let pool := r.kind = 1 ∧ poolRefused s1 q.ctx r = true
    let refused := fun st : Nat => rejectStatus s1 q.ctx r = some st
    let goes := headHeld s1 x = false ∧ r.kind ≠ 3 ∧ isProducer s1 x r = false
    (malformed → refused 4) ∧ (¬malformed → right → refused 6) ∧ (¬malformed → ¬right → barrier → refused 7) ∧
    (¬malformed → ¬right → ¬barrier → pool → refused 5) ∧
    (¬malformed → ¬right → ¬barrier → ¬pool → (refused 4 ↔ bindingOf s1 q.ctx r.coll (recordBlocks s1 q.ctx r) = .error ()) ∧
      (r.coll = 0 → rejectStatus s1 q.ctx r = none)) ∧
    ∃ (t : State) (y : QueueRow), exec (.recordAccept vf num) s = .next t ∧ queueOf t vf num = some y ∧ t.gangs = s.gangs ∧ t.vrf = s.vrf ∧
      (headHeld s1 x = true → t = s1) ∧
      (headHeld s1 x = false → r.kind = 3 → y.head = (q.head + 1) % 2 ^ 32 ∧ t.launches = s.launches) ∧
      (r.kind ≠ 3 → isProducer s1 x r = true → t = s1) ∧
      (∀ st, goes → refused st → y.head = (q.head + 1) % 2 ^ 32 ∧ t.launches = s.launches ∧ (r.cpla = 0 → t = advanceHead s2 x false) ∧
        (r.cpla ≠ 0 → (∀ u, ctxWrite s2 q.ctx r.cpla (leBytes st 4 ++ leBytes 0 4 ++ leBytes 0 8) = some u → t = advanceHead u x false) ∧
          (ctxWrite s2 q.ctx r.cpla (leBytes st 4 ++ leBytes 0 4 ++ leBytes 0 8) = none → t = advanceHead (tellHost s2 (.completionDropped 0 st)) x false))) ∧
      (r.kind ≠ 3 → rejectStatus s1 q.ctx r = none → recordWaits s1 x r = true → t = s1) ∧
      (goes → rejectStatus s1 q.ctx r = none → recordWaits s1 x r = false → y.head = (q.head + 1) % 2 ^ 32 ∧
        ∃ l : Launch, t.launches = s.launches ++ [l] ∧ l.id = s.fresh ∧ t.fresh = s.fresh + 1 ∧ l.ctx = q.ctx ∧ l.pool = (r.kind == 1) ∧ l.width = r.width ∧
          l.banks = r.banks ∧ l.gangs = r.gangs ∧ l.entry = BitVec.ofNat 64 r.entry ∧ l.param = r.param ∧ (l.gx, l.gy, l.gz) = (r.gx, r.gy, r.gz) ∧
          l.cpla = r.cpla ∧ l.next = 0 ∧ l.ended = 0 ∧ l.fatal = none ∧ l.fused = none ∧ (r.wv = false → r.av = false → t.bars = s.bars))) ∧
  (∀ (s : State) (vf num : Nat) (q x qc : QueueRow) (p c : LaunchRec), queueOf s vf num = some q → headRecord s q = some p → slotGaps s q = [] →
    descGaps s q.ctx p = [] → recordGaps s q.ctx p = [] →
    let s1 := noteSeen s q
    queueOf s1 vf num = some x → headHeld s1 x = false → isProducer s1 x p = true → rejectStatus s1 x.ctx p = none → recordWaits s1 x p = false →
    partnerOf s1 x p = some (qc, c) → firstGaps [descGaps s1 qc.ctx c ++ recordGaps s1 qc.ctx c, kernGaps s1 x.ctx p ++ kernGaps s1 qc.ctx c] = [] →
    ∃ t : State, exec (.spliceDecide vf num) s = .next t ∧ t.gangs = s.gangs ∧ t.vrf = s.vrf ∧
      (∀ e : Nat, planOf s1 x.ctx qc.ctx p c = .error e → ctxGaps s1 x.ctx true (takeWrites x p) = [] → ctxRoom s1 x.ctx (takeWrites x p) = true →
        ∃ l : Launch, t.launches = s.launches ++ [l] ∧ l.fused = none ∧ l.kid = p.kid ∧
          ∀ k : CtxRow, ctxRow s x.ctx = some k → e < 6 → ∃ k2 : CtxRow, ctxRow t x.ctx = some k2 ∧ k2.refusals.getD e 0 = k.refusals.getD e 0 + 1) ∧
      (∀ (pl : Plan) (qd : QueueRow), planOf s1 x.ctx qc.ctx p c = .ok pl → c.serial = false →
        let d := decided s1 x qc p c pl
        let s2 := setQueue s1 { x with plan := some d }
        partnerThere s2 x d = some qd → arenaInUse s2 x.ctx pl.pd.arena = false → ctxGaps s2 x.ctx true (planWrites d x qd) = [] →
        ctxRoom s2 x.ctx (planWrites d x qd) = true →
        let s3 := if arenaHolds s2 x.ctx pl.pd.arena (arenaUnits pl) = true then s2 else writeArena s2 x.ctx pl.pd.arena (arenaUnits pl)
        t = advancePair (modCtx (refLaunch (addLaunch s3 { d.launch with id := s3.fresh }) d.launch) x.ctx (fun k => { k with spliced := k.spliced + 1 })) x qd ∧
        ∃ (l : Launch) (f : Fused), t.launches = s.launches ++ [l] ∧ l.fused = some f ∧ l.entry = BitVec.ofNat 64 pl.pd.arena ∧
          l.banks = (pl.np + pl.cd.regs) / 16 ∧ l.kid = p.kid ∧ f.kidC = c.kid ∧ f.queueC = qc.num ∧ f.np = pl.np ∧ f.up = pl.up ∧ f.arena = pl.pd.arena ∧
          f.npkt = pl.p.pks.length + pl.c.pks.length ∧
          ∀ k : CtxRow, ctxRow s x.ctx = some k → ∃ k2 : CtxRow, ctxRow t x.ctx = some k2 ∧ k2.spliced = k.spliced + 1)) ∧
  (∀ pl : Plan,
    let order := fusedOrder pl
    let n := pl.p.pks.length + pl.c.pks.length
    let rank := fun e : Bool × Nat => if e.1 then 2 * pl.c.part e.2 + 1 else 2 * pl.p.part e.2
    let kern := fun e : Bool × Nat => if e.1 then pl.c else pl.p
    let place := fun (side : Bool) (i : Nat) => order.findIdx (fun e => e == (side, i))
    let unit := fun u : Nat => (arenaUnits pl).getD u []
    order.length = n ∧ (arenaUnits pl).length = 2 * n ∧ (∀ side i, (side, i) ∈ order ↔ i < (kern (side, i)).pks.length) ∧
    order.Pairwise (fun a b => rank a < rank b ∨ rank a = rank b ∧ a.2 < b.2) ∧
    ∀ (j : Nat) (e : Bool × Nat), order[j]? = some e →
      let old := fun w : Nat => ((kern e).pks.getD e.2 []).getD w 0
      let new := fun w : Nat => (fusePacket pl order j e).getD w 0
      unit j = (List.range 4).flatMap (fun w => leBytes (new w).toNat 4) ∧ new 3 = old 3 ∧
      (∀ w, w < 3 → e.1 = false → pl.p.word e.2 w = none → new w = old w) ∧
      (∀ w (i : Instr), w < 3 → e.1 = false → pl.p.word e.2 w = some i → i ≠ .exitW → targetOf e.2 i = none → (∀ m, i ≠ .mod m) → new w = old w) ∧
      (∀ w (g : BitVec 3) (neg : Bool) (off : BitVec 20), w < 3 → e.1 = false → pl.p.word e.2 w = some (.bra g neg off) →
        new w = (if e.2 = pl.p.so + pl.p.sl - 1 ∧ pl.p.back = some w then withC (old w) (.nop 0)
          else withC (old w) (.bra g neg (offTo j (fusedIndex order false (e.2 + off.toInt).toNat))))) ∧
      (∀ w, w < 3 → e.1 = false → pl.p.part e.2 = 2 → pl.p.word e.2 w = some .exitW →
        let m := (modBefore pl.p e.2 w).getD plainMod
        new w = withC (old w) (.bra m.pred m.pneg (offTo j (fusedIndex order true (pl.c.so + pl.c.sl)))) ∧ (w ≠ 0 → modBefore pl.p e.2 w ≠ none →
          new (w - 1) = withC (old (w - 1)) (.nop 0))) ∧
      (∀ w (i : Instr), w < 3 → e.1 = true → pl.c.word e.2 w = some i → targetOf e.2 i = none →
        new w = withC (old w) (mapRegs (planRenum pl.np pl.up pl.pm pl.xm pl.mm) i)) ∧
      (∀ w (g : BitVec 3) (neg : Bool) (off : BitVec 20), w < 3 → e.1 = true → pl.c.word e.2 w = some (.bra g neg off) →
        new w = withC (old w) (.bra (BitVec.ofNat 3 (mapped pl.pm g.toNat)) neg (offTo j
          (if e.2 = pl.c.so + pl.c.sl - 1 ∧ pl.c.back = some w then fusedIndex order false pl.p.so else fusedIndex order true (e.2 + off.toInt).toNat)))) ∧
      (∀ side i, i < (kern (side, i)).pks.length → fusedIndex order side i = place side i ∧ order[place side i]? = some (side, i)) ∧
      ∃ kinds pair : Nat, unit (n + j) = leBytes (2 ^ 63 + kinds * 2 ^ 57 + (if e.1 then 2 ^ 56 else 0) + ((kern e).entry + 16 * e.2) % 2 ^ 56 + pair) 8 ++
          List.replicate 8 0 ∧
        (tileKind pl e = none → kinds = 0 ∧ pair = 0) ∧ (∀ w k no, tileKind pl e = some (w, k, no) → kinds = k * 4 ^ w ∧ pair = no ∧ (k = 3 ↔ e.1 = true))) ∧
  (∀ (s : State) (l : Launch) (p : Placement), launchOf s l.id = some l → dispatchTurn s l.id = true → placementOk s l p = true →
    ∃ t : State, exec (.placeBlock l.id p) s = .next t ∧ launchOf t l.id = some { l with next := l.next + 1 } ∧
      t.blocks.map (fun b => (b.launch, b.index, b.core)) = s.blocks.map (fun b => (b.launch, b.index, b.core)) ++
        (p.cores.zip (clusterBlocks l l.next)).map (fun e => (l.id, e.2, e.1)) ∧
      (∀ core, p.cores = [core] → l.pool = false → (∀ g ∈ s.gangs, g.gid < s.fresh ∧ (g.core = core → g.parked = false)) →
        ∃ gs : List Gang, t.gangs = s.gangs ++ gs ∧ gs.length = l.gangs ∧ ∀ g ∈ gs, g.core = core ∧ g.launch = l.id ∧
          g.ctx = l.ctx ∧ g.width = l.width ∧ g.banks = l.banks ∧ g.pend = [] ∧ g.blocked = none ∧ g.handler = false ∧ g.entry = l.entry ∧
          g.lanes = (List.range l.width).map (fun i => { num := i, pc := l.entry, st := .eligible, yield := false, x := List.replicate 8 0, p := 0 }))) ∧
  (∀ (s : State) (l : Launch), launchOf s l.id = some l → launchDone s l = true → l.fused = none → l.wv = false → l.av = false →
    (∀ r ∈ s.l1, r.ctx = l.ctx → r.dirty = 0) → (∀ r ∈ s.l2, r.ctx = l.ctx → r.peer = true → r.dirty = 0 ∨ r.owned = true) →
    (l.cpla = 0 → ∃ t : State, exec (.launchEnd l.id) s = .next t ∧ t = { s with launches := t.launches } ∧ launchOf t l.id = none) ∧
    (l.cpla ≠ 0 → ctxGaps s l.ctx true [(l.cpla, 16)] = [] → ctxRoom s l.ctx [(l.cpla, 16)] = true →
      let f := l.fatal.getD { status := 0, code := 0, block := 0, pc := 0, clock := 0 }
      let bytes := leBytes (256 * f.code + f.status) 4 ++ leBytes f.block 4 ++ leBytes f.pc 8
      ∃ t : State, exec (.launchEnd l.id) s = .next t ∧ launchOf t l.id = none ∧ (∀ u, ctxWrite s l.ctx l.cpla bytes = some u → t = { u with launches := t.launches }) ∧
        (ctxWrite s l.ctx l.cpla bytes = none → t = { s with launches := t.launches, host := s.host ++ [.completionDropped l.id f.status] })))

/-- R30, R31, R39 (02_execution), R114, R115 (06_registers), R189 (09_memories), R263 (13_queues), R156, R165, R166 (08_isa_control), R357 (19_host_firmware): the
scratchpad portion shrinks for the waiting launch that comes first; pre-empted gangs stop between bundles with their state; a claimed slice is saved under its
owner's entry, zeroed, and passes on; a block comes back, its portion grown again; a unit changes owners as zeros; a gang and a block end; KILL enters the handler
of its class, or ends the gang; the watchdog reports. The model's: KILL empties the sections, and its STATUS is written as the gang ends (log entry 30, DEDUCED);
what is pre-empted and where blocks are placed (log entry 55, DESIGN CHOICE); a window loses its last range alone (log entry 83, DEDUCED); when a frame passes to
another owner (log entry 84, DEDUCED); a growing portion writes back all of L1 (log entry 11, DESIGN CHOICE). -/
def Obligations.ResidencyChanges : Prop :=
  (∀ (s : State) (core steps : Nat) (l : Launch), splitAsker s core = some l → l ∈ s.launches ∧ hasNext l = true ∧ l.split ≠ splitOf s core ∧
    (∀ x ∈ s.launches, hasNext x = true → x.split ≠ splitOf s core → x.prio ≤ 7 → l.prio ≤ 7 → x.prio ≤ l.prio) ∧
    (steps < splitOf s core → l.split ≤ steps → (∀ r ∈ s.banks, r.core = core → r.idx < 16 * steps) →
      ∃ t : State, exec (.scratchpadShrink core steps) s = .next t ∧ t = { s with splits := t.splits } ∧
        splitOf t core = steps ∧ ∀ c, c ≠ core → splitOf t c = splitOf s c) ∧
    ((steps < l.split ∨ ∃ r ∈ s.banks, r.core = core ∧ 16 * steps ≤ r.idx) → exec (.scratchpadShrink core steps) s = .next s)) ∧
  (∀ (s : State) (b : Block), blockOf s b.id = some b → b.away = false → ∃ t : State, exec (.timeSliceEnd [b.id]) s = .next t ∧
    t = { s with gangs := t.gangs, blocks := t.blocks } ∧ blockOf t b.id = some { b with away := true } ∧ ∀ n g, gangOf s n = some g →
      gangOf t n = some (if g.blk = b.id then { g with away := true, perf := { g.perf with preempts := g.perf.preempts + 1 } } else g)) ∧
  (∀ (s : State) (core part idx v n b k : Nat) (r : SliceRow) (g h : Gang), sliceRow s core part idx = some r → r.st = .claimed v n → gangOf s v = some g →
    sliceHolder s core part idx = some (h, b, k) → sliceTargeted s g b k = false → Sparse.wf 0#32 s.vrf = true →
    h.gid = v ∧ ∃ t : State, exec (.sliceClaim (.slice core part idx)) s = .next t ∧ (sliceRow t core part idx).map (fun x => x.st) = some (.held n) ∧
      t.mem = s.mem ∧ t.scr = s.scr ∧
      ((∀ x ∈ s.gangs, x.core = core → x.load = false) → (∀ i, i < 128 → Sparse.get 0#32 t.vrf (sliceKey core part idx + i) = 0) ∧
        ∀ j, (j < sliceKey core part idx ∨ sliceKey core part idx + 128 ≤ j) → Sparse.get 0#32 t.vrf j = Sparse.get 0#32 s.vrf j) ∧
      ∃ x : Saved, x ∈ t.saved ∧ x.key = .slice v b k ∧ ∀ i, i < 128 → Sparse.get 0#32 x.words i = Sparse.get 0#32 s.vrf (sliceKey core part idx + i)) ∧
  (∀ (s : State) (b : Block) (p : Placement), blockOf s b.id = some b → (s.gangs.map (fun g => g.gid)).Nodup →
    let s1 := regrow s b
    (resumeOk s1 b (s1.gangs.filter (fun g => g.blk == b.id)) = false → exec (.resumeBlock b.id p) s = .next s) ∧
    (resumeOk s1 b (s1.gangs.filter (fun g => g.blk == b.id)) = true →
      ∃ (t : State) (x : Block), exec (.resumeBlock b.id p) s = .next t ∧ blockOf t b.id = some x ∧ x.away = false ∧ x.core = b.core ∧
      (∀ l, launchOf s b.launch = some l → l.split ≤ splitOf t b.core) ∧
      (∀ (n : Nat) (g : Gang), gangOf s n = some g → ∃ h : Gang, gangOf t n = some h ∧ h.lanes = g.lanes ∧ h.pend = g.pend ∧ h.k = g.k ∧ (g.blk = b.id → h.away = false) ∧
        (g.blk ≠ b.id → h = g)) ∧
      (s.saved = [] → t = { s1 with blocks := t.blocks, gangs := t.gangs }))) ∧
  (∀ (s : State) (ctx : Nat),
    (∀ core idx, bankRow s core idx = none → Memory.wf s.scr = true → ∃ t : State, exec (.ownerChangeZero (.bank core idx) ctx) s = .next t ∧
      ∀ a, Memory.byte t.scr a = if scrKey core idx 0 ≤ a ∧ a < scrKey core idx 0 + 4096 then 0 else Memory.byte s.scr a) ∧
    (∀ core part idx, sliceRow s core part idx = none → Sparse.wf 0#32 s.vrf = true → ∃ t : State, exec (.ownerChangeZero (.slice core part idx) ctx) s = .next t ∧
      ∀ j, Sparse.get 0#32 t.vrf j = if sliceKey core part idx ≤ j ∧ j < sliceKey core part idx + 128 then 0 else Sparse.get 0#32 s.vrf j) ∧
    (∀ core bank, accOf s core bank = none → Memory.wf s.acc = true → ∃ t : State, exec (.ownerChangeZero (.acc core bank) ctx) s = .next t ∧
      ∀ a, Memory.byte t.acc a = if accKey core bank 0 ≤ a ∧ a < accKey core bank 0 + 32768 then 0 else Memory.byte s.acc a) ∧
    (∀ va frame size, leafNames s ctx va frame size = true → frameBusy s frame size = false → pageRoom s frame size = true →
      frameGaps s frame size = [] → ∃ t : State, exec (.ownerChangeZero (.page va frame size) ctx) s = .next t ∧ (frame, size, ctx) ∈ t.owners ∧
        ∀ a, frame ≤ a → a < frame + size → dirByte t a = 0) ∧
    (∀ die idx, rangeBusy s die idx = false → lastRange s die idx = true → (die, idx, ctx) ∉ s.ranges → unitRoom (wrPost 0) (.range die idx) die s = true →
      (ctx = 0 ∨ (ctxRow s ctx).isSome = true) → Memory.wf s.dsc = true → ∃ t : State, exec (.ownerChangeZero (.range die idx) ctx) s = .next t ∧
        (∀ a, Memory.byte t.dsc a = if dscKey die idx 0 ≤ a ∧ a < dscKey die idx 0 + 4096 then 0 else Memory.byte s.dsc a) ∧
        (∀ c, (die, idx, c) ∈ t.ranges ↔ c = ctx ∧ ctx ≠ 0) ∧ (ctx ≠ 0 → idx ∈ windowOf t ctx die))) ∧
  (∀ (s : State) (g : Gang), gangOf s g.gid = some g → gangDone s g = true → (s.gangs.map (fun x => x.gid)).Nodup → ∃ t : State, exec (.gangEnd g.gid) s = .next t ∧ gangOf t g.gid = none ∧ t.mem = s.mem ∧
    (∀ n h, n ≠ g.gid → gangOf s n = some h → h.parked = false → gangOf t n = some h) ∧
    ((∃ h ∈ s.gangs, h.gid ≠ g.gid ∧ h.blk = g.blk) → t.blocks = s.blocks ∧ t.scr = s.scr ∧ (g.killed = false → t.launches = s.launches) ∧
      (g.killed = true → ∀ l, launchOf s g.launch = some l → l.fatal = none →
        launchOf t g.launch = some { l with fatal := some { status := 3, code := 0, block := 0, pc := 0, clock := s.clock } })) ∧
    (g.killed = false → (∀ h ∈ s.gangs, h.gid ≠ g.gid → h.blk ≠ g.blk) → ∀ b l, blockOf s g.blk = some b → launchOf s b.launch = some l →
      blockOf t g.blk = none ∧ launchOf t b.launch = some { l with ended := l.ended + 1 } ∧ (∀ r ∈ t.recs, r.blk ≠ b.id) ∧ (∀ a ∈ t.accs, a.blk ≠ b.id))) ∧
  (∀ (s : State) (g : Gang) (fn : Nat), gangOf s g.gid = some g →
    (fn ≠ 0 → exec (.kill fn g.gid) s = .next { s with host := s.host ++ [.refused fn "KILL"] }) ∧
    (g.dead = false → g.pend = [] → g.lanes.length = g.width → g.width ≤ 64 → (∃ x ∈ g.lanes, x.st ≠ .exited) → vectorGaps s g.ctx 7 = [] →
      ∃ (t : State) (x : Gang), exec (.kill 0 g.gid) s = .next t ∧ gangOf t g.gid = some x ∧ x.blocked = none ∧ x.serial = [] ∧ x.killed = true ∧ t.vrf = s.vrf ∧
      t.launches = s.launches ∧
      (∀ h : Nat, vectorEntry s g.ctx 7 = some h → h ≠ 0 → h < 2 ^ 64 → pcOk g (BitVec.ofNat 64 h) = true →
        x.handler = true ∧ x.csr.fltcode = 0x70 ∧ x.csr.fltmask = x.trapLanes ∧
        (∀ l, l < g.lanes.length → ((∃ y ∈ g.lanes, y.st = .held ∨ ∃ m, y.st = .waiting m) → (laneAt x l).yield = false) ∧
          ((∀ y ∈ g.lanes, y.st = .eligible ∨ y.st = .exited) → (laneAt x l).yield = (laneAt g l).yield)) ∧
        ∀ l, l < g.lanes.length → x.trapLanes.getLsbD l = decide ((laneAt g l).st ≠ .exited) ∧
          ((laneAt g l).st = .exited → (laneAt x l).st = .exited) ∧ ((laneAt g l).st ≠ .exited → (laneAt x l).st = .eligible ∧ (laneAt x l).pc = BitVec.ofNat 64 h)) ∧
      ((vectorEntry s g.ctx 7 = some 0 ∨ vectorEntry s g.ctx 7 = none) → x.handler = false ∧ ∀ y ∈ x.lanes, y.st = .exited))) ∧
  (∀ (s : State) (g : Gang), gangOf s g.gid = some g →
    (g.killed = true → g.handler = true → ∃ (t : State) (x : Gang), exec (.killHandlerTimeout g.gid) s = .next t ∧ OnlyGang s t g.gid ∧ gangOf t g.gid = some x ∧
      x.handler = false ∧ ∀ y ∈ x.lanes, y.st = .exited) ∧
    (g.dead = false → g.away = false → g.blocked ≠ none → g.width ≤ 64 → ∃ pc : Addr, exec (.stallWatchdog g.gid) s = .next { s with host := s.host ++ [.stalled g.launch g.blk pc] } ∧
      ∀ l, l < g.width → (laneAt g l).st ≠ .exited → pc.toNat ≤ (laneAt g l).pc.toNat))

/-! ## Packets and collectives (the events of 18_fabric_collectives) -/

/-- R342 to R344, R347, R348 (18_fabric_collectives), R204, R207, R210 (10_consistency), R314 (16_snapshot), R340 (17_isa_sync_system): what each class of packet
does at the package that receives it, its number then covered: line data to readers, a grant once nobody else holds the line, bytes written at home under
their mask with an acknowledgement, atomic groups in lane order with the old values returned, telltales that cut or wait. The model's: the bodies' layout and
the acknowledgement tags (log entry 6, DESIGN CHOICE); the parts of an atomic group (log entry 75, DESIGN CHOICE); data of failed packages (log entry 76,
DEDUCED); apertures and reserved classes (log entry 41, DEDUCED); what must wait stays undelivered, and held telltales (log entry 40, DEDUCED); an answer to a
read is kept only where the line has not been invalidated since it was asked for, and a recall waits for a grant on its way (log entry 86, DEDUCED); what an engine
keeps (log entry 87, DEDUCED); which packets are taken (log entry 8, DESIGN CHOICE). -/
def Obligations.PacketsAct : Prop :=
  (∀ (s : State) (p : Packet) (tag core : Nat) (rem : Bool), Arrives s 0 p → p.body = .req tag rem core → p.addr / 2 ^ 45 = s.fab.lid →
    let line := p.addr % 2 ^ 45 / 128
    (rem = true → ∃ t : State, exec (.readRequest p) s = .next t ∧ Came t p ∧ t = { s with fab := t.fab, dir := t.dir } ∧
      (dirLine t line).reqs = (dirLine s line).reqs ++ [{ src := p.src, own := false, tag := tag, rem := true, core := core }]) ∧
    (rem = false → freeFor s line p.src false = true → engineHolds s line = false → ∃ (t : State) (q : Packet), exec (.readRequest p) s = .next t ∧ Came t p ∧ t = { s with fab := t.fab, dir := t.dir } ∧
      p.src ∈ (dirLine t line).shared ∧ t.fab.out = s.fab.out ++ [q] ∧ q.dst = p.src ∧ q.cls = 1 ∧ q.addr = s.fab.lid * 2 ^ 45 + 128 * line ∧
      ∃ psn, q.body = .data tag (BitVec.allOnes 128) (dirBytes s (128 * line) 128) psn)) ∧
  (∀ (s : State) (p : Packet), Arrives s 1 p →
    (∀ (tag : Nat) (mask : BitVec 128) (bytes : List Byte) (psn : BitVec 4), p.body = .data tag mask bytes psn → bytes.length = 128 →
      ((∀ x ∈ s.l1, x.dirty = 0) ∨ ∀ o ∈ s.ops, ∀ q ∈ o.pieces, q.st = .sent → onLine (p.addr / 128) q.place = false) →
      let line := p.addr / 128
      let out := s.fab.reads.find? (fun e => e.1 == line && e.2.1 == tag)
      ∃ t : State, exec (.readData p) s = .next t ∧ Came t p ∧ t.mem = s.mem ∧ t.vrf = s.vrf ∧ (out = none → t = { s with fab := t.fab }) ∧
      (∀ ok, out = some (line, tag, ok) → (∀ e ∈ t.fab.reads, ¬(e.1 = line ∧ e.2.1 = tag)) ∧
        ((ok = false ∨ line ∈ s.fab.wbs ∨ homeBusy s 0 line = true) → t.l2 = s.l2) ∧
        (ok = true → line ∉ s.fab.wbs → homeBusy s 0 line = false → ∃ r : L2Line, l2Line t true line = some r ∧ r.filled = true ∧
          (l2Line s true line = none → r.data = bytes) ∧
          (∀ r0 : L2Line, l2Line s true line = some r0 → r.dirty = r0.dirty ∧ r.owned = r0.owned ∧ (r0.filled = true → r = r0) ∧
            (r0.filled = false → ∀ i, i < 128 → r.data.getD i 0 = if r0.dirty.getLsbD i then r0.data.getD i 0 else bytes.getD i 0)) ∧
          ∀ (o : Op) (i : Nat) (q : Piece) (ga va : Nat), opOf s o.id = some o → (∃ a b c scope d rem, o.kind = .load a b c scope d rem ∧
            (rem = true ∨ scopePlace scope = 2)) → o.pieces[i]? = some q → q.st = .sent → q.place = .peer ga va → ga / 128 = line → tag = tagOf o.id i →
            ∃ (x : Op) (ps : List Nat), opOf t o.id = some x ∧ x.pieces[i]? = some { q with st := .done, data := (r.data.drop (ga % 128)).take q.len, psn := ps }))) ∧
    (∀ (o : Op) (i : Nat) (q : Piece) (grp off va : Nat) (d : GroupSpec) (vals : List (List Byte)) (psn : List Nat), opOf s o.id = some o →
      (∃ a b c scope e rem, o.kind = .load a b c scope e rem) → o.pieces[i]? = some q → i < 4096 → q.st = .sent → q.place = .mcast grp off va →
      groupDesc s grp = some d → vals.length = d.members.length → (∀ v ∈ vals, v.length = q.len) → p.body = .mvals (tagOf o.id i) vals psn →
      ∃ t : State, exec (.readData p) s = .next t ∧ Came t p ∧
        opOf t o.id = some { o with pieces := o.pieces.set i { q with st := .done, data := reduceAll d vals, psn := psn } }) ∧
    (∀ (o : Op) aop wide scope ord rem ret d gs (i : Nat) (x : AtomGroup) olds psn, opOf s o.id = some o → o.kind = .atom aop wide scope ord rem ret d gs → gs[i]? = some x → i < 4096 →
      x.st = .sent → s.fab.parts.filter (sameGroup p) = [] → p.body = .olds (tagOf o.id i) 0 olds.length olds psn →
      ∃ t : State, exec (.readData p) s = .next t ∧ Came t p ∧
        opOf t o.id = some { o with kind := .atom aop wide scope ord rem ret d (gs.set i { x with st := .done, olds := olds, psn := psn }) } ∧
        (isAcq ord = false → (∀ ga va, x.place = .peer ga va → l2Line s true (ga / 128) = none ∧ l1Line s o.core true (ga / 128) = none) →
          t = { s with ops := t.ops, fab := t.fab }))) ∧
  (∀ (s : State) (p : Packet), Arrives s 2 p → p.addr / 2 ^ 45 = s.fab.lid → engineHolds s (p.addr % 2 ^ 45 / 128) = false →
    let line := p.addr % 2 ^ 45 / 128
    (freeFor s line p.src true = true → ∃ (t : State) (q : Packet), exec (.ownershipRequest p) s = .next t ∧ Came t p ∧ t = { s with fab := t.fab, dir := t.dir } ∧
      (dirLine t line).owner = some p.src ∧ (dirLine t line).shared = [] ∧ t.fab.out = s.fab.out ++ [q] ∧ q.dst = p.src ∧ q.cls = 3 ∧ q.addr = p.addr) ∧
    (freeFor s line p.src true = false → ∃ t : State, exec (.ownershipRequest p) s = .next t ∧ t = { s with fab := t.fab, dir := t.dir } ∧
      (dirLine t line).owner = (dirLine s line).owner ∧
      ∀ h, (h ∈ (dirLine s line).shared ∨ (dirLine s line).owner = some h) → h ≠ p.src → h ∈ (dirLine t line).acks ∧
        (h ∉ (dirLine s line).acks → ∃ q ∈ t.fab.out, q.dst = h ∧ q.cls = 5 ∧ q.addr = s.fab.lid * 2 ^ 45 + 128 * line))) ∧
  (∀ (s : State) (p : Packet), Arrives s 3 p →
    let line := p.addr / 128
    ∃ t : State, exec (.ownershipGrant p) s = .next t ∧ Came t p ∧ t = { s with l2 := t.l2, fab := t.fab, gangs := t.gangs } ∧ t.fab.out = s.fab.out ∧
      (line ∉ s.fab.owns → t = { s with fab := t.fab } ∧ t.fab.mine = s.fab.mine) ∧
      (line ∈ s.fab.owns → line ∈ t.fab.mine ∧ line ∉ t.fab.owns ∧ (l2Line s true line = none → t.l2 = s.l2) ∧
        ∀ r : L2Line, l2Line s true line = some r → l2Line t true line = some { r with owned := true, who := [] })) ∧
  (∀ (s : State) (p : Packet) (tag : Nat) (mask : BitVec 128) (bytes : List Byte) (psn : BitVec 4), Arrives s 4 p → p.addr / 2 ^ 45 = s.fab.lid →
    p.body = .data tag mask bytes psn → s.zmaps = [] → s.ptags = [] → lostPkg s p.src = false →
    let line := p.addr % 2 ^ 45 / 128
    (tag ≠ 0 → engineHolds s line = false → freeFor s line p.src true = true → ∃ (t : State) (q : Packet), exec (.storeData p) s = .next t ∧ Came t p ∧ LinePut s t line mask bytes ∧ t.scr = s.scr ∧
      t.fab.out = s.fab.out ++ [q] ∧ q.dst = p.src ∧ q.cls = 6 ∧ q.addr = p.addr ∧ q.body = .ack tag) ∧
    (tag = 0 → ∃ t : State, exec (.storeData p) s = .next t ∧ Came t p ∧ LinePut s t line mask bytes ∧ t.fab.out = s.fab.out ∧ p.src ∉ (dirLine t line).datas ∧
      (dirLine t line).owner ≠ some p.src)) ∧
  (∀ (s : State) (p : Packet), Arrives s 5 p →
    let line := p.addr / 128
    (line ∈ s.fab.wbs ∨ p.body = .ack 1 ∧ (line ∉ s.fab.mine ∨ engineKeeps s line = true)) → exec (.invalidation p) s = .next s) ∧
  (∀ (s : State) (p : Packet), Arrives s 5 p → p.addr / 128 ∉ s.fab.wbs →
    (p.body = .ack 1 → p.addr / 128 ∈ s.fab.mine ∧ engineKeeps s (p.addr / 128) = false) →
    (∃ t : State, exec (.invalidation p) s = .next t ∧ p.addr / 128 ∉ t.fab.mine ∧ ∀ e ∈ t.fab.reads, e.1 = p.addr / 128 → e.2.2 = false) ∧
    (l2Line s true (p.addr / 128) = none → ∃ (t : State) (q : Packet), exec (.invalidation p) s = .next t ∧ Came t p ∧ t.l2 = s.l2 ∧ t.fab.out = s.fab.out ++ [q] ∧ q.dst = p.src ∧
      q.cls = 6 ∧ q.addr = p.addr ∧ q.body = .ack 0 ∧ ∀ r ∈ t.l1, ¬(r.peer = true ∧ r.line = p.addr / 128 ∧ r.dirty = 0)) ∧
    (∀ r, l2Line s true (p.addr / 128) = some r → r.dirty = 0 → ∃ (t : State) (q : Packet), exec (.invalidation p) s = .next t ∧ Came t p ∧ l2Line t true (p.addr / 128) = none ∧
      t.fab.out = s.fab.out ++ [q] ∧ q.dst = p.src ∧ q.cls = 6 ∧ q.body = .ack 0) ∧
    (∀ r, l2Line s true (p.addr / 128) = some r → r.dirty ≠ 0 → r.owned = false → ∃ (t : State) (q : Packet), exec (.invalidation p) s = .next t ∧ Came t p ∧
      l2Line t true (p.addr / 128) = some { r with filled := false } ∧ t.fab.out = s.fab.out ++ [q] ∧ q.dst = p.src ∧ q.cls = 6 ∧ q.body = .ack 0) ∧
    (∀ r, l2Line s true (p.addr / 128) = some r → r.dirty ≠ 0 → r.owned = true → ∃ (t : State) (q1 q2 : Packet), exec (.invalidation p) s = .next t ∧ Came t p ∧
      l2Line t true (p.addr / 128) = none ∧ t.fab.out = s.fab.out ++ [q1, q2] ∧ q1.dst = p.src ∧ q1.cls = 4 ∧ q1.addr = p.addr ∧
      q1.body = .data 0 r.dirty r.data r.psn ∧ q2.dst = p.src ∧ q2.cls = 6 ∧ q2.body = .ack 2)) ∧
  (∀ (s : State) (p : Packet), Arrives s 6 p →
    (p.body = .ack 0 → let line := p.addr % 2 ^ 45 / 128
      ∃ t : State, exec (.acknowledgement p) s = .next t ∧ Came t p ∧ t = { s with fab := t.fab, dir := t.dir, gangs := t.gangs } ∧ p.src ∉ (dirLine t line).acks ∧
        p.src ∉ (dirLine t line).shared ∧ (dirLine t line).owner ≠ some p.src) ∧
    (∀ (o : Op) (i : Nat) (q : Piece) (grp off va : Nat) (d : GroupSpec), opOf s o.id = some o → 0 < o.id → o.pieces[i]? = some q → i < 4096 → q.st = .sent →
      q.place = .mcast grp off va → groupDesc s grp = some d → p.body = .ack (tagOf o.id i) →
      let q1 : Piece := { q with psn := insertAsc p.src q.psn, st := if ∀ m ∈ d.members, m.1 ∈ insertAsc p.src q.psn then .done else .sent }
      ∃ t : State, exec (.acknowledgement p) s = .next t ∧ Came t p ∧ opOf t o.id = some { o with pieces := o.pieces.set i q1 }) ∧
    (∀ (o : Op) (i : Nat) (q : Piece), opOf s o.id = some o → 0 < o.id → o.pieces[i]? = some q → i < 4096 → q.st = .sent → isMcast q.place = false → p.body = .ack (tagOf o.id i) →
      ∃ t : State, exec (.acknowledgement p) s = .next t ∧ Came t p ∧ opOf t o.id = some { o with pieces := o.pieces.set i { q with st := .done } } ∧
        ((∀ ga va, q.place = .peer ga va → (∃ c, o.kind = .cline c) ∨ l2Line s true (ga / 128) = none ∧ l1Line s o.core true (ga / 128) = none) →
          t = { s with ops := t.ops, fab := t.fab, chunks := t.chunks }))) ∧
  (∀ (s : State) (p : Packet) (tag first total : Nat) (op : BitVec 4) (wide : Bool) (opnds : List (BitVec 64 × BitVec 64)), Arrives s 7 p →
    p.addr / 2 ^ 45 = s.fab.lid → p.body = .atomic tag op wide first total opnds → s.zmaps = [] → s.ptags = [] →
    s.fab.parts.filter (sameGroup p) = [] → engineHolds s (p.addr % 2 ^ 45 / 128) = false →
    let pa := p.addr % 2 ^ 45
    let n := if wide then 8 else 4
    let v := BitVec.ofNat 64 (leNat (dirBytes s pa n))
    let step := fun (u : BitVec 64) (e : BitVec 64 × BitVec 64) => atomNew op.toNat wide u e
    homeFree s (pa / 128) true = true → pa % 128 + n ≤ 128 → ∃ t : State, exec (.atomicRequest p) s = .next t ∧ Came t p ∧
      (opnds.length < total → t = { s with fab := t.fab } ∧ p ∈ t.fab.parts ∧ t.fab.out = s.fab.out) ∧
      (first = 0 → opnds.length = total →
        (∀ a, dirByte t a = if pa ≤ a ∧ a < pa + n then (leBytes (opnds.foldl step v).toNat n).getD (a - pa) 0 else dirByte s a) ∧
        ∃ qs psn, t.fab.out = s.fab.out ++ qs ∧ qs.flatMap oldsOf = (List.range total).map (fun i => (opnds.take i).foldl step v) ∧
          ∀ q ∈ qs, q.dst = p.src ∧ q.cls = 1 ∧ q.addr = p.addr ∧ ∃ i vs, q.body = .olds tag i total vs psn ∧ n * vs.length ≤ 128)) ∧
  (∀ (s : State) (p : Packet) (a tag : Nat), apertureAddr s p = some a → (∀ line, engineHolds s line = false) →
    (∀ mask bytes psn cls i, (cls, i) ∈ [(8#4, Instr.multicastStore p), (12#4, Instr.collectiveStep p)] → Arrives s cls p → p.body = .data tag mask bytes psn →
      s.zmaps = [] → s.ptags = [] → homeFree s (a / 128) true = true → ∃ (t : State) (q : Packet), exec i s = .next t ∧ Came t p ∧ LinePut s t (a / 128) mask bytes ∧ t.scr = s.scr ∧
        t.fab.out = s.fab.out ++ [q] ∧ q.dst = p.src ∧ q.cls = 6 ∧ q.addr = p.addr ∧ q.body = .ack tag) ∧
    (∀ len acq, Arrives s 9 p → p.body = .mload tag len acq → 0 < len → len ≤ 128 → (∀ line, a / 128 ≤ line → line ≤ (a + len - 1) / 128 → homeFree s line false = true) →
      ∃ (t : State) (q : Packet) (psn : List Nat), exec (.multicastLoad p) s = .next t ∧ Came t p ∧ t = { s with fab := t.fab } ∧ t.fab.out = s.fab.out ++ [q] ∧ q.dst = p.src ∧ q.cls = 1 ∧
        q.addr = p.addr ∧ q.body = .mvals tag [dirBytes s a len] psn ∧ ∀ k, k ∈ psn ↔ k < len ∧ memPoisoned s (a + k) = true)) ∧
  (∀ (s : State) (p : Packet) (tag core : Nat) (rem : Bool), Arrives s 10 p → p.body = .req tag rem core → (∀ r ∈ s.l1, r.core = core → r.dirty = 0) →
    postsDone s = true → ∃ (t : State) (q : Packet), exec (.promotionRequest p) s = .next t ∧ Came t p ∧ t = { s with fab := t.fab } ∧ t.fab.out = s.fab.out ++ [q] ∧
      q.dst = p.src ∧ q.cls = 6 ∧ q.addr = p.addr ∧ q.body = .ack 1) ∧
  (∀ (s : State) (line : Nat) (r : DirReq) (rest : List DirReq), (dirLine s line).reqs = r :: rest → (dirLine s line).note = none → r.src ≠ s.fab.lid →
    engineHolds s line = false → s.fab.member = true → freeFor s line r.src false = true → ∃ (t : State) (q : Packet) (psn : BitVec 4), exec (.remoteAcquireAnswer line) s = .next t ∧ t = { s with fab := t.fab, dir := t.dir } ∧
      (dirLine t line).reqs = rest ∧ r.src ∈ (dirLine t line).shared ∧ t.fab.out = s.fab.out ++ [q] ∧ q.dst = r.src ∧ q.cls = 1 ∧
      q.body = .data r.tag (BitVec.allOnes 128) (dirBytes s (128 * line) 128) psn) ∧
  (∀ (s : State) (p : Packet) (w : BitVec 128) (c : Colour), deliverable 11 p s = true → p.body = .tell w →
    let count := w.extractLsb' 96 32
    let id := w.extractLsb' 64 32
    let seq := w.extractLsb' 32 32
    let grp := (w.extractLsb' 8 8).toNat
    c = (if w.getLsbD 0 then .c1 else .c0) → (∀ r, s.snapAcc ≠ some (r, c)) → fellow s p.src = true → grp = ownGroup s → stampDiffers s p (otherColour c) = false → (chanOf s p.src).got.length < 2 ^ 30 →
    ∃ t : State, exec (.telltale p) s = .next t ∧ t.vrf = s.vrf ∧ t.scr = s.scr ∧
      (seqBefore (cutSeqOf s grp) seq = true → (colRow s c).st = .free → Came t p ∧ (colRow t c).st = .capturing ∧ (colRow t c).snid = id ∧
        (colRow t c).group = grp ∧ cutSeqOf t grp = cutSeqOf s grp + 1 ∧ chanTel (chanOf t p.src) c = some count) ∧
      (seqBefore (cutSeqOf s grp) seq = true → (colRow s c).st ≠ .free → (colRow s c).st ≠ .freePending →
        t = { s with fab := t.fab } ∧ p ∈ t.fab.held ∧ (chanOf t p.src).hold = true) ∧
      (seqBefore (cutSeqOf s grp) seq = false → (colRow s c).st ≠ .free → (colRow s c).seq = seq → Came t p ∧ (colRow t c).st = (colRow s c).st ∧
        cutSeqOf t grp = cutSeqOf s grp ∧ chanTel (chanOf t p.src) c = some count)) ∧
  (∀ (s : State) (p : Packet) (c : Colour) (digest : BitVec 256) (flag : Bool) (v : Nat) (id : Word), Arrives s 12 p → fellow s p.src = true →
    (p.body = .coord 5 c digest flag v id → ∃ t : State, exec (.collectiveStep p) s = .next t ∧ Came t p ∧ t = { s with ops := t.ops, fab := t.fab } ∧
      (p.src ≠ coordinatorOf s c → t.ops = s.ops) ∧ (∀ n, BitVec.ofNat 32 n ≠ id → opOf t n = opOf s n) ∧
      ∀ (o : Op) kd pd, p.src = coordinatorOf s c → opOf s o.id = some o → o.kind = .snapq kd pd c true none → BitVec.ofNat 32 o.id = id →
        opOf t o.id = some { o with kind := .snapq kd pd c true (some v) }) ∧
    (p.body = .coord 4 c digest flag v id → ∃ (t : State) (q : Packet), exec (.collectiveStep p) s = .next t ∧ Came t p ∧ t = { s with fab := t.fab } ∧
      t.fab.out = s.fab.out ++ [q] ∧ q.dst = p.src ∧ q.cls = 12 ∧
      q.body = .coord 5 c 0 false (if (colRow s c).ever = true then (colRow s c).grp else 0) id)) ∧
  (∀ (s : State) (p : Packet), 13 ≤ p.cls.toNat → p.dst = s.fab.lid → s.fab.member = true →
    exec (.reservedClassPacket p) s = .next { s with fab := { s.fab with discarded := s.fab.discarded + 1 } })

/-- R350 to R352 (18_fabric_collectives), R292 (15_tables_counters), R206 (10_consistency): a chunk's first event reads its row of the route table; PUSH sends the
source's bytes to the aperture line by line and completes with the last acknowledgement; FLAG sends EPOCH to this rank's flag once nothing posted is open; WAITF
ends when every member's flag is EPOCH; PULL sends its loads toward the home port and writes the answers, reduced over the members, as they come. A step
outside the aperture, or whose addresses do not translate, stops the chunk with STATUS 0x08; a lost member ends it with STATUS 0x09, a PULL's bytes poisoned. The
model's: packets' bodies, tags and class (log entry 6, DESIGN CHOICE); one packet to a line and loads of 128 bytes (log entry 41, DEDUCED); a chunk that fails goes
(log entry 49, DEDUCED). -/
def Obligations.CollectiveStepsRun : Prop :=
  (∀ (s : State) (l : Launch) (x : Chunk) (b : CollBind) (launch chunk : Nat) (parts : List Nat),
    launchOf s launch = some l → chunkOf s launch chunk = some x → l.coll = some b → x.steps = none → routeGaps s l.ctx b chunk = [] →
    ∀ i ∈ [Instr.collectivePush launch chunk, .collectivePull launch chunk parts, .collectiveFlag launch chunk, .collectiveWaitf launch chunk],
      (∀ steps, routeSteps s l.ctx b chunk = some steps → ∃ t : State, exec i s = .next t ∧ exec i { s with chunks := s.chunks.map (fun y =>
        if y.launch = launch ∧ y.chunk = chunk then { x with steps := some steps } else y) } = .next t) ∧
      (routeSteps s l.ctx b chunk = none → ∃ t : State, exec i s = .next t ∧ ChunkStopped s t launch chunk 8 fcXlate 0)) ∧
  (∀ (s : State) (pa va n : Nat), (∀ r ∈ s.l1, r.core ≠ noCore) → (engineBytes s noCore (.mem pa va) n).1 = dirBytes s pa n) ∧
  ∀ (s : State) (launch chunk : Nat) (k : ChunkStep), (∀ r ∈ s.l1, r.core = k.chunk.core → r.dirty = 0) → s.fab.member = true →
    let home := (k.grp.members.map (fun m => m.1)).headD 0
    let at_ := k.step.grp * 2 ^ 32
    (currentStep s launch chunk 0 = .ok (some k) → k.chunk.closed = false →
      (k.grp.size < k.step.dst + k.step.len → ∃ t : State, exec (.collectivePush launch chunk) s = .next t ∧ ChunkStopped s t launch chunk 8 fcSpace 0) ∧
      (∀ c, k.step.dst + k.step.len ≤ k.grp.size → enginePlaces s k.launch.ctx (k.bind.rbase + k.step.src) k.step.len .rd = .error c →
        ∃ t : State, exec (.collectivePush launch chunk) s = .next t ∧ ChunkStopped s t launch chunk 8 c 0) ∧
      (∀ ps, k.step.dst + k.step.len ≤ k.grp.size → enginePlaces s k.launch.ctx (k.bind.rbase + k.step.src) k.step.len .rd = .ok ps →
        opsOwn s ps = false → chunkAsk s false ps = none →
        let bytes := (ps.map (fun e => (engineBytes s noCore e.1 e.2).1)).flatten
        let parts := lineParts k.step.dst bytes.length
        ∃ (t : State) (qs : List Packet) (x : Chunk), exec (.collectivePush launch chunk) s = .next t ∧
          t = { s with fab := t.fab, fresh := t.fresh, chunks := t.chunks, upsets := t.upsets, power := t.power, ctxs := t.ctxs } ∧
          t.fab.out = s.fab.out ++ qs ∧ qs.length = parts.length ∧ bytes = (engineGather s ps).1 ∧ chunkOf t launch chunk = some x ∧ x.closed = true ∧
          x.step = k.chunk.step ∧ Awaits x parts.length (k.grp.members.map (fun m => m.1)) ∧
          ∀ (j a n : Nat) (q : Packet), parts[j]? = some (a, n) → qs[j]? = some q → q.cls = 12 ∧ q.dst = home ∧ q.addr = at_ + a ∧ ∃ psn : BitVec 4,
            q.body = .data (x.tag0 + j) (byteMask (a % 128) n) (lineBytes (a % 128) ((bytes.drop (a - k.step.dst)).take n)) psn ∧
            ∀ g, g < 4 → (psn.getLsbD g = true ↔ ∃ i ∈ (engineGather s ps).2, a ≤ k.step.dst + i ∧ k.step.dst + i < a + n ∧ (k.step.dst + i) % 128 / 32 = g))) ∧
    (∀ kind i, (kind, i) ∈ [(0, Instr.collectivePush launch chunk), (2, .collectiveFlag launch chunk)] → currentStep s launch chunk kind = .ok (some k) →
      k.chunk.closed = true →
      ((∃ b ∈ k.chunk.busy, lostPkg s (b % 2048) = false) → exec i s = .next s) ∧
      ((∀ b ∈ k.chunk.busy, lostPkg s (b % 2048) = true) → ∃ t : State, exec i s = .next t ∧ StepDone t k.chunk ∧
        (lostMembers s k.grp = [] → t = { s with chunks := t.chunks }) ∧
        ∀ m rest, lostMembers s k.grp = m :: rest → t = { s with chunks := t.chunks, launches := t.launches } ∧ OutcomeSet s t launch chunk 9 0 m)) ∧
    (∀ r, currentStep s launch chunk 2 = .ok (some k) → k.chunk.closed = false → ownRank s k.step.grp = some r →
      let off := k.step.src + 4 * r
      (k.grp.size < off + 4 → ∃ t : State, exec (.collectiveFlag launch chunk) s = .next t ∧ ChunkStopped s t launch chunk 8 fcSpace 0) ∧
      (off + 4 ≤ k.grp.size → postsOpen s k.launch.ctx = true → exec (.collectiveFlag launch chunk) s = .next s) ∧
      (off + 4 ≤ k.grp.size → off % 128 ≤ 124 → postsOpen s k.launch.ctx = false → ∃ (t : State) (q : Packet) (x : Chunk),
        exec (.collectiveFlag launch chunk) s = .next t ∧ t = { s with fab := t.fab, fresh := t.fresh, chunks := t.chunks } ∧
        t.fab.out = s.fab.out ++ [q] ∧ q.cls = 12 ∧ q.dst = home ∧ q.addr = at_ + off ∧
        q.body = .data x.tag0 (byteMask (off % 128) 4) (lineBytes (off % 128) (leBytes k.bind.epoch.toNat 4)) 0 ∧ chunkOf t launch chunk = some x ∧
        x.closed = true ∧ x.step = k.chunk.step ∧ Awaits x 1 (k.grp.members.map (fun m => m.1)))) ∧
    (currentStep s launch chunk 3 = .ok (some k) →
      let a := ownBase s k.grp + k.step.src
      let n := 4 * k.grp.members.length
      (k.grp.size < k.step.src + n → ∃ t : State, exec (.collectiveWaitf launch chunk) s = .next t ∧ ChunkStopped s t launch chunk 8 fcSpace 0) ∧
      (k.step.src + n ≤ k.grp.size → opsOwn s (physPlaces a n) = false → chunkAsk s false (physPlaces a n) = none → lostMembers s k.grp = [] →
        ∃ t : State, exec (.collectiveWaitf launch chunk) s = .next t ∧
        ((∀ i, i < k.grp.members.length → leNat (dirBytes s (a + 4 * i) 4) = k.bind.epoch.toNat) → StepDone t k.chunk ∧ t = { s with chunks := t.chunks }) ∧
        ((∃ i, i < k.grp.members.length ∧ leNat (dirBytes s (a + 4 * i) 4) ≠ k.bind.epoch.toNat) → t = s))) ∧
    (∀ (parts : List Nat) (ps : List (Place × Nat)), currentStep s launch chunk 1 = .ok (some k) →
      let n := k.step.len
      let runs := runParts k.step.src n
      (k.grp.size < k.step.src + n → ∃ t : State, exec (.collectivePull launch chunk parts) s = .next t ∧ ChunkStopped s t launch chunk 8 fcSpace 0) ∧
      (k.step.src + n ≤ k.grp.size → k.grp.op ≠ 0 → n % groupElem k.grp = 0 →
        enginePlaces s k.launch.ctx (k.bind.rbase + k.step.dst) n .wr = .ok ps → chunkAsk s true ps = none →
        (k.chunk.closed = false → opsOwn s ps = false → ∃ (t : State) (qs : List Packet) (x : Chunk), exec (.collectivePull launch chunk parts) s = .next t ∧
          t = { s with fab := t.fab, fresh := t.fresh, chunks := t.chunks } ∧ t.fab.out = s.fab.out ++ qs ∧ qs.length = runs.length ∧
          chunkOf t launch chunk = some x ∧ x.closed = true ∧ x.step = k.chunk.step ∧ x.dests = ps ∧ x.got = [] ∧ Awaits x runs.length [home] ∧
          ∀ (j a m : Nat) (q : Packet), runs[j]? = some (a, m) → qs[j]? = some q → q.cls = 9 ∧ q.dst = home ∧ q.addr = at_ + a ∧
            q.body = .mload (x.tag0 + j) m false) ∧
        (k.chunk.closed = true → (∀ e ∈ ps, ∃ pa va, e.1 = .mem pa va) → (localBytes ps).Nodup → s.zmaps = [] → s.ptags = [] →
          (∀ x ∈ s.l1, x.core ≠ noCore) → (k.chunk.got.map (fun e => e.1)).Nodup → (∀ e ∈ k.chunk.got, e.2.1.length ≤ 128) →
          ∃ t : State, exec (.collectivePull launch chunk parts) s = .next t ∧ t.scr = s.scr ∧ t.vrf = s.vrf ∧
          (lostMembers s k.grp = [] →
            let now := k.chunk.got.filter (fun e => parts = [] || parts.contains e.1)
            let rest := k.chunk.got.filter (fun e => !(parts = [] || parts.contains e.1))
            (∀ e ∈ now, ∀ i a, i < e.2.1.length → (localBytes ps)[128 * e.1 + i]? = some a → dirByte t a = e.2.1.getD i 0 ∧
              (i ∈ e.2.2 → memPoisoned t a = true)) ∧
            (∀ a, (∀ e ∈ now, ∀ i, i < e.2.1.length → (localBytes ps)[128 * e.1 + i]? ≠ some a) → dirByte t a = dirByte s a) ∧
            (k.chunk.busy = [] → rest = [] → StepDone t k.chunk) ∧
            (¬(k.chunk.busy = [] ∧ rest = []) → chunkOf t launch chunk = some { k.chunk with got := rest })) ∧
          ∀ m others, lostMembers s k.grp = m :: others → StepDone t k.chunk ∧ OutcomeSet s t launch chunk 9 0 m ∧
            ∀ a ∈ localBytes ps, memPoisoned t a = true)))

/-! ## Snapshots (the events of 16_snapshot) -/

/-- R301, R302, R304, R308, R309, R313, R319 to R322 (16_snapshot), R271 (13_queues), R338 to R340 (17_isa_sync_system), R379 (24_prog_colours): a request of a
program, the host or the policy is answered, or cuts the lowest FREE colour and tells every member by a telltale of R313's payload; swept units reach the stream
once; LOCAL_DONE, DURABLE, FREE_PENDING, FREE and ABORTED follow each other as their events come, with the messages between coordinator and members, the
coordinator's own FREE and COMMIT among them. The model's: acceptance and cut are two events of one kind, and requests' rate (log entry 44, DESIGN CHOICE); where a
target takes an image (log entry 81, DESIGN CHOICE); bodies and class of the coordination messages (log entry 6, DESIGN CHOICE); the trailer's bytes (log entry 13,
DESIGN CHOICE); who sends what (log entry 42, DEDUCED); how an abort spreads (log entry 45, DEDUCED); the cut clock (log entry 46, DEDUCED). -/
def Obligations.SnapshotsProceed : Prop :=
  (∀ (s : State) (r : SnapReq) (rest : List SnapReq), s.snapAcc = none → s.snapReqs = r :: rest →
    let row : Option CtxRow := match r.src with
      | .host ctx => ctxRow s ctx
      | .policy => none
      | .op id => (opOf s id).bind (fun o => ctxRow s o.ctx)
    let covered := r.src = .policy ∨ ∃ x, row = some x ∧ x.right = true ∧ x.group = r.group
    let soon := ∃ x, row = some x ∧ x.recent = true ∧ x.rate ≠ 0
    let answers := fun (v : Word) (t : State) => (∀ ctx, r.src = .host ctx → t = { s with snapReqs := rest, host := s.host ++ [.snapshot ctx v] }) ∧
      (r.src = .policy → t = { s with snapReqs := rest, host := s.host ++ [.snapshot 0 v] }) ∧
      (∀ id, r.src = .op id → t = { s with snapReqs := rest, ops := t.ops } ∧ (∀ n, n ≠ id → opOf t n = opOf s n) ∧
        ∀ (o : Op) kd pd i g a, opOf s id = some o → o.kind = .snap kd pd i g a → opOf t id = some { o with kind := .snap kd pd i g (some v) })
    ∃ t : State, exec .snapshotRequest s = .next t ∧ (memberOf s r.group = false → answers 2 t) ∧
      (memberOf s r.group = true → (¬covered ∨ soon) → answers 3 t) ∧
      (memberOf s r.group = true → covered → ¬soon → s.col0.st ≠ .free → s.col1.st ≠ .free → answers 1 t) ∧
      (∀ c : Colour, memberOf s r.group = true → covered → ¬soon → (colRow s c).st = .free → (c = .c1 → s.col0.st ≠ .free) →
        t = { s with snapReqs := rest, snapAcc := some (r, c), ctxs := t.ctxs } ∧ (row = none → t.ctxs = s.ctxs) ∧
          ∀ x, row = some x → ctxRow s x.id = some x → ctxRow t x.id = some { x with recent := decide (x.rate ≠ 0) } ∧ ∀ d, d ≠ x.id → ctxRow t d = ctxRow s d)) ∧
  (∀ (s : State) (r : SnapReq) (c : Colour), s.snapAcc = some (r, c) → s.fab.member = true →
    ∃ (t : State) (ps : List Packet), exec .snapshotRequest s = .next t ∧ t.snapAcc = none ∧ t.snapReqs = s.snapReqs ∧ t.vrf = s.vrf ∧ t.scr = s.scr ∧
      (∀ ctx, r.src = .host ctx → t.host = s.host ++ [.snapshot ctx (if c = .c0 then 0 else 256)] ∧ t.gangs = s.gangs) ∧
      (r.src = .policy → t.host = s.host ++ [.snapshot 0 (if c = .c0 then 0 else 256)] ∧ t.gangs = s.gangs) ∧
      (∀ (o : Op) (g : Gang) kd pd id grp a, r.src = .op o.id → Clear s o → gangOf s o.gid = some g → o.kind = .snap kd pd id grp a → Sparse.wf 0#32 g.k = true →
        t.host = s.host ∧ opOf t o.id = none ∧ ∃ h : Gang, gangOf t o.gid = some h ∧ rdK h kd = (if c = .c0 then 0 else 256) ∧ (∀ n, n ≠ kd → rdK h n = rdK g n) ∧
          (pd < 7 → ∀ l, l < g.lanes.length → o.lanes.getLsbD l = true → predOf h l pd = true)) ∧
      (colRow t c).st = .capturing ∧ (colRow t c).snid = r.id ∧
      (colRow t c).group = r.group ∧ (colRow t c).seq = cutSeqOf s r.group + 1 ∧ cutSeqOf t r.group = cutSeqOf s r.group + 1 ∧ (colRow t c).grp = 1 ∧
      (t.fab.par0, t.fab.par1) = (if c = .c0 then (!s.fab.par0, s.fab.par1) else (s.fab.par0, !s.fab.par1)) ∧
      (∀ o ∈ t.ops, (if c = .c0 then o.pre0 else o.pre1) = true) ∧ (∀ d, d ≠ c → colRow t d = colRow s d) ∧
      t.fab.out = s.fab.out ++ ps ∧ ps.map (fun p => p.dst) = otherMembers s r.group ∧
      ∀ p ∈ ps, p.cls = 11 ∧ p.src = s.fab.lid ∧ p.stamp = stampOf t ∧ ∃ w : BitVec 128, p.body = .tell w ∧ w.extractLsb' 96 32 = (chanOf s p.dst).send ∧
        w.extractLsb' 64 32 = r.id ∧ w.extractLsb' 32 32 = cutSeqOf s r.group + 1 ∧ w.extractLsb' 16 16 = 0 ∧ w.extractLsb' 8 8 = BitVec.ofNat 8 r.group ∧
        w.extractLsb' 2 6 = 0 ∧ w.getLsbD 1 = true ∧ (w.getLsbD 0 = true ↔ c = .c1)) ∧
  (∀ (s : State) (o : Op) (g : Gang) (kd pd grp : Nat) (id ans : Word), Clear s o → gangOf s o.gid = some g → o.kind = .snap kd pd id grp (some ans) →
    Sparse.wf 0#32 g.k = true → ∃ (t : State) (h : Gang), exec (.snapComplete o.id) s = .next t ∧ Completed s t o ∧ t = { s with ops := t.ops, gangs := t.gangs } ∧
      gangOf t o.gid = some h ∧ rdK h kd = ans ∧ (∀ n, n ≠ kd → rdK h n = rdK g n) ∧
      (pd < 7 → ∀ l, l < g.lanes.length → o.lanes.getLsbD l = true → predOf h l pd = decide (ans.toNat % 256 = 0))) ∧
  (∀ (s : State) (o : Op) (g : Gang) (kd pd v : Nat) (c : Colour) (grp : Bool), Clear s o → gangOf s o.gid = some g →
    o.kind = .snapq kd pd c grp (some v) → Sparse.wf 0#32 g.k = true →
    ∃ (t : State) (h : Gang), exec (.snapqComplete o.id) s = .next t ∧ Completed s t o ∧ t = { s with ops := t.ops, gangs := t.gangs } ∧ gangOf t o.gid = some h ∧
      (let own := colCode (colRow s c).st
       (gangMember s g = false → rdK h kd = 0 ∧ rdK h (kd + 1) = 0) ∧
       (gangMember s g = true → rdK h kd = BitVec.ofNat 32 (if grp then own + 16 * v else own) ∧ rdK h (kd + 1) = (colRow s c).snid) ∧
       (pd < 7 → ∀ l, l < g.lanes.length → o.lanes.getLsbD l = true → predOf h l pd = (gangMember s g && decide ((if grp then v else own) = 3))))) ∧
  (∀ (s : State) (c : Colour), (colRow s c).st = .capturing →
    (∀ u ctx die r, tagged s c u = true → unitRec s u = some (ctx, die, r) → ∃ t : State, exec (.halyardSweep c u) s = .next t ∧
      (colRow t c).stream = (colRow s c).stream ++ [r] ∧ tagged t c u = false ∧ (∀ w, w ≠ u → tagged t c w = tagged s c w) ∧
      t.mem = s.mem ∧ t.scr = s.scr ∧ t.dsc = s.dsc ∧ t.vrf = s.vrf) ∧
    (∀ (p : PageTag) (i : Nat), s.ptags = [p] → p.col = c → i < p.lines → i ∉ p.done → p.done.length + 1 < p.lines →
      ∃ t : State, exec (.halyardSweep c (.line p.ctx (p.va + 128 * i))) s = .next t ∧ (colRow t c).stream = (colRow s c).stream ++ [lineRec s p i] ∧
        t.ptags = [{ p with done := insertAsc i p.done }] ∧ t.mem = s.mem ∧ t.l2 = s.l2)) ∧
  (∀ (s : State) (die : Nat) (c : Colour), ∃ t : State, exec (.captureQueueRoom die c) s = .next t ∧ t = { s with capQ := t.capQ, halyard := t.halyard } ∧
    capCount t die c = capCount s die c - 1 ∧ ∀ d e, (d, e) ≠ (die, c) → capCount t d e = capCount s d e) ∧
  (∀ (s u : State) (c : Colour) (h : HalRow), (colRow s c).st = .capturing → captureDone s c = true → targetRow s c = some h →
    let recs := (colRow s c).stream ++ [.fin]
    let bytes := streamBytes recs ++ trailerBytes (chunkDigests recs)
    putTarget c h.desc (targetTop s h.desc.kind) bytes (modHalyard s c (fun x => { x with copy := none })) = some u → ∃ (t : State) (img : Image), exec (.localDone c) s = .next t ∧
    (colRow t c).st = .localDone ∧ (colRow t c).root = some img.root ∧ (colRow t c).snid = img.id ∧ img ∈ t.images ∧ img.group = (colRow s c).group ∧
    img.lid = s.fab.lid ∧ img.recs = recs ∧ img.chunks = chunkDigests recs ∧ img.root = rootDigest img.chunks ∧
    img.complete = false ∧ img.size = bytes.length ∧ img.places = [(h.desc.kind, targetTop s h.desc.kind)] ∧ t.mem = u.mem ∧ t.vrf = s.vrf ∧
    (isNvme h.desc = true → t.mem = s.mem) ∧ (coordinatorOf s c ≠ s.fab.lid → s.fab.member = true → ∃ p : Packet, t.fab.out = u.fab.out ++ [p] ∧
      p.dst = coordinatorOf s c ∧ p.cls = 12 ∧ p.body = .coord 3 c img.root false 0 img.id)) ∧
  (∀ (s : State) (c : Colour) (x : TargetDesc) (m : Image), (colRow s c).st = .coPowered → s.images.find? (isImage (colRow s c) s) = some m →
    (∀ p ∈ m.places, p.1 ≠ x.kind) → isNvme x = true → ∃ (t : State) (y : Image), exec (.durableAck c (some x)) s = .next t ∧ y ∈ t.images ∧ y.recs = m.recs ∧
      (x.kind, targetTop s x.kind) ∈ y.places) ∧
  (∀ (s : State) (c : Colour) (x : TargetDesc), (colRow s c).st = .localDone ∨ (colRow s c).st = .coPowered → halTarget s c = some x →
    targetSettled s c x = true → s.fab.member = true → let pdom := targetPdom s x
    let grp := (colRow s c).group
    let reported := fun n : Nat => n = s.fab.lid ∨ ∃ d, (n, d, true) ∈ (colRow s c).reports
    ∃ t : State, exec (.durableAck c none) s = .next t ∧
    (pdom = ownPdom s → (colRow t c).st = .coPowered ∧ t.fab = s.fab) ∧
    (pdom ≠ ownPdom s → coordinatorOf s c ≠ s.fab.lid → (colRow t c).st = .durable ∧ ∃ p : Packet, t.fab.out = s.fab.out ++ [p] ∧ p.dst = coordinatorOf s c ∧
      p.body = .coord 3 c ((colRow s c).root.getD 0) true 0 (colRow s c).snid) ∧
    (pdom ≠ ownPdom s → coordinatorOf s c = s.fab.lid → (colRow s c).grp ≠ 3 →
      ((∀ n ∈ allMembers s grp, reported n) → (colRow t c).st = .durable ∧ (colRow t c).grp = 3 ∧
        (∀ m ∈ t.images, m.group = grp → m.id = (colRow s c).snid → m.lid = s.fab.lid → m.complete = true) ∧
        ∃ ps : List Packet, t.fab.out = s.fab.out ++ ps ∧ ps.map (fun p => p.dst) = otherMembers s grp ∧ ∀ p ∈ ps, p.body = .coord 0 c 0 false 0 0) ∧
      ((colRow s c).acks = [] → (∃ n ∈ otherMembers s grp, ¬reported n) → (∃ n ∈ allMembers s grp, ¬reported n) → (colRow t c).st = .durable ∧ t.fab = s.fab))) ∧
  (∀ (s : State) (c : Colour), s.fab.member = true →
    let others := otherMembers s (colRow s c).group
    let mine := coordinatorOf s c = s.fab.lid
    ((colRow s c).st = .durable → (mine → (colRow s c).grp = 3) → ∃ t : State, exec (.free c) s = .next t ∧ (colRow t c).st = .freePending ∧
      (∀ m ∈ t.images, m.group = (colRow s c).group → m.id = (colRow s c).snid → m.lid = s.fab.lid → m.complete = true) ∧
      (¬mine → ∃ p : Packet, t.fab.out = s.fab.out ++ [p] ∧ p.dst = coordinatorOf s c ∧ p.body = .coord 1 c 0 false 0 0) ∧
      (mine → s.fab.lid ∈ (colRow t c).acks ∧ ((∃ n ∈ others, n ∉ (colRow s c).acks) → t.fab = s.fab) ∧
        ((∀ n ∈ others, n ∈ (colRow s c).acks) → ∃ ps : List Packet, t.fab.out = s.fab.out ++ ps ∧ ps.map (fun p => p.dst) = others ∧
          ∀ p ∈ ps, p.body = .coord 2 c 0 false 0 0))) ∧
    ((colRow s c).st = .aborted → (mine → ∀ n ∈ s.fab.lid :: others, n ∈ (colRow s c).aborts) → ∃ t : State, exec (.free c) s = .next t ∧
      (colRow t c).st = .freePending ∧ t.images = s.images ∧
      (¬mine → ∃ p : Packet, t.fab.out = s.fab.out ++ [p] ∧ p.dst = coordinatorOf s c ∧ p.body = .coord 1 c 0 false 0 0)) ∧
    (mine → (colRow s c).st = .durable → (colRow s c).grp ≠ 3 → exec (.free c) s = .next s) ∧
    ((colRow s c).st = .freePending → (mine → ∀ n ∈ s.fab.lid :: others, n ∈ (colRow s c).acks) → ∃ t : State, exec (.commit c) s = .next t ∧ (colRow t c).st = .free ∧
      (∀ x ∈ t.tags, x.col ≠ c) ∧ (∀ x ∈ t.ptags, x.col ≠ c) ∧ t.images = s.images ∧ t.vrf = s.vrf ∧ t.scr = s.scr) ∧
    (mine → (∃ n ∈ s.fab.lid :: others, n ∉ (colRow s c).acks) → exec (.commit c) s = .next s) ∧
    (((colRow s c).st = .capturing ∨ (colRow s c).st = .localDone ∨ (colRow s c).st = .coPowered) →
      ∃ (t : State) (ps rest : List Packet), exec (.durabilityBoundExpiry c) s = .next t ∧ exec (.targetWriteFailure c) s = .next t ∧ (colRow t c).st = .aborted ∧
        (colRow t c).grp = 6 ∧ (colRow t c).stream = [] ∧ (∀ x ∈ t.tags, x.col ≠ c) ∧ t.fab.out = s.fab.out ++ ps ++ rest ∧ ps.map (fun p => p.dst) = others ∧
        (∀ p ∈ ps, p.body = .coord 6 c 0 false 6 0) ∧
        (¬mine → rest.map (fun p => (p.dst, p.body)) = [(coordinatorOf s c, .coord 7 c 0 false 6 0)]) ∧
        (mine → rest = [] ∨ (∀ n ∈ others, n ∈ (colRow s c).aborts) ∧ rest.map (fun p => (p.dst, p.body)) = others.map (fun n => (n, .coord 0 c 0 false 0 0))) ∧
        t.images = s.images ∧ t.vrf = s.vrf ∧ t.scr = s.scr)) ∧
  (∀ (s : State) (c : Colour) (m : Nat),
    let others := otherMembers s (colRow s c).group
    coordinatorOf s c = s.fab.lid → m ∈ others → s.fab.member = true →
    ((colRow s c).st = .freePending → (∀ n ∈ s.fab.lid :: others, n ≠ m → n ∈ (colRow s c).acks) → ∃ (t : State) (ps : List Packet), exec (.freeAck c m) s = .next t ∧
      (colRow t c).st = .freePending ∧ m ∈ (colRow t c).acks ∧ t.fab.out = s.fab.out ++ ps ∧ ps.map (fun p => p.dst) = others ∧
      ∀ p ∈ ps, p.body = .coord 2 c 0 false 0 0) ∧
    ((colRow s c).st = .freePending → (∃ n ∈ s.fab.lid :: others, n ≠ m ∧ n ∉ (colRow s c).acks) → ∃ t : State, exec (.freeAck c m) s = .next t ∧
      (colRow t c).st = .freePending ∧ m ∈ (colRow t c).acks ∧ t.fab = s.fab) ∧
    (∀ digest durable, ∃ t : State, exec (.rootDigestReport c m digest durable) s = .next t ∧ (m, digest, durable) ∈ (colRow t c).reports ∧
      ((colRow s c).st ≠ .durable → (colRow s c).st ≠ .aborted → (colRow t c).st = (colRow s c).st ∧ t.fab = s.fab) ∧
      ((colRow s c).st = .durable → (colRow s c).grp ≠ 3 → durable = true →
        (∀ n ∈ allMembers s (colRow s c).group, n = m ∨ ∃ d, (n, d, true) ∈ (colRow s c).reports) → (colRow t c).st = .durable ∧ (colRow t c).grp = 3 ∧
        ∃ ps : List Packet, t.fab.out = s.fab.out ++ ps ∧ ps.map (fun p => p.dst) = others ∧ ∀ p ∈ ps, p.body = .coord 0 c 0 false 0 0))) ∧
  (∀ (s : State) (c : Colour) (q : GroupQuery), fellow s q.member = true → s.fab.member = true → ∃ (t : State) (p : Packet), exec (.groupStateQuery q c) s = .next t ∧
    t = { s with fab := t.fab } ∧ t.fab.out = s.fab.out ++ [p] ∧ p.dst = q.member ∧ p.cls = 12 ∧
    p.body = .coord 5 c 0 false (if (colRow s c).ever then (colRow s c).grp else 0) q.tok)

/-- R323 to R325 (16_snapshot), R121, R122 (06_registers), R339 (17_isa_sync_system): a restoration is refused, stops at a chunk whose digest differs, or begins;
its phases then run strictly in order: memory, channels, peer lines, objects, gangs, start. A SNAP that was in flight completes with STATUS 0x03. The model's
are: that names are renumbered above those in use (log entry 47, DESIGN CHOICE), what is reissued and that no phase overlaps another (log entry 48, DEDUCED),
the tags of data packets (log entry 6, DESIGN CHOICE), where an image's bytes are found (log entry 89, DESIGN CHOICE), and that of a peer line the Dirty bytes
alone go home (log entry 90, DEDUCED). -/
def Obligations.RestorationRuns : Prop :=
  (∀ (s : State) (r : RestoreSpec), s.boot.step = 8 →
    let found := s.images.find? (fun m => m.group == r.group && m.id == r.id && m.lid == r.lid && m.complete)
    (found = none → exec (.startRestoration 0 r) s = .next { s with host := s.host ++ [.restore "refused" r.lid 0] }) ∧
    (∀ m, found = some m → ((∀ e ∈ r.targets, e.1 = r.lid → e.2.1 ≠ s.fab.phys) ∨ (∃ e ∈ r.targets, deadTarget s e.2.1 = true) ∨
      fitsImage s m = false) →
      exec (.startRestoration 0 r) s = .next { s with host := s.host ++ [.restore "refused" r.lid 0] }) ∧
    (∀ m, found = some m → (∃ e ∈ r.targets, e.1 = r.lid ∧ e.2.1 = s.fab.phys) → (∀ e ∈ r.targets, deadTarget s e.2.1 = false) → fitsImage s m = true →
      let s1 := bindTargets r (discardCtxs m s)
      ∃ t : State, exec (.startRestoration 0 r) s = .next t ∧
      (∀ g ∈ t.gangs, inImage m g.ctx = false) ∧ (∀ o ∈ t.ops, inImage m o.ctx = false) ∧ (∀ c ∈ t.ctxs, inImage m c.id = false) ∧ t.fab.lid = r.lid ∧
      ((∀ y ∈ s.slices, ∃ g, y.st = .held g) → (∀ b ∈ s.blocks, ∀ i ∈ b.banks, i.isSome = true) → (∀ g ∈ s.gangs, g.parked = false) → t.vrf = s.vrf ∧ t.scr = s.scr) ∧
      (∀ i, badChunk s1 r m = some i → t.restore = s.restore ∧ t.host = s.host ++ [.restore "chunk-mismatch" r.lid i]) ∧
      (badChunk s1 r m = none → t.host = s.host ∧ s.fresh < t.fresh ∧ ∃ v, imageMoves s m = some v ∧
        t.restore = some { phase := 1, img := moveImage { v with k := s.fresh } m, spec := r }))) ∧
  (∀ (s : State) (x : Restore), s.restore = some x →
    (x.phase = 1 → ∃ t : State, exec .restoreMemory s = .next t ∧ t.restore = some { x with phase := 2 } ∧ t.gangs = s.gangs ∧ t.ops = s.ops ∧ t.launches = s.launches ∧
      t.ctxs.map (fun c => c.id) = s.ctxs.map (fun c => c.id) ++ (imgCtxs x.img).map (fun c => c.id) ∧
      ∀ ctx b i ws bank, x.img.recs = [.eager ctx (.block b), .bank ctx b.id i ws []] → b.banks.getD i none = some bank → Memory.wf s.scr = true →
        Sparse.wf 0#32 ws = true → (∀ e ∈ ws, e.1 < 1024) →
        (∀ j, j < 1024 → wordAt (fun n => Memory.byte t.scr (scrKey b.core bank n)) j = Sparse.get 0#32 ws j) ∧
        ∀ a, (a < scrKey b.core bank 0 ∨ scrKey b.core bank 0 + 4096 ≤ a) → Memory.byte t.scr a = Memory.byte s.scr a) ∧
    (x.phase = 2 → ∃ t : State, exec .restoreChannels s = .next t ∧ t.restore = some { x with phase := 3 } ∧ t.gangs = s.gangs ∧ t.vrf = s.vrf ∧
      (replayList x.img = [] → t = { s with dir := [], restore := t.restore }) ∧
      ∀ p tag mask bytes psn, replayList x.img = [p] → p.cls = 4 → p.body = .data tag mask bytes psn → s.zmaps = [] → s.ptags = [] →
        LinePut s t (p.addr % 2 ^ 45 / 128) mask bytes) ∧
    (x.phase = 3 → ∃ t : State, exec .restorePeerLines s = .next t ∧ t = { s with fab := t.fab, restore := some { x with phase := 4 } } ∧
      ((∀ r ∈ x.img.recs, (∀ a b c d e f, r ≠ .l2 a b c d e f) ∧ (∀ a b c d e, r ≠ .l1 a b c d e) ∧ ∀ a b c d e, r ≠ .patch a b c d e) → t.fab = s.fab) ∧
      ∀ ctx va ga mask bs psn, x.img.recs = [.l2 ctx va ga mask bs psn] → s.fab.member = true →
        ∃ (q : Packet) (data : List Byte) (bad : BitVec 4), t.fab.out = s.fab.out ++ [q] ∧ q.dst = ga / 2 ^ 45 ∧ q.cls = 4 ∧
          q.addr = ga / 128 * 128 ∧ q.body = .data 0 mask data bad ∧ data.length = 128 ∧
          (∀ i, i < 128 → data.getD i 0 = if mask.getLsbD i then bs.getD i 0 else 0#8) ∧
          ∀ w, w ∈ psn → w < 32 → mask.extractLsb' (4 * w) 4 ≠ 0#4 → bad.getLsbD (w / 8) = true) ∧
    (x.phase = 4 → (∀ r ∈ s.l1, r.dirty = 0) → ∃ t : State, exec .restoreObjects s = .next t ∧ t.restore = some { x with phase := 5 } ∧ t.gangs = s.gangs ∧ t.mem = s.mem ∧ t.scr = s.scr ∧ t.vrf = s.vrf ∧
      t.fab.chans = [] ∧ t.launches = s.launches ++ x.img.recs.filterMap (fun r => match r with
        | .eager _ (.launch l) => some l
        | _ => none) ∧
      t.queues = s.queues ++ x.img.recs.filterMap (fun r => match r with
        | .eager _ (.queue q) => some q
        | _ => none) ∧
      t.recs = s.recs ++ x.img.recs.filterMap (fun r => match r with
        | .eager _ (.rcd y) => some y
        | _ => none)) ∧
    (x.phase = 5 → ∃ t : State, exec .restoreGangs s = .next t ∧ t.restore = some { x with phase := 6 } ∧ t.mem = s.mem ∧ t.vrf = s.vrf ∧
      t.blocks = s.blocks ++ imgBlocks x.img ∧ t.gangs.length = s.gangs.length + (imgGangs x.img).length ∧
      (∀ g ∈ imgGangs x.img, ∃ h ∈ t.gangs, h.gid = g.gid ∧ h.lanes = g.lanes ∧ h.pend = g.pend ∧ h.k = g.k ∧ h.csr = g.csr ∧ h.parked = true) ∧
      ∀ o ∈ imgOps x.img, (∀ y ∈ imgOps x.img, y.id = o.id → y = o) →
        ((∀ kd pd id grp a, o.kind = .snap kd pd id grp a → ∃ y ∈ t.ops, y.id = o.id ∧ y.kind = .snap kd pd id grp (some 3)) ∧
         (∀ d w n scope ord rem, o.kind = .load d w n scope ord rem → ∃ y ∈ t.ops, y.id = o.id ∧ y.kind = o.kind ∧ y.pre0 = false ∧ y.pre1 = false ∧
           ∀ p ∈ y.pieces, p.st = .todo))) ∧
    (x.phase = 6 → syncLeft s = true → exec .restoreStart s = .next s) ∧
    (x.phase = 6 → syncLeft s = false → ∃ t : State, exec .restoreStart s = .next t ∧ t.restore = none ∧ t.host = s.host ++ [.restore "complete" x.img.lid 0] ∧ t.ops = s.ops ∧
      ∀ n g b, gangOf s n = some g → g.core < 160 → g.parked = true → blockOf s g.blk = some b → (∀ i ∈ b.banks, i.isSome = true) →
        (∀ r ∈ s.slices, ∀ v, r.st ≠ .claimed v g.gid) → gangOf t n = some { g with parked := false, load := false }))

/-! ## One step of the package, words and their bits, invariants -/

/-- R33, R35, R36 (02_execution), R76, R77, R86, R88 (04_encoding), R147 (08_isa_control), R359 (19_host_firmware): in a partition's turn the step issues
the bundle at the selected PC: where no check stops it, its words run in turn and the bundle ends; a lone word that decodes to `i` runs `exec i`, and a
fault of it enters the trap. In an event's turn the step is `exec` of the event; a halted package only starts up. The model's are: that a step is one such turn,
and that the least recently issued gang's partition comes next where no turn is given (log entry 1, DESIGN CHOICE), that a fault is found before the stall (log
entry 15, DEDUCED), the order of a bundle's words (log entry 51, DEDUCED), the fault of a halted package (log entry 56, DESIGN CHOICE), the turns that bring an
upset (log entry 72), a paced context (log entry 44) and another package's image (log entry 89, all DESIGN CHOICE), and that a turn whose captures overfill a
queue is held (log entry 79, DEDUCED). -/
def Obligations.StepRunsBundle : Prop :=
  (∀ (s : State) (core part : Nat) (g : Gang) (pc : Addr) (lanes : LaneMask) (pkt : List Byte), IssuesAt s core part g pc lanes pkt →
    let slot := pc.toNat / 4 % 4
    let ctl := wordOf pkt 12
    let s1 := fetched g (pc.toNat / 16 * 16) (setGang (ticked s core part) g)
    let held := fun u : State => if queuesHold (ticked s core part) u = true then u else ticked s core part
    slot < 3 → ctl.toNat / 2 ^ 30 = 0 → mapGaps s1 g pc = [] →
    (let raw := bundleWords slot ((packetWords pkt).drop slot)
     let s2 := { s1 with cur := issueOf s1 g pc lanes ctl raw }
     let ws := s2.cur.words
     chainBad raw = false → bundleFault s2 g ws = none → firstAccess s2 g ws = [] → (bundleStep8 s2 g ws).1 = .ok →
     countsFit g.cnt (bundleCounts g lanes ws) = true → ∃ t : State, runWords (sortBy wordRank ws) { s2 with cur := { s2.cur with checked := true } } = .next t ∧
       step s = .next (held (finishBundle false (zeroReads s2 g ws) t))) ∧
    (∀ i : Instr, (wordOf pkt (4 * slot)).getLsbD 31 = false → decode (wordOf pkt (4 * slot)) = .ok i → (∀ m, i ≠ .mod m) →
     let e := mapEntry s1 g pc
     let bw : BundleWord := { slot := slot, word := some i, mod := none }
     let s2 := { s1 with cur := { gid := g.gid, busy := true, pc := pc, lanes := lanes, pimm := ctl.extractLsb' 0 30, slot := slot, last := slot, mod := none,
                                  solo := true, checked := false, cons := (e.map (fun x => x.cons)).getD false, kinds := (e.map (fun x => x.kinds)).getD 0,
                                  pair := (e.map (fun x => x.pair)).getD 0, taken := [], words := [bw] } }
     firstAccess s2 g [bw] = [] →
     (fullChk s2 g i = .ok → countsFit g.cnt (bundleCounts g lanes [bw]) = true →
       ∃ t : State, exec i { s2 with cur := { s2.cur with checked := true } } = .next t ∧ step s = .next (held (finishBundle false (zeroReads s2 g [bw]) t))) ∧
     (∀ f, fullChk s2 g i = .fault f → step s = .next (held (faultBundle s2 g f (if 0x80 ≤ f.code then fallPc pc slot else pc)))))) ∧
  (∀ (s : State) (i : Instr), nextTurn s = .event i → (halted s = false ∨ ∃ f, i = .powerOnReset f) →
    let s1 := { s with agenda := s.agenda.drop 1, clock := s.clock + 1 }
    ∃ u, exec i s1 = .next u ∧ step s = .next (if queuesHold s1 u = true then u else s1)) ∧
  (∀ (s : State) (u : Upset), nextTurn s = .upset u → halted s = false → ∃ t : State, step s = .next t ∧ t.mem = s.mem ∧ t.vrf = s.vrf ∧ t.scr = s.scr ∧
    (u.hard = true → u.at_ = .mem → u.g ∈ t.memPsn ∧ t.upsets = s.upsets) ∧ (u.hard = false → u.at_ = .mem → t.memPsn = s.memPsn ∧ t.upsets = s.upsets ++ [u])) ∧
  (∀ (s : State) (ctx : Nat), nextTurn s = .paced ctx → halted s = false → ∃ t : State, step s = .next t ∧
    t = { s with agenda := s.agenda.drop 1, clock := s.clock + 1, ctxs := t.ctxs } ∧ (∀ d, d ≠ ctx → ctxRow t d = ctxRow s d) ∧
    ∀ x, ctxRow s ctx = some x → ctxRow t ctx = some { x with recent := false }) ∧
  (∀ (s : State) (m : Image), nextTurn s = .stored m → halted s = false → (∀ y ∈ s.images, y.group = m.group → y.id = m.id → y.lid ≠ m.lid) → ∃ t : State,
    step s = .next t ∧ t = { s with agenda := s.agenda.drop 1, clock := s.clock + 1, images := t.images } ∧
    ∃ n : Image, t.images = s.images ++ [n] ∧ n = { m with places := n.places } ∧ (∀ y ∈ n.places, y ∈ m.places) ∧
      ∀ y ∈ m.places, (∀ base len, y.1 ≠ .cxl base len) → y ∈ n.places) ∧
  (∀ (s : State), halted s = true → (∀ f, nextTurn s ≠ .event (.powerOnReset f)) → step s = .fault .stopped) ∧
  (∀ (s : State) (x : Turn) (rest : List Turn), s.agenda = x :: rest → nextTurn s = x) ∧
  (∀ (s : State), s.agenda = [] → (∃ g ∈ s.gangs, canIssue g = true) → ∃ g ∈ s.gangs, canIssue g = true ∧ nextTurn s = .issue g.core g.part ∧
    ∀ h ∈ s.gangs, canIssue h = true → g.lastIssue ≤ h.lastIssue)

/-- The worked encodings of 04_encoding, 05_opcode_map, 07_isa_lane, 08_isa_control, 10_consistency, 11_isa_memory, 20_prog_fir, R232 (12_isa_tiles) and R326
(17_isa_sync_system): each word decodes to the instruction that its assembly names; a reserved function of XFN is refused, and a reserved major is kept. -/
def Obligations.DecodesManualWords : Prop :=
  decode 0x18100282 = .ok (.fadd 4 (.vec 0 1) (.vec 2 2)) ∧
  decode 0x58260911 = .ok (.ld { d := 9, addr := .uni 4, width := 4, scope := 2, space := 0, off := true }) ∧
  decode 0xFF480000 = .ok (.mod { pred := 2, pneg := false, sat := true, clamp := 0, neg := false, absa := false, absb := false, nega := false, negb := false, scale := 0, rnd := 0, xbb := 0, low := 0 }) ∧
  decode 0x27280483 = .ok (.pmac 10 (.vec 0 2) (.vec 2 3)) ∧
  decode 0x38140E01 = .ok (.xfnRsq 5 (.vec 0 7)) ∧
  decode 0x37000C06 = .ok (.cvt 0 3 0 (.vec 0 6)) ∧
  decode 0x30283388 = .ok (.icmp 1 2 (.vec 0 25) (.imm 8)) ∧
  decode 0x3F542200 = .ok (.voteAny 21 (.vec 0 17)) ∧
  decode 0x4204C3E8 = .ok (.kliShort 9 1000) ∧
  decode 0x48EFFFFD = .ok (.bra 7 false 1048573) ∧
  decode 0x48500005 = .ok (.bra 2 true 5) ∧
  decode 0x4C000003 = .ok (.join 3) ∧
  decode 0x52048001 = .ok (.elect 9 1) ∧
  decode 0x5603FFFF = .ok (.wait 0 63 63 63) ∧
  decode 0x59060D28 = .ok (.st { d := 1, addr := .uni 6, width := 4, scope := 5, space := 0, off := false }) ∧
  decode 0x5D28052A = .ok (.atomCas { d := 10, addr := .vec 0 2, wide := false, scope := 5, sp := false }) ∧
  decode 0x5F0000C7 = .ok (.fence 3 7) ∧
  decode 0x6118110B = .ok (.cpy { s := 6, addr := .vec 0 8, size := 2, ss := 0, ds := 1, h := 3 }) ∧
  decode 0x64050500 = .ok (.obres 10 20 false) ∧
  decode 0x66050600 = .ok (.obld 10 24 0 false) ∧
  decode 0x6B100883 = .ok (.acmovToreg 32 34 false) ∧
  decode 0x6E000005 = .ok (.tlnch 5) ∧
  decode 0x70000001 = .ok (.trstRel) ∧
  decode 0x710F07DB = .ok (.balloc 30 31 3 3) ∧
  decode 0x730F0804 = .ok (.barvArrive 30 32 true) ∧
  decode 0x740F0844 = .ok (.bwait 30 33 4) ∧
  decode 0x75140A80 = .ok (.ringCreate 40 42) ∧
  decode 0x78048870 = .ok (.csrr 9 270) ∧
  decode 0x790480BC = .ok (.csrwSwap 9 23) ∧
  decode 0x7A0A0581 = .ok (.snap 20 22 1) ∧
  decode 0x7B0C068A = .ok (.snapq 24 26 2 true) ∧
  decode 0x38140E08 = .error .reservedCode ∧
  decode 0x46000000 = .ok (.reservedMajor 0x46 0)

/-- R76 (04_encoding), R95 to R110 (05_opcode_map): decode and encode agree. A well-formed word's encoding decodes to it, whatever C is; and a word
decodes only to a well-formed instruction whose encoding is that word without C. Events have no encoding. -/
def Obligations.DecodeAndEncodeAgree : Prop :=
  (∀ (i : Instr) (w : BitVec 32), i.wf = true → encode i = some w → w.getLsbD 31 = false ∧ decode w = .ok i ∧ decode (w ||| 0x80000000#32) = .ok i) ∧
  (∀ (w : BitVec 32) (i : Instr), decode w = .ok i → i.wf = true ∧ encode i = some (w &&& 0x7FFFFFFF#32))

/-- R189 (09_memories), R114 (06_registers), R363 (19_host_firmware): after reset every memory, buffer, accumulator and register word is in its canonical
form, and all of them read as zero. That they do so before step 4 of start-up, in State.reset, is log entry 7 (DEDUCED). -/
def Obligations.ResetIsCanonical : Prop :=
  TablesCanonical State.reset ∧ (∀ a, Memory.byte State.reset.mem a = 0 ∧ Memory.byte State.reset.scr a = 0 ∧ Memory.byte State.reset.dsc a = 0 ∧
    Memory.byte State.reset.obuf a = 0 ∧ Memory.byte State.reset.wbuf a = 0 ∧ Memory.byte State.reset.acc a = 0) ∧
    (∀ k, Sparse.get 0#32 State.reset.vrf k = 0) ∧ State.reset.gangs = [] ∧ State.reset.ops = []

/-- R189 (09_memories), R114 (06_registers), R299 (15_tables_counters): a zero word occupies no entry, whatever wrote it: every step keeps memory, the
scratchpads, the buffers, the accumulators and the register file in their canonical form. -/
def Obligations.StepKeepsTablesCanonical : Prop :=
  ∀ (s t : State), TablesCanonical s → step s = .next t → TablesCanonical t
end

