-- ==== Sys2Proof/Laws/Fabric.lean ====
section
/-! SUPPORT. What sending a packet and asking a home for a peer line can do (Machine/Mem.lean): the fabric's state alone changes, what was known of
requests stays known, and what is asked for is known; and who holds a slice of the register file. -/

namespace Sys2Proof.Laws

open Sys2Proof.Machine

/-- The whole effect of a packet sent: one more packet out, its channel's number one higher; nothing of a package that is no member. -/
theorem sendPkt_eq (s : State) (p : Packet) :
    sendPkt s p = { s with fab := if s.fab.member then { s.fab with chans := (sendPkt s p).fab.chans,
                                                                    out := s.fab.out ++ [{ p with seq := (chanOf s p.dst).send, stamp := stampOf s }] } else s.fab } := by
  unfold sendPkt setChan
  split <;> simp_all

/-- A read asked for is known as out, and so is every read that was. -/
theorem askRead_spec (s : State) (line tag : Nat) (rem : Bool) (core : Nat) : ∃ f : Fabric, askRead s line tag rem core = { s with fab := f } ∧
    f.owns = s.fab.owns ∧ f.mine = s.fab.mine ∧ f.wbs = s.fab.wbs ∧ (∀ e ∈ s.fab.reads, e ∈ f.reads) ∧
    (s.fab.member = true → ∃ ok, (line, tag, ok) ∈ f.reads) := by
  refine ⟨(askRead s line tag rem core).fab, ?_⟩
  unfold askRead
  split
  · rename_i h
    refine ⟨rfl, rfl, rfl, rfl, fun _ he => he, fun hm => ?_⟩
    simp only [hm, Bool.not_true, Bool.false_or, List.any_eq_true, Bool.and_eq_true, beq_iff_eq] at h
    obtain ⟨⟨a, b, ok⟩, he, rfl, rfl⟩ := h
    exact ⟨ok, he⟩
  · rename_i h
    have hm : s.fab.member = true := by cases hs : s.fab.member <;> simp_all
    rw [sendPkt_eq]
    simp only [hm, if_true, true_and]
    exact ⟨fun e he => List.mem_cons_of_mem _ he, fun _ => ⟨true, List.mem_cons_self ..⟩⟩

/-- Ownership asked for is known as asked, or was granted before. -/
theorem askOwn_spec (s : State) (line core : Nat) : ∃ f : Fabric, askOwn s line core = { s with fab := f } ∧ f.reads = s.fab.reads ∧ f.mine = s.fab.mine ∧
    f.wbs = s.fab.wbs ∧ (∀ n ∈ s.fab.owns, n ∈ f.owns) ∧ (s.fab.member = true → line ∈ f.owns ∨ line ∈ f.mine) := by
  refine ⟨(askOwn s line core).fab, ?_⟩
  unfold askOwn
  split
  · rename_i h
    refine ⟨rfl, rfl, rfl, rfl, fun _ he => he, fun hm => ?_⟩
    simpa [hm] using h
  · rename_i h
    have hm : s.fab.member = true := by cases hs : s.fab.member <;> simp_all
    rw [sendPkt_eq]
    simp only [hm, if_true, true_and]
    exact ⟨fun e he => List.mem_cons_of_mem _ he, fun _ => .inl (List.mem_cons_self ..)⟩

/-- Nothing but the fabric's state changes, whichever is asked for. -/
theorem askLine_spec (s : State) (line core : Nat) : ∃ f : Fabric, askLine s line core = { s with fab := f } := by
  unfold askLine
  split
  · obtain ⟨f, h, -⟩ := askOwn_spec s line core; exact ⟨f, h⟩
  · obtain ⟨f, h, -⟩ := askRead_spec s line 0 false core; exact ⟨f, h⟩

theorem askBoth_spec (s : State) (line core : Nat) : ∃ f : Fabric, askBoth s line core = { s with fab := f } := by
  unfold askBoth
  split
  · obtain ⟨f, h, -⟩ := askOwn_spec s line core; exact ⟨f, h⟩
  · obtain ⟨f, h, -⟩ := askRead_spec s line 0 false core
    obtain ⟨f2, h2, -⟩ := askOwn_spec (askRead s line 0 false core) line core
    rw [h2, h]; exact ⟨f2, rfl⟩

/-- No answer to a read of the line asked before is kept; the other reads stay as they were. -/
theorem mem_staleReads (s : State) (line : Nat) (e : Nat × Nat × Bool) : e ∈ (staleReads line s).fab.reads →
    (e.1 = line → e.2.2 = false) ∧ (e.1 ≠ line → e ∈ s.fab.reads) := by
  intro h
  obtain ⟨x, hx, he⟩ := List.mem_map.mp h
  split at he
  · rename_i hl; subst he; exact ⟨fun _ => rfl, fun hn => absurd hl hn⟩
  · rename_i hl; subst he; exact ⟨fun hn => absurd hn hl, fun _ => hx⟩

theorem firstSome_some {α β : Type} {f : α → Option β} {y : β} : ∀ {xs : List α}, firstSome f xs = some y → ∃ x ∈ xs, f x = some y
  | [], h => by simp [firstSome] at h
  | x :: xs, h => by
    unfold firstSome at h
    split at h
    · rename_i z hz; exact ⟨x, List.mem_cons_self .., by rw [hz, h]⟩
    · obtain ⟨w, hw, e⟩ := firstSome_some h; exact ⟨w, List.mem_cons_of_mem _ hw, e⟩

/-- The holder of a slice is the gang that owns it, of a claimed slice the victim. -/
theorem sliceHolder_owner {s : State} {core part idx b k : Nat} {g : Gang} {r : SliceRow} (hr : sliceRow s core part idx = some r)
    (h : sliceHolder s core part idx = some (g, b, k)) : g.gid = sliceOwner r.st ∧ g ∈ s.gangs := by
  unfold sliceRow at hr
  unfold sliceHolder at h
  rw [hr] at h
  obtain ⟨x, hx, he⟩ := firstSome_some h
  split at he
  · rename_i hg
    obtain ⟨i, -, hi⟩ := firstSome_some he
    split at hi
    · cases hi; exact ⟨hg, hx⟩
    · cases hi
  · cases he

end Sys2Proof.Laws
end

