-- ==== Sys2Proof/Laws/Lms.lean ====
section
/-! SUPPORT. A signature of the right shape verifies under the key whose root it leads to. -/

namespace Sys2Proof.Machine

theorem leBytes_len (v n : Nat) : (leBytes v n).length = n := by
  induction n generalizing v with
  | zero => rfl
  | succ n ih => simp [leBytes, ih]

theorem beBytes_len (v n : Nat) : (beBytes v n).length = n := by simp [beBytes, leBytes_len]

theorem shaBytes_len (bs : List Byte) : (shaBytes bs).length = 32 := beBytes_len _ _

theorem lmsClimb_len (id : List Byte) (ps : List (List Byte)) (n : Nat) (t : List Byte) (h : t.length = 32) : (lmsClimb id ps n t).length = 32 := by
  induction ps generalizing n t with
  | nil => exact h
  | cons p ps ih => exact ih _ _ (shaBytes_len _)

theorem lmsRoot_len (id msg sig : List Byte) : (lmsRoot id msg sig).length = 32 := lmsClimb_len _ _ _ _ (shaBytes_len _)

theorem lmsKey_id (id root : List Byte) (h : id.length = 16) : slice (lmsKey id root) 8 16 = id := by
  have e : (lmsType ++ otsType).length = 8 := by simp [lmsType, otsType, beBytes_len]
  unfold slice lmsKey
  rw [List.append_assoc, List.append_assoc, ← List.append_assoc lmsType otsType, List.drop_left' e, List.take_left' h]

theorem lmsValid_own (id msg sig : List Byte) (hi : id.length = 16) (hs : lmsShape sig = true) : lmsValid (lmsKey id (lmsRoot id msg sig)) msg sig = true := by
  have hl : (lmsKey id (lmsRoot id msg sig)).length = 56 := by simp [lmsKey, lmsType, otsType, beBytes_len, hi, lmsRoot_len]
  simp [lmsValid, hl, hs, lmsKey_id _ _ hi]

end Sys2Proof.Machine
end

