-- ==== Sys2Proof/Laws/State.lean ====
section
/-! SUPPORT. What each update of the state leaves alone: one lemma a field and update, true by computation. -/

namespace Sys2Proof.Machine

/-! ## setGang -/

@[simp] theorem setGang_agenda (s : State) (g : Gang) : (setGang s g).agenda = s.agenda := rfl
@[simp] theorem setGang_cur (s : State) (g : Gang) : (setGang s g).cur = s.cur := rfl
@[simp] theorem setGang_clock (s : State) (g : Gang) : (setGang s g).clock = s.clock := rfl
@[simp] theorem setGang_fresh (s : State) (g : Gang) : (setGang s g).fresh = s.fresh := rfl
@[simp] theorem setGang_power (s : State) (g : Gang) : (setGang s g).power = s.power := rfl
@[simp] theorem setGang_boot (s : State) (g : Gang) : (setGang s g).boot = s.boot := rfl
@[simp] theorem setGang_policies (s : State) (g : Gang) : (setGang s g).policies = s.policies := rfl
@[simp] theorem setGang_host (s : State) (g : Gang) : (setGang s g).host = s.host := rfl
@[simp] theorem setGang_mem (s : State) (g : Gang) : (setGang s g).mem = s.mem := rfl
@[simp] theorem setGang_memPsn (s : State) (g : Gang) : (setGang s g).memPsn = s.memPsn := rfl
@[simp] theorem setGang_scr (s : State) (g : Gang) : (setGang s g).scr = s.scr := rfl
@[simp] theorem setGang_scrPsn (s : State) (g : Gang) : (setGang s g).scrPsn = s.scrPsn := rfl
@[simp] theorem setGang_dsc (s : State) (g : Gang) : (setGang s g).dsc = s.dsc := rfl
@[simp] theorem setGang_dscPsn (s : State) (g : Gang) : (setGang s g).dscPsn = s.dscPsn := rfl
@[simp] theorem setGang_obuf (s : State) (g : Gang) : (setGang s g).obuf = s.obuf := rfl
@[simp] theorem setGang_wbuf (s : State) (g : Gang) : (setGang s g).wbuf = s.wbuf := rfl
@[simp] theorem setGang_bufPsn (s : State) (g : Gang) : (setGang s g).bufPsn = s.bufPsn := rfl
@[simp] theorem setGang_acc (s : State) (g : Gang) : (setGang s g).acc = s.acc := rfl
@[simp] theorem setGang_accPsn (s : State) (g : Gang) : (setGang s g).accPsn = s.accPsn := rfl
@[simp] theorem setGang_vrf (s : State) (g : Gang) : (setGang s g).vrf = s.vrf := rfl
@[simp] theorem setGang_vmark (s : State) (g : Gang) : (setGang s g).vmark = s.vmark := rfl
@[simp] theorem setGang_slices (s : State) (g : Gang) : (setGang s g).slices = s.slices := rfl
@[simp] theorem setGang_banks (s : State) (g : Gang) : (setGang s g).banks = s.banks := rfl
@[simp] theorem setGang_ranges (s : State) (g : Gang) : (setGang s g).ranges = s.ranges := rfl
@[simp] theorem setGang_splits (s : State) (g : Gang) : (setGang s g).splits = s.splits := rfl
@[simp] theorem setGang_recs (s : State) (g : Gang) : (setGang s g).recs = s.recs := rfl
@[simp] theorem setGang_accs (s : State) (g : Gang) : (setGang s g).accs = s.accs := rfl
@[simp] theorem setGang_arrays (s : State) (g : Gang) : (setGang s g).arrays = s.arrays := rfl
@[simp] theorem setGang_rings (s : State) (g : Gang) : (setGang s g).rings = s.rings := rfl
@[simp] theorem setGang_bars (s : State) (g : Gang) : (setGang s g).bars = s.bars := rfl
@[simp] theorem setGang_l1 (s : State) (g : Gang) : (setGang s g).l1 = s.l1 := rfl
@[simp] theorem setGang_l2 (s : State) (g : Gang) : (setGang s g).l2 = s.l2 := rfl
@[simp] theorem setGang_dir (s : State) (g : Gang) : (setGang s g).dir = s.dir := rfl
@[simp] theorem setGang_tlb (s : State) (g : Gang) : (setGang s g).tlb = s.tlb := rfl
@[simp] theorem setGang_invals (s : State) (g : Gang) : (setGang s g).invals = s.invals := rfl
@[simp] theorem setGang_zmaps (s : State) (g : Gang) : (setGang s g).zmaps = s.zmaps := rfl
@[simp] theorem setGang_ops (s : State) (g : Gang) : (setGang s g).ops = s.ops := rfl
@[simp] theorem setGang_blocks (s : State) (g : Gang) : (setGang s g).blocks = s.blocks := rfl
@[simp] theorem setGang_saved (s : State) (g : Gang) : (setGang s g).saved = s.saved := rfl
@[simp] theorem setGang_launches (s : State) (g : Gang) : (setGang s g).launches = s.launches := rfl
@[simp] theorem setGang_chunks (s : State) (g : Gang) : (setGang s g).chunks = s.chunks := rfl
@[simp] theorem setGang_queues (s : State) (g : Gang) : (setGang s g).queues = s.queues := rfl
@[simp] theorem setGang_ctxs (s : State) (g : Gang) : (setGang s g).ctxs = s.ctxs := rfl
@[simp] theorem setGang_pod (s : State) (g : Gang) : (setGang s g).pod = s.pod := rfl
@[simp] theorem setGang_groups (s : State) (g : Gang) : (setGang s g).groups = s.groups := rfl
@[simp] theorem setGang_fab (s : State) (g : Gang) : (setGang s g).fab = s.fab := rfl
@[simp] theorem setGang_col0 (s : State) (g : Gang) : (setGang s g).col0 = s.col0 := rfl
@[simp] theorem setGang_col1 (s : State) (g : Gang) : (setGang s g).col1 = s.col1 := rfl
@[simp] theorem setGang_tags (s : State) (g : Gang) : (setGang s g).tags = s.tags := rfl
@[simp] theorem setGang_ptags (s : State) (g : Gang) : (setGang s g).ptags = s.ptags := rfl
@[simp] theorem setGang_capQ (s : State) (g : Gang) : (setGang s g).capQ = s.capQ := rfl
@[simp] theorem setGang_cutSeqs (s : State) (g : Gang) : (setGang s g).cutSeqs = s.cutSeqs := rfl
@[simp] theorem setGang_snapAcc (s : State) (g : Gang) : (setGang s g).snapAcc = s.snapAcc := rfl
@[simp] theorem setGang_halyard (s : State) (g : Gang) : (setGang s g).halyard = s.halyard := rfl
@[simp] theorem setGang_upsets (s : State) (g : Gang) : (setGang s g).upsets = s.upsets := rfl
@[simp] theorem setGang_owners (s : State) (g : Gang) : (setGang s g).owners = s.owners := rfl
@[simp] theorem setGang_snapReqs (s : State) (g : Gang) : (setGang s g).snapReqs = s.snapReqs := rfl
@[simp] theorem setGang_images (s : State) (g : Gang) : (setGang s g).images = s.images := rfl
@[simp] theorem setGang_restore (s : State) (g : Gang) : (setGang s g).restore = s.restore := rfl

/-! ## modGang -/

@[simp] theorem modGang_agenda (s : State) (n : Nat) (f : Gang → Gang) : (modGang s n f).agenda = s.agenda := rfl
@[simp] theorem modGang_cur (s : State) (n : Nat) (f : Gang → Gang) : (modGang s n f).cur = s.cur := rfl
@[simp] theorem modGang_clock (s : State) (n : Nat) (f : Gang → Gang) : (modGang s n f).clock = s.clock := rfl
@[simp] theorem modGang_fresh (s : State) (n : Nat) (f : Gang → Gang) : (modGang s n f).fresh = s.fresh := rfl
@[simp] theorem modGang_power (s : State) (n : Nat) (f : Gang → Gang) : (modGang s n f).power = s.power := rfl
@[simp] theorem modGang_boot (s : State) (n : Nat) (f : Gang → Gang) : (modGang s n f).boot = s.boot := rfl
@[simp] theorem modGang_policies (s : State) (n : Nat) (f : Gang → Gang) : (modGang s n f).policies = s.policies := rfl
@[simp] theorem modGang_host (s : State) (n : Nat) (f : Gang → Gang) : (modGang s n f).host = s.host := rfl
@[simp] theorem modGang_mem (s : State) (n : Nat) (f : Gang → Gang) : (modGang s n f).mem = s.mem := rfl
@[simp] theorem modGang_memPsn (s : State) (n : Nat) (f : Gang → Gang) : (modGang s n f).memPsn = s.memPsn := rfl
@[simp] theorem modGang_scr (s : State) (n : Nat) (f : Gang → Gang) : (modGang s n f).scr = s.scr := rfl
@[simp] theorem modGang_scrPsn (s : State) (n : Nat) (f : Gang → Gang) : (modGang s n f).scrPsn = s.scrPsn := rfl
@[simp] theorem modGang_dsc (s : State) (n : Nat) (f : Gang → Gang) : (modGang s n f).dsc = s.dsc := rfl
@[simp] theorem modGang_dscPsn (s : State) (n : Nat) (f : Gang → Gang) : (modGang s n f).dscPsn = s.dscPsn := rfl
@[simp] theorem modGang_obuf (s : State) (n : Nat) (f : Gang → Gang) : (modGang s n f).obuf = s.obuf := rfl
@[simp] theorem modGang_wbuf (s : State) (n : Nat) (f : Gang → Gang) : (modGang s n f).wbuf = s.wbuf := rfl
@[simp] theorem modGang_bufPsn (s : State) (n : Nat) (f : Gang → Gang) : (modGang s n f).bufPsn = s.bufPsn := rfl
@[simp] theorem modGang_acc (s : State) (n : Nat) (f : Gang → Gang) : (modGang s n f).acc = s.acc := rfl
@[simp] theorem modGang_accPsn (s : State) (n : Nat) (f : Gang → Gang) : (modGang s n f).accPsn = s.accPsn := rfl
@[simp] theorem modGang_vrf (s : State) (n : Nat) (f : Gang → Gang) : (modGang s n f).vrf = s.vrf := rfl
@[simp] theorem modGang_vmark (s : State) (n : Nat) (f : Gang → Gang) : (modGang s n f).vmark = s.vmark := rfl
@[simp] theorem modGang_slices (s : State) (n : Nat) (f : Gang → Gang) : (modGang s n f).slices = s.slices := rfl
@[simp] theorem modGang_banks (s : State) (n : Nat) (f : Gang → Gang) : (modGang s n f).banks = s.banks := rfl
@[simp] theorem modGang_ranges (s : State) (n : Nat) (f : Gang → Gang) : (modGang s n f).ranges = s.ranges := rfl
@[simp] theorem modGang_splits (s : State) (n : Nat) (f : Gang → Gang) : (modGang s n f).splits = s.splits := rfl
@[simp] theorem modGang_recs (s : State) (n : Nat) (f : Gang → Gang) : (modGang s n f).recs = s.recs := rfl
@[simp] theorem modGang_accs (s : State) (n : Nat) (f : Gang → Gang) : (modGang s n f).accs = s.accs := rfl
@[simp] theorem modGang_arrays (s : State) (n : Nat) (f : Gang → Gang) : (modGang s n f).arrays = s.arrays := rfl
@[simp] theorem modGang_rings (s : State) (n : Nat) (f : Gang → Gang) : (modGang s n f).rings = s.rings := rfl
@[simp] theorem modGang_bars (s : State) (n : Nat) (f : Gang → Gang) : (modGang s n f).bars = s.bars := rfl
@[simp] theorem modGang_l1 (s : State) (n : Nat) (f : Gang → Gang) : (modGang s n f).l1 = s.l1 := rfl
@[simp] theorem modGang_l2 (s : State) (n : Nat) (f : Gang → Gang) : (modGang s n f).l2 = s.l2 := rfl
@[simp] theorem modGang_dir (s : State) (n : Nat) (f : Gang → Gang) : (modGang s n f).dir = s.dir := rfl
@[simp] theorem modGang_tlb (s : State) (n : Nat) (f : Gang → Gang) : (modGang s n f).tlb = s.tlb := rfl
@[simp] theorem modGang_invals (s : State) (n : Nat) (f : Gang → Gang) : (modGang s n f).invals = s.invals := rfl
@[simp] theorem modGang_zmaps (s : State) (n : Nat) (f : Gang → Gang) : (modGang s n f).zmaps = s.zmaps := rfl
@[simp] theorem modGang_ops (s : State) (n : Nat) (f : Gang → Gang) : (modGang s n f).ops = s.ops := rfl
@[simp] theorem modGang_blocks (s : State) (n : Nat) (f : Gang → Gang) : (modGang s n f).blocks = s.blocks := rfl
@[simp] theorem modGang_saved (s : State) (n : Nat) (f : Gang → Gang) : (modGang s n f).saved = s.saved := rfl
@[simp] theorem modGang_launches (s : State) (n : Nat) (f : Gang → Gang) : (modGang s n f).launches = s.launches := rfl
@[simp] theorem modGang_chunks (s : State) (n : Nat) (f : Gang → Gang) : (modGang s n f).chunks = s.chunks := rfl
@[simp] theorem modGang_queues (s : State) (n : Nat) (f : Gang → Gang) : (modGang s n f).queues = s.queues := rfl
@[simp] theorem modGang_ctxs (s : State) (n : Nat) (f : Gang → Gang) : (modGang s n f).ctxs = s.ctxs := rfl
@[simp] theorem modGang_pod (s : State) (n : Nat) (f : Gang → Gang) : (modGang s n f).pod = s.pod := rfl
@[simp] theorem modGang_groups (s : State) (n : Nat) (f : Gang → Gang) : (modGang s n f).groups = s.groups := rfl
@[simp] theorem modGang_fab (s : State) (n : Nat) (f : Gang → Gang) : (modGang s n f).fab = s.fab := rfl
@[simp] theorem modGang_col0 (s : State) (n : Nat) (f : Gang → Gang) : (modGang s n f).col0 = s.col0 := rfl
@[simp] theorem modGang_col1 (s : State) (n : Nat) (f : Gang → Gang) : (modGang s n f).col1 = s.col1 := rfl
@[simp] theorem modGang_tags (s : State) (n : Nat) (f : Gang → Gang) : (modGang s n f).tags = s.tags := rfl
@[simp] theorem modGang_ptags (s : State) (n : Nat) (f : Gang → Gang) : (modGang s n f).ptags = s.ptags := rfl
@[simp] theorem modGang_capQ (s : State) (n : Nat) (f : Gang → Gang) : (modGang s n f).capQ = s.capQ := rfl
@[simp] theorem modGang_cutSeqs (s : State) (n : Nat) (f : Gang → Gang) : (modGang s n f).cutSeqs = s.cutSeqs := rfl
@[simp] theorem modGang_snapAcc (s : State) (n : Nat) (f : Gang → Gang) : (modGang s n f).snapAcc = s.snapAcc := rfl
@[simp] theorem modGang_halyard (s : State) (n : Nat) (f : Gang → Gang) : (modGang s n f).halyard = s.halyard := rfl
@[simp] theorem modGang_upsets (s : State) (n : Nat) (f : Gang → Gang) : (modGang s n f).upsets = s.upsets := rfl
@[simp] theorem modGang_owners (s : State) (n : Nat) (f : Gang → Gang) : (modGang s n f).owners = s.owners := rfl
@[simp] theorem modGang_snapReqs (s : State) (n : Nat) (f : Gang → Gang) : (modGang s n f).snapReqs = s.snapReqs := rfl
@[simp] theorem modGang_images (s : State) (n : Nat) (f : Gang → Gang) : (modGang s n f).images = s.images := rfl
@[simp] theorem modGang_restore (s : State) (n : Nat) (f : Gang → Gang) : (modGang s n f).restore = s.restore := rfl

/-! ## modLaunch -/

@[simp] theorem modLaunch_agenda (s : State) (n : Nat) (f : Launch → Launch) : (modLaunch s n f).agenda = s.agenda := rfl
@[simp] theorem modLaunch_cur (s : State) (n : Nat) (f : Launch → Launch) : (modLaunch s n f).cur = s.cur := rfl
@[simp] theorem modLaunch_clock (s : State) (n : Nat) (f : Launch → Launch) : (modLaunch s n f).clock = s.clock := rfl
@[simp] theorem modLaunch_fresh (s : State) (n : Nat) (f : Launch → Launch) : (modLaunch s n f).fresh = s.fresh := rfl
@[simp] theorem modLaunch_power (s : State) (n : Nat) (f : Launch → Launch) : (modLaunch s n f).power = s.power := rfl
@[simp] theorem modLaunch_boot (s : State) (n : Nat) (f : Launch → Launch) : (modLaunch s n f).boot = s.boot := rfl
@[simp] theorem modLaunch_policies (s : State) (n : Nat) (f : Launch → Launch) : (modLaunch s n f).policies = s.policies := rfl
@[simp] theorem modLaunch_host (s : State) (n : Nat) (f : Launch → Launch) : (modLaunch s n f).host = s.host := rfl
@[simp] theorem modLaunch_mem (s : State) (n : Nat) (f : Launch → Launch) : (modLaunch s n f).mem = s.mem := rfl
@[simp] theorem modLaunch_memPsn (s : State) (n : Nat) (f : Launch → Launch) : (modLaunch s n f).memPsn = s.memPsn := rfl
@[simp] theorem modLaunch_scr (s : State) (n : Nat) (f : Launch → Launch) : (modLaunch s n f).scr = s.scr := rfl
@[simp] theorem modLaunch_scrPsn (s : State) (n : Nat) (f : Launch → Launch) : (modLaunch s n f).scrPsn = s.scrPsn := rfl
@[simp] theorem modLaunch_dsc (s : State) (n : Nat) (f : Launch → Launch) : (modLaunch s n f).dsc = s.dsc := rfl
@[simp] theorem modLaunch_dscPsn (s : State) (n : Nat) (f : Launch → Launch) : (modLaunch s n f).dscPsn = s.dscPsn := rfl
@[simp] theorem modLaunch_obuf (s : State) (n : Nat) (f : Launch → Launch) : (modLaunch s n f).obuf = s.obuf := rfl
@[simp] theorem modLaunch_wbuf (s : State) (n : Nat) (f : Launch → Launch) : (modLaunch s n f).wbuf = s.wbuf := rfl
@[simp] theorem modLaunch_bufPsn (s : State) (n : Nat) (f : Launch → Launch) : (modLaunch s n f).bufPsn = s.bufPsn := rfl
@[simp] theorem modLaunch_acc (s : State) (n : Nat) (f : Launch → Launch) : (modLaunch s n f).acc = s.acc := rfl
@[simp] theorem modLaunch_accPsn (s : State) (n : Nat) (f : Launch → Launch) : (modLaunch s n f).accPsn = s.accPsn := rfl
@[simp] theorem modLaunch_vrf (s : State) (n : Nat) (f : Launch → Launch) : (modLaunch s n f).vrf = s.vrf := rfl
@[simp] theorem modLaunch_vmark (s : State) (n : Nat) (f : Launch → Launch) : (modLaunch s n f).vmark = s.vmark := rfl
@[simp] theorem modLaunch_slices (s : State) (n : Nat) (f : Launch → Launch) : (modLaunch s n f).slices = s.slices := rfl
@[simp] theorem modLaunch_banks (s : State) (n : Nat) (f : Launch → Launch) : (modLaunch s n f).banks = s.banks := rfl
@[simp] theorem modLaunch_ranges (s : State) (n : Nat) (f : Launch → Launch) : (modLaunch s n f).ranges = s.ranges := rfl
@[simp] theorem modLaunch_splits (s : State) (n : Nat) (f : Launch → Launch) : (modLaunch s n f).splits = s.splits := rfl
@[simp] theorem modLaunch_recs (s : State) (n : Nat) (f : Launch → Launch) : (modLaunch s n f).recs = s.recs := rfl
@[simp] theorem modLaunch_accs (s : State) (n : Nat) (f : Launch → Launch) : (modLaunch s n f).accs = s.accs := rfl
@[simp] theorem modLaunch_arrays (s : State) (n : Nat) (f : Launch → Launch) : (modLaunch s n f).arrays = s.arrays := rfl
@[simp] theorem modLaunch_rings (s : State) (n : Nat) (f : Launch → Launch) : (modLaunch s n f).rings = s.rings := rfl
@[simp] theorem modLaunch_bars (s : State) (n : Nat) (f : Launch → Launch) : (modLaunch s n f).bars = s.bars := rfl
@[simp] theorem modLaunch_l1 (s : State) (n : Nat) (f : Launch → Launch) : (modLaunch s n f).l1 = s.l1 := rfl
@[simp] theorem modLaunch_l2 (s : State) (n : Nat) (f : Launch → Launch) : (modLaunch s n f).l2 = s.l2 := rfl
@[simp] theorem modLaunch_dir (s : State) (n : Nat) (f : Launch → Launch) : (modLaunch s n f).dir = s.dir := rfl
@[simp] theorem modLaunch_tlb (s : State) (n : Nat) (f : Launch → Launch) : (modLaunch s n f).tlb = s.tlb := rfl
@[simp] theorem modLaunch_invals (s : State) (n : Nat) (f : Launch → Launch) : (modLaunch s n f).invals = s.invals := rfl
@[simp] theorem modLaunch_zmaps (s : State) (n : Nat) (f : Launch → Launch) : (modLaunch s n f).zmaps = s.zmaps := rfl
@[simp] theorem modLaunch_gangs (s : State) (n : Nat) (f : Launch → Launch) : (modLaunch s n f).gangs = s.gangs := rfl
@[simp] theorem modLaunch_ops (s : State) (n : Nat) (f : Launch → Launch) : (modLaunch s n f).ops = s.ops := rfl
@[simp] theorem modLaunch_blocks (s : State) (n : Nat) (f : Launch → Launch) : (modLaunch s n f).blocks = s.blocks := rfl
@[simp] theorem modLaunch_saved (s : State) (n : Nat) (f : Launch → Launch) : (modLaunch s n f).saved = s.saved := rfl
@[simp] theorem modLaunch_chunks (s : State) (n : Nat) (f : Launch → Launch) : (modLaunch s n f).chunks = s.chunks := rfl
@[simp] theorem modLaunch_queues (s : State) (n : Nat) (f : Launch → Launch) : (modLaunch s n f).queues = s.queues := rfl
@[simp] theorem modLaunch_ctxs (s : State) (n : Nat) (f : Launch → Launch) : (modLaunch s n f).ctxs = s.ctxs := rfl
@[simp] theorem modLaunch_pod (s : State) (n : Nat) (f : Launch → Launch) : (modLaunch s n f).pod = s.pod := rfl
@[simp] theorem modLaunch_groups (s : State) (n : Nat) (f : Launch → Launch) : (modLaunch s n f).groups = s.groups := rfl
@[simp] theorem modLaunch_fab (s : State) (n : Nat) (f : Launch → Launch) : (modLaunch s n f).fab = s.fab := rfl
@[simp] theorem modLaunch_col0 (s : State) (n : Nat) (f : Launch → Launch) : (modLaunch s n f).col0 = s.col0 := rfl
@[simp] theorem modLaunch_col1 (s : State) (n : Nat) (f : Launch → Launch) : (modLaunch s n f).col1 = s.col1 := rfl
@[simp] theorem modLaunch_tags (s : State) (n : Nat) (f : Launch → Launch) : (modLaunch s n f).tags = s.tags := rfl
@[simp] theorem modLaunch_ptags (s : State) (n : Nat) (f : Launch → Launch) : (modLaunch s n f).ptags = s.ptags := rfl
@[simp] theorem modLaunch_capQ (s : State) (n : Nat) (f : Launch → Launch) : (modLaunch s n f).capQ = s.capQ := rfl
@[simp] theorem modLaunch_cutSeqs (s : State) (n : Nat) (f : Launch → Launch) : (modLaunch s n f).cutSeqs = s.cutSeqs := rfl
@[simp] theorem modLaunch_snapAcc (s : State) (n : Nat) (f : Launch → Launch) : (modLaunch s n f).snapAcc = s.snapAcc := rfl
@[simp] theorem modLaunch_halyard (s : State) (n : Nat) (f : Launch → Launch) : (modLaunch s n f).halyard = s.halyard := rfl
@[simp] theorem modLaunch_upsets (s : State) (n : Nat) (f : Launch → Launch) : (modLaunch s n f).upsets = s.upsets := rfl
@[simp] theorem modLaunch_owners (s : State) (n : Nat) (f : Launch → Launch) : (modLaunch s n f).owners = s.owners := rfl
@[simp] theorem modLaunch_snapReqs (s : State) (n : Nat) (f : Launch → Launch) : (modLaunch s n f).snapReqs = s.snapReqs := rfl
@[simp] theorem modLaunch_images (s : State) (n : Nat) (f : Launch → Launch) : (modLaunch s n f).images = s.images := rfl
@[simp] theorem modLaunch_restore (s : State) (n : Nat) (f : Launch → Launch) : (modLaunch s n f).restore = s.restore := rfl

/-! ## modBlock -/

@[simp] theorem modBlock_agenda (s : State) (n : Nat) (f : Block → Block) : (modBlock s n f).agenda = s.agenda := rfl
@[simp] theorem modBlock_cur (s : State) (n : Nat) (f : Block → Block) : (modBlock s n f).cur = s.cur := rfl
@[simp] theorem modBlock_clock (s : State) (n : Nat) (f : Block → Block) : (modBlock s n f).clock = s.clock := rfl
@[simp] theorem modBlock_fresh (s : State) (n : Nat) (f : Block → Block) : (modBlock s n f).fresh = s.fresh := rfl
@[simp] theorem modBlock_power (s : State) (n : Nat) (f : Block → Block) : (modBlock s n f).power = s.power := rfl
@[simp] theorem modBlock_boot (s : State) (n : Nat) (f : Block → Block) : (modBlock s n f).boot = s.boot := rfl
@[simp] theorem modBlock_policies (s : State) (n : Nat) (f : Block → Block) : (modBlock s n f).policies = s.policies := rfl
@[simp] theorem modBlock_host (s : State) (n : Nat) (f : Block → Block) : (modBlock s n f).host = s.host := rfl
@[simp] theorem modBlock_mem (s : State) (n : Nat) (f : Block → Block) : (modBlock s n f).mem = s.mem := rfl
@[simp] theorem modBlock_memPsn (s : State) (n : Nat) (f : Block → Block) : (modBlock s n f).memPsn = s.memPsn := rfl
@[simp] theorem modBlock_scr (s : State) (n : Nat) (f : Block → Block) : (modBlock s n f).scr = s.scr := rfl
@[simp] theorem modBlock_scrPsn (s : State) (n : Nat) (f : Block → Block) : (modBlock s n f).scrPsn = s.scrPsn := rfl
@[simp] theorem modBlock_dsc (s : State) (n : Nat) (f : Block → Block) : (modBlock s n f).dsc = s.dsc := rfl
@[simp] theorem modBlock_dscPsn (s : State) (n : Nat) (f : Block → Block) : (modBlock s n f).dscPsn = s.dscPsn := rfl
@[simp] theorem modBlock_obuf (s : State) (n : Nat) (f : Block → Block) : (modBlock s n f).obuf = s.obuf := rfl
@[simp] theorem modBlock_wbuf (s : State) (n : Nat) (f : Block → Block) : (modBlock s n f).wbuf = s.wbuf := rfl
@[simp] theorem modBlock_bufPsn (s : State) (n : Nat) (f : Block → Block) : (modBlock s n f).bufPsn = s.bufPsn := rfl
@[simp] theorem modBlock_acc (s : State) (n : Nat) (f : Block → Block) : (modBlock s n f).acc = s.acc := rfl
@[simp] theorem modBlock_accPsn (s : State) (n : Nat) (f : Block → Block) : (modBlock s n f).accPsn = s.accPsn := rfl
@[simp] theorem modBlock_vrf (s : State) (n : Nat) (f : Block → Block) : (modBlock s n f).vrf = s.vrf := rfl
@[simp] theorem modBlock_vmark (s : State) (n : Nat) (f : Block → Block) : (modBlock s n f).vmark = s.vmark := rfl
@[simp] theorem modBlock_slices (s : State) (n : Nat) (f : Block → Block) : (modBlock s n f).slices = s.slices := rfl
@[simp] theorem modBlock_banks (s : State) (n : Nat) (f : Block → Block) : (modBlock s n f).banks = s.banks := rfl
@[simp] theorem modBlock_ranges (s : State) (n : Nat) (f : Block → Block) : (modBlock s n f).ranges = s.ranges := rfl
@[simp] theorem modBlock_splits (s : State) (n : Nat) (f : Block → Block) : (modBlock s n f).splits = s.splits := rfl
@[simp] theorem modBlock_recs (s : State) (n : Nat) (f : Block → Block) : (modBlock s n f).recs = s.recs := rfl
@[simp] theorem modBlock_accs (s : State) (n : Nat) (f : Block → Block) : (modBlock s n f).accs = s.accs := rfl
@[simp] theorem modBlock_arrays (s : State) (n : Nat) (f : Block → Block) : (modBlock s n f).arrays = s.arrays := rfl
@[simp] theorem modBlock_rings (s : State) (n : Nat) (f : Block → Block) : (modBlock s n f).rings = s.rings := rfl
@[simp] theorem modBlock_bars (s : State) (n : Nat) (f : Block → Block) : (modBlock s n f).bars = s.bars := rfl
@[simp] theorem modBlock_l1 (s : State) (n : Nat) (f : Block → Block) : (modBlock s n f).l1 = s.l1 := rfl
@[simp] theorem modBlock_l2 (s : State) (n : Nat) (f : Block → Block) : (modBlock s n f).l2 = s.l2 := rfl
@[simp] theorem modBlock_dir (s : State) (n : Nat) (f : Block → Block) : (modBlock s n f).dir = s.dir := rfl
@[simp] theorem modBlock_tlb (s : State) (n : Nat) (f : Block → Block) : (modBlock s n f).tlb = s.tlb := rfl
@[simp] theorem modBlock_invals (s : State) (n : Nat) (f : Block → Block) : (modBlock s n f).invals = s.invals := rfl
@[simp] theorem modBlock_zmaps (s : State) (n : Nat) (f : Block → Block) : (modBlock s n f).zmaps = s.zmaps := rfl
@[simp] theorem modBlock_gangs (s : State) (n : Nat) (f : Block → Block) : (modBlock s n f).gangs = s.gangs := rfl
@[simp] theorem modBlock_ops (s : State) (n : Nat) (f : Block → Block) : (modBlock s n f).ops = s.ops := rfl
@[simp] theorem modBlock_saved (s : State) (n : Nat) (f : Block → Block) : (modBlock s n f).saved = s.saved := rfl
@[simp] theorem modBlock_launches (s : State) (n : Nat) (f : Block → Block) : (modBlock s n f).launches = s.launches := rfl
@[simp] theorem modBlock_chunks (s : State) (n : Nat) (f : Block → Block) : (modBlock s n f).chunks = s.chunks := rfl
@[simp] theorem modBlock_queues (s : State) (n : Nat) (f : Block → Block) : (modBlock s n f).queues = s.queues := rfl
@[simp] theorem modBlock_ctxs (s : State) (n : Nat) (f : Block → Block) : (modBlock s n f).ctxs = s.ctxs := rfl
@[simp] theorem modBlock_pod (s : State) (n : Nat) (f : Block → Block) : (modBlock s n f).pod = s.pod := rfl
@[simp] theorem modBlock_groups (s : State) (n : Nat) (f : Block → Block) : (modBlock s n f).groups = s.groups := rfl
@[simp] theorem modBlock_fab (s : State) (n : Nat) (f : Block → Block) : (modBlock s n f).fab = s.fab := rfl
@[simp] theorem modBlock_col0 (s : State) (n : Nat) (f : Block → Block) : (modBlock s n f).col0 = s.col0 := rfl
@[simp] theorem modBlock_col1 (s : State) (n : Nat) (f : Block → Block) : (modBlock s n f).col1 = s.col1 := rfl
@[simp] theorem modBlock_tags (s : State) (n : Nat) (f : Block → Block) : (modBlock s n f).tags = s.tags := rfl
@[simp] theorem modBlock_ptags (s : State) (n : Nat) (f : Block → Block) : (modBlock s n f).ptags = s.ptags := rfl
@[simp] theorem modBlock_capQ (s : State) (n : Nat) (f : Block → Block) : (modBlock s n f).capQ = s.capQ := rfl
@[simp] theorem modBlock_cutSeqs (s : State) (n : Nat) (f : Block → Block) : (modBlock s n f).cutSeqs = s.cutSeqs := rfl
@[simp] theorem modBlock_snapAcc (s : State) (n : Nat) (f : Block → Block) : (modBlock s n f).snapAcc = s.snapAcc := rfl
@[simp] theorem modBlock_halyard (s : State) (n : Nat) (f : Block → Block) : (modBlock s n f).halyard = s.halyard := rfl
@[simp] theorem modBlock_upsets (s : State) (n : Nat) (f : Block → Block) : (modBlock s n f).upsets = s.upsets := rfl
@[simp] theorem modBlock_owners (s : State) (n : Nat) (f : Block → Block) : (modBlock s n f).owners = s.owners := rfl
@[simp] theorem modBlock_snapReqs (s : State) (n : Nat) (f : Block → Block) : (modBlock s n f).snapReqs = s.snapReqs := rfl
@[simp] theorem modBlock_images (s : State) (n : Nat) (f : Block → Block) : (modBlock s n f).images = s.images := rfl
@[simp] theorem modBlock_restore (s : State) (n : Nat) (f : Block → Block) : (modBlock s n f).restore = s.restore := rfl

/-! ## setOp -/

@[simp] theorem setOp_agenda (s : State) (o : Op) : (setOp s o).agenda = s.agenda := rfl
@[simp] theorem setOp_cur (s : State) (o : Op) : (setOp s o).cur = s.cur := rfl
@[simp] theorem setOp_clock (s : State) (o : Op) : (setOp s o).clock = s.clock := rfl
@[simp] theorem setOp_fresh (s : State) (o : Op) : (setOp s o).fresh = s.fresh := rfl
@[simp] theorem setOp_power (s : State) (o : Op) : (setOp s o).power = s.power := rfl
@[simp] theorem setOp_boot (s : State) (o : Op) : (setOp s o).boot = s.boot := rfl
@[simp] theorem setOp_policies (s : State) (o : Op) : (setOp s o).policies = s.policies := rfl
@[simp] theorem setOp_host (s : State) (o : Op) : (setOp s o).host = s.host := rfl
@[simp] theorem setOp_mem (s : State) (o : Op) : (setOp s o).mem = s.mem := rfl
@[simp] theorem setOp_memPsn (s : State) (o : Op) : (setOp s o).memPsn = s.memPsn := rfl
@[simp] theorem setOp_scr (s : State) (o : Op) : (setOp s o).scr = s.scr := rfl
@[simp] theorem setOp_scrPsn (s : State) (o : Op) : (setOp s o).scrPsn = s.scrPsn := rfl
@[simp] theorem setOp_dsc (s : State) (o : Op) : (setOp s o).dsc = s.dsc := rfl
@[simp] theorem setOp_dscPsn (s : State) (o : Op) : (setOp s o).dscPsn = s.dscPsn := rfl
@[simp] theorem setOp_obuf (s : State) (o : Op) : (setOp s o).obuf = s.obuf := rfl
@[simp] theorem setOp_wbuf (s : State) (o : Op) : (setOp s o).wbuf = s.wbuf := rfl
@[simp] theorem setOp_bufPsn (s : State) (o : Op) : (setOp s o).bufPsn = s.bufPsn := rfl
@[simp] theorem setOp_acc (s : State) (o : Op) : (setOp s o).acc = s.acc := rfl
@[simp] theorem setOp_accPsn (s : State) (o : Op) : (setOp s o).accPsn = s.accPsn := rfl
@[simp] theorem setOp_vrf (s : State) (o : Op) : (setOp s o).vrf = s.vrf := rfl
@[simp] theorem setOp_vmark (s : State) (o : Op) : (setOp s o).vmark = s.vmark := rfl
@[simp] theorem setOp_slices (s : State) (o : Op) : (setOp s o).slices = s.slices := rfl
@[simp] theorem setOp_banks (s : State) (o : Op) : (setOp s o).banks = s.banks := rfl
@[simp] theorem setOp_ranges (s : State) (o : Op) : (setOp s o).ranges = s.ranges := rfl
@[simp] theorem setOp_splits (s : State) (o : Op) : (setOp s o).splits = s.splits := rfl
@[simp] theorem setOp_recs (s : State) (o : Op) : (setOp s o).recs = s.recs := rfl
@[simp] theorem setOp_accs (s : State) (o : Op) : (setOp s o).accs = s.accs := rfl
@[simp] theorem setOp_arrays (s : State) (o : Op) : (setOp s o).arrays = s.arrays := rfl
@[simp] theorem setOp_rings (s : State) (o : Op) : (setOp s o).rings = s.rings := rfl
@[simp] theorem setOp_bars (s : State) (o : Op) : (setOp s o).bars = s.bars := rfl
@[simp] theorem setOp_l1 (s : State) (o : Op) : (setOp s o).l1 = s.l1 := rfl
@[simp] theorem setOp_l2 (s : State) (o : Op) : (setOp s o).l2 = s.l2 := rfl
@[simp] theorem setOp_dir (s : State) (o : Op) : (setOp s o).dir = s.dir := rfl
@[simp] theorem setOp_tlb (s : State) (o : Op) : (setOp s o).tlb = s.tlb := rfl
@[simp] theorem setOp_invals (s : State) (o : Op) : (setOp s o).invals = s.invals := rfl
@[simp] theorem setOp_zmaps (s : State) (o : Op) : (setOp s o).zmaps = s.zmaps := rfl
@[simp] theorem setOp_gangs (s : State) (o : Op) : (setOp s o).gangs = s.gangs := rfl
@[simp] theorem setOp_blocks (s : State) (o : Op) : (setOp s o).blocks = s.blocks := rfl
@[simp] theorem setOp_saved (s : State) (o : Op) : (setOp s o).saved = s.saved := rfl
@[simp] theorem setOp_launches (s : State) (o : Op) : (setOp s o).launches = s.launches := rfl
@[simp] theorem setOp_chunks (s : State) (o : Op) : (setOp s o).chunks = s.chunks := rfl
@[simp] theorem setOp_queues (s : State) (o : Op) : (setOp s o).queues = s.queues := rfl
@[simp] theorem setOp_ctxs (s : State) (o : Op) : (setOp s o).ctxs = s.ctxs := rfl
@[simp] theorem setOp_pod (s : State) (o : Op) : (setOp s o).pod = s.pod := rfl
@[simp] theorem setOp_groups (s : State) (o : Op) : (setOp s o).groups = s.groups := rfl
@[simp] theorem setOp_fab (s : State) (o : Op) : (setOp s o).fab = s.fab := rfl
@[simp] theorem setOp_col0 (s : State) (o : Op) : (setOp s o).col0 = s.col0 := rfl
@[simp] theorem setOp_col1 (s : State) (o : Op) : (setOp s o).col1 = s.col1 := rfl
@[simp] theorem setOp_tags (s : State) (o : Op) : (setOp s o).tags = s.tags := rfl
@[simp] theorem setOp_ptags (s : State) (o : Op) : (setOp s o).ptags = s.ptags := rfl
@[simp] theorem setOp_capQ (s : State) (o : Op) : (setOp s o).capQ = s.capQ := rfl
@[simp] theorem setOp_cutSeqs (s : State) (o : Op) : (setOp s o).cutSeqs = s.cutSeqs := rfl
@[simp] theorem setOp_snapAcc (s : State) (o : Op) : (setOp s o).snapAcc = s.snapAcc := rfl
@[simp] theorem setOp_halyard (s : State) (o : Op) : (setOp s o).halyard = s.halyard := rfl
@[simp] theorem setOp_upsets (s : State) (o : Op) : (setOp s o).upsets = s.upsets := rfl
@[simp] theorem setOp_owners (s : State) (o : Op) : (setOp s o).owners = s.owners := rfl
@[simp] theorem setOp_snapReqs (s : State) (o : Op) : (setOp s o).snapReqs = s.snapReqs := rfl
@[simp] theorem setOp_images (s : State) (o : Op) : (setOp s o).images = s.images := rfl
@[simp] theorem setOp_restore (s : State) (o : Op) : (setOp s o).restore = s.restore := rfl

/-! ## modOp -/

@[simp] theorem modOp_agenda (s : State) (n : Nat) (f : Op → Op) : (modOp s n f).agenda = s.agenda := rfl
@[simp] theorem modOp_cur (s : State) (n : Nat) (f : Op → Op) : (modOp s n f).cur = s.cur := rfl
@[simp] theorem modOp_clock (s : State) (n : Nat) (f : Op → Op) : (modOp s n f).clock = s.clock := rfl
@[simp] theorem modOp_fresh (s : State) (n : Nat) (f : Op → Op) : (modOp s n f).fresh = s.fresh := rfl
@[simp] theorem modOp_power (s : State) (n : Nat) (f : Op → Op) : (modOp s n f).power = s.power := rfl
@[simp] theorem modOp_boot (s : State) (n : Nat) (f : Op → Op) : (modOp s n f).boot = s.boot := rfl
@[simp] theorem modOp_policies (s : State) (n : Nat) (f : Op → Op) : (modOp s n f).policies = s.policies := rfl
@[simp] theorem modOp_host (s : State) (n : Nat) (f : Op → Op) : (modOp s n f).host = s.host := rfl
@[simp] theorem modOp_mem (s : State) (n : Nat) (f : Op → Op) : (modOp s n f).mem = s.mem := rfl
@[simp] theorem modOp_memPsn (s : State) (n : Nat) (f : Op → Op) : (modOp s n f).memPsn = s.memPsn := rfl
@[simp] theorem modOp_scr (s : State) (n : Nat) (f : Op → Op) : (modOp s n f).scr = s.scr := rfl
@[simp] theorem modOp_scrPsn (s : State) (n : Nat) (f : Op → Op) : (modOp s n f).scrPsn = s.scrPsn := rfl
@[simp] theorem modOp_dsc (s : State) (n : Nat) (f : Op → Op) : (modOp s n f).dsc = s.dsc := rfl
@[simp] theorem modOp_dscPsn (s : State) (n : Nat) (f : Op → Op) : (modOp s n f).dscPsn = s.dscPsn := rfl
@[simp] theorem modOp_obuf (s : State) (n : Nat) (f : Op → Op) : (modOp s n f).obuf = s.obuf := rfl
@[simp] theorem modOp_wbuf (s : State) (n : Nat) (f : Op → Op) : (modOp s n f).wbuf = s.wbuf := rfl
@[simp] theorem modOp_bufPsn (s : State) (n : Nat) (f : Op → Op) : (modOp s n f).bufPsn = s.bufPsn := rfl
@[simp] theorem modOp_acc (s : State) (n : Nat) (f : Op → Op) : (modOp s n f).acc = s.acc := rfl
@[simp] theorem modOp_accPsn (s : State) (n : Nat) (f : Op → Op) : (modOp s n f).accPsn = s.accPsn := rfl
@[simp] theorem modOp_vrf (s : State) (n : Nat) (f : Op → Op) : (modOp s n f).vrf = s.vrf := rfl
@[simp] theorem modOp_vmark (s : State) (n : Nat) (f : Op → Op) : (modOp s n f).vmark = s.vmark := rfl
@[simp] theorem modOp_slices (s : State) (n : Nat) (f : Op → Op) : (modOp s n f).slices = s.slices := rfl
@[simp] theorem modOp_banks (s : State) (n : Nat) (f : Op → Op) : (modOp s n f).banks = s.banks := rfl
@[simp] theorem modOp_ranges (s : State) (n : Nat) (f : Op → Op) : (modOp s n f).ranges = s.ranges := rfl
@[simp] theorem modOp_splits (s : State) (n : Nat) (f : Op → Op) : (modOp s n f).splits = s.splits := rfl
@[simp] theorem modOp_recs (s : State) (n : Nat) (f : Op → Op) : (modOp s n f).recs = s.recs := rfl
@[simp] theorem modOp_accs (s : State) (n : Nat) (f : Op → Op) : (modOp s n f).accs = s.accs := rfl
@[simp] theorem modOp_arrays (s : State) (n : Nat) (f : Op → Op) : (modOp s n f).arrays = s.arrays := rfl
@[simp] theorem modOp_rings (s : State) (n : Nat) (f : Op → Op) : (modOp s n f).rings = s.rings := rfl
@[simp] theorem modOp_bars (s : State) (n : Nat) (f : Op → Op) : (modOp s n f).bars = s.bars := rfl
@[simp] theorem modOp_l1 (s : State) (n : Nat) (f : Op → Op) : (modOp s n f).l1 = s.l1 := rfl
@[simp] theorem modOp_l2 (s : State) (n : Nat) (f : Op → Op) : (modOp s n f).l2 = s.l2 := rfl
@[simp] theorem modOp_dir (s : State) (n : Nat) (f : Op → Op) : (modOp s n f).dir = s.dir := rfl
@[simp] theorem modOp_tlb (s : State) (n : Nat) (f : Op → Op) : (modOp s n f).tlb = s.tlb := rfl
@[simp] theorem modOp_invals (s : State) (n : Nat) (f : Op → Op) : (modOp s n f).invals = s.invals := rfl
@[simp] theorem modOp_zmaps (s : State) (n : Nat) (f : Op → Op) : (modOp s n f).zmaps = s.zmaps := rfl
@[simp] theorem modOp_gangs (s : State) (n : Nat) (f : Op → Op) : (modOp s n f).gangs = s.gangs := rfl
@[simp] theorem modOp_blocks (s : State) (n : Nat) (f : Op → Op) : (modOp s n f).blocks = s.blocks := rfl
@[simp] theorem modOp_saved (s : State) (n : Nat) (f : Op → Op) : (modOp s n f).saved = s.saved := rfl
@[simp] theorem modOp_launches (s : State) (n : Nat) (f : Op → Op) : (modOp s n f).launches = s.launches := rfl
@[simp] theorem modOp_chunks (s : State) (n : Nat) (f : Op → Op) : (modOp s n f).chunks = s.chunks := rfl
@[simp] theorem modOp_queues (s : State) (n : Nat) (f : Op → Op) : (modOp s n f).queues = s.queues := rfl
@[simp] theorem modOp_ctxs (s : State) (n : Nat) (f : Op → Op) : (modOp s n f).ctxs = s.ctxs := rfl
@[simp] theorem modOp_pod (s : State) (n : Nat) (f : Op → Op) : (modOp s n f).pod = s.pod := rfl
@[simp] theorem modOp_groups (s : State) (n : Nat) (f : Op → Op) : (modOp s n f).groups = s.groups := rfl
@[simp] theorem modOp_fab (s : State) (n : Nat) (f : Op → Op) : (modOp s n f).fab = s.fab := rfl
@[simp] theorem modOp_col0 (s : State) (n : Nat) (f : Op → Op) : (modOp s n f).col0 = s.col0 := rfl
@[simp] theorem modOp_col1 (s : State) (n : Nat) (f : Op → Op) : (modOp s n f).col1 = s.col1 := rfl
@[simp] theorem modOp_tags (s : State) (n : Nat) (f : Op → Op) : (modOp s n f).tags = s.tags := rfl
@[simp] theorem modOp_ptags (s : State) (n : Nat) (f : Op → Op) : (modOp s n f).ptags = s.ptags := rfl
@[simp] theorem modOp_capQ (s : State) (n : Nat) (f : Op → Op) : (modOp s n f).capQ = s.capQ := rfl
@[simp] theorem modOp_cutSeqs (s : State) (n : Nat) (f : Op → Op) : (modOp s n f).cutSeqs = s.cutSeqs := rfl
@[simp] theorem modOp_snapAcc (s : State) (n : Nat) (f : Op → Op) : (modOp s n f).snapAcc = s.snapAcc := rfl
@[simp] theorem modOp_halyard (s : State) (n : Nat) (f : Op → Op) : (modOp s n f).halyard = s.halyard := rfl
@[simp] theorem modOp_upsets (s : State) (n : Nat) (f : Op → Op) : (modOp s n f).upsets = s.upsets := rfl
@[simp] theorem modOp_owners (s : State) (n : Nat) (f : Op → Op) : (modOp s n f).owners = s.owners := rfl
@[simp] theorem modOp_snapReqs (s : State) (n : Nat) (f : Op → Op) : (modOp s n f).snapReqs = s.snapReqs := rfl
@[simp] theorem modOp_images (s : State) (n : Nat) (f : Op → Op) : (modOp s n f).images = s.images := rfl
@[simp] theorem modOp_restore (s : State) (n : Nat) (f : Op → Op) : (modOp s n f).restore = s.restore := rfl

/-! ## modCtx -/

@[simp] theorem modCtx_agenda (s : State) (n : Nat) (f : CtxRow → CtxRow) : (modCtx s n f).agenda = s.agenda := rfl
@[simp] theorem modCtx_cur (s : State) (n : Nat) (f : CtxRow → CtxRow) : (modCtx s n f).cur = s.cur := rfl
@[simp] theorem modCtx_clock (s : State) (n : Nat) (f : CtxRow → CtxRow) : (modCtx s n f).clock = s.clock := rfl
@[simp] theorem modCtx_fresh (s : State) (n : Nat) (f : CtxRow → CtxRow) : (modCtx s n f).fresh = s.fresh := rfl
@[simp] theorem modCtx_power (s : State) (n : Nat) (f : CtxRow → CtxRow) : (modCtx s n f).power = s.power := rfl
@[simp] theorem modCtx_boot (s : State) (n : Nat) (f : CtxRow → CtxRow) : (modCtx s n f).boot = s.boot := rfl
@[simp] theorem modCtx_policies (s : State) (n : Nat) (f : CtxRow → CtxRow) : (modCtx s n f).policies = s.policies := rfl
@[simp] theorem modCtx_host (s : State) (n : Nat) (f : CtxRow → CtxRow) : (modCtx s n f).host = s.host := rfl
@[simp] theorem modCtx_mem (s : State) (n : Nat) (f : CtxRow → CtxRow) : (modCtx s n f).mem = s.mem := rfl
@[simp] theorem modCtx_memPsn (s : State) (n : Nat) (f : CtxRow → CtxRow) : (modCtx s n f).memPsn = s.memPsn := rfl
@[simp] theorem modCtx_scr (s : State) (n : Nat) (f : CtxRow → CtxRow) : (modCtx s n f).scr = s.scr := rfl
@[simp] theorem modCtx_scrPsn (s : State) (n : Nat) (f : CtxRow → CtxRow) : (modCtx s n f).scrPsn = s.scrPsn := rfl
@[simp] theorem modCtx_dsc (s : State) (n : Nat) (f : CtxRow → CtxRow) : (modCtx s n f).dsc = s.dsc := rfl
@[simp] theorem modCtx_dscPsn (s : State) (n : Nat) (f : CtxRow → CtxRow) : (modCtx s n f).dscPsn = s.dscPsn := rfl
@[simp] theorem modCtx_obuf (s : State) (n : Nat) (f : CtxRow → CtxRow) : (modCtx s n f).obuf = s.obuf := rfl
@[simp] theorem modCtx_wbuf (s : State) (n : Nat) (f : CtxRow → CtxRow) : (modCtx s n f).wbuf = s.wbuf := rfl
@[simp] theorem modCtx_bufPsn (s : State) (n : Nat) (f : CtxRow → CtxRow) : (modCtx s n f).bufPsn = s.bufPsn := rfl
@[simp] theorem modCtx_acc (s : State) (n : Nat) (f : CtxRow → CtxRow) : (modCtx s n f).acc = s.acc := rfl
@[simp] theorem modCtx_accPsn (s : State) (n : Nat) (f : CtxRow → CtxRow) : (modCtx s n f).accPsn = s.accPsn := rfl
@[simp] theorem modCtx_vrf (s : State) (n : Nat) (f : CtxRow → CtxRow) : (modCtx s n f).vrf = s.vrf := rfl
@[simp] theorem modCtx_vmark (s : State) (n : Nat) (f : CtxRow → CtxRow) : (modCtx s n f).vmark = s.vmark := rfl
@[simp] theorem modCtx_slices (s : State) (n : Nat) (f : CtxRow → CtxRow) : (modCtx s n f).slices = s.slices := rfl
@[simp] theorem modCtx_banks (s : State) (n : Nat) (f : CtxRow → CtxRow) : (modCtx s n f).banks = s.banks := rfl
@[simp] theorem modCtx_ranges (s : State) (n : Nat) (f : CtxRow → CtxRow) : (modCtx s n f).ranges = s.ranges := rfl
@[simp] theorem modCtx_splits (s : State) (n : Nat) (f : CtxRow → CtxRow) : (modCtx s n f).splits = s.splits := rfl
@[simp] theorem modCtx_recs (s : State) (n : Nat) (f : CtxRow → CtxRow) : (modCtx s n f).recs = s.recs := rfl
@[simp] theorem modCtx_accs (s : State) (n : Nat) (f : CtxRow → CtxRow) : (modCtx s n f).accs = s.accs := rfl
@[simp] theorem modCtx_arrays (s : State) (n : Nat) (f : CtxRow → CtxRow) : (modCtx s n f).arrays = s.arrays := rfl
@[simp] theorem modCtx_rings (s : State) (n : Nat) (f : CtxRow → CtxRow) : (modCtx s n f).rings = s.rings := rfl
@[simp] theorem modCtx_bars (s : State) (n : Nat) (f : CtxRow → CtxRow) : (modCtx s n f).bars = s.bars := rfl
@[simp] theorem modCtx_l1 (s : State) (n : Nat) (f : CtxRow → CtxRow) : (modCtx s n f).l1 = s.l1 := rfl
@[simp] theorem modCtx_l2 (s : State) (n : Nat) (f : CtxRow → CtxRow) : (modCtx s n f).l2 = s.l2 := rfl
@[simp] theorem modCtx_dir (s : State) (n : Nat) (f : CtxRow → CtxRow) : (modCtx s n f).dir = s.dir := rfl
@[simp] theorem modCtx_tlb (s : State) (n : Nat) (f : CtxRow → CtxRow) : (modCtx s n f).tlb = s.tlb := rfl
@[simp] theorem modCtx_invals (s : State) (n : Nat) (f : CtxRow → CtxRow) : (modCtx s n f).invals = s.invals := rfl
@[simp] theorem modCtx_zmaps (s : State) (n : Nat) (f : CtxRow → CtxRow) : (modCtx s n f).zmaps = s.zmaps := rfl
@[simp] theorem modCtx_gangs (s : State) (n : Nat) (f : CtxRow → CtxRow) : (modCtx s n f).gangs = s.gangs := rfl
@[simp] theorem modCtx_ops (s : State) (n : Nat) (f : CtxRow → CtxRow) : (modCtx s n f).ops = s.ops := rfl
@[simp] theorem modCtx_blocks (s : State) (n : Nat) (f : CtxRow → CtxRow) : (modCtx s n f).blocks = s.blocks := rfl
@[simp] theorem modCtx_saved (s : State) (n : Nat) (f : CtxRow → CtxRow) : (modCtx s n f).saved = s.saved := rfl
@[simp] theorem modCtx_launches (s : State) (n : Nat) (f : CtxRow → CtxRow) : (modCtx s n f).launches = s.launches := rfl
@[simp] theorem modCtx_chunks (s : State) (n : Nat) (f : CtxRow → CtxRow) : (modCtx s n f).chunks = s.chunks := rfl
@[simp] theorem modCtx_queues (s : State) (n : Nat) (f : CtxRow → CtxRow) : (modCtx s n f).queues = s.queues := rfl
@[simp] theorem modCtx_pod (s : State) (n : Nat) (f : CtxRow → CtxRow) : (modCtx s n f).pod = s.pod := rfl
@[simp] theorem modCtx_groups (s : State) (n : Nat) (f : CtxRow → CtxRow) : (modCtx s n f).groups = s.groups := rfl
@[simp] theorem modCtx_fab (s : State) (n : Nat) (f : CtxRow → CtxRow) : (modCtx s n f).fab = s.fab := rfl
@[simp] theorem modCtx_col0 (s : State) (n : Nat) (f : CtxRow → CtxRow) : (modCtx s n f).col0 = s.col0 := rfl
@[simp] theorem modCtx_col1 (s : State) (n : Nat) (f : CtxRow → CtxRow) : (modCtx s n f).col1 = s.col1 := rfl
@[simp] theorem modCtx_tags (s : State) (n : Nat) (f : CtxRow → CtxRow) : (modCtx s n f).tags = s.tags := rfl
@[simp] theorem modCtx_ptags (s : State) (n : Nat) (f : CtxRow → CtxRow) : (modCtx s n f).ptags = s.ptags := rfl
@[simp] theorem modCtx_capQ (s : State) (n : Nat) (f : CtxRow → CtxRow) : (modCtx s n f).capQ = s.capQ := rfl
@[simp] theorem modCtx_cutSeqs (s : State) (n : Nat) (f : CtxRow → CtxRow) : (modCtx s n f).cutSeqs = s.cutSeqs := rfl
@[simp] theorem modCtx_snapAcc (s : State) (n : Nat) (f : CtxRow → CtxRow) : (modCtx s n f).snapAcc = s.snapAcc := rfl
@[simp] theorem modCtx_halyard (s : State) (n : Nat) (f : CtxRow → CtxRow) : (modCtx s n f).halyard = s.halyard := rfl
@[simp] theorem modCtx_upsets (s : State) (n : Nat) (f : CtxRow → CtxRow) : (modCtx s n f).upsets = s.upsets := rfl
@[simp] theorem modCtx_owners (s : State) (n : Nat) (f : CtxRow → CtxRow) : (modCtx s n f).owners = s.owners := rfl
@[simp] theorem modCtx_snapReqs (s : State) (n : Nat) (f : CtxRow → CtxRow) : (modCtx s n f).snapReqs = s.snapReqs := rfl
@[simp] theorem modCtx_images (s : State) (n : Nat) (f : CtxRow → CtxRow) : (modCtx s n f).images = s.images := rfl
@[simp] theorem modCtx_restore (s : State) (n : Nat) (f : CtxRow → CtxRow) : (modCtx s n f).restore = s.restore := rfl

/-! ## setDir -/

@[simp] theorem setDir_agenda (s : State) (d : DirLine) : (setDir s d).agenda = s.agenda := rfl
@[simp] theorem setDir_cur (s : State) (d : DirLine) : (setDir s d).cur = s.cur := rfl
@[simp] theorem setDir_clock (s : State) (d : DirLine) : (setDir s d).clock = s.clock := rfl
@[simp] theorem setDir_fresh (s : State) (d : DirLine) : (setDir s d).fresh = s.fresh := rfl
@[simp] theorem setDir_power (s : State) (d : DirLine) : (setDir s d).power = s.power := rfl
@[simp] theorem setDir_boot (s : State) (d : DirLine) : (setDir s d).boot = s.boot := rfl
@[simp] theorem setDir_policies (s : State) (d : DirLine) : (setDir s d).policies = s.policies := rfl
@[simp] theorem setDir_host (s : State) (d : DirLine) : (setDir s d).host = s.host := rfl
@[simp] theorem setDir_mem (s : State) (d : DirLine) : (setDir s d).mem = s.mem := rfl
@[simp] theorem setDir_memPsn (s : State) (d : DirLine) : (setDir s d).memPsn = s.memPsn := rfl
@[simp] theorem setDir_scr (s : State) (d : DirLine) : (setDir s d).scr = s.scr := rfl
@[simp] theorem setDir_scrPsn (s : State) (d : DirLine) : (setDir s d).scrPsn = s.scrPsn := rfl
@[simp] theorem setDir_dsc (s : State) (d : DirLine) : (setDir s d).dsc = s.dsc := rfl
@[simp] theorem setDir_dscPsn (s : State) (d : DirLine) : (setDir s d).dscPsn = s.dscPsn := rfl
@[simp] theorem setDir_obuf (s : State) (d : DirLine) : (setDir s d).obuf = s.obuf := rfl
@[simp] theorem setDir_wbuf (s : State) (d : DirLine) : (setDir s d).wbuf = s.wbuf := rfl
@[simp] theorem setDir_bufPsn (s : State) (d : DirLine) : (setDir s d).bufPsn = s.bufPsn := rfl
@[simp] theorem setDir_acc (s : State) (d : DirLine) : (setDir s d).acc = s.acc := rfl
@[simp] theorem setDir_accPsn (s : State) (d : DirLine) : (setDir s d).accPsn = s.accPsn := rfl
@[simp] theorem setDir_vrf (s : State) (d : DirLine) : (setDir s d).vrf = s.vrf := rfl
@[simp] theorem setDir_vmark (s : State) (d : DirLine) : (setDir s d).vmark = s.vmark := rfl
@[simp] theorem setDir_slices (s : State) (d : DirLine) : (setDir s d).slices = s.slices := rfl
@[simp] theorem setDir_banks (s : State) (d : DirLine) : (setDir s d).banks = s.banks := rfl
@[simp] theorem setDir_ranges (s : State) (d : DirLine) : (setDir s d).ranges = s.ranges := rfl
@[simp] theorem setDir_splits (s : State) (d : DirLine) : (setDir s d).splits = s.splits := rfl
@[simp] theorem setDir_recs (s : State) (d : DirLine) : (setDir s d).recs = s.recs := rfl
@[simp] theorem setDir_accs (s : State) (d : DirLine) : (setDir s d).accs = s.accs := rfl
@[simp] theorem setDir_arrays (s : State) (d : DirLine) : (setDir s d).arrays = s.arrays := rfl
@[simp] theorem setDir_rings (s : State) (d : DirLine) : (setDir s d).rings = s.rings := rfl
@[simp] theorem setDir_bars (s : State) (d : DirLine) : (setDir s d).bars = s.bars := rfl
@[simp] theorem setDir_l1 (s : State) (d : DirLine) : (setDir s d).l1 = s.l1 := rfl
@[simp] theorem setDir_l2 (s : State) (d : DirLine) : (setDir s d).l2 = s.l2 := rfl
@[simp] theorem setDir_tlb (s : State) (d : DirLine) : (setDir s d).tlb = s.tlb := rfl
@[simp] theorem setDir_invals (s : State) (d : DirLine) : (setDir s d).invals = s.invals := rfl
@[simp] theorem setDir_zmaps (s : State) (d : DirLine) : (setDir s d).zmaps = s.zmaps := rfl
@[simp] theorem setDir_gangs (s : State) (d : DirLine) : (setDir s d).gangs = s.gangs := rfl
@[simp] theorem setDir_ops (s : State) (d : DirLine) : (setDir s d).ops = s.ops := rfl
@[simp] theorem setDir_blocks (s : State) (d : DirLine) : (setDir s d).blocks = s.blocks := rfl
@[simp] theorem setDir_saved (s : State) (d : DirLine) : (setDir s d).saved = s.saved := rfl
@[simp] theorem setDir_launches (s : State) (d : DirLine) : (setDir s d).launches = s.launches := rfl
@[simp] theorem setDir_chunks (s : State) (d : DirLine) : (setDir s d).chunks = s.chunks := rfl
@[simp] theorem setDir_queues (s : State) (d : DirLine) : (setDir s d).queues = s.queues := rfl
@[simp] theorem setDir_ctxs (s : State) (d : DirLine) : (setDir s d).ctxs = s.ctxs := rfl
@[simp] theorem setDir_pod (s : State) (d : DirLine) : (setDir s d).pod = s.pod := rfl
@[simp] theorem setDir_groups (s : State) (d : DirLine) : (setDir s d).groups = s.groups := rfl
@[simp] theorem setDir_fab (s : State) (d : DirLine) : (setDir s d).fab = s.fab := rfl
@[simp] theorem setDir_col0 (s : State) (d : DirLine) : (setDir s d).col0 = s.col0 := rfl
@[simp] theorem setDir_col1 (s : State) (d : DirLine) : (setDir s d).col1 = s.col1 := rfl
@[simp] theorem setDir_tags (s : State) (d : DirLine) : (setDir s d).tags = s.tags := rfl
@[simp] theorem setDir_ptags (s : State) (d : DirLine) : (setDir s d).ptags = s.ptags := rfl
@[simp] theorem setDir_capQ (s : State) (d : DirLine) : (setDir s d).capQ = s.capQ := rfl
@[simp] theorem setDir_cutSeqs (s : State) (d : DirLine) : (setDir s d).cutSeqs = s.cutSeqs := rfl
@[simp] theorem setDir_snapAcc (s : State) (d : DirLine) : (setDir s d).snapAcc = s.snapAcc := rfl
@[simp] theorem setDir_halyard (s : State) (d : DirLine) : (setDir s d).halyard = s.halyard := rfl
@[simp] theorem setDir_upsets (s : State) (d : DirLine) : (setDir s d).upsets = s.upsets := rfl
@[simp] theorem setDir_owners (s : State) (d : DirLine) : (setDir s d).owners = s.owners := rfl
@[simp] theorem setDir_snapReqs (s : State) (d : DirLine) : (setDir s d).snapReqs = s.snapReqs := rfl
@[simp] theorem setDir_images (s : State) (d : DirLine) : (setDir s d).images = s.images := rfl
@[simp] theorem setDir_restore (s : State) (d : DirLine) : (setDir s d).restore = s.restore := rfl

/-! ## setL1 -/

@[simp] theorem setL1_agenda (s : State) (r : L1Line) : (setL1 s r).agenda = s.agenda := by unfold setL1; split <;> rfl
@[simp] theorem setL1_cur (s : State) (r : L1Line) : (setL1 s r).cur = s.cur := by unfold setL1; split <;> rfl
@[simp] theorem setL1_clock (s : State) (r : L1Line) : (setL1 s r).clock = s.clock := by unfold setL1; split <;> rfl
@[simp] theorem setL1_fresh (s : State) (r : L1Line) : (setL1 s r).fresh = s.fresh := by unfold setL1; split <;> rfl
@[simp] theorem setL1_power (s : State) (r : L1Line) : (setL1 s r).power = s.power := by unfold setL1; split <;> rfl
@[simp] theorem setL1_boot (s : State) (r : L1Line) : (setL1 s r).boot = s.boot := by unfold setL1; split <;> rfl
@[simp] theorem setL1_policies (s : State) (r : L1Line) : (setL1 s r).policies = s.policies := by unfold setL1; split <;> rfl
@[simp] theorem setL1_host (s : State) (r : L1Line) : (setL1 s r).host = s.host := by unfold setL1; split <;> rfl
@[simp] theorem setL1_mem (s : State) (r : L1Line) : (setL1 s r).mem = s.mem := by unfold setL1; split <;> rfl
@[simp] theorem setL1_memPsn (s : State) (r : L1Line) : (setL1 s r).memPsn = s.memPsn := by unfold setL1; split <;> rfl
@[simp] theorem setL1_scr (s : State) (r : L1Line) : (setL1 s r).scr = s.scr := by unfold setL1; split <;> rfl
@[simp] theorem setL1_scrPsn (s : State) (r : L1Line) : (setL1 s r).scrPsn = s.scrPsn := by unfold setL1; split <;> rfl
@[simp] theorem setL1_dsc (s : State) (r : L1Line) : (setL1 s r).dsc = s.dsc := by unfold setL1; split <;> rfl
@[simp] theorem setL1_dscPsn (s : State) (r : L1Line) : (setL1 s r).dscPsn = s.dscPsn := by unfold setL1; split <;> rfl
@[simp] theorem setL1_obuf (s : State) (r : L1Line) : (setL1 s r).obuf = s.obuf := by unfold setL1; split <;> rfl
@[simp] theorem setL1_wbuf (s : State) (r : L1Line) : (setL1 s r).wbuf = s.wbuf := by unfold setL1; split <;> rfl
@[simp] theorem setL1_bufPsn (s : State) (r : L1Line) : (setL1 s r).bufPsn = s.bufPsn := by unfold setL1; split <;> rfl
@[simp] theorem setL1_acc (s : State) (r : L1Line) : (setL1 s r).acc = s.acc := by unfold setL1; split <;> rfl
@[simp] theorem setL1_accPsn (s : State) (r : L1Line) : (setL1 s r).accPsn = s.accPsn := by unfold setL1; split <;> rfl
@[simp] theorem setL1_vrf (s : State) (r : L1Line) : (setL1 s r).vrf = s.vrf := by unfold setL1; split <;> rfl
@[simp] theorem setL1_vmark (s : State) (r : L1Line) : (setL1 s r).vmark = s.vmark := by unfold setL1; split <;> rfl
@[simp] theorem setL1_slices (s : State) (r : L1Line) : (setL1 s r).slices = s.slices := by unfold setL1; split <;> rfl
@[simp] theorem setL1_banks (s : State) (r : L1Line) : (setL1 s r).banks = s.banks := by unfold setL1; split <;> rfl
@[simp] theorem setL1_ranges (s : State) (r : L1Line) : (setL1 s r).ranges = s.ranges := by unfold setL1; split <;> rfl
@[simp] theorem setL1_splits (s : State) (r : L1Line) : (setL1 s r).splits = s.splits := by unfold setL1; split <;> rfl
@[simp] theorem setL1_recs (s : State) (r : L1Line) : (setL1 s r).recs = s.recs := by unfold setL1; split <;> rfl
@[simp] theorem setL1_accs (s : State) (r : L1Line) : (setL1 s r).accs = s.accs := by unfold setL1; split <;> rfl
@[simp] theorem setL1_arrays (s : State) (r : L1Line) : (setL1 s r).arrays = s.arrays := by unfold setL1; split <;> rfl
@[simp] theorem setL1_rings (s : State) (r : L1Line) : (setL1 s r).rings = s.rings := by unfold setL1; split <;> rfl
@[simp] theorem setL1_bars (s : State) (r : L1Line) : (setL1 s r).bars = s.bars := by unfold setL1; split <;> rfl
@[simp] theorem setL1_l2 (s : State) (r : L1Line) : (setL1 s r).l2 = s.l2 := by unfold setL1; split <;> rfl
@[simp] theorem setL1_dir (s : State) (r : L1Line) : (setL1 s r).dir = s.dir := by unfold setL1; split <;> rfl
@[simp] theorem setL1_tlb (s : State) (r : L1Line) : (setL1 s r).tlb = s.tlb := by unfold setL1; split <;> rfl
@[simp] theorem setL1_invals (s : State) (r : L1Line) : (setL1 s r).invals = s.invals := by unfold setL1; split <;> rfl
@[simp] theorem setL1_zmaps (s : State) (r : L1Line) : (setL1 s r).zmaps = s.zmaps := by unfold setL1; split <;> rfl
@[simp] theorem setL1_gangs (s : State) (r : L1Line) : (setL1 s r).gangs = s.gangs := by unfold setL1; split <;> rfl
@[simp] theorem setL1_ops (s : State) (r : L1Line) : (setL1 s r).ops = s.ops := by unfold setL1; split <;> rfl
@[simp] theorem setL1_blocks (s : State) (r : L1Line) : (setL1 s r).blocks = s.blocks := by unfold setL1; split <;> rfl
@[simp] theorem setL1_saved (s : State) (r : L1Line) : (setL1 s r).saved = s.saved := by unfold setL1; split <;> rfl
@[simp] theorem setL1_launches (s : State) (r : L1Line) : (setL1 s r).launches = s.launches := by unfold setL1; split <;> rfl
@[simp] theorem setL1_chunks (s : State) (r : L1Line) : (setL1 s r).chunks = s.chunks := by unfold setL1; split <;> rfl
@[simp] theorem setL1_queues (s : State) (r : L1Line) : (setL1 s r).queues = s.queues := by unfold setL1; split <;> rfl
@[simp] theorem setL1_ctxs (s : State) (r : L1Line) : (setL1 s r).ctxs = s.ctxs := by unfold setL1; split <;> rfl
@[simp] theorem setL1_pod (s : State) (r : L1Line) : (setL1 s r).pod = s.pod := by unfold setL1; split <;> rfl
@[simp] theorem setL1_groups (s : State) (r : L1Line) : (setL1 s r).groups = s.groups := by unfold setL1; split <;> rfl
@[simp] theorem setL1_fab (s : State) (r : L1Line) : (setL1 s r).fab = s.fab := by unfold setL1; split <;> rfl
@[simp] theorem setL1_col0 (s : State) (r : L1Line) : (setL1 s r).col0 = s.col0 := by unfold setL1; split <;> rfl
@[simp] theorem setL1_col1 (s : State) (r : L1Line) : (setL1 s r).col1 = s.col1 := by unfold setL1; split <;> rfl
@[simp] theorem setL1_tags (s : State) (r : L1Line) : (setL1 s r).tags = s.tags := by unfold setL1; split <;> rfl
@[simp] theorem setL1_ptags (s : State) (r : L1Line) : (setL1 s r).ptags = s.ptags := by unfold setL1; split <;> rfl
@[simp] theorem setL1_capQ (s : State) (r : L1Line) : (setL1 s r).capQ = s.capQ := by unfold setL1; split <;> rfl
@[simp] theorem setL1_cutSeqs (s : State) (r : L1Line) : (setL1 s r).cutSeqs = s.cutSeqs := by unfold setL1; split <;> rfl
@[simp] theorem setL1_snapAcc (s : State) (r : L1Line) : (setL1 s r).snapAcc = s.snapAcc := by unfold setL1; split <;> rfl
@[simp] theorem setL1_halyard (s : State) (r : L1Line) : (setL1 s r).halyard = s.halyard := by unfold setL1; split <;> rfl
@[simp] theorem setL1_upsets (s : State) (r : L1Line) : (setL1 s r).upsets = s.upsets := by unfold setL1; split <;> rfl
@[simp] theorem setL1_owners (s : State) (r : L1Line) : (setL1 s r).owners = s.owners := by unfold setL1; split <;> rfl
@[simp] theorem setL1_snapReqs (s : State) (r : L1Line) : (setL1 s r).snapReqs = s.snapReqs := by unfold setL1; split <;> rfl
@[simp] theorem setL1_images (s : State) (r : L1Line) : (setL1 s r).images = s.images := by unfold setL1; split <;> rfl
@[simp] theorem setL1_restore (s : State) (r : L1Line) : (setL1 s r).restore = s.restore := by unfold setL1; split <;> rfl

/-! ## setL2 -/

@[simp] theorem setL2_agenda (s : State) (r : L2Line) : (setL2 s r).agenda = s.agenda := by unfold setL2; split <;> rfl
@[simp] theorem setL2_cur (s : State) (r : L2Line) : (setL2 s r).cur = s.cur := by unfold setL2; split <;> rfl
@[simp] theorem setL2_clock (s : State) (r : L2Line) : (setL2 s r).clock = s.clock := by unfold setL2; split <;> rfl
@[simp] theorem setL2_fresh (s : State) (r : L2Line) : (setL2 s r).fresh = s.fresh := by unfold setL2; split <;> rfl
@[simp] theorem setL2_power (s : State) (r : L2Line) : (setL2 s r).power = s.power := by unfold setL2; split <;> rfl
@[simp] theorem setL2_boot (s : State) (r : L2Line) : (setL2 s r).boot = s.boot := by unfold setL2; split <;> rfl
@[simp] theorem setL2_policies (s : State) (r : L2Line) : (setL2 s r).policies = s.policies := by unfold setL2; split <;> rfl
@[simp] theorem setL2_host (s : State) (r : L2Line) : (setL2 s r).host = s.host := by unfold setL2; split <;> rfl
@[simp] theorem setL2_mem (s : State) (r : L2Line) : (setL2 s r).mem = s.mem := by unfold setL2; split <;> rfl
@[simp] theorem setL2_memPsn (s : State) (r : L2Line) : (setL2 s r).memPsn = s.memPsn := by unfold setL2; split <;> rfl
@[simp] theorem setL2_scr (s : State) (r : L2Line) : (setL2 s r).scr = s.scr := by unfold setL2; split <;> rfl
@[simp] theorem setL2_scrPsn (s : State) (r : L2Line) : (setL2 s r).scrPsn = s.scrPsn := by unfold setL2; split <;> rfl
@[simp] theorem setL2_dsc (s : State) (r : L2Line) : (setL2 s r).dsc = s.dsc := by unfold setL2; split <;> rfl
@[simp] theorem setL2_dscPsn (s : State) (r : L2Line) : (setL2 s r).dscPsn = s.dscPsn := by unfold setL2; split <;> rfl
@[simp] theorem setL2_obuf (s : State) (r : L2Line) : (setL2 s r).obuf = s.obuf := by unfold setL2; split <;> rfl
@[simp] theorem setL2_wbuf (s : State) (r : L2Line) : (setL2 s r).wbuf = s.wbuf := by unfold setL2; split <;> rfl
@[simp] theorem setL2_bufPsn (s : State) (r : L2Line) : (setL2 s r).bufPsn = s.bufPsn := by unfold setL2; split <;> rfl
@[simp] theorem setL2_acc (s : State) (r : L2Line) : (setL2 s r).acc = s.acc := by unfold setL2; split <;> rfl
@[simp] theorem setL2_accPsn (s : State) (r : L2Line) : (setL2 s r).accPsn = s.accPsn := by unfold setL2; split <;> rfl
@[simp] theorem setL2_vrf (s : State) (r : L2Line) : (setL2 s r).vrf = s.vrf := by unfold setL2; split <;> rfl
@[simp] theorem setL2_vmark (s : State) (r : L2Line) : (setL2 s r).vmark = s.vmark := by unfold setL2; split <;> rfl
@[simp] theorem setL2_slices (s : State) (r : L2Line) : (setL2 s r).slices = s.slices := by unfold setL2; split <;> rfl
@[simp] theorem setL2_banks (s : State) (r : L2Line) : (setL2 s r).banks = s.banks := by unfold setL2; split <;> rfl
@[simp] theorem setL2_ranges (s : State) (r : L2Line) : (setL2 s r).ranges = s.ranges := by unfold setL2; split <;> rfl
@[simp] theorem setL2_splits (s : State) (r : L2Line) : (setL2 s r).splits = s.splits := by unfold setL2; split <;> rfl
@[simp] theorem setL2_recs (s : State) (r : L2Line) : (setL2 s r).recs = s.recs := by unfold setL2; split <;> rfl
@[simp] theorem setL2_accs (s : State) (r : L2Line) : (setL2 s r).accs = s.accs := by unfold setL2; split <;> rfl
@[simp] theorem setL2_arrays (s : State) (r : L2Line) : (setL2 s r).arrays = s.arrays := by unfold setL2; split <;> rfl
@[simp] theorem setL2_rings (s : State) (r : L2Line) : (setL2 s r).rings = s.rings := by unfold setL2; split <;> rfl
@[simp] theorem setL2_bars (s : State) (r : L2Line) : (setL2 s r).bars = s.bars := by unfold setL2; split <;> rfl
@[simp] theorem setL2_l1 (s : State) (r : L2Line) : (setL2 s r).l1 = s.l1 := by unfold setL2; split <;> rfl
@[simp] theorem setL2_dir (s : State) (r : L2Line) : (setL2 s r).dir = s.dir := by unfold setL2; split <;> rfl
@[simp] theorem setL2_tlb (s : State) (r : L2Line) : (setL2 s r).tlb = s.tlb := by unfold setL2; split <;> rfl
@[simp] theorem setL2_invals (s : State) (r : L2Line) : (setL2 s r).invals = s.invals := by unfold setL2; split <;> rfl
@[simp] theorem setL2_zmaps (s : State) (r : L2Line) : (setL2 s r).zmaps = s.zmaps := by unfold setL2; split <;> rfl
@[simp] theorem setL2_gangs (s : State) (r : L2Line) : (setL2 s r).gangs = s.gangs := by unfold setL2; split <;> rfl
@[simp] theorem setL2_ops (s : State) (r : L2Line) : (setL2 s r).ops = s.ops := by unfold setL2; split <;> rfl
@[simp] theorem setL2_blocks (s : State) (r : L2Line) : (setL2 s r).blocks = s.blocks := by unfold setL2; split <;> rfl
@[simp] theorem setL2_saved (s : State) (r : L2Line) : (setL2 s r).saved = s.saved := by unfold setL2; split <;> rfl
@[simp] theorem setL2_launches (s : State) (r : L2Line) : (setL2 s r).launches = s.launches := by unfold setL2; split <;> rfl
@[simp] theorem setL2_chunks (s : State) (r : L2Line) : (setL2 s r).chunks = s.chunks := by unfold setL2; split <;> rfl
@[simp] theorem setL2_queues (s : State) (r : L2Line) : (setL2 s r).queues = s.queues := by unfold setL2; split <;> rfl
@[simp] theorem setL2_ctxs (s : State) (r : L2Line) : (setL2 s r).ctxs = s.ctxs := by unfold setL2; split <;> rfl
@[simp] theorem setL2_pod (s : State) (r : L2Line) : (setL2 s r).pod = s.pod := by unfold setL2; split <;> rfl
@[simp] theorem setL2_groups (s : State) (r : L2Line) : (setL2 s r).groups = s.groups := by unfold setL2; split <;> rfl
@[simp] theorem setL2_fab (s : State) (r : L2Line) : (setL2 s r).fab = s.fab := by unfold setL2; split <;> rfl
@[simp] theorem setL2_col0 (s : State) (r : L2Line) : (setL2 s r).col0 = s.col0 := by unfold setL2; split <;> rfl
@[simp] theorem setL2_col1 (s : State) (r : L2Line) : (setL2 s r).col1 = s.col1 := by unfold setL2; split <;> rfl
@[simp] theorem setL2_tags (s : State) (r : L2Line) : (setL2 s r).tags = s.tags := by unfold setL2; split <;> rfl
@[simp] theorem setL2_ptags (s : State) (r : L2Line) : (setL2 s r).ptags = s.ptags := by unfold setL2; split <;> rfl
@[simp] theorem setL2_capQ (s : State) (r : L2Line) : (setL2 s r).capQ = s.capQ := by unfold setL2; split <;> rfl
@[simp] theorem setL2_cutSeqs (s : State) (r : L2Line) : (setL2 s r).cutSeqs = s.cutSeqs := by unfold setL2; split <;> rfl
@[simp] theorem setL2_snapAcc (s : State) (r : L2Line) : (setL2 s r).snapAcc = s.snapAcc := by unfold setL2; split <;> rfl
@[simp] theorem setL2_halyard (s : State) (r : L2Line) : (setL2 s r).halyard = s.halyard := by unfold setL2; split <;> rfl
@[simp] theorem setL2_upsets (s : State) (r : L2Line) : (setL2 s r).upsets = s.upsets := by unfold setL2; split <;> rfl
@[simp] theorem setL2_owners (s : State) (r : L2Line) : (setL2 s r).owners = s.owners := by unfold setL2; split <;> rfl
@[simp] theorem setL2_snapReqs (s : State) (r : L2Line) : (setL2 s r).snapReqs = s.snapReqs := by unfold setL2; split <;> rfl
@[simp] theorem setL2_images (s : State) (r : L2Line) : (setL2 s r).images = s.images := by unfold setL2; split <;> rfl
@[simp] theorem setL2_restore (s : State) (r : L2Line) : (setL2 s r).restore = s.restore := by unfold setL2; split <;> rfl

/-! ## dropL2 -/

@[simp] theorem dropL2_agenda (s : State) (p : Bool) (l : Nat) : (dropL2 s p l).agenda = s.agenda := rfl
@[simp] theorem dropL2_cur (s : State) (p : Bool) (l : Nat) : (dropL2 s p l).cur = s.cur := rfl
@[simp] theorem dropL2_clock (s : State) (p : Bool) (l : Nat) : (dropL2 s p l).clock = s.clock := rfl
@[simp] theorem dropL2_fresh (s : State) (p : Bool) (l : Nat) : (dropL2 s p l).fresh = s.fresh := rfl
@[simp] theorem dropL2_power (s : State) (p : Bool) (l : Nat) : (dropL2 s p l).power = s.power := rfl
@[simp] theorem dropL2_boot (s : State) (p : Bool) (l : Nat) : (dropL2 s p l).boot = s.boot := rfl
@[simp] theorem dropL2_policies (s : State) (p : Bool) (l : Nat) : (dropL2 s p l).policies = s.policies := rfl
@[simp] theorem dropL2_host (s : State) (p : Bool) (l : Nat) : (dropL2 s p l).host = s.host := rfl
@[simp] theorem dropL2_mem (s : State) (p : Bool) (l : Nat) : (dropL2 s p l).mem = s.mem := rfl
@[simp] theorem dropL2_memPsn (s : State) (p : Bool) (l : Nat) : (dropL2 s p l).memPsn = s.memPsn := rfl
@[simp] theorem dropL2_scr (s : State) (p : Bool) (l : Nat) : (dropL2 s p l).scr = s.scr := rfl
@[simp] theorem dropL2_scrPsn (s : State) (p : Bool) (l : Nat) : (dropL2 s p l).scrPsn = s.scrPsn := rfl
@[simp] theorem dropL2_dsc (s : State) (p : Bool) (l : Nat) : (dropL2 s p l).dsc = s.dsc := rfl
@[simp] theorem dropL2_dscPsn (s : State) (p : Bool) (l : Nat) : (dropL2 s p l).dscPsn = s.dscPsn := rfl
@[simp] theorem dropL2_obuf (s : State) (p : Bool) (l : Nat) : (dropL2 s p l).obuf = s.obuf := rfl
@[simp] theorem dropL2_wbuf (s : State) (p : Bool) (l : Nat) : (dropL2 s p l).wbuf = s.wbuf := rfl
@[simp] theorem dropL2_bufPsn (s : State) (p : Bool) (l : Nat) : (dropL2 s p l).bufPsn = s.bufPsn := rfl
@[simp] theorem dropL2_acc (s : State) (p : Bool) (l : Nat) : (dropL2 s p l).acc = s.acc := rfl
@[simp] theorem dropL2_accPsn (s : State) (p : Bool) (l : Nat) : (dropL2 s p l).accPsn = s.accPsn := rfl
@[simp] theorem dropL2_vrf (s : State) (p : Bool) (l : Nat) : (dropL2 s p l).vrf = s.vrf := rfl
@[simp] theorem dropL2_vmark (s : State) (p : Bool) (l : Nat) : (dropL2 s p l).vmark = s.vmark := rfl
@[simp] theorem dropL2_slices (s : State) (p : Bool) (l : Nat) : (dropL2 s p l).slices = s.slices := rfl
@[simp] theorem dropL2_banks (s : State) (p : Bool) (l : Nat) : (dropL2 s p l).banks = s.banks := rfl
@[simp] theorem dropL2_ranges (s : State) (p : Bool) (l : Nat) : (dropL2 s p l).ranges = s.ranges := rfl
@[simp] theorem dropL2_splits (s : State) (p : Bool) (l : Nat) : (dropL2 s p l).splits = s.splits := rfl
@[simp] theorem dropL2_recs (s : State) (p : Bool) (l : Nat) : (dropL2 s p l).recs = s.recs := rfl
@[simp] theorem dropL2_accs (s : State) (p : Bool) (l : Nat) : (dropL2 s p l).accs = s.accs := rfl
@[simp] theorem dropL2_arrays (s : State) (p : Bool) (l : Nat) : (dropL2 s p l).arrays = s.arrays := rfl
@[simp] theorem dropL2_rings (s : State) (p : Bool) (l : Nat) : (dropL2 s p l).rings = s.rings := rfl
@[simp] theorem dropL2_bars (s : State) (p : Bool) (l : Nat) : (dropL2 s p l).bars = s.bars := rfl
@[simp] theorem dropL2_l1 (s : State) (p : Bool) (l : Nat) : (dropL2 s p l).l1 = s.l1 := rfl
@[simp] theorem dropL2_dir (s : State) (p : Bool) (l : Nat) : (dropL2 s p l).dir = s.dir := rfl
@[simp] theorem dropL2_tlb (s : State) (p : Bool) (l : Nat) : (dropL2 s p l).tlb = s.tlb := rfl
@[simp] theorem dropL2_invals (s : State) (p : Bool) (l : Nat) : (dropL2 s p l).invals = s.invals := rfl
@[simp] theorem dropL2_zmaps (s : State) (p : Bool) (l : Nat) : (dropL2 s p l).zmaps = s.zmaps := rfl
@[simp] theorem dropL2_gangs (s : State) (p : Bool) (l : Nat) : (dropL2 s p l).gangs = s.gangs := rfl
@[simp] theorem dropL2_ops (s : State) (p : Bool) (l : Nat) : (dropL2 s p l).ops = s.ops := rfl
@[simp] theorem dropL2_blocks (s : State) (p : Bool) (l : Nat) : (dropL2 s p l).blocks = s.blocks := rfl
@[simp] theorem dropL2_saved (s : State) (p : Bool) (l : Nat) : (dropL2 s p l).saved = s.saved := rfl
@[simp] theorem dropL2_launches (s : State) (p : Bool) (l : Nat) : (dropL2 s p l).launches = s.launches := rfl
@[simp] theorem dropL2_chunks (s : State) (p : Bool) (l : Nat) : (dropL2 s p l).chunks = s.chunks := rfl
@[simp] theorem dropL2_queues (s : State) (p : Bool) (l : Nat) : (dropL2 s p l).queues = s.queues := rfl
@[simp] theorem dropL2_ctxs (s : State) (p : Bool) (l : Nat) : (dropL2 s p l).ctxs = s.ctxs := rfl
@[simp] theorem dropL2_pod (s : State) (p : Bool) (l : Nat) : (dropL2 s p l).pod = s.pod := rfl
@[simp] theorem dropL2_groups (s : State) (p : Bool) (l : Nat) : (dropL2 s p l).groups = s.groups := rfl
@[simp] theorem dropL2_fab (s : State) (p : Bool) (l : Nat) : (dropL2 s p l).fab = s.fab := rfl
@[simp] theorem dropL2_col0 (s : State) (p : Bool) (l : Nat) : (dropL2 s p l).col0 = s.col0 := rfl
@[simp] theorem dropL2_col1 (s : State) (p : Bool) (l : Nat) : (dropL2 s p l).col1 = s.col1 := rfl
@[simp] theorem dropL2_tags (s : State) (p : Bool) (l : Nat) : (dropL2 s p l).tags = s.tags := rfl
@[simp] theorem dropL2_ptags (s : State) (p : Bool) (l : Nat) : (dropL2 s p l).ptags = s.ptags := rfl
@[simp] theorem dropL2_capQ (s : State) (p : Bool) (l : Nat) : (dropL2 s p l).capQ = s.capQ := rfl
@[simp] theorem dropL2_cutSeqs (s : State) (p : Bool) (l : Nat) : (dropL2 s p l).cutSeqs = s.cutSeqs := rfl
@[simp] theorem dropL2_snapAcc (s : State) (p : Bool) (l : Nat) : (dropL2 s p l).snapAcc = s.snapAcc := rfl
@[simp] theorem dropL2_halyard (s : State) (p : Bool) (l : Nat) : (dropL2 s p l).halyard = s.halyard := rfl
@[simp] theorem dropL2_upsets (s : State) (p : Bool) (l : Nat) : (dropL2 s p l).upsets = s.upsets := rfl
@[simp] theorem dropL2_owners (s : State) (p : Bool) (l : Nat) : (dropL2 s p l).owners = s.owners := rfl
@[simp] theorem dropL2_snapReqs (s : State) (p : Bool) (l : Nat) : (dropL2 s p l).snapReqs = s.snapReqs := rfl
@[simp] theorem dropL2_images (s : State) (p : Bool) (l : Nat) : (dropL2 s p l).images = s.images := rfl
@[simp] theorem dropL2_restore (s : State) (p : Bool) (l : Nat) : (dropL2 s p l).restore = s.restore := rfl

/-! ## setChan -/

@[simp] theorem setChan_agenda (s : State) (c : Chan) : (setChan s c).agenda = s.agenda := rfl
@[simp] theorem setChan_cur (s : State) (c : Chan) : (setChan s c).cur = s.cur := rfl
@[simp] theorem setChan_clock (s : State) (c : Chan) : (setChan s c).clock = s.clock := rfl
@[simp] theorem setChan_fresh (s : State) (c : Chan) : (setChan s c).fresh = s.fresh := rfl
@[simp] theorem setChan_power (s : State) (c : Chan) : (setChan s c).power = s.power := rfl
@[simp] theorem setChan_boot (s : State) (c : Chan) : (setChan s c).boot = s.boot := rfl
@[simp] theorem setChan_policies (s : State) (c : Chan) : (setChan s c).policies = s.policies := rfl
@[simp] theorem setChan_host (s : State) (c : Chan) : (setChan s c).host = s.host := rfl
@[simp] theorem setChan_mem (s : State) (c : Chan) : (setChan s c).mem = s.mem := rfl
@[simp] theorem setChan_memPsn (s : State) (c : Chan) : (setChan s c).memPsn = s.memPsn := rfl
@[simp] theorem setChan_scr (s : State) (c : Chan) : (setChan s c).scr = s.scr := rfl
@[simp] theorem setChan_scrPsn (s : State) (c : Chan) : (setChan s c).scrPsn = s.scrPsn := rfl
@[simp] theorem setChan_dsc (s : State) (c : Chan) : (setChan s c).dsc = s.dsc := rfl
@[simp] theorem setChan_dscPsn (s : State) (c : Chan) : (setChan s c).dscPsn = s.dscPsn := rfl
@[simp] theorem setChan_obuf (s : State) (c : Chan) : (setChan s c).obuf = s.obuf := rfl
@[simp] theorem setChan_wbuf (s : State) (c : Chan) : (setChan s c).wbuf = s.wbuf := rfl
@[simp] theorem setChan_bufPsn (s : State) (c : Chan) : (setChan s c).bufPsn = s.bufPsn := rfl
@[simp] theorem setChan_acc (s : State) (c : Chan) : (setChan s c).acc = s.acc := rfl
@[simp] theorem setChan_accPsn (s : State) (c : Chan) : (setChan s c).accPsn = s.accPsn := rfl
@[simp] theorem setChan_vrf (s : State) (c : Chan) : (setChan s c).vrf = s.vrf := rfl
@[simp] theorem setChan_vmark (s : State) (c : Chan) : (setChan s c).vmark = s.vmark := rfl
@[simp] theorem setChan_slices (s : State) (c : Chan) : (setChan s c).slices = s.slices := rfl
@[simp] theorem setChan_banks (s : State) (c : Chan) : (setChan s c).banks = s.banks := rfl
@[simp] theorem setChan_ranges (s : State) (c : Chan) : (setChan s c).ranges = s.ranges := rfl
@[simp] theorem setChan_splits (s : State) (c : Chan) : (setChan s c).splits = s.splits := rfl
@[simp] theorem setChan_recs (s : State) (c : Chan) : (setChan s c).recs = s.recs := rfl
@[simp] theorem setChan_accs (s : State) (c : Chan) : (setChan s c).accs = s.accs := rfl
@[simp] theorem setChan_arrays (s : State) (c : Chan) : (setChan s c).arrays = s.arrays := rfl
@[simp] theorem setChan_rings (s : State) (c : Chan) : (setChan s c).rings = s.rings := rfl
@[simp] theorem setChan_bars (s : State) (c : Chan) : (setChan s c).bars = s.bars := rfl
@[simp] theorem setChan_l1 (s : State) (c : Chan) : (setChan s c).l1 = s.l1 := rfl
@[simp] theorem setChan_l2 (s : State) (c : Chan) : (setChan s c).l2 = s.l2 := rfl
@[simp] theorem setChan_dir (s : State) (c : Chan) : (setChan s c).dir = s.dir := rfl
@[simp] theorem setChan_tlb (s : State) (c : Chan) : (setChan s c).tlb = s.tlb := rfl
@[simp] theorem setChan_invals (s : State) (c : Chan) : (setChan s c).invals = s.invals := rfl
@[simp] theorem setChan_zmaps (s : State) (c : Chan) : (setChan s c).zmaps = s.zmaps := rfl
@[simp] theorem setChan_gangs (s : State) (c : Chan) : (setChan s c).gangs = s.gangs := rfl
@[simp] theorem setChan_ops (s : State) (c : Chan) : (setChan s c).ops = s.ops := rfl
@[simp] theorem setChan_blocks (s : State) (c : Chan) : (setChan s c).blocks = s.blocks := rfl
@[simp] theorem setChan_saved (s : State) (c : Chan) : (setChan s c).saved = s.saved := rfl
@[simp] theorem setChan_launches (s : State) (c : Chan) : (setChan s c).launches = s.launches := rfl
@[simp] theorem setChan_chunks (s : State) (c : Chan) : (setChan s c).chunks = s.chunks := rfl
@[simp] theorem setChan_queues (s : State) (c : Chan) : (setChan s c).queues = s.queues := rfl
@[simp] theorem setChan_ctxs (s : State) (c : Chan) : (setChan s c).ctxs = s.ctxs := rfl
@[simp] theorem setChan_pod (s : State) (c : Chan) : (setChan s c).pod = s.pod := rfl
@[simp] theorem setChan_groups (s : State) (c : Chan) : (setChan s c).groups = s.groups := rfl
@[simp] theorem setChan_col0 (s : State) (c : Chan) : (setChan s c).col0 = s.col0 := rfl
@[simp] theorem setChan_col1 (s : State) (c : Chan) : (setChan s c).col1 = s.col1 := rfl
@[simp] theorem setChan_tags (s : State) (c : Chan) : (setChan s c).tags = s.tags := rfl
@[simp] theorem setChan_ptags (s : State) (c : Chan) : (setChan s c).ptags = s.ptags := rfl
@[simp] theorem setChan_capQ (s : State) (c : Chan) : (setChan s c).capQ = s.capQ := rfl
@[simp] theorem setChan_cutSeqs (s : State) (c : Chan) : (setChan s c).cutSeqs = s.cutSeqs := rfl
@[simp] theorem setChan_snapAcc (s : State) (c : Chan) : (setChan s c).snapAcc = s.snapAcc := rfl
@[simp] theorem setChan_halyard (s : State) (c : Chan) : (setChan s c).halyard = s.halyard := rfl
@[simp] theorem setChan_upsets (s : State) (c : Chan) : (setChan s c).upsets = s.upsets := rfl
@[simp] theorem setChan_owners (s : State) (c : Chan) : (setChan s c).owners = s.owners := rfl
@[simp] theorem setChan_snapReqs (s : State) (c : Chan) : (setChan s c).snapReqs = s.snapReqs := rfl
@[simp] theorem setChan_images (s : State) (c : Chan) : (setChan s c).images = s.images := rfl
@[simp] theorem setChan_restore (s : State) (c : Chan) : (setChan s c).restore = s.restore := rfl

/-! ## sendPkt -/

@[simp] theorem sendPkt_agenda (s : State) (p : Packet) : (sendPkt s p).agenda = s.agenda := rfl
@[simp] theorem sendPkt_cur (s : State) (p : Packet) : (sendPkt s p).cur = s.cur := rfl
@[simp] theorem sendPkt_clock (s : State) (p : Packet) : (sendPkt s p).clock = s.clock := rfl
@[simp] theorem sendPkt_fresh (s : State) (p : Packet) : (sendPkt s p).fresh = s.fresh := rfl
@[simp] theorem sendPkt_power (s : State) (p : Packet) : (sendPkt s p).power = s.power := rfl
@[simp] theorem sendPkt_boot (s : State) (p : Packet) : (sendPkt s p).boot = s.boot := rfl
@[simp] theorem sendPkt_policies (s : State) (p : Packet) : (sendPkt s p).policies = s.policies := rfl
@[simp] theorem sendPkt_host (s : State) (p : Packet) : (sendPkt s p).host = s.host := rfl
@[simp] theorem sendPkt_mem (s : State) (p : Packet) : (sendPkt s p).mem = s.mem := rfl
@[simp] theorem sendPkt_memPsn (s : State) (p : Packet) : (sendPkt s p).memPsn = s.memPsn := rfl
@[simp] theorem sendPkt_scr (s : State) (p : Packet) : (sendPkt s p).scr = s.scr := rfl
@[simp] theorem sendPkt_scrPsn (s : State) (p : Packet) : (sendPkt s p).scrPsn = s.scrPsn := rfl
@[simp] theorem sendPkt_dsc (s : State) (p : Packet) : (sendPkt s p).dsc = s.dsc := rfl
@[simp] theorem sendPkt_dscPsn (s : State) (p : Packet) : (sendPkt s p).dscPsn = s.dscPsn := rfl
@[simp] theorem sendPkt_obuf (s : State) (p : Packet) : (sendPkt s p).obuf = s.obuf := rfl
@[simp] theorem sendPkt_wbuf (s : State) (p : Packet) : (sendPkt s p).wbuf = s.wbuf := rfl
@[simp] theorem sendPkt_bufPsn (s : State) (p : Packet) : (sendPkt s p).bufPsn = s.bufPsn := rfl
@[simp] theorem sendPkt_acc (s : State) (p : Packet) : (sendPkt s p).acc = s.acc := rfl
@[simp] theorem sendPkt_accPsn (s : State) (p : Packet) : (sendPkt s p).accPsn = s.accPsn := rfl
@[simp] theorem sendPkt_vrf (s : State) (p : Packet) : (sendPkt s p).vrf = s.vrf := rfl
@[simp] theorem sendPkt_vmark (s : State) (p : Packet) : (sendPkt s p).vmark = s.vmark := rfl
@[simp] theorem sendPkt_slices (s : State) (p : Packet) : (sendPkt s p).slices = s.slices := rfl
@[simp] theorem sendPkt_banks (s : State) (p : Packet) : (sendPkt s p).banks = s.banks := rfl
@[simp] theorem sendPkt_ranges (s : State) (p : Packet) : (sendPkt s p).ranges = s.ranges := rfl
@[simp] theorem sendPkt_splits (s : State) (p : Packet) : (sendPkt s p).splits = s.splits := rfl
@[simp] theorem sendPkt_recs (s : State) (p : Packet) : (sendPkt s p).recs = s.recs := rfl
@[simp] theorem sendPkt_accs (s : State) (p : Packet) : (sendPkt s p).accs = s.accs := rfl
@[simp] theorem sendPkt_arrays (s : State) (p : Packet) : (sendPkt s p).arrays = s.arrays := rfl
@[simp] theorem sendPkt_rings (s : State) (p : Packet) : (sendPkt s p).rings = s.rings := rfl
@[simp] theorem sendPkt_bars (s : State) (p : Packet) : (sendPkt s p).bars = s.bars := rfl
@[simp] theorem sendPkt_l1 (s : State) (p : Packet) : (sendPkt s p).l1 = s.l1 := rfl
@[simp] theorem sendPkt_l2 (s : State) (p : Packet) : (sendPkt s p).l2 = s.l2 := rfl
@[simp] theorem sendPkt_dir (s : State) (p : Packet) : (sendPkt s p).dir = s.dir := rfl
@[simp] theorem sendPkt_tlb (s : State) (p : Packet) : (sendPkt s p).tlb = s.tlb := rfl
@[simp] theorem sendPkt_invals (s : State) (p : Packet) : (sendPkt s p).invals = s.invals := rfl
@[simp] theorem sendPkt_zmaps (s : State) (p : Packet) : (sendPkt s p).zmaps = s.zmaps := rfl
@[simp] theorem sendPkt_gangs (s : State) (p : Packet) : (sendPkt s p).gangs = s.gangs := rfl
@[simp] theorem sendPkt_ops (s : State) (p : Packet) : (sendPkt s p).ops = s.ops := rfl
@[simp] theorem sendPkt_blocks (s : State) (p : Packet) : (sendPkt s p).blocks = s.blocks := rfl
@[simp] theorem sendPkt_saved (s : State) (p : Packet) : (sendPkt s p).saved = s.saved := rfl
@[simp] theorem sendPkt_launches (s : State) (p : Packet) : (sendPkt s p).launches = s.launches := rfl
@[simp] theorem sendPkt_chunks (s : State) (p : Packet) : (sendPkt s p).chunks = s.chunks := rfl
@[simp] theorem sendPkt_queues (s : State) (p : Packet) : (sendPkt s p).queues = s.queues := rfl
@[simp] theorem sendPkt_ctxs (s : State) (p : Packet) : (sendPkt s p).ctxs = s.ctxs := rfl
@[simp] theorem sendPkt_pod (s : State) (p : Packet) : (sendPkt s p).pod = s.pod := rfl
@[simp] theorem sendPkt_groups (s : State) (p : Packet) : (sendPkt s p).groups = s.groups := rfl
@[simp] theorem sendPkt_col0 (s : State) (p : Packet) : (sendPkt s p).col0 = s.col0 := rfl
@[simp] theorem sendPkt_col1 (s : State) (p : Packet) : (sendPkt s p).col1 = s.col1 := rfl
@[simp] theorem sendPkt_tags (s : State) (p : Packet) : (sendPkt s p).tags = s.tags := rfl
@[simp] theorem sendPkt_ptags (s : State) (p : Packet) : (sendPkt s p).ptags = s.ptags := rfl
@[simp] theorem sendPkt_capQ (s : State) (p : Packet) : (sendPkt s p).capQ = s.capQ := rfl
@[simp] theorem sendPkt_cutSeqs (s : State) (p : Packet) : (sendPkt s p).cutSeqs = s.cutSeqs := rfl
@[simp] theorem sendPkt_snapAcc (s : State) (p : Packet) : (sendPkt s p).snapAcc = s.snapAcc := rfl
@[simp] theorem sendPkt_halyard (s : State) (p : Packet) : (sendPkt s p).halyard = s.halyard := rfl
@[simp] theorem sendPkt_upsets (s : State) (p : Packet) : (sendPkt s p).upsets = s.upsets := rfl
@[simp] theorem sendPkt_owners (s : State) (p : Packet) : (sendPkt s p).owners = s.owners := rfl
@[simp] theorem sendPkt_snapReqs (s : State) (p : Packet) : (sendPkt s p).snapReqs = s.snapReqs := rfl
@[simp] theorem sendPkt_images (s : State) (p : Packet) : (sendPkt s p).images = s.images := rfl
@[simp] theorem sendPkt_restore (s : State) (p : Packet) : (sendPkt s p).restore = s.restore := rfl

/-! ## setBar -/

@[simp] theorem setBar_agenda (s : State) (b : BarRow) : (setBar s b).agenda = s.agenda := rfl
@[simp] theorem setBar_cur (s : State) (b : BarRow) : (setBar s b).cur = s.cur := rfl
@[simp] theorem setBar_clock (s : State) (b : BarRow) : (setBar s b).clock = s.clock := rfl
@[simp] theorem setBar_fresh (s : State) (b : BarRow) : (setBar s b).fresh = s.fresh := rfl
@[simp] theorem setBar_power (s : State) (b : BarRow) : (setBar s b).power = s.power := rfl
@[simp] theorem setBar_boot (s : State) (b : BarRow) : (setBar s b).boot = s.boot := rfl
@[simp] theorem setBar_policies (s : State) (b : BarRow) : (setBar s b).policies = s.policies := rfl
@[simp] theorem setBar_host (s : State) (b : BarRow) : (setBar s b).host = s.host := rfl
@[simp] theorem setBar_mem (s : State) (b : BarRow) : (setBar s b).mem = s.mem := rfl
@[simp] theorem setBar_memPsn (s : State) (b : BarRow) : (setBar s b).memPsn = s.memPsn := rfl
@[simp] theorem setBar_scr (s : State) (b : BarRow) : (setBar s b).scr = s.scr := rfl
@[simp] theorem setBar_scrPsn (s : State) (b : BarRow) : (setBar s b).scrPsn = s.scrPsn := rfl
@[simp] theorem setBar_dsc (s : State) (b : BarRow) : (setBar s b).dsc = s.dsc := rfl
@[simp] theorem setBar_dscPsn (s : State) (b : BarRow) : (setBar s b).dscPsn = s.dscPsn := rfl
@[simp] theorem setBar_obuf (s : State) (b : BarRow) : (setBar s b).obuf = s.obuf := rfl
@[simp] theorem setBar_wbuf (s : State) (b : BarRow) : (setBar s b).wbuf = s.wbuf := rfl
@[simp] theorem setBar_bufPsn (s : State) (b : BarRow) : (setBar s b).bufPsn = s.bufPsn := rfl
@[simp] theorem setBar_acc (s : State) (b : BarRow) : (setBar s b).acc = s.acc := rfl
@[simp] theorem setBar_accPsn (s : State) (b : BarRow) : (setBar s b).accPsn = s.accPsn := rfl
@[simp] theorem setBar_vrf (s : State) (b : BarRow) : (setBar s b).vrf = s.vrf := rfl
@[simp] theorem setBar_vmark (s : State) (b : BarRow) : (setBar s b).vmark = s.vmark := rfl
@[simp] theorem setBar_slices (s : State) (b : BarRow) : (setBar s b).slices = s.slices := rfl
@[simp] theorem setBar_banks (s : State) (b : BarRow) : (setBar s b).banks = s.banks := rfl
@[simp] theorem setBar_ranges (s : State) (b : BarRow) : (setBar s b).ranges = s.ranges := rfl
@[simp] theorem setBar_splits (s : State) (b : BarRow) : (setBar s b).splits = s.splits := rfl
@[simp] theorem setBar_recs (s : State) (b : BarRow) : (setBar s b).recs = s.recs := rfl
@[simp] theorem setBar_accs (s : State) (b : BarRow) : (setBar s b).accs = s.accs := rfl
@[simp] theorem setBar_arrays (s : State) (b : BarRow) : (setBar s b).arrays = s.arrays := rfl
@[simp] theorem setBar_rings (s : State) (b : BarRow) : (setBar s b).rings = s.rings := rfl
@[simp] theorem setBar_l1 (s : State) (b : BarRow) : (setBar s b).l1 = s.l1 := rfl
@[simp] theorem setBar_l2 (s : State) (b : BarRow) : (setBar s b).l2 = s.l2 := rfl
@[simp] theorem setBar_dir (s : State) (b : BarRow) : (setBar s b).dir = s.dir := rfl
@[simp] theorem setBar_tlb (s : State) (b : BarRow) : (setBar s b).tlb = s.tlb := rfl
@[simp] theorem setBar_invals (s : State) (b : BarRow) : (setBar s b).invals = s.invals := rfl
@[simp] theorem setBar_zmaps (s : State) (b : BarRow) : (setBar s b).zmaps = s.zmaps := rfl
@[simp] theorem setBar_gangs (s : State) (b : BarRow) : (setBar s b).gangs = s.gangs := rfl
@[simp] theorem setBar_ops (s : State) (b : BarRow) : (setBar s b).ops = s.ops := rfl
@[simp] theorem setBar_blocks (s : State) (b : BarRow) : (setBar s b).blocks = s.blocks := rfl
@[simp] theorem setBar_saved (s : State) (b : BarRow) : (setBar s b).saved = s.saved := rfl
@[simp] theorem setBar_launches (s : State) (b : BarRow) : (setBar s b).launches = s.launches := rfl
@[simp] theorem setBar_chunks (s : State) (b : BarRow) : (setBar s b).chunks = s.chunks := rfl
@[simp] theorem setBar_queues (s : State) (b : BarRow) : (setBar s b).queues = s.queues := rfl
@[simp] theorem setBar_ctxs (s : State) (b : BarRow) : (setBar s b).ctxs = s.ctxs := rfl
@[simp] theorem setBar_pod (s : State) (b : BarRow) : (setBar s b).pod = s.pod := rfl
@[simp] theorem setBar_groups (s : State) (b : BarRow) : (setBar s b).groups = s.groups := rfl
@[simp] theorem setBar_fab (s : State) (b : BarRow) : (setBar s b).fab = s.fab := rfl
@[simp] theorem setBar_col0 (s : State) (b : BarRow) : (setBar s b).col0 = s.col0 := rfl
@[simp] theorem setBar_col1 (s : State) (b : BarRow) : (setBar s b).col1 = s.col1 := rfl
@[simp] theorem setBar_tags (s : State) (b : BarRow) : (setBar s b).tags = s.tags := rfl
@[simp] theorem setBar_ptags (s : State) (b : BarRow) : (setBar s b).ptags = s.ptags := rfl
@[simp] theorem setBar_capQ (s : State) (b : BarRow) : (setBar s b).capQ = s.capQ := rfl
@[simp] theorem setBar_cutSeqs (s : State) (b : BarRow) : (setBar s b).cutSeqs = s.cutSeqs := rfl
@[simp] theorem setBar_snapAcc (s : State) (b : BarRow) : (setBar s b).snapAcc = s.snapAcc := rfl
@[simp] theorem setBar_halyard (s : State) (b : BarRow) : (setBar s b).halyard = s.halyard := rfl
@[simp] theorem setBar_upsets (s : State) (b : BarRow) : (setBar s b).upsets = s.upsets := rfl
@[simp] theorem setBar_owners (s : State) (b : BarRow) : (setBar s b).owners = s.owners := rfl
@[simp] theorem setBar_snapReqs (s : State) (b : BarRow) : (setBar s b).snapReqs = s.snapReqs := rfl
@[simp] theorem setBar_images (s : State) (b : BarRow) : (setBar s b).images = s.images := rfl
@[simp] theorem setBar_restore (s : State) (b : BarRow) : (setBar s b).restore = s.restore := rfl

/-! ## setRing -/

@[simp] theorem setRing_agenda (s : State) (r : RingRow) : (setRing s r).agenda = s.agenda := rfl
@[simp] theorem setRing_cur (s : State) (r : RingRow) : (setRing s r).cur = s.cur := rfl
@[simp] theorem setRing_clock (s : State) (r : RingRow) : (setRing s r).clock = s.clock := rfl
@[simp] theorem setRing_fresh (s : State) (r : RingRow) : (setRing s r).fresh = s.fresh := rfl
@[simp] theorem setRing_power (s : State) (r : RingRow) : (setRing s r).power = s.power := rfl
@[simp] theorem setRing_boot (s : State) (r : RingRow) : (setRing s r).boot = s.boot := rfl
@[simp] theorem setRing_policies (s : State) (r : RingRow) : (setRing s r).policies = s.policies := rfl
@[simp] theorem setRing_host (s : State) (r : RingRow) : (setRing s r).host = s.host := rfl
@[simp] theorem setRing_mem (s : State) (r : RingRow) : (setRing s r).mem = s.mem := rfl
@[simp] theorem setRing_memPsn (s : State) (r : RingRow) : (setRing s r).memPsn = s.memPsn := rfl
@[simp] theorem setRing_scr (s : State) (r : RingRow) : (setRing s r).scr = s.scr := rfl
@[simp] theorem setRing_scrPsn (s : State) (r : RingRow) : (setRing s r).scrPsn = s.scrPsn := rfl
@[simp] theorem setRing_dsc (s : State) (r : RingRow) : (setRing s r).dsc = s.dsc := rfl
@[simp] theorem setRing_dscPsn (s : State) (r : RingRow) : (setRing s r).dscPsn = s.dscPsn := rfl
@[simp] theorem setRing_obuf (s : State) (r : RingRow) : (setRing s r).obuf = s.obuf := rfl
@[simp] theorem setRing_wbuf (s : State) (r : RingRow) : (setRing s r).wbuf = s.wbuf := rfl
@[simp] theorem setRing_bufPsn (s : State) (r : RingRow) : (setRing s r).bufPsn = s.bufPsn := rfl
@[simp] theorem setRing_acc (s : State) (r : RingRow) : (setRing s r).acc = s.acc := rfl
@[simp] theorem setRing_accPsn (s : State) (r : RingRow) : (setRing s r).accPsn = s.accPsn := rfl
@[simp] theorem setRing_vrf (s : State) (r : RingRow) : (setRing s r).vrf = s.vrf := rfl
@[simp] theorem setRing_vmark (s : State) (r : RingRow) : (setRing s r).vmark = s.vmark := rfl
@[simp] theorem setRing_slices (s : State) (r : RingRow) : (setRing s r).slices = s.slices := rfl
@[simp] theorem setRing_banks (s : State) (r : RingRow) : (setRing s r).banks = s.banks := rfl
@[simp] theorem setRing_ranges (s : State) (r : RingRow) : (setRing s r).ranges = s.ranges := rfl
@[simp] theorem setRing_splits (s : State) (r : RingRow) : (setRing s r).splits = s.splits := rfl
@[simp] theorem setRing_recs (s : State) (r : RingRow) : (setRing s r).recs = s.recs := rfl
@[simp] theorem setRing_accs (s : State) (r : RingRow) : (setRing s r).accs = s.accs := rfl
@[simp] theorem setRing_arrays (s : State) (r : RingRow) : (setRing s r).arrays = s.arrays := rfl
@[simp] theorem setRing_bars (s : State) (r : RingRow) : (setRing s r).bars = s.bars := rfl
@[simp] theorem setRing_l1 (s : State) (r : RingRow) : (setRing s r).l1 = s.l1 := rfl
@[simp] theorem setRing_l2 (s : State) (r : RingRow) : (setRing s r).l2 = s.l2 := rfl
@[simp] theorem setRing_dir (s : State) (r : RingRow) : (setRing s r).dir = s.dir := rfl
@[simp] theorem setRing_tlb (s : State) (r : RingRow) : (setRing s r).tlb = s.tlb := rfl
@[simp] theorem setRing_invals (s : State) (r : RingRow) : (setRing s r).invals = s.invals := rfl
@[simp] theorem setRing_zmaps (s : State) (r : RingRow) : (setRing s r).zmaps = s.zmaps := rfl
@[simp] theorem setRing_gangs (s : State) (r : RingRow) : (setRing s r).gangs = s.gangs := rfl
@[simp] theorem setRing_ops (s : State) (r : RingRow) : (setRing s r).ops = s.ops := rfl
@[simp] theorem setRing_blocks (s : State) (r : RingRow) : (setRing s r).blocks = s.blocks := rfl
@[simp] theorem setRing_saved (s : State) (r : RingRow) : (setRing s r).saved = s.saved := rfl
@[simp] theorem setRing_launches (s : State) (r : RingRow) : (setRing s r).launches = s.launches := rfl
@[simp] theorem setRing_chunks (s : State) (r : RingRow) : (setRing s r).chunks = s.chunks := rfl
@[simp] theorem setRing_queues (s : State) (r : RingRow) : (setRing s r).queues = s.queues := rfl
@[simp] theorem setRing_ctxs (s : State) (r : RingRow) : (setRing s r).ctxs = s.ctxs := rfl
@[simp] theorem setRing_pod (s : State) (r : RingRow) : (setRing s r).pod = s.pod := rfl
@[simp] theorem setRing_groups (s : State) (r : RingRow) : (setRing s r).groups = s.groups := rfl
@[simp] theorem setRing_fab (s : State) (r : RingRow) : (setRing s r).fab = s.fab := rfl
@[simp] theorem setRing_col0 (s : State) (r : RingRow) : (setRing s r).col0 = s.col0 := rfl
@[simp] theorem setRing_col1 (s : State) (r : RingRow) : (setRing s r).col1 = s.col1 := rfl
@[simp] theorem setRing_tags (s : State) (r : RingRow) : (setRing s r).tags = s.tags := rfl
@[simp] theorem setRing_ptags (s : State) (r : RingRow) : (setRing s r).ptags = s.ptags := rfl
@[simp] theorem setRing_capQ (s : State) (r : RingRow) : (setRing s r).capQ = s.capQ := rfl
@[simp] theorem setRing_cutSeqs (s : State) (r : RingRow) : (setRing s r).cutSeqs = s.cutSeqs := rfl
@[simp] theorem setRing_snapAcc (s : State) (r : RingRow) : (setRing s r).snapAcc = s.snapAcc := rfl
@[simp] theorem setRing_halyard (s : State) (r : RingRow) : (setRing s r).halyard = s.halyard := rfl
@[simp] theorem setRing_upsets (s : State) (r : RingRow) : (setRing s r).upsets = s.upsets := rfl
@[simp] theorem setRing_owners (s : State) (r : RingRow) : (setRing s r).owners = s.owners := rfl
@[simp] theorem setRing_snapReqs (s : State) (r : RingRow) : (setRing s r).snapReqs = s.snapReqs := rfl
@[simp] theorem setRing_images (s : State) (r : RingRow) : (setRing s r).images = s.images := rfl
@[simp] theorem setRing_restore (s : State) (r : RingRow) : (setRing s r).restore = s.restore := rfl

/-! ## setRec -/

@[simp] theorem setRec_agenda (s : State) (r : RecRow) : (setRec s r).agenda = s.agenda := rfl
@[simp] theorem setRec_cur (s : State) (r : RecRow) : (setRec s r).cur = s.cur := rfl
@[simp] theorem setRec_clock (s : State) (r : RecRow) : (setRec s r).clock = s.clock := rfl
@[simp] theorem setRec_fresh (s : State) (r : RecRow) : (setRec s r).fresh = s.fresh := rfl
@[simp] theorem setRec_power (s : State) (r : RecRow) : (setRec s r).power = s.power := rfl
@[simp] theorem setRec_boot (s : State) (r : RecRow) : (setRec s r).boot = s.boot := rfl
@[simp] theorem setRec_policies (s : State) (r : RecRow) : (setRec s r).policies = s.policies := rfl
@[simp] theorem setRec_host (s : State) (r : RecRow) : (setRec s r).host = s.host := rfl
@[simp] theorem setRec_mem (s : State) (r : RecRow) : (setRec s r).mem = s.mem := rfl
@[simp] theorem setRec_memPsn (s : State) (r : RecRow) : (setRec s r).memPsn = s.memPsn := rfl
@[simp] theorem setRec_scr (s : State) (r : RecRow) : (setRec s r).scr = s.scr := rfl
@[simp] theorem setRec_scrPsn (s : State) (r : RecRow) : (setRec s r).scrPsn = s.scrPsn := rfl
@[simp] theorem setRec_dsc (s : State) (r : RecRow) : (setRec s r).dsc = s.dsc := rfl
@[simp] theorem setRec_dscPsn (s : State) (r : RecRow) : (setRec s r).dscPsn = s.dscPsn := rfl
@[simp] theorem setRec_obuf (s : State) (r : RecRow) : (setRec s r).obuf = s.obuf := rfl
@[simp] theorem setRec_wbuf (s : State) (r : RecRow) : (setRec s r).wbuf = s.wbuf := rfl
@[simp] theorem setRec_bufPsn (s : State) (r : RecRow) : (setRec s r).bufPsn = s.bufPsn := rfl
@[simp] theorem setRec_acc (s : State) (r : RecRow) : (setRec s r).acc = s.acc := rfl
@[simp] theorem setRec_accPsn (s : State) (r : RecRow) : (setRec s r).accPsn = s.accPsn := rfl
@[simp] theorem setRec_vrf (s : State) (r : RecRow) : (setRec s r).vrf = s.vrf := rfl
@[simp] theorem setRec_vmark (s : State) (r : RecRow) : (setRec s r).vmark = s.vmark := rfl
@[simp] theorem setRec_slices (s : State) (r : RecRow) : (setRec s r).slices = s.slices := rfl
@[simp] theorem setRec_banks (s : State) (r : RecRow) : (setRec s r).banks = s.banks := rfl
@[simp] theorem setRec_ranges (s : State) (r : RecRow) : (setRec s r).ranges = s.ranges := rfl
@[simp] theorem setRec_splits (s : State) (r : RecRow) : (setRec s r).splits = s.splits := rfl
@[simp] theorem setRec_accs (s : State) (r : RecRow) : (setRec s r).accs = s.accs := rfl
@[simp] theorem setRec_arrays (s : State) (r : RecRow) : (setRec s r).arrays = s.arrays := rfl
@[simp] theorem setRec_rings (s : State) (r : RecRow) : (setRec s r).rings = s.rings := rfl
@[simp] theorem setRec_bars (s : State) (r : RecRow) : (setRec s r).bars = s.bars := rfl
@[simp] theorem setRec_l1 (s : State) (r : RecRow) : (setRec s r).l1 = s.l1 := rfl
@[simp] theorem setRec_l2 (s : State) (r : RecRow) : (setRec s r).l2 = s.l2 := rfl
@[simp] theorem setRec_dir (s : State) (r : RecRow) : (setRec s r).dir = s.dir := rfl
@[simp] theorem setRec_tlb (s : State) (r : RecRow) : (setRec s r).tlb = s.tlb := rfl
@[simp] theorem setRec_invals (s : State) (r : RecRow) : (setRec s r).invals = s.invals := rfl
@[simp] theorem setRec_zmaps (s : State) (r : RecRow) : (setRec s r).zmaps = s.zmaps := rfl
@[simp] theorem setRec_gangs (s : State) (r : RecRow) : (setRec s r).gangs = s.gangs := rfl
@[simp] theorem setRec_ops (s : State) (r : RecRow) : (setRec s r).ops = s.ops := rfl
@[simp] theorem setRec_blocks (s : State) (r : RecRow) : (setRec s r).blocks = s.blocks := rfl
@[simp] theorem setRec_saved (s : State) (r : RecRow) : (setRec s r).saved = s.saved := rfl
@[simp] theorem setRec_launches (s : State) (r : RecRow) : (setRec s r).launches = s.launches := rfl
@[simp] theorem setRec_chunks (s : State) (r : RecRow) : (setRec s r).chunks = s.chunks := rfl
@[simp] theorem setRec_queues (s : State) (r : RecRow) : (setRec s r).queues = s.queues := rfl
@[simp] theorem setRec_ctxs (s : State) (r : RecRow) : (setRec s r).ctxs = s.ctxs := rfl
@[simp] theorem setRec_pod (s : State) (r : RecRow) : (setRec s r).pod = s.pod := rfl
@[simp] theorem setRec_groups (s : State) (r : RecRow) : (setRec s r).groups = s.groups := rfl
@[simp] theorem setRec_fab (s : State) (r : RecRow) : (setRec s r).fab = s.fab := rfl
@[simp] theorem setRec_col0 (s : State) (r : RecRow) : (setRec s r).col0 = s.col0 := rfl
@[simp] theorem setRec_col1 (s : State) (r : RecRow) : (setRec s r).col1 = s.col1 := rfl
@[simp] theorem setRec_tags (s : State) (r : RecRow) : (setRec s r).tags = s.tags := rfl
@[simp] theorem setRec_ptags (s : State) (r : RecRow) : (setRec s r).ptags = s.ptags := rfl
@[simp] theorem setRec_capQ (s : State) (r : RecRow) : (setRec s r).capQ = s.capQ := rfl
@[simp] theorem setRec_cutSeqs (s : State) (r : RecRow) : (setRec s r).cutSeqs = s.cutSeqs := rfl
@[simp] theorem setRec_snapAcc (s : State) (r : RecRow) : (setRec s r).snapAcc = s.snapAcc := rfl
@[simp] theorem setRec_halyard (s : State) (r : RecRow) : (setRec s r).halyard = s.halyard := rfl
@[simp] theorem setRec_upsets (s : State) (r : RecRow) : (setRec s r).upsets = s.upsets := rfl
@[simp] theorem setRec_owners (s : State) (r : RecRow) : (setRec s r).owners = s.owners := rfl
@[simp] theorem setRec_snapReqs (s : State) (r : RecRow) : (setRec s r).snapReqs = s.snapReqs := rfl
@[simp] theorem setRec_images (s : State) (r : RecRow) : (setRec s r).images = s.images := rfl
@[simp] theorem setRec_restore (s : State) (r : RecRow) : (setRec s r).restore = s.restore := rfl

/-! ## setArray -/

@[simp] theorem setArray_agenda (s : State) (a : ArrayRow) : (setArray s a).agenda = s.agenda := rfl
@[simp] theorem setArray_cur (s : State) (a : ArrayRow) : (setArray s a).cur = s.cur := rfl
@[simp] theorem setArray_clock (s : State) (a : ArrayRow) : (setArray s a).clock = s.clock := rfl
@[simp] theorem setArray_fresh (s : State) (a : ArrayRow) : (setArray s a).fresh = s.fresh := rfl
@[simp] theorem setArray_power (s : State) (a : ArrayRow) : (setArray s a).power = s.power := rfl
@[simp] theorem setArray_boot (s : State) (a : ArrayRow) : (setArray s a).boot = s.boot := rfl
@[simp] theorem setArray_policies (s : State) (a : ArrayRow) : (setArray s a).policies = s.policies := rfl
@[simp] theorem setArray_host (s : State) (a : ArrayRow) : (setArray s a).host = s.host := rfl
@[simp] theorem setArray_mem (s : State) (a : ArrayRow) : (setArray s a).mem = s.mem := rfl
@[simp] theorem setArray_memPsn (s : State) (a : ArrayRow) : (setArray s a).memPsn = s.memPsn := rfl
@[simp] theorem setArray_scr (s : State) (a : ArrayRow) : (setArray s a).scr = s.scr := rfl
@[simp] theorem setArray_scrPsn (s : State) (a : ArrayRow) : (setArray s a).scrPsn = s.scrPsn := rfl
@[simp] theorem setArray_dsc (s : State) (a : ArrayRow) : (setArray s a).dsc = s.dsc := rfl
@[simp] theorem setArray_dscPsn (s : State) (a : ArrayRow) : (setArray s a).dscPsn = s.dscPsn := rfl
@[simp] theorem setArray_obuf (s : State) (a : ArrayRow) : (setArray s a).obuf = s.obuf := rfl
@[simp] theorem setArray_wbuf (s : State) (a : ArrayRow) : (setArray s a).wbuf = s.wbuf := rfl
@[simp] theorem setArray_bufPsn (s : State) (a : ArrayRow) : (setArray s a).bufPsn = s.bufPsn := rfl
@[simp] theorem setArray_acc (s : State) (a : ArrayRow) : (setArray s a).acc = s.acc := rfl
@[simp] theorem setArray_accPsn (s : State) (a : ArrayRow) : (setArray s a).accPsn = s.accPsn := rfl
@[simp] theorem setArray_vrf (s : State) (a : ArrayRow) : (setArray s a).vrf = s.vrf := rfl
@[simp] theorem setArray_vmark (s : State) (a : ArrayRow) : (setArray s a).vmark = s.vmark := rfl
@[simp] theorem setArray_slices (s : State) (a : ArrayRow) : (setArray s a).slices = s.slices := rfl
@[simp] theorem setArray_banks (s : State) (a : ArrayRow) : (setArray s a).banks = s.banks := rfl
@[simp] theorem setArray_ranges (s : State) (a : ArrayRow) : (setArray s a).ranges = s.ranges := rfl
@[simp] theorem setArray_splits (s : State) (a : ArrayRow) : (setArray s a).splits = s.splits := rfl
@[simp] theorem setArray_recs (s : State) (a : ArrayRow) : (setArray s a).recs = s.recs := rfl
@[simp] theorem setArray_accs (s : State) (a : ArrayRow) : (setArray s a).accs = s.accs := rfl
@[simp] theorem setArray_rings (s : State) (a : ArrayRow) : (setArray s a).rings = s.rings := rfl
@[simp] theorem setArray_bars (s : State) (a : ArrayRow) : (setArray s a).bars = s.bars := rfl
@[simp] theorem setArray_l1 (s : State) (a : ArrayRow) : (setArray s a).l1 = s.l1 := rfl
@[simp] theorem setArray_l2 (s : State) (a : ArrayRow) : (setArray s a).l2 = s.l2 := rfl
@[simp] theorem setArray_dir (s : State) (a : ArrayRow) : (setArray s a).dir = s.dir := rfl
@[simp] theorem setArray_tlb (s : State) (a : ArrayRow) : (setArray s a).tlb = s.tlb := rfl
@[simp] theorem setArray_invals (s : State) (a : ArrayRow) : (setArray s a).invals = s.invals := rfl
@[simp] theorem setArray_zmaps (s : State) (a : ArrayRow) : (setArray s a).zmaps = s.zmaps := rfl
@[simp] theorem setArray_gangs (s : State) (a : ArrayRow) : (setArray s a).gangs = s.gangs := rfl
@[simp] theorem setArray_ops (s : State) (a : ArrayRow) : (setArray s a).ops = s.ops := rfl
@[simp] theorem setArray_blocks (s : State) (a : ArrayRow) : (setArray s a).blocks = s.blocks := rfl
@[simp] theorem setArray_saved (s : State) (a : ArrayRow) : (setArray s a).saved = s.saved := rfl
@[simp] theorem setArray_launches (s : State) (a : ArrayRow) : (setArray s a).launches = s.launches := rfl
@[simp] theorem setArray_chunks (s : State) (a : ArrayRow) : (setArray s a).chunks = s.chunks := rfl
@[simp] theorem setArray_queues (s : State) (a : ArrayRow) : (setArray s a).queues = s.queues := rfl
@[simp] theorem setArray_ctxs (s : State) (a : ArrayRow) : (setArray s a).ctxs = s.ctxs := rfl
@[simp] theorem setArray_pod (s : State) (a : ArrayRow) : (setArray s a).pod = s.pod := rfl
@[simp] theorem setArray_groups (s : State) (a : ArrayRow) : (setArray s a).groups = s.groups := rfl
@[simp] theorem setArray_fab (s : State) (a : ArrayRow) : (setArray s a).fab = s.fab := rfl
@[simp] theorem setArray_col0 (s : State) (a : ArrayRow) : (setArray s a).col0 = s.col0 := rfl
@[simp] theorem setArray_col1 (s : State) (a : ArrayRow) : (setArray s a).col1 = s.col1 := rfl
@[simp] theorem setArray_tags (s : State) (a : ArrayRow) : (setArray s a).tags = s.tags := rfl
@[simp] theorem setArray_ptags (s : State) (a : ArrayRow) : (setArray s a).ptags = s.ptags := rfl
@[simp] theorem setArray_capQ (s : State) (a : ArrayRow) : (setArray s a).capQ = s.capQ := rfl
@[simp] theorem setArray_cutSeqs (s : State) (a : ArrayRow) : (setArray s a).cutSeqs = s.cutSeqs := rfl
@[simp] theorem setArray_snapAcc (s : State) (a : ArrayRow) : (setArray s a).snapAcc = s.snapAcc := rfl
@[simp] theorem setArray_halyard (s : State) (a : ArrayRow) : (setArray s a).halyard = s.halyard := rfl
@[simp] theorem setArray_upsets (s : State) (a : ArrayRow) : (setArray s a).upsets = s.upsets := rfl
@[simp] theorem setArray_owners (s : State) (a : ArrayRow) : (setArray s a).owners = s.owners := rfl
@[simp] theorem setArray_snapReqs (s : State) (a : ArrayRow) : (setArray s a).snapReqs = s.snapReqs := rfl
@[simp] theorem setArray_images (s : State) (a : ArrayRow) : (setArray s a).images = s.images := rfl
@[simp] theorem setArray_restore (s : State) (a : ArrayRow) : (setArray s a).restore = s.restore := rfl

/-! ## tellHost -/

@[simp] theorem tellHost_agenda (s : State) (m : HostMsg) : (tellHost s m).agenda = s.agenda := rfl
@[simp] theorem tellHost_cur (s : State) (m : HostMsg) : (tellHost s m).cur = s.cur := rfl
@[simp] theorem tellHost_clock (s : State) (m : HostMsg) : (tellHost s m).clock = s.clock := rfl
@[simp] theorem tellHost_fresh (s : State) (m : HostMsg) : (tellHost s m).fresh = s.fresh := rfl
@[simp] theorem tellHost_power (s : State) (m : HostMsg) : (tellHost s m).power = s.power := rfl
@[simp] theorem tellHost_boot (s : State) (m : HostMsg) : (tellHost s m).boot = s.boot := rfl
@[simp] theorem tellHost_policies (s : State) (m : HostMsg) : (tellHost s m).policies = s.policies := rfl
@[simp] theorem tellHost_mem (s : State) (m : HostMsg) : (tellHost s m).mem = s.mem := rfl
@[simp] theorem tellHost_memPsn (s : State) (m : HostMsg) : (tellHost s m).memPsn = s.memPsn := rfl
@[simp] theorem tellHost_scr (s : State) (m : HostMsg) : (tellHost s m).scr = s.scr := rfl
@[simp] theorem tellHost_scrPsn (s : State) (m : HostMsg) : (tellHost s m).scrPsn = s.scrPsn := rfl
@[simp] theorem tellHost_dsc (s : State) (m : HostMsg) : (tellHost s m).dsc = s.dsc := rfl
@[simp] theorem tellHost_dscPsn (s : State) (m : HostMsg) : (tellHost s m).dscPsn = s.dscPsn := rfl
@[simp] theorem tellHost_obuf (s : State) (m : HostMsg) : (tellHost s m).obuf = s.obuf := rfl
@[simp] theorem tellHost_wbuf (s : State) (m : HostMsg) : (tellHost s m).wbuf = s.wbuf := rfl
@[simp] theorem tellHost_bufPsn (s : State) (m : HostMsg) : (tellHost s m).bufPsn = s.bufPsn := rfl
@[simp] theorem tellHost_acc (s : State) (m : HostMsg) : (tellHost s m).acc = s.acc := rfl
@[simp] theorem tellHost_accPsn (s : State) (m : HostMsg) : (tellHost s m).accPsn = s.accPsn := rfl
@[simp] theorem tellHost_vrf (s : State) (m : HostMsg) : (tellHost s m).vrf = s.vrf := rfl
@[simp] theorem tellHost_vmark (s : State) (m : HostMsg) : (tellHost s m).vmark = s.vmark := rfl
@[simp] theorem tellHost_slices (s : State) (m : HostMsg) : (tellHost s m).slices = s.slices := rfl
@[simp] theorem tellHost_banks (s : State) (m : HostMsg) : (tellHost s m).banks = s.banks := rfl
@[simp] theorem tellHost_ranges (s : State) (m : HostMsg) : (tellHost s m).ranges = s.ranges := rfl
@[simp] theorem tellHost_splits (s : State) (m : HostMsg) : (tellHost s m).splits = s.splits := rfl
@[simp] theorem tellHost_recs (s : State) (m : HostMsg) : (tellHost s m).recs = s.recs := rfl
@[simp] theorem tellHost_accs (s : State) (m : HostMsg) : (tellHost s m).accs = s.accs := rfl
@[simp] theorem tellHost_arrays (s : State) (m : HostMsg) : (tellHost s m).arrays = s.arrays := rfl
@[simp] theorem tellHost_rings (s : State) (m : HostMsg) : (tellHost s m).rings = s.rings := rfl
@[simp] theorem tellHost_bars (s : State) (m : HostMsg) : (tellHost s m).bars = s.bars := rfl
@[simp] theorem tellHost_l1 (s : State) (m : HostMsg) : (tellHost s m).l1 = s.l1 := rfl
@[simp] theorem tellHost_l2 (s : State) (m : HostMsg) : (tellHost s m).l2 = s.l2 := rfl
@[simp] theorem tellHost_dir (s : State) (m : HostMsg) : (tellHost s m).dir = s.dir := rfl
@[simp] theorem tellHost_tlb (s : State) (m : HostMsg) : (tellHost s m).tlb = s.tlb := rfl
@[simp] theorem tellHost_invals (s : State) (m : HostMsg) : (tellHost s m).invals = s.invals := rfl
@[simp] theorem tellHost_zmaps (s : State) (m : HostMsg) : (tellHost s m).zmaps = s.zmaps := rfl
@[simp] theorem tellHost_gangs (s : State) (m : HostMsg) : (tellHost s m).gangs = s.gangs := rfl
@[simp] theorem tellHost_ops (s : State) (m : HostMsg) : (tellHost s m).ops = s.ops := rfl
@[simp] theorem tellHost_blocks (s : State) (m : HostMsg) : (tellHost s m).blocks = s.blocks := rfl
@[simp] theorem tellHost_saved (s : State) (m : HostMsg) : (tellHost s m).saved = s.saved := rfl
@[simp] theorem tellHost_launches (s : State) (m : HostMsg) : (tellHost s m).launches = s.launches := rfl
@[simp] theorem tellHost_chunks (s : State) (m : HostMsg) : (tellHost s m).chunks = s.chunks := rfl
@[simp] theorem tellHost_queues (s : State) (m : HostMsg) : (tellHost s m).queues = s.queues := rfl
@[simp] theorem tellHost_ctxs (s : State) (m : HostMsg) : (tellHost s m).ctxs = s.ctxs := rfl
@[simp] theorem tellHost_pod (s : State) (m : HostMsg) : (tellHost s m).pod = s.pod := rfl
@[simp] theorem tellHost_groups (s : State) (m : HostMsg) : (tellHost s m).groups = s.groups := rfl
@[simp] theorem tellHost_fab (s : State) (m : HostMsg) : (tellHost s m).fab = s.fab := rfl
@[simp] theorem tellHost_col0 (s : State) (m : HostMsg) : (tellHost s m).col0 = s.col0 := rfl
@[simp] theorem tellHost_col1 (s : State) (m : HostMsg) : (tellHost s m).col1 = s.col1 := rfl
@[simp] theorem tellHost_tags (s : State) (m : HostMsg) : (tellHost s m).tags = s.tags := rfl
@[simp] theorem tellHost_ptags (s : State) (m : HostMsg) : (tellHost s m).ptags = s.ptags := rfl
@[simp] theorem tellHost_capQ (s : State) (m : HostMsg) : (tellHost s m).capQ = s.capQ := rfl
@[simp] theorem tellHost_cutSeqs (s : State) (m : HostMsg) : (tellHost s m).cutSeqs = s.cutSeqs := rfl
@[simp] theorem tellHost_snapAcc (s : State) (m : HostMsg) : (tellHost s m).snapAcc = s.snapAcc := rfl
@[simp] theorem tellHost_halyard (s : State) (m : HostMsg) : (tellHost s m).halyard = s.halyard := rfl
@[simp] theorem tellHost_upsets (s : State) (m : HostMsg) : (tellHost s m).upsets = s.upsets := rfl
@[simp] theorem tellHost_owners (s : State) (m : HostMsg) : (tellHost s m).owners = s.owners := rfl
@[simp] theorem tellHost_snapReqs (s : State) (m : HostMsg) : (tellHost s m).snapReqs = s.snapReqs := rfl
@[simp] theorem tellHost_images (s : State) (m : HostMsg) : (tellHost s m).images = s.images := rfl
@[simp] theorem tellHost_restore (s : State) (m : HostMsg) : (tellHost s m).restore = s.restore := rfl

/-! ## setSlice -/

@[simp] theorem setSlice_agenda (s : State) (c p i : Nat) (r : SliceSt) : (setSlice s c p i r).agenda = s.agenda := rfl
@[simp] theorem setSlice_cur (s : State) (c p i : Nat) (r : SliceSt) : (setSlice s c p i r).cur = s.cur := rfl
@[simp] theorem setSlice_clock (s : State) (c p i : Nat) (r : SliceSt) : (setSlice s c p i r).clock = s.clock := rfl
@[simp] theorem setSlice_fresh (s : State) (c p i : Nat) (r : SliceSt) : (setSlice s c p i r).fresh = s.fresh := rfl
@[simp] theorem setSlice_power (s : State) (c p i : Nat) (r : SliceSt) : (setSlice s c p i r).power = s.power := rfl
@[simp] theorem setSlice_boot (s : State) (c p i : Nat) (r : SliceSt) : (setSlice s c p i r).boot = s.boot := rfl
@[simp] theorem setSlice_policies (s : State) (c p i : Nat) (r : SliceSt) : (setSlice s c p i r).policies = s.policies := rfl
@[simp] theorem setSlice_host (s : State) (c p i : Nat) (r : SliceSt) : (setSlice s c p i r).host = s.host := rfl
@[simp] theorem setSlice_mem (s : State) (c p i : Nat) (r : SliceSt) : (setSlice s c p i r).mem = s.mem := rfl
@[simp] theorem setSlice_memPsn (s : State) (c p i : Nat) (r : SliceSt) : (setSlice s c p i r).memPsn = s.memPsn := rfl
@[simp] theorem setSlice_scr (s : State) (c p i : Nat) (r : SliceSt) : (setSlice s c p i r).scr = s.scr := rfl
@[simp] theorem setSlice_scrPsn (s : State) (c p i : Nat) (r : SliceSt) : (setSlice s c p i r).scrPsn = s.scrPsn := rfl
@[simp] theorem setSlice_dsc (s : State) (c p i : Nat) (r : SliceSt) : (setSlice s c p i r).dsc = s.dsc := rfl
@[simp] theorem setSlice_dscPsn (s : State) (c p i : Nat) (r : SliceSt) : (setSlice s c p i r).dscPsn = s.dscPsn := rfl
@[simp] theorem setSlice_obuf (s : State) (c p i : Nat) (r : SliceSt) : (setSlice s c p i r).obuf = s.obuf := rfl
@[simp] theorem setSlice_wbuf (s : State) (c p i : Nat) (r : SliceSt) : (setSlice s c p i r).wbuf = s.wbuf := rfl
@[simp] theorem setSlice_bufPsn (s : State) (c p i : Nat) (r : SliceSt) : (setSlice s c p i r).bufPsn = s.bufPsn := rfl
@[simp] theorem setSlice_acc (s : State) (c p i : Nat) (r : SliceSt) : (setSlice s c p i r).acc = s.acc := rfl
@[simp] theorem setSlice_accPsn (s : State) (c p i : Nat) (r : SliceSt) : (setSlice s c p i r).accPsn = s.accPsn := rfl
@[simp] theorem setSlice_vrf (s : State) (c p i : Nat) (r : SliceSt) : (setSlice s c p i r).vrf = s.vrf := rfl
@[simp] theorem setSlice_vmark (s : State) (c p i : Nat) (r : SliceSt) : (setSlice s c p i r).vmark = s.vmark := rfl
@[simp] theorem setSlice_banks (s : State) (c p i : Nat) (r : SliceSt) : (setSlice s c p i r).banks = s.banks := rfl
@[simp] theorem setSlice_ranges (s : State) (c p i : Nat) (r : SliceSt) : (setSlice s c p i r).ranges = s.ranges := rfl
@[simp] theorem setSlice_splits (s : State) (c p i : Nat) (r : SliceSt) : (setSlice s c p i r).splits = s.splits := rfl
@[simp] theorem setSlice_recs (s : State) (c p i : Nat) (r : SliceSt) : (setSlice s c p i r).recs = s.recs := rfl
@[simp] theorem setSlice_accs (s : State) (c p i : Nat) (r : SliceSt) : (setSlice s c p i r).accs = s.accs := rfl
@[simp] theorem setSlice_arrays (s : State) (c p i : Nat) (r : SliceSt) : (setSlice s c p i r).arrays = s.arrays := rfl
@[simp] theorem setSlice_rings (s : State) (c p i : Nat) (r : SliceSt) : (setSlice s c p i r).rings = s.rings := rfl
@[simp] theorem setSlice_bars (s : State) (c p i : Nat) (r : SliceSt) : (setSlice s c p i r).bars = s.bars := rfl
@[simp] theorem setSlice_l1 (s : State) (c p i : Nat) (r : SliceSt) : (setSlice s c p i r).l1 = s.l1 := rfl
@[simp] theorem setSlice_l2 (s : State) (c p i : Nat) (r : SliceSt) : (setSlice s c p i r).l2 = s.l2 := rfl
@[simp] theorem setSlice_dir (s : State) (c p i : Nat) (r : SliceSt) : (setSlice s c p i r).dir = s.dir := rfl
@[simp] theorem setSlice_tlb (s : State) (c p i : Nat) (r : SliceSt) : (setSlice s c p i r).tlb = s.tlb := rfl
@[simp] theorem setSlice_invals (s : State) (c p i : Nat) (r : SliceSt) : (setSlice s c p i r).invals = s.invals := rfl
@[simp] theorem setSlice_zmaps (s : State) (c p i : Nat) (r : SliceSt) : (setSlice s c p i r).zmaps = s.zmaps := rfl
@[simp] theorem setSlice_gangs (s : State) (c p i : Nat) (r : SliceSt) : (setSlice s c p i r).gangs = s.gangs := rfl
@[simp] theorem setSlice_ops (s : State) (c p i : Nat) (r : SliceSt) : (setSlice s c p i r).ops = s.ops := rfl
@[simp] theorem setSlice_blocks (s : State) (c p i : Nat) (r : SliceSt) : (setSlice s c p i r).blocks = s.blocks := rfl
@[simp] theorem setSlice_saved (s : State) (c p i : Nat) (r : SliceSt) : (setSlice s c p i r).saved = s.saved := rfl
@[simp] theorem setSlice_launches (s : State) (c p i : Nat) (r : SliceSt) : (setSlice s c p i r).launches = s.launches := rfl
@[simp] theorem setSlice_chunks (s : State) (c p i : Nat) (r : SliceSt) : (setSlice s c p i r).chunks = s.chunks := rfl
@[simp] theorem setSlice_queues (s : State) (c p i : Nat) (r : SliceSt) : (setSlice s c p i r).queues = s.queues := rfl
@[simp] theorem setSlice_ctxs (s : State) (c p i : Nat) (r : SliceSt) : (setSlice s c p i r).ctxs = s.ctxs := rfl
@[simp] theorem setSlice_pod (s : State) (c p i : Nat) (r : SliceSt) : (setSlice s c p i r).pod = s.pod := rfl
@[simp] theorem setSlice_groups (s : State) (c p i : Nat) (r : SliceSt) : (setSlice s c p i r).groups = s.groups := rfl
@[simp] theorem setSlice_fab (s : State) (c p i : Nat) (r : SliceSt) : (setSlice s c p i r).fab = s.fab := rfl
@[simp] theorem setSlice_col0 (s : State) (c p i : Nat) (r : SliceSt) : (setSlice s c p i r).col0 = s.col0 := rfl
@[simp] theorem setSlice_col1 (s : State) (c p i : Nat) (r : SliceSt) : (setSlice s c p i r).col1 = s.col1 := rfl
@[simp] theorem setSlice_tags (s : State) (c p i : Nat) (r : SliceSt) : (setSlice s c p i r).tags = s.tags := rfl
@[simp] theorem setSlice_ptags (s : State) (c p i : Nat) (r : SliceSt) : (setSlice s c p i r).ptags = s.ptags := rfl
@[simp] theorem setSlice_capQ (s : State) (c p i : Nat) (r : SliceSt) : (setSlice s c p i r).capQ = s.capQ := rfl
@[simp] theorem setSlice_cutSeqs (s : State) (c p i : Nat) (r : SliceSt) : (setSlice s c p i r).cutSeqs = s.cutSeqs := rfl
@[simp] theorem setSlice_snapAcc (s : State) (c p i : Nat) (r : SliceSt) : (setSlice s c p i r).snapAcc = s.snapAcc := rfl
@[simp] theorem setSlice_halyard (s : State) (c p i : Nat) (r : SliceSt) : (setSlice s c p i r).halyard = s.halyard := rfl
@[simp] theorem setSlice_upsets (s : State) (c p i : Nat) (r : SliceSt) : (setSlice s c p i r).upsets = s.upsets := rfl
@[simp] theorem setSlice_owners (s : State) (c p i : Nat) (r : SliceSt) : (setSlice s c p i r).owners = s.owners := rfl
@[simp] theorem setSlice_snapReqs (s : State) (c p i : Nat) (r : SliceSt) : (setSlice s c p i r).snapReqs = s.snapReqs := rfl
@[simp] theorem setSlice_images (s : State) (c p i : Nat) (r : SliceSt) : (setSlice s c p i r).images = s.images := rfl
@[simp] theorem setSlice_restore (s : State) (c p i : Nat) (r : SliceSt) : (setSlice s c p i r).restore = s.restore := rfl

/-! ## blockOn -/

@[simp] theorem blockOn_agenda (s : State) (n : Nat) (b : Blocked) : (blockOn s n b).agenda = s.agenda := rfl
@[simp] theorem blockOn_cur (s : State) (n : Nat) (b : Blocked) : (blockOn s n b).cur = s.cur := rfl
@[simp] theorem blockOn_clock (s : State) (n : Nat) (b : Blocked) : (blockOn s n b).clock = s.clock := rfl
@[simp] theorem blockOn_fresh (s : State) (n : Nat) (b : Blocked) : (blockOn s n b).fresh = s.fresh := rfl
@[simp] theorem blockOn_power (s : State) (n : Nat) (b : Blocked) : (blockOn s n b).power = s.power := rfl
@[simp] theorem blockOn_boot (s : State) (n : Nat) (b : Blocked) : (blockOn s n b).boot = s.boot := rfl
@[simp] theorem blockOn_policies (s : State) (n : Nat) (b : Blocked) : (blockOn s n b).policies = s.policies := rfl
@[simp] theorem blockOn_host (s : State) (n : Nat) (b : Blocked) : (blockOn s n b).host = s.host := rfl
@[simp] theorem blockOn_mem (s : State) (n : Nat) (b : Blocked) : (blockOn s n b).mem = s.mem := rfl
@[simp] theorem blockOn_memPsn (s : State) (n : Nat) (b : Blocked) : (blockOn s n b).memPsn = s.memPsn := rfl
@[simp] theorem blockOn_scr (s : State) (n : Nat) (b : Blocked) : (blockOn s n b).scr = s.scr := rfl
@[simp] theorem blockOn_scrPsn (s : State) (n : Nat) (b : Blocked) : (blockOn s n b).scrPsn = s.scrPsn := rfl
@[simp] theorem blockOn_dsc (s : State) (n : Nat) (b : Blocked) : (blockOn s n b).dsc = s.dsc := rfl
@[simp] theorem blockOn_dscPsn (s : State) (n : Nat) (b : Blocked) : (blockOn s n b).dscPsn = s.dscPsn := rfl
@[simp] theorem blockOn_obuf (s : State) (n : Nat) (b : Blocked) : (blockOn s n b).obuf = s.obuf := rfl
@[simp] theorem blockOn_wbuf (s : State) (n : Nat) (b : Blocked) : (blockOn s n b).wbuf = s.wbuf := rfl
@[simp] theorem blockOn_bufPsn (s : State) (n : Nat) (b : Blocked) : (blockOn s n b).bufPsn = s.bufPsn := rfl
@[simp] theorem blockOn_acc (s : State) (n : Nat) (b : Blocked) : (blockOn s n b).acc = s.acc := rfl
@[simp] theorem blockOn_accPsn (s : State) (n : Nat) (b : Blocked) : (blockOn s n b).accPsn = s.accPsn := rfl
@[simp] theorem blockOn_vrf (s : State) (n : Nat) (b : Blocked) : (blockOn s n b).vrf = s.vrf := rfl
@[simp] theorem blockOn_vmark (s : State) (n : Nat) (b : Blocked) : (blockOn s n b).vmark = s.vmark := rfl
@[simp] theorem blockOn_slices (s : State) (n : Nat) (b : Blocked) : (blockOn s n b).slices = s.slices := rfl
@[simp] theorem blockOn_banks (s : State) (n : Nat) (b : Blocked) : (blockOn s n b).banks = s.banks := rfl
@[simp] theorem blockOn_ranges (s : State) (n : Nat) (b : Blocked) : (blockOn s n b).ranges = s.ranges := rfl
@[simp] theorem blockOn_splits (s : State) (n : Nat) (b : Blocked) : (blockOn s n b).splits = s.splits := rfl
@[simp] theorem blockOn_recs (s : State) (n : Nat) (b : Blocked) : (blockOn s n b).recs = s.recs := rfl
@[simp] theorem blockOn_accs (s : State) (n : Nat) (b : Blocked) : (blockOn s n b).accs = s.accs := rfl
@[simp] theorem blockOn_arrays (s : State) (n : Nat) (b : Blocked) : (blockOn s n b).arrays = s.arrays := rfl
@[simp] theorem blockOn_rings (s : State) (n : Nat) (b : Blocked) : (blockOn s n b).rings = s.rings := rfl
@[simp] theorem blockOn_bars (s : State) (n : Nat) (b : Blocked) : (blockOn s n b).bars = s.bars := rfl
@[simp] theorem blockOn_l1 (s : State) (n : Nat) (b : Blocked) : (blockOn s n b).l1 = s.l1 := rfl
@[simp] theorem blockOn_l2 (s : State) (n : Nat) (b : Blocked) : (blockOn s n b).l2 = s.l2 := rfl
@[simp] theorem blockOn_dir (s : State) (n : Nat) (b : Blocked) : (blockOn s n b).dir = s.dir := rfl
@[simp] theorem blockOn_tlb (s : State) (n : Nat) (b : Blocked) : (blockOn s n b).tlb = s.tlb := rfl
@[simp] theorem blockOn_invals (s : State) (n : Nat) (b : Blocked) : (blockOn s n b).invals = s.invals := rfl
@[simp] theorem blockOn_zmaps (s : State) (n : Nat) (b : Blocked) : (blockOn s n b).zmaps = s.zmaps := rfl
@[simp] theorem blockOn_ops (s : State) (n : Nat) (b : Blocked) : (blockOn s n b).ops = s.ops := rfl
@[simp] theorem blockOn_blocks (s : State) (n : Nat) (b : Blocked) : (blockOn s n b).blocks = s.blocks := rfl
@[simp] theorem blockOn_saved (s : State) (n : Nat) (b : Blocked) : (blockOn s n b).saved = s.saved := rfl
@[simp] theorem blockOn_launches (s : State) (n : Nat) (b : Blocked) : (blockOn s n b).launches = s.launches := rfl
@[simp] theorem blockOn_chunks (s : State) (n : Nat) (b : Blocked) : (blockOn s n b).chunks = s.chunks := rfl
@[simp] theorem blockOn_queues (s : State) (n : Nat) (b : Blocked) : (blockOn s n b).queues = s.queues := rfl
@[simp] theorem blockOn_ctxs (s : State) (n : Nat) (b : Blocked) : (blockOn s n b).ctxs = s.ctxs := rfl
@[simp] theorem blockOn_pod (s : State) (n : Nat) (b : Blocked) : (blockOn s n b).pod = s.pod := rfl
@[simp] theorem blockOn_groups (s : State) (n : Nat) (b : Blocked) : (blockOn s n b).groups = s.groups := rfl
@[simp] theorem blockOn_fab (s : State) (n : Nat) (b : Blocked) : (blockOn s n b).fab = s.fab := rfl
@[simp] theorem blockOn_col0 (s : State) (n : Nat) (b : Blocked) : (blockOn s n b).col0 = s.col0 := rfl
@[simp] theorem blockOn_col1 (s : State) (n : Nat) (b : Blocked) : (blockOn s n b).col1 = s.col1 := rfl
@[simp] theorem blockOn_tags (s : State) (n : Nat) (b : Blocked) : (blockOn s n b).tags = s.tags := rfl
@[simp] theorem blockOn_ptags (s : State) (n : Nat) (b : Blocked) : (blockOn s n b).ptags = s.ptags := rfl
@[simp] theorem blockOn_capQ (s : State) (n : Nat) (b : Blocked) : (blockOn s n b).capQ = s.capQ := rfl
@[simp] theorem blockOn_cutSeqs (s : State) (n : Nat) (b : Blocked) : (blockOn s n b).cutSeqs = s.cutSeqs := rfl
@[simp] theorem blockOn_snapAcc (s : State) (n : Nat) (b : Blocked) : (blockOn s n b).snapAcc = s.snapAcc := rfl
@[simp] theorem blockOn_halyard (s : State) (n : Nat) (b : Blocked) : (blockOn s n b).halyard = s.halyard := rfl
@[simp] theorem blockOn_upsets (s : State) (n : Nat) (b : Blocked) : (blockOn s n b).upsets = s.upsets := rfl
@[simp] theorem blockOn_owners (s : State) (n : Nat) (b : Blocked) : (blockOn s n b).owners = s.owners := rfl
@[simp] theorem blockOn_snapReqs (s : State) (n : Nat) (b : Blocked) : (blockOn s n b).snapReqs = s.snapReqs := rfl
@[simp] theorem blockOn_images (s : State) (n : Nat) (b : Blocked) : (blockOn s n b).images = s.images := rfl
@[simp] theorem blockOn_restore (s : State) (n : Nat) (b : Blocked) : (blockOn s n b).restore = s.restore := rfl

/-! ## unblock -/

@[simp] theorem unblock_agenda (s : State) (n : Nat) : (unblock s n).agenda = s.agenda := rfl
@[simp] theorem unblock_cur (s : State) (n : Nat) : (unblock s n).cur = s.cur := rfl
@[simp] theorem unblock_clock (s : State) (n : Nat) : (unblock s n).clock = s.clock := rfl
@[simp] theorem unblock_fresh (s : State) (n : Nat) : (unblock s n).fresh = s.fresh := rfl
@[simp] theorem unblock_power (s : State) (n : Nat) : (unblock s n).power = s.power := rfl
@[simp] theorem unblock_boot (s : State) (n : Nat) : (unblock s n).boot = s.boot := rfl
@[simp] theorem unblock_policies (s : State) (n : Nat) : (unblock s n).policies = s.policies := rfl
@[simp] theorem unblock_host (s : State) (n : Nat) : (unblock s n).host = s.host := rfl
@[simp] theorem unblock_mem (s : State) (n : Nat) : (unblock s n).mem = s.mem := rfl
@[simp] theorem unblock_memPsn (s : State) (n : Nat) : (unblock s n).memPsn = s.memPsn := rfl
@[simp] theorem unblock_scr (s : State) (n : Nat) : (unblock s n).scr = s.scr := rfl
@[simp] theorem unblock_scrPsn (s : State) (n : Nat) : (unblock s n).scrPsn = s.scrPsn := rfl
@[simp] theorem unblock_dsc (s : State) (n : Nat) : (unblock s n).dsc = s.dsc := rfl
@[simp] theorem unblock_dscPsn (s : State) (n : Nat) : (unblock s n).dscPsn = s.dscPsn := rfl
@[simp] theorem unblock_obuf (s : State) (n : Nat) : (unblock s n).obuf = s.obuf := rfl
@[simp] theorem unblock_wbuf (s : State) (n : Nat) : (unblock s n).wbuf = s.wbuf := rfl
@[simp] theorem unblock_bufPsn (s : State) (n : Nat) : (unblock s n).bufPsn = s.bufPsn := rfl
@[simp] theorem unblock_acc (s : State) (n : Nat) : (unblock s n).acc = s.acc := rfl
@[simp] theorem unblock_accPsn (s : State) (n : Nat) : (unblock s n).accPsn = s.accPsn := rfl
@[simp] theorem unblock_vrf (s : State) (n : Nat) : (unblock s n).vrf = s.vrf := rfl
@[simp] theorem unblock_vmark (s : State) (n : Nat) : (unblock s n).vmark = s.vmark := rfl
@[simp] theorem unblock_slices (s : State) (n : Nat) : (unblock s n).slices = s.slices := rfl
@[simp] theorem unblock_banks (s : State) (n : Nat) : (unblock s n).banks = s.banks := rfl
@[simp] theorem unblock_ranges (s : State) (n : Nat) : (unblock s n).ranges = s.ranges := rfl
@[simp] theorem unblock_splits (s : State) (n : Nat) : (unblock s n).splits = s.splits := rfl
@[simp] theorem unblock_recs (s : State) (n : Nat) : (unblock s n).recs = s.recs := rfl
@[simp] theorem unblock_accs (s : State) (n : Nat) : (unblock s n).accs = s.accs := rfl
@[simp] theorem unblock_arrays (s : State) (n : Nat) : (unblock s n).arrays = s.arrays := rfl
@[simp] theorem unblock_rings (s : State) (n : Nat) : (unblock s n).rings = s.rings := rfl
@[simp] theorem unblock_bars (s : State) (n : Nat) : (unblock s n).bars = s.bars := rfl
@[simp] theorem unblock_l1 (s : State) (n : Nat) : (unblock s n).l1 = s.l1 := rfl
@[simp] theorem unblock_l2 (s : State) (n : Nat) : (unblock s n).l2 = s.l2 := rfl
@[simp] theorem unblock_dir (s : State) (n : Nat) : (unblock s n).dir = s.dir := rfl
@[simp] theorem unblock_tlb (s : State) (n : Nat) : (unblock s n).tlb = s.tlb := rfl
@[simp] theorem unblock_invals (s : State) (n : Nat) : (unblock s n).invals = s.invals := rfl
@[simp] theorem unblock_zmaps (s : State) (n : Nat) : (unblock s n).zmaps = s.zmaps := rfl
@[simp] theorem unblock_ops (s : State) (n : Nat) : (unblock s n).ops = s.ops := rfl
@[simp] theorem unblock_blocks (s : State) (n : Nat) : (unblock s n).blocks = s.blocks := rfl
@[simp] theorem unblock_saved (s : State) (n : Nat) : (unblock s n).saved = s.saved := rfl
@[simp] theorem unblock_launches (s : State) (n : Nat) : (unblock s n).launches = s.launches := rfl
@[simp] theorem unblock_chunks (s : State) (n : Nat) : (unblock s n).chunks = s.chunks := rfl
@[simp] theorem unblock_queues (s : State) (n : Nat) : (unblock s n).queues = s.queues := rfl
@[simp] theorem unblock_ctxs (s : State) (n : Nat) : (unblock s n).ctxs = s.ctxs := rfl
@[simp] theorem unblock_pod (s : State) (n : Nat) : (unblock s n).pod = s.pod := rfl
@[simp] theorem unblock_groups (s : State) (n : Nat) : (unblock s n).groups = s.groups := rfl
@[simp] theorem unblock_fab (s : State) (n : Nat) : (unblock s n).fab = s.fab := rfl
@[simp] theorem unblock_col0 (s : State) (n : Nat) : (unblock s n).col0 = s.col0 := rfl
@[simp] theorem unblock_col1 (s : State) (n : Nat) : (unblock s n).col1 = s.col1 := rfl
@[simp] theorem unblock_tags (s : State) (n : Nat) : (unblock s n).tags = s.tags := rfl
@[simp] theorem unblock_ptags (s : State) (n : Nat) : (unblock s n).ptags = s.ptags := rfl
@[simp] theorem unblock_capQ (s : State) (n : Nat) : (unblock s n).capQ = s.capQ := rfl
@[simp] theorem unblock_cutSeqs (s : State) (n : Nat) : (unblock s n).cutSeqs = s.cutSeqs := rfl
@[simp] theorem unblock_snapAcc (s : State) (n : Nat) : (unblock s n).snapAcc = s.snapAcc := rfl
@[simp] theorem unblock_halyard (s : State) (n : Nat) : (unblock s n).halyard = s.halyard := rfl
@[simp] theorem unblock_upsets (s : State) (n : Nat) : (unblock s n).upsets = s.upsets := rfl
@[simp] theorem unblock_owners (s : State) (n : Nat) : (unblock s n).owners = s.owners := rfl
@[simp] theorem unblock_snapReqs (s : State) (n : Nat) : (unblock s n).snapReqs = s.snapReqs := rfl
@[simp] theorem unblock_images (s : State) (n : Nat) : (unblock s n).images = s.images := rfl
@[simp] theorem unblock_restore (s : State) (n : Nat) : (unblock s n).restore = s.restore := rfl

/-! ## pushPend -/

@[simp] theorem pushPend_agenda (s : State) (g : Gang) (l : Nat) (a : List PendAct) : (pushPend s g l a).agenda = s.agenda := rfl
@[simp] theorem pushPend_cur (s : State) (g : Gang) (l : Nat) (a : List PendAct) : (pushPend s g l a).cur = s.cur := rfl
@[simp] theorem pushPend_clock (s : State) (g : Gang) (l : Nat) (a : List PendAct) : (pushPend s g l a).clock = s.clock := rfl
@[simp] theorem pushPend_fresh (s : State) (g : Gang) (l : Nat) (a : List PendAct) : (pushPend s g l a).fresh = s.fresh := rfl
@[simp] theorem pushPend_power (s : State) (g : Gang) (l : Nat) (a : List PendAct) : (pushPend s g l a).power = s.power := rfl
@[simp] theorem pushPend_boot (s : State) (g : Gang) (l : Nat) (a : List PendAct) : (pushPend s g l a).boot = s.boot := rfl
@[simp] theorem pushPend_policies (s : State) (g : Gang) (l : Nat) (a : List PendAct) : (pushPend s g l a).policies = s.policies := rfl
@[simp] theorem pushPend_host (s : State) (g : Gang) (l : Nat) (a : List PendAct) : (pushPend s g l a).host = s.host := rfl
@[simp] theorem pushPend_mem (s : State) (g : Gang) (l : Nat) (a : List PendAct) : (pushPend s g l a).mem = s.mem := rfl
@[simp] theorem pushPend_memPsn (s : State) (g : Gang) (l : Nat) (a : List PendAct) : (pushPend s g l a).memPsn = s.memPsn := rfl
@[simp] theorem pushPend_scr (s : State) (g : Gang) (l : Nat) (a : List PendAct) : (pushPend s g l a).scr = s.scr := rfl
@[simp] theorem pushPend_scrPsn (s : State) (g : Gang) (l : Nat) (a : List PendAct) : (pushPend s g l a).scrPsn = s.scrPsn := rfl
@[simp] theorem pushPend_dsc (s : State) (g : Gang) (l : Nat) (a : List PendAct) : (pushPend s g l a).dsc = s.dsc := rfl
@[simp] theorem pushPend_dscPsn (s : State) (g : Gang) (l : Nat) (a : List PendAct) : (pushPend s g l a).dscPsn = s.dscPsn := rfl
@[simp] theorem pushPend_obuf (s : State) (g : Gang) (l : Nat) (a : List PendAct) : (pushPend s g l a).obuf = s.obuf := rfl
@[simp] theorem pushPend_wbuf (s : State) (g : Gang) (l : Nat) (a : List PendAct) : (pushPend s g l a).wbuf = s.wbuf := rfl
@[simp] theorem pushPend_bufPsn (s : State) (g : Gang) (l : Nat) (a : List PendAct) : (pushPend s g l a).bufPsn = s.bufPsn := rfl
@[simp] theorem pushPend_acc (s : State) (g : Gang) (l : Nat) (a : List PendAct) : (pushPend s g l a).acc = s.acc := rfl
@[simp] theorem pushPend_accPsn (s : State) (g : Gang) (l : Nat) (a : List PendAct) : (pushPend s g l a).accPsn = s.accPsn := rfl
@[simp] theorem pushPend_vrf (s : State) (g : Gang) (l : Nat) (a : List PendAct) : (pushPend s g l a).vrf = s.vrf := rfl
@[simp] theorem pushPend_vmark (s : State) (g : Gang) (l : Nat) (a : List PendAct) : (pushPend s g l a).vmark = s.vmark := rfl
@[simp] theorem pushPend_slices (s : State) (g : Gang) (l : Nat) (a : List PendAct) : (pushPend s g l a).slices = s.slices := rfl
@[simp] theorem pushPend_banks (s : State) (g : Gang) (l : Nat) (a : List PendAct) : (pushPend s g l a).banks = s.banks := rfl
@[simp] theorem pushPend_ranges (s : State) (g : Gang) (l : Nat) (a : List PendAct) : (pushPend s g l a).ranges = s.ranges := rfl
@[simp] theorem pushPend_splits (s : State) (g : Gang) (l : Nat) (a : List PendAct) : (pushPend s g l a).splits = s.splits := rfl
@[simp] theorem pushPend_recs (s : State) (g : Gang) (l : Nat) (a : List PendAct) : (pushPend s g l a).recs = s.recs := rfl
@[simp] theorem pushPend_accs (s : State) (g : Gang) (l : Nat) (a : List PendAct) : (pushPend s g l a).accs = s.accs := rfl
@[simp] theorem pushPend_arrays (s : State) (g : Gang) (l : Nat) (a : List PendAct) : (pushPend s g l a).arrays = s.arrays := rfl
@[simp] theorem pushPend_rings (s : State) (g : Gang) (l : Nat) (a : List PendAct) : (pushPend s g l a).rings = s.rings := rfl
@[simp] theorem pushPend_bars (s : State) (g : Gang) (l : Nat) (a : List PendAct) : (pushPend s g l a).bars = s.bars := rfl
@[simp] theorem pushPend_l1 (s : State) (g : Gang) (l : Nat) (a : List PendAct) : (pushPend s g l a).l1 = s.l1 := rfl
@[simp] theorem pushPend_l2 (s : State) (g : Gang) (l : Nat) (a : List PendAct) : (pushPend s g l a).l2 = s.l2 := rfl
@[simp] theorem pushPend_dir (s : State) (g : Gang) (l : Nat) (a : List PendAct) : (pushPend s g l a).dir = s.dir := rfl
@[simp] theorem pushPend_tlb (s : State) (g : Gang) (l : Nat) (a : List PendAct) : (pushPend s g l a).tlb = s.tlb := rfl
@[simp] theorem pushPend_invals (s : State) (g : Gang) (l : Nat) (a : List PendAct) : (pushPend s g l a).invals = s.invals := rfl
@[simp] theorem pushPend_zmaps (s : State) (g : Gang) (l : Nat) (a : List PendAct) : (pushPend s g l a).zmaps = s.zmaps := rfl
@[simp] theorem pushPend_ops (s : State) (g : Gang) (l : Nat) (a : List PendAct) : (pushPend s g l a).ops = s.ops := rfl
@[simp] theorem pushPend_blocks (s : State) (g : Gang) (l : Nat) (a : List PendAct) : (pushPend s g l a).blocks = s.blocks := rfl
@[simp] theorem pushPend_saved (s : State) (g : Gang) (l : Nat) (a : List PendAct) : (pushPend s g l a).saved = s.saved := rfl
@[simp] theorem pushPend_launches (s : State) (g : Gang) (l : Nat) (a : List PendAct) : (pushPend s g l a).launches = s.launches := rfl
@[simp] theorem pushPend_chunks (s : State) (g : Gang) (l : Nat) (a : List PendAct) : (pushPend s g l a).chunks = s.chunks := rfl
@[simp] theorem pushPend_queues (s : State) (g : Gang) (l : Nat) (a : List PendAct) : (pushPend s g l a).queues = s.queues := rfl
@[simp] theorem pushPend_ctxs (s : State) (g : Gang) (l : Nat) (a : List PendAct) : (pushPend s g l a).ctxs = s.ctxs := rfl
@[simp] theorem pushPend_pod (s : State) (g : Gang) (l : Nat) (a : List PendAct) : (pushPend s g l a).pod = s.pod := rfl
@[simp] theorem pushPend_groups (s : State) (g : Gang) (l : Nat) (a : List PendAct) : (pushPend s g l a).groups = s.groups := rfl
@[simp] theorem pushPend_fab (s : State) (g : Gang) (l : Nat) (a : List PendAct) : (pushPend s g l a).fab = s.fab := rfl
@[simp] theorem pushPend_col0 (s : State) (g : Gang) (l : Nat) (a : List PendAct) : (pushPend s g l a).col0 = s.col0 := rfl
@[simp] theorem pushPend_col1 (s : State) (g : Gang) (l : Nat) (a : List PendAct) : (pushPend s g l a).col1 = s.col1 := rfl
@[simp] theorem pushPend_tags (s : State) (g : Gang) (l : Nat) (a : List PendAct) : (pushPend s g l a).tags = s.tags := rfl
@[simp] theorem pushPend_ptags (s : State) (g : Gang) (l : Nat) (a : List PendAct) : (pushPend s g l a).ptags = s.ptags := rfl
@[simp] theorem pushPend_capQ (s : State) (g : Gang) (l : Nat) (a : List PendAct) : (pushPend s g l a).capQ = s.capQ := rfl
@[simp] theorem pushPend_cutSeqs (s : State) (g : Gang) (l : Nat) (a : List PendAct) : (pushPend s g l a).cutSeqs = s.cutSeqs := rfl
@[simp] theorem pushPend_snapAcc (s : State) (g : Gang) (l : Nat) (a : List PendAct) : (pushPend s g l a).snapAcc = s.snapAcc := rfl
@[simp] theorem pushPend_halyard (s : State) (g : Gang) (l : Nat) (a : List PendAct) : (pushPend s g l a).halyard = s.halyard := rfl
@[simp] theorem pushPend_upsets (s : State) (g : Gang) (l : Nat) (a : List PendAct) : (pushPend s g l a).upsets = s.upsets := rfl
@[simp] theorem pushPend_owners (s : State) (g : Gang) (l : Nat) (a : List PendAct) : (pushPend s g l a).owners = s.owners := rfl
@[simp] theorem pushPend_snapReqs (s : State) (g : Gang) (l : Nat) (a : List PendAct) : (pushPend s g l a).snapReqs = s.snapReqs := rfl
@[simp] theorem pushPend_images (s : State) (g : Gang) (l : Nat) (a : List PendAct) : (pushPend s g l a).images = s.images := rfl
@[simp] theorem pushPend_restore (s : State) (g : Gang) (l : Nat) (a : List PendAct) : (pushPend s g l a).restore = s.restore := rfl

/-! ## setFlagsNow -/

@[simp] theorem setFlagsNow_agenda (s : State) (n : Nat) (f : Word) : (setFlagsNow s n f).agenda = s.agenda := rfl
@[simp] theorem setFlagsNow_cur (s : State) (n : Nat) (f : Word) : (setFlagsNow s n f).cur = s.cur := rfl
@[simp] theorem setFlagsNow_clock (s : State) (n : Nat) (f : Word) : (setFlagsNow s n f).clock = s.clock := rfl
@[simp] theorem setFlagsNow_fresh (s : State) (n : Nat) (f : Word) : (setFlagsNow s n f).fresh = s.fresh := rfl
@[simp] theorem setFlagsNow_power (s : State) (n : Nat) (f : Word) : (setFlagsNow s n f).power = s.power := rfl
@[simp] theorem setFlagsNow_boot (s : State) (n : Nat) (f : Word) : (setFlagsNow s n f).boot = s.boot := rfl
@[simp] theorem setFlagsNow_policies (s : State) (n : Nat) (f : Word) : (setFlagsNow s n f).policies = s.policies := rfl
@[simp] theorem setFlagsNow_host (s : State) (n : Nat) (f : Word) : (setFlagsNow s n f).host = s.host := rfl
@[simp] theorem setFlagsNow_mem (s : State) (n : Nat) (f : Word) : (setFlagsNow s n f).mem = s.mem := rfl
@[simp] theorem setFlagsNow_memPsn (s : State) (n : Nat) (f : Word) : (setFlagsNow s n f).memPsn = s.memPsn := rfl
@[simp] theorem setFlagsNow_scr (s : State) (n : Nat) (f : Word) : (setFlagsNow s n f).scr = s.scr := rfl
@[simp] theorem setFlagsNow_scrPsn (s : State) (n : Nat) (f : Word) : (setFlagsNow s n f).scrPsn = s.scrPsn := rfl
@[simp] theorem setFlagsNow_dsc (s : State) (n : Nat) (f : Word) : (setFlagsNow s n f).dsc = s.dsc := rfl
@[simp] theorem setFlagsNow_dscPsn (s : State) (n : Nat) (f : Word) : (setFlagsNow s n f).dscPsn = s.dscPsn := rfl
@[simp] theorem setFlagsNow_obuf (s : State) (n : Nat) (f : Word) : (setFlagsNow s n f).obuf = s.obuf := rfl
@[simp] theorem setFlagsNow_wbuf (s : State) (n : Nat) (f : Word) : (setFlagsNow s n f).wbuf = s.wbuf := rfl
@[simp] theorem setFlagsNow_bufPsn (s : State) (n : Nat) (f : Word) : (setFlagsNow s n f).bufPsn = s.bufPsn := rfl
@[simp] theorem setFlagsNow_acc (s : State) (n : Nat) (f : Word) : (setFlagsNow s n f).acc = s.acc := rfl
@[simp] theorem setFlagsNow_accPsn (s : State) (n : Nat) (f : Word) : (setFlagsNow s n f).accPsn = s.accPsn := rfl
@[simp] theorem setFlagsNow_vrf (s : State) (n : Nat) (f : Word) : (setFlagsNow s n f).vrf = s.vrf := rfl
@[simp] theorem setFlagsNow_vmark (s : State) (n : Nat) (f : Word) : (setFlagsNow s n f).vmark = s.vmark := rfl
@[simp] theorem setFlagsNow_slices (s : State) (n : Nat) (f : Word) : (setFlagsNow s n f).slices = s.slices := rfl
@[simp] theorem setFlagsNow_banks (s : State) (n : Nat) (f : Word) : (setFlagsNow s n f).banks = s.banks := rfl
@[simp] theorem setFlagsNow_ranges (s : State) (n : Nat) (f : Word) : (setFlagsNow s n f).ranges = s.ranges := rfl
@[simp] theorem setFlagsNow_splits (s : State) (n : Nat) (f : Word) : (setFlagsNow s n f).splits = s.splits := rfl
@[simp] theorem setFlagsNow_recs (s : State) (n : Nat) (f : Word) : (setFlagsNow s n f).recs = s.recs := rfl
@[simp] theorem setFlagsNow_accs (s : State) (n : Nat) (f : Word) : (setFlagsNow s n f).accs = s.accs := rfl
@[simp] theorem setFlagsNow_arrays (s : State) (n : Nat) (f : Word) : (setFlagsNow s n f).arrays = s.arrays := rfl
@[simp] theorem setFlagsNow_rings (s : State) (n : Nat) (f : Word) : (setFlagsNow s n f).rings = s.rings := rfl
@[simp] theorem setFlagsNow_bars (s : State) (n : Nat) (f : Word) : (setFlagsNow s n f).bars = s.bars := rfl
@[simp] theorem setFlagsNow_l1 (s : State) (n : Nat) (f : Word) : (setFlagsNow s n f).l1 = s.l1 := rfl
@[simp] theorem setFlagsNow_l2 (s : State) (n : Nat) (f : Word) : (setFlagsNow s n f).l2 = s.l2 := rfl
@[simp] theorem setFlagsNow_dir (s : State) (n : Nat) (f : Word) : (setFlagsNow s n f).dir = s.dir := rfl
@[simp] theorem setFlagsNow_tlb (s : State) (n : Nat) (f : Word) : (setFlagsNow s n f).tlb = s.tlb := rfl
@[simp] theorem setFlagsNow_invals (s : State) (n : Nat) (f : Word) : (setFlagsNow s n f).invals = s.invals := rfl
@[simp] theorem setFlagsNow_zmaps (s : State) (n : Nat) (f : Word) : (setFlagsNow s n f).zmaps = s.zmaps := rfl
@[simp] theorem setFlagsNow_ops (s : State) (n : Nat) (f : Word) : (setFlagsNow s n f).ops = s.ops := rfl
@[simp] theorem setFlagsNow_blocks (s : State) (n : Nat) (f : Word) : (setFlagsNow s n f).blocks = s.blocks := rfl
@[simp] theorem setFlagsNow_saved (s : State) (n : Nat) (f : Word) : (setFlagsNow s n f).saved = s.saved := rfl
@[simp] theorem setFlagsNow_launches (s : State) (n : Nat) (f : Word) : (setFlagsNow s n f).launches = s.launches := rfl
@[simp] theorem setFlagsNow_chunks (s : State) (n : Nat) (f : Word) : (setFlagsNow s n f).chunks = s.chunks := rfl
@[simp] theorem setFlagsNow_queues (s : State) (n : Nat) (f : Word) : (setFlagsNow s n f).queues = s.queues := rfl
@[simp] theorem setFlagsNow_ctxs (s : State) (n : Nat) (f : Word) : (setFlagsNow s n f).ctxs = s.ctxs := rfl
@[simp] theorem setFlagsNow_pod (s : State) (n : Nat) (f : Word) : (setFlagsNow s n f).pod = s.pod := rfl
@[simp] theorem setFlagsNow_groups (s : State) (n : Nat) (f : Word) : (setFlagsNow s n f).groups = s.groups := rfl
@[simp] theorem setFlagsNow_fab (s : State) (n : Nat) (f : Word) : (setFlagsNow s n f).fab = s.fab := rfl
@[simp] theorem setFlagsNow_col0 (s : State) (n : Nat) (f : Word) : (setFlagsNow s n f).col0 = s.col0 := rfl
@[simp] theorem setFlagsNow_col1 (s : State) (n : Nat) (f : Word) : (setFlagsNow s n f).col1 = s.col1 := rfl
@[simp] theorem setFlagsNow_tags (s : State) (n : Nat) (f : Word) : (setFlagsNow s n f).tags = s.tags := rfl
@[simp] theorem setFlagsNow_ptags (s : State) (n : Nat) (f : Word) : (setFlagsNow s n f).ptags = s.ptags := rfl
@[simp] theorem setFlagsNow_capQ (s : State) (n : Nat) (f : Word) : (setFlagsNow s n f).capQ = s.capQ := rfl
@[simp] theorem setFlagsNow_cutSeqs (s : State) (n : Nat) (f : Word) : (setFlagsNow s n f).cutSeqs = s.cutSeqs := rfl
@[simp] theorem setFlagsNow_snapAcc (s : State) (n : Nat) (f : Word) : (setFlagsNow s n f).snapAcc = s.snapAcc := rfl
@[simp] theorem setFlagsNow_halyard (s : State) (n : Nat) (f : Word) : (setFlagsNow s n f).halyard = s.halyard := rfl
@[simp] theorem setFlagsNow_upsets (s : State) (n : Nat) (f : Word) : (setFlagsNow s n f).upsets = s.upsets := rfl
@[simp] theorem setFlagsNow_owners (s : State) (n : Nat) (f : Word) : (setFlagsNow s n f).owners = s.owners := rfl
@[simp] theorem setFlagsNow_snapReqs (s : State) (n : Nat) (f : Word) : (setFlagsNow s n f).snapReqs = s.snapReqs := rfl
@[simp] theorem setFlagsNow_images (s : State) (n : Nat) (f : Word) : (setFlagsNow s n f).images = s.images := rfl
@[simp] theorem setFlagsNow_restore (s : State) (n : Nat) (f : Word) : (setFlagsNow s n f).restore = s.restore := rfl

/-! ## endOp -/

@[simp] theorem endOp_agenda (s : State) (o : Op) : (endOp s o).agenda = s.agenda := rfl
@[simp] theorem endOp_cur (s : State) (o : Op) : (endOp s o).cur = s.cur := rfl
@[simp] theorem endOp_clock (s : State) (o : Op) : (endOp s o).clock = s.clock := rfl
@[simp] theorem endOp_fresh (s : State) (o : Op) : (endOp s o).fresh = s.fresh := rfl
@[simp] theorem endOp_power (s : State) (o : Op) : (endOp s o).power = s.power := rfl
@[simp] theorem endOp_boot (s : State) (o : Op) : (endOp s o).boot = s.boot := rfl
@[simp] theorem endOp_policies (s : State) (o : Op) : (endOp s o).policies = s.policies := rfl
@[simp] theorem endOp_host (s : State) (o : Op) : (endOp s o).host = s.host := rfl
@[simp] theorem endOp_mem (s : State) (o : Op) : (endOp s o).mem = s.mem := rfl
@[simp] theorem endOp_memPsn (s : State) (o : Op) : (endOp s o).memPsn = s.memPsn := rfl
@[simp] theorem endOp_scr (s : State) (o : Op) : (endOp s o).scr = s.scr := rfl
@[simp] theorem endOp_scrPsn (s : State) (o : Op) : (endOp s o).scrPsn = s.scrPsn := rfl
@[simp] theorem endOp_dsc (s : State) (o : Op) : (endOp s o).dsc = s.dsc := rfl
@[simp] theorem endOp_dscPsn (s : State) (o : Op) : (endOp s o).dscPsn = s.dscPsn := rfl
@[simp] theorem endOp_obuf (s : State) (o : Op) : (endOp s o).obuf = s.obuf := rfl
@[simp] theorem endOp_wbuf (s : State) (o : Op) : (endOp s o).wbuf = s.wbuf := rfl
@[simp] theorem endOp_bufPsn (s : State) (o : Op) : (endOp s o).bufPsn = s.bufPsn := rfl
@[simp] theorem endOp_acc (s : State) (o : Op) : (endOp s o).acc = s.acc := rfl
@[simp] theorem endOp_accPsn (s : State) (o : Op) : (endOp s o).accPsn = s.accPsn := rfl
@[simp] theorem endOp_vrf (s : State) (o : Op) : (endOp s o).vrf = s.vrf := rfl
@[simp] theorem endOp_vmark (s : State) (o : Op) : (endOp s o).vmark = s.vmark := rfl
@[simp] theorem endOp_slices (s : State) (o : Op) : (endOp s o).slices = s.slices := rfl
@[simp] theorem endOp_banks (s : State) (o : Op) : (endOp s o).banks = s.banks := rfl
@[simp] theorem endOp_ranges (s : State) (o : Op) : (endOp s o).ranges = s.ranges := rfl
@[simp] theorem endOp_splits (s : State) (o : Op) : (endOp s o).splits = s.splits := rfl
@[simp] theorem endOp_recs (s : State) (o : Op) : (endOp s o).recs = s.recs := rfl
@[simp] theorem endOp_accs (s : State) (o : Op) : (endOp s o).accs = s.accs := rfl
@[simp] theorem endOp_arrays (s : State) (o : Op) : (endOp s o).arrays = s.arrays := rfl
@[simp] theorem endOp_rings (s : State) (o : Op) : (endOp s o).rings = s.rings := rfl
@[simp] theorem endOp_bars (s : State) (o : Op) : (endOp s o).bars = s.bars := rfl
@[simp] theorem endOp_l1 (s : State) (o : Op) : (endOp s o).l1 = s.l1 := rfl
@[simp] theorem endOp_l2 (s : State) (o : Op) : (endOp s o).l2 = s.l2 := rfl
@[simp] theorem endOp_dir (s : State) (o : Op) : (endOp s o).dir = s.dir := rfl
@[simp] theorem endOp_tlb (s : State) (o : Op) : (endOp s o).tlb = s.tlb := rfl
@[simp] theorem endOp_invals (s : State) (o : Op) : (endOp s o).invals = s.invals := rfl
@[simp] theorem endOp_zmaps (s : State) (o : Op) : (endOp s o).zmaps = s.zmaps := rfl
@[simp] theorem endOp_blocks (s : State) (o : Op) : (endOp s o).blocks = s.blocks := rfl
@[simp] theorem endOp_saved (s : State) (o : Op) : (endOp s o).saved = s.saved := rfl
@[simp] theorem endOp_launches (s : State) (o : Op) : (endOp s o).launches = s.launches := rfl
@[simp] theorem endOp_chunks (s : State) (o : Op) : (endOp s o).chunks = s.chunks := rfl
@[simp] theorem endOp_queues (s : State) (o : Op) : (endOp s o).queues = s.queues := rfl
@[simp] theorem endOp_ctxs (s : State) (o : Op) : (endOp s o).ctxs = s.ctxs := rfl
@[simp] theorem endOp_pod (s : State) (o : Op) : (endOp s o).pod = s.pod := rfl
@[simp] theorem endOp_groups (s : State) (o : Op) : (endOp s o).groups = s.groups := rfl
@[simp] theorem endOp_fab (s : State) (o : Op) : (endOp s o).fab = s.fab := rfl
@[simp] theorem endOp_col0 (s : State) (o : Op) : (endOp s o).col0 = s.col0 := rfl
@[simp] theorem endOp_col1 (s : State) (o : Op) : (endOp s o).col1 = s.col1 := rfl
@[simp] theorem endOp_tags (s : State) (o : Op) : (endOp s o).tags = s.tags := rfl
@[simp] theorem endOp_ptags (s : State) (o : Op) : (endOp s o).ptags = s.ptags := rfl
@[simp] theorem endOp_capQ (s : State) (o : Op) : (endOp s o).capQ = s.capQ := rfl
@[simp] theorem endOp_cutSeqs (s : State) (o : Op) : (endOp s o).cutSeqs = s.cutSeqs := rfl
@[simp] theorem endOp_snapAcc (s : State) (o : Op) : (endOp s o).snapAcc = s.snapAcc := rfl
@[simp] theorem endOp_halyard (s : State) (o : Op) : (endOp s o).halyard = s.halyard := rfl
@[simp] theorem endOp_upsets (s : State) (o : Op) : (endOp s o).upsets = s.upsets := rfl
@[simp] theorem endOp_owners (s : State) (o : Op) : (endOp s o).owners = s.owners := rfl
@[simp] theorem endOp_snapReqs (s : State) (o : Op) : (endOp s o).snapReqs = s.snapReqs := rfl
@[simp] theorem endOp_images (s : State) (o : Op) : (endOp s o).images = s.images := rfl
@[simp] theorem endOp_restore (s : State) (o : Op) : (endOp s o).restore = s.restore := rfl

end Sys2Proof.Machine
end

