-- ==== Sys2Proof/Laws/Lookup.lean ====
section
/-! SUPPORT. Reading a table of the state by name after one of its updates. -/

namespace Sys2Proof.Machine

theorem find_map_of_key {α κ : Type} [DecidableEq κ] (key : α → κ) (f : α → α) (n : κ) (hf : ∀ x, key x = n → key (f x) = n) :
    ∀ (xs : List α) (m : κ), (xs.map (fun x => if key x = n then f x else x)).find? (fun x => key x == m) =
      if m = n then (xs.find? (fun x => key x == n)).map f else xs.find? (fun x => key x == m)
  | [], m => by by_cases h : m = n <;> simp [h]
  | x :: xs, m => by
    have ih := find_map_of_key key f n hf xs m
    by_cases hx : key x = n
    · have hfx := hf x hx
      by_cases hm : m = n
      · subst hm; simp [hx, hfx]
      · have h1 : ¬ key (f x) = m := by rw [hfx]; exact fun h => hm h.symm
        have h2 : ¬ key x = m := by rw [hx]; exact fun h => hm h.symm
        have h3 : ¬ n = m := fun h => hm h.symm
        simp only [hm, if_false] at ih
        simp [hx, hfx, hm, h3, ih]
    · by_cases hm : m = n
      · subst hm; simp only [if_true] at ih; simp [hx, ih]
      · simp only [hm, if_false] at ih
        by_cases hxm : key x = m
        · simp [hxm, hm]
        · simp [hx, hxm, hm, ih]

/-- The gang of a name after one gang's update that keeps its name. -/
theorem gangOf_modGang (s : State) (n m : Nat) (f : Gang → Gang) (hf : ∀ g, g.gid = n → (f g).gid = n) :
    gangOf (modGang s n f) m = if m = n then (gangOf s n).map f else gangOf s m :=
  find_map_of_key Gang.gid f n hf s.gangs m

theorem gangOf_modGang_ne (s : State) (n m : Nat) (f : Gang → Gang) (hf : ∀ g, g.gid = n → (f g).gid = n) (h : m ≠ n) :
    gangOf (modGang s n f) m = gangOf s m := by rw [gangOf_modGang s n m f hf, if_neg h]

theorem gangOf_gid {s : State} {n : Nat} {g : Gang} (h : gangOf s n = some g) : g.gid = n := by
  simpa using List.find?_some h

theorem gangOf_modGang_self (s : State) (n : Nat) (f : Gang → Gang) (g : Gang) (hf : ∀ x, x.gid = n → (f x).gid = n) (h : gangOf s n = some g) :
    gangOf (modGang s n f) n = some (f g) := by rw [gangOf_modGang s n n f hf, if_pos rfl, h]; rfl

/-- The gang of a name after a gang was put in its place. -/
theorem gangOf_setGang (s : State) (g : Gang) (m : Nat) :
    gangOf (setGang s g) m = if m = g.gid then (gangOf s g.gid).map (fun _ => g) else gangOf s m :=
  find_map_of_key Gang.gid (fun _ => g) g.gid (fun _ _ => rfl) s.gangs m

theorem gangOf_setGang_self (s : State) (g h : Gang) (hg : gangOf s g.gid = some h) : gangOf (setGang s g) g.gid = some g := by
  rw [gangOf_setGang, if_pos rfl, hg]; rfl

theorem gangOf_setGang_ne (s : State) (g : Gang) (m : Nat) (h : m ≠ g.gid) : gangOf (setGang s g) m = gangOf s m := by
  rw [gangOf_setGang, if_neg h]

/-- The operation of a name after one operation's update that keeps its name. -/
theorem opOf_modOp (s : State) (n m : Nat) (f : Op → Op) (hf : ∀ o, o.id = n → (f o).id = n) :
    opOf (modOp s n f) m = if m = n then (opOf s n).map f else opOf s m :=
  find_map_of_key Op.id f n hf s.ops m

theorem opOf_id {s : State} {n : Nat} {o : Op} (h : opOf s n = some o) : o.id = n := by simpa using List.find?_some h

theorem opOf_setPiece (s : State) (n i m : Nat) (p : Piece) :
    opOf (setPiece s n i p) m = if m = n then (opOf s n).map (fun o => { o with pieces := setAt o.pieces i p }) else opOf s m :=
  opOf_modOp s n m _ (fun _ h => h)

/-- An operation that has ended is in flight no more; every other one is. -/
theorem opOf_endOp (s : State) (o : Op) (m : Nat) : opOf (endOp s o) m = if m = o.id then none else opOf s m := by
  show (s.ops.filter (fun x => x.id != o.id)).find? (fun x => x.id == m) = _
  rw [List.find?_filter]
  by_cases h : m = o.id
  · subst h
    rw [if_pos rfl, List.find?_eq_none]
    intro x _
    simp
  · rw [if_neg h]
    show _ = s.ops.find? _
    congr 1
    funext x
    by_cases hx : x.id = m
    · subst hx; simp [h]
    · simp [hx]

/-- The gangs after an operation has ended: its gang's counter is one lower. -/
theorem gangOf_endOp (s : State) (o : Op) (m : Nat) :
    gangOf (endOp s o) m = if m = o.gid then
      (gangOf s o.gid).map (fun x => { x with cnt := cntSub x.cnt o.cls, blocked := heldAfter (opPage o.id) x.blocked }) else gangOf s m :=
  gangOf_modGang { s with ops := s.ops.filter (fun x => x.id != o.id) } o.gid m _ (fun _ h => h)

/-- A launch's update. -/
theorem launchOf_modLaunch (s : State) (n m : Nat) (f : Launch → Launch) (hf : ∀ l, l.id = n → (f l).id = n) :
    launchOf (modLaunch s n f) m = if m = n then (launchOf s n).map f else launchOf s m :=
  find_map_of_key Launch.id f n hf s.launches m

/-- A context's update. -/
theorem ctxRow_modCtx (s : State) (n m : Nat) (f : CtxRow → CtxRow) (hf : ∀ r, r.id = n → (f r).id = n) :
    ctxRow (modCtx s n f) m = if m = n then (ctxRow s n).map f else ctxRow s m :=
  find_map_of_key CtxRow.id f n hf s.ctxs m

/-- A barrier object's update. -/
theorem barAt_setBar (s : State) (b : BarRow) (c i : Nat) : barAt (setBar s b) c i = if c = b.clu ∧ i = b.slot then b else barAt s c i := by
  unfold barAt setBar
  by_cases h : c = b.clu ∧ i = b.slot
  · obtain ⟨rfl, rfl⟩ := h; simp
  · have h1 : ¬(b.clu = c ∧ b.slot = i) := fun x => h ⟨x.1.symm, x.2.symm⟩
    have h2 : (b.clu == c && b.slot == i) = false := by simpa using fun a b => h1 ⟨a, b⟩
    rw [if_neg h, List.find?_cons, h2]
    simp only [List.find?_filter]
    congr 2
    funext x
    by_cases hx : x.clu = c ∧ x.slot = i
    · obtain ⟨rfl, rfl⟩ := hx
      have h3 : (x.clu == b.clu && x.slot == b.slot) = false := by simpa using fun a b => h1 ⟨a.symm, b.symm⟩
      simp [h3]
    · have h3 : (x.clu == c && x.slot == i) = false := by simpa using fun a b => hx ⟨a, b⟩
      simp [h3]

/-- A ring object's update. -/
theorem ringAt_setRing (s : State) (r : RingRow) (c i : Nat) : ringAt (setRing s r) c i = if c = r.core ∧ i = r.obj then r else ringAt s c i := by
  unfold ringAt setRing
  by_cases h : c = r.core ∧ i = r.obj
  · obtain ⟨rfl, rfl⟩ := h; simp
  · have h1 : ¬(r.core = c ∧ r.obj = i) := fun x => h ⟨x.1.symm, x.2.symm⟩
    have h2 : (r.core == c && r.obj == i) = false := by simpa using fun a b => h1 ⟨a, b⟩
    rw [if_neg h, List.find?_cons, h2]
    simp only [List.find?_filter]
    congr 2
    funext x
    by_cases hx : x.core = c ∧ x.obj = i
    · obtain ⟨rfl, rfl⟩ := hx
      have h3 : (x.core == r.core && x.obj == r.obj) = false := by simpa using fun a b => h1 ⟨a.symm, b.symm⟩
      simp [h3]
    · have h3 : (x.core == c && x.obj == i) = false := by simpa using fun a b => hx ⟨a, b⟩
      simp [h3]

/-- A temporal array's update. -/
theorem arrayOf_setArray (s : State) (a : ArrayRow) (c : Nat) : arrayOf (setArray s a) c = if c = a.core then a else arrayOf s c := by
  unfold arrayOf setArray
  by_cases h : c = a.core
  · subst h; simp
  · have h2 : (a.core == c) = false := by simpa using fun x => h x.symm
    rw [if_neg h, List.find?_cons, h2]
    simp only [List.find?_filter]
    congr 2
    funext x
    by_cases hx : x.core = c
    · subst hx; simp [h]
    · simp [hx]

end Sys2Proof.Machine
end

