-- ==== Sys2Proof/Laws/Sparse.lean ====
section
/-! SUPPORT. Laws of sparse tables: reads after writes, what a write leaves alone, and the one form that every operation keeps. -/

namespace Sys2Proof.Machine

theorem Sparse.get_of_okFrom_lt {α : Type} [DecidableEq α] (d : α) : ∀ (m : List (Nat × α)) (b k : Nat),
    Sparse.okFrom d b m = true → k < b → Sparse.get d m k = d
  | [], _, _, _, _ => rfl
  | (j, v) :: rest, b, k, h, hk => by
    simp only [okFrom, Bool.and_eq_true, decide_eq_true_eq] at h
    have h1 : j ≠ k := by omega
    have h2 : k < j := by omega
    simp [get, h1, h2]

theorem Sparse.okFrom_mono {α : Type} [DecidableEq α] (d : α) : ∀ (m : List (Nat × α)) (b c : Nat),
    Sparse.okFrom d b m = true → c ≤ b → Sparse.okFrom d c m = true
  | [], _, _, _, _ => rfl
  | (j, v) :: rest, b, c, h, hc => by
    simp only [okFrom, Bool.and_eq_true, decide_eq_true_eq] at h ⊢
    exact ⟨⟨by omega, h.1.2⟩, h.2⟩

/-- A write leaves the written value at its key and every other key alone. -/
theorem Sparse.get_set {α : Type} [DecidableEq α] (d : α) (v : α) : ∀ (m : List (Nat × α)) (b k j : Nat),
    Sparse.okFrom d b m = true → Sparse.get d (Sparse.set d m k v) j = if j = k then v else Sparse.get d m j
  | [], _, k, j, _ => by
    by_cases hv : v = d <;> by_cases hj : k = j <;> simp [set, get, hv, hj, eq_comm]
  | (i, w) :: rest, b, k, j, h => by
    have hh := h
    simp only [okFrom, Bool.and_eq_true, decide_eq_true_eq] at h
    have ih := Sparse.get_set d v rest (i + 1) k j h.2
    have lo := Sparse.get_of_okFrom_lt d rest (i + 1)
    by_cases hik : i = k
    · subst hik
      by_cases hv : v = d <;> by_cases hj : j = i
      · subst hj; simp [set, hv, lo j h.2 (by omega)]
      · by_cases hji : j < i
        · have h2 : i ≠ j := by omega
          simp [set, get, hv, hj, hji, h2, lo j h.2 (by omega)]
        · have h2 : i ≠ j := by omega
          simp [set, get, hv, hj, hji, h2]
      · subst hj; simp [set, get, hv]
      · have h2 : i ≠ j := by omega
        simp [set, get, hv, hj, h2]
    · by_cases hki : k < i
      · by_cases hv : v = d
        · by_cases hj : j = k
          · subst hj; simp [set, get, hv, hik, hki]
          · simp [set, hv, hik, hki, hj]
        · by_cases hj : j = k
          · subst hj; simp [set, get, hv, hik, hki]
          · by_cases hjk : j < k
            · have h2 : k ≠ j := by omega
              have h3 : i ≠ j := by omega
              have h4 : j < i := by omega
              simp [set, get, hv, hik, hki, hj, hjk, h2, h3, h4]
            · have h2 : k ≠ j := by omega
              simp [set, get, hv, hik, hki, hj, hjk, h2]
      · by_cases hij : i = j
        · subst hij; simp [set, get, hik, hki]
        · by_cases hji : j < i
          · have : j ≠ k := by omega
            simp [set, get, hik, hki, hij, hji, this]
          · simp [set, get, hik, hki, hij, hji, ih]

theorem Sparse.okFrom_set {α : Type} [DecidableEq α] (d : α) (v : α) : ∀ (m : List (Nat × α)) (b k : Nat),
    Sparse.okFrom d b m = true → b ≤ k → Sparse.okFrom d b (Sparse.set d m k v) = true
  | [], b, k, _, hk => by
    by_cases hv : v = d <;> simp [set, okFrom, hv, hk]
  | (i, w) :: rest, b, k, h, hk => by
    simp only [okFrom, Bool.and_eq_true, decide_eq_true_eq] at h
    by_cases hik : i = k
    · subst hik
      by_cases hv : v = d
      · simp [set, hv]; exact Sparse.okFrom_mono d rest (i + 1) b h.2 (by omega)
      · simp [set, hv, okFrom, h.2, hk]
    · by_cases hki : k < i
      · by_cases hv : v = d
        · simp [set, hv, okFrom, hik, hki, h.2, h.1.1, h.1.2]
        · have : k + 1 ≤ i := by omega
          simp [set, hv, okFrom, hik, hki, h.2, h.1.2, this, hk]
      · have ih := Sparse.okFrom_set d v rest (i + 1) k h.2 (by omega)
        simp [set, okFrom, hik, hki, ih, h.1.1, h.1.2]

/-- A write keeps the canonical form. -/
theorem Sparse.wf_set {α : Type} [DecidableEq α] (d : α) (m : List (Nat × α)) (k : Nat) (v : α) (h : Sparse.wf d m = true) :
    Sparse.wf d (Sparse.set d m k v) = true := Sparse.okFrom_set d v m 0 k h (Nat.zero_le _)

/-- Reading after a write of one key. -/
theorem Sparse.get_set_wf {α : Type} [DecidableEq α] (d : α) (m : List (Nat × α)) (k j : Nat) (v : α) (h : Sparse.wf d m = true) :
    Sparse.get d (Sparse.set d m k v) j = if j = k then v else Sparse.get d m j := Sparse.get_set d v m 0 k j h

/-- A write of several keys keeps the canonical form. -/
theorem Sparse.wf_write {α : Type} [DecidableEq α] (d : α) : ∀ (vs : List α) (m : List (Nat × α)) (k : Nat),
    Sparse.wf d m = true → Sparse.wf d (Sparse.write d m k vs) = true
  | [], _, _, h => h
  | v :: vs, m, k, h => Sparse.wf_write d vs (Sparse.set d m k v) (k + 1) (Sparse.wf_set d m k v h)

/-- A write of several keys leaves its values there and every other key alone. -/
theorem Sparse.get_write {α : Type} [DecidableEq α] (d : α) : ∀ (vs : List α) (m : List (Nat × α)) (k j : Nat), Sparse.wf d m = true →
    Sparse.get d (Sparse.write d m k vs) j = if k ≤ j ∧ j < k + vs.length then vs.getD (j - k) d else Sparse.get d m j
  | [], m, k, j, _ => by
    have : ¬(k ≤ j ∧ j < k + ([] : List α).length) := by simp
    rw [if_neg this]; rfl
  | v :: vs, m, k, j, h => by
    rw [Sparse.write, Sparse.get_write d vs (Sparse.set d m k v) (k + 1) j (Sparse.wf_set d m k v h), Sparse.get_set_wf d m k j v h]
    simp only [List.length_cons]
    by_cases hj : j = k
    · subst hj
      have h1 : ¬(j + 1 ≤ j ∧ j < j + 1 + vs.length) := by omega
      have h2 : j ≤ j ∧ j < j + (vs.length + 1) := by omega
      simp
    · by_cases hr : k + 1 ≤ j ∧ j < k + 1 + vs.length
      · have h2 : k ≤ j ∧ j < k + (vs.length + 1) := by omega
        have h3 : j - k = (j - (k + 1)) + 1 := by omega
        rw [if_pos hr, if_pos h2, h3]; simp
      · have h2 : ¬(k ≤ j ∧ j < k + (vs.length + 1)) := by omega
        rw [if_neg hr, if_neg h2, if_neg hj]

theorem Sparse.okFrom_filter {α : Type} [DecidableEq α] (d : α) (p : Nat × α → Bool) : ∀ (m : List (Nat × α)) (b : Nat),
    Sparse.okFrom d b m = true → Sparse.okFrom d b (m.filter p) = true
  | [], _, _ => rfl
  | (i, w) :: rest, b, h => by
    simp only [okFrom, Bool.and_eq_true, decide_eq_true_eq] at h
    have ih := Sparse.okFrom_filter d p rest (i + 1) h.2
    by_cases hp : p (i, w) = true
    · simp [hp, okFrom, ih, h.1.1, h.1.2]
    · simp only [List.filter_cons, hp]
      exact Sparse.okFrom_mono d _ (i + 1) b ih (by omega)

/-- Clearing a range keeps the canonical form. -/
theorem Sparse.wf_clear {α : Type} [DecidableEq α] (d : α) (m : List (Nat × α)) (k n : Nat) (h : Sparse.wf d m = true) :
    Sparse.wf d (Sparse.clear m k n) = true := Sparse.okFrom_filter d _ m 0 h

theorem Sparse.get_filter {α : Type} [DecidableEq α] (d : α) (q : Nat → Bool) : ∀ (m : List (Nat × α)) (b j : Nat),
    Sparse.okFrom d b m = true → Sparse.get d (m.filter (fun e => q e.1)) j = if q j = true then Sparse.get d m j else d
  | [], _, j, _ => by simp [get]
  | (i, w) :: rest, b, j, h => by
    simp only [okFrom, Bool.and_eq_true, decide_eq_true_eq] at h
    have ih := Sparse.get_filter d q rest (i + 1) j h.2
    have lo := Sparse.get_of_okFrom_lt d rest (i + 1) j h.2
    by_cases hp : q i = true
    · simp only [List.filter_cons, hp, if_true]
      by_cases hij : i = j
      · subst hij; simp [get, hp]
      · by_cases hji : j < i
        · simp [get, hij, hji]
        · simp [get, hij, hji, ih]
    · simp only [List.filter_cons, hp]
      by_cases hij : i = j
      · subst hij
        have := lo (by omega)
        simp [hp, ih]
      · by_cases hji : j < i
        · have hl := lo (by omega)
          simp [get, hij, hji, ih, hl]
        · simp [get, hij, hji, ih]

/-- A cleared range reads as the default, every other key as before. -/
theorem Sparse.get_clear {α : Type} [DecidableEq α] (d : α) (m : List (Nat × α)) (k n j : Nat) (h : Sparse.wf d m = true) :
    Sparse.get d (Sparse.clear m k n) j = if k ≤ j ∧ j < k + n then d else Sparse.get d m j := by
  have hg := Sparse.get_filter d (fun i => decide (i < k) || decide (k + n ≤ i)) m 0 j h
  unfold Sparse.clear
  rw [hg]
  by_cases hr : k ≤ j ∧ j < k + n
  · have h1 : ¬(j < k) := by omega
    have h2 : ¬(k + n ≤ j) := by omega
    simp [hr]
  · have : j < k ∨ k + n ≤ j := by omega
    rw [if_neg hr]; simp [this]

/-- A table in its canonical form is what its keys read as: equal readings, equal tables. -/
theorem Sparse.ext_okFrom {α : Type} [DecidableEq α] (d : α) : ∀ (m n : List (Nat × α)) (b c : Nat), Sparse.okFrom d b m = true →
    Sparse.okFrom d c n = true → (∀ k, Sparse.get d m k = Sparse.get d n k) → m = n
  | [], [], _, _, _, _, _ => rfl
  | [], (j, v) :: rest, _, _, _, hn, hk => by
    simp only [okFrom, Bool.and_eq_true, decide_eq_true_eq] at hn
    have := hk j
    simp [get] at this
    exact absurd this.symm hn.1.2
  | (j, v) :: rest, [], _, _, hm, _, hk => by
    simp only [okFrom, Bool.and_eq_true, decide_eq_true_eq] at hm
    have := hk j
    simp [get] at this
    exact absurd this hm.1.2
  | (i, v) :: ms, (j, w) :: ns, b, c, hm, hn, hk => by
    simp only [okFrom, Bool.and_eq_true, decide_eq_true_eq] at hm hn
    have h1 := hk i
    have h2 := hk j
    have hij : i = j := by
      by_contra hne
      rcases Nat.lt_or_ge i j with hlt | hge
      · have a : j ≠ i := by omega
        simp [get, hlt, a] at h1; exact hm.1.2 h1
      · have hgt : j < i := by omega
        have a : i ≠ j := by omega
        simp [get, hgt, a] at h2; exact hn.1.2 h2.symm
    subst hij
    have hv : v = w := by simpa [get] using h1
    subst hv
    have : ms = ns := by
      refine Sparse.ext_okFrom d ms ns (i + 1) (i + 1) hm.2 hn.2 (fun k => ?_)
      have hkk := hk k
      rcases Nat.lt_trichotomy i k with h | h | h
      · have a : i ≠ k := by omega
        have b : ¬ k < i := by omega
        simpa [get, a, b] using hkk
      · subst h
        rw [Sparse.get_of_okFrom_lt d ms (i + 1) i hm.2 (by omega), Sparse.get_of_okFrom_lt d ns (i + 1) i hn.2 (by omega)]
      · rw [Sparse.get_of_okFrom_lt d ms (i + 1) k hm.2 (by omega), Sparse.get_of_okFrom_lt d ns (i + 1) k hn.2 (by omega)]
    rw [this]

/-- Equal memories are equal data. -/
theorem Memory.ext (m n : Memory) (hm : Memory.wf m = true) (hn : Memory.wf n = true) (h : ∀ a, Memory.byte m a = Memory.byte n a) : m = n :=
  Sparse.ext_okFrom 0#8 m n 0 0 hm hn h

end Sys2Proof.Machine
end

