-- ==== Sys2Proof/Laws/Run.lean ====
section
/-! SUPPORT. How a word's meaning runs, what the shared operations on gangs do, and what they leave alone. -/

namespace Sys2Proof.Machine

open Host (Outcome)

/-! ## A word's meaning -/

/-- The lanes that a word's checks see are some wherever a lane is active. -/
theorem checkLanes_ne_zero (s : State) (g : Gang) (lanes : LaneMask) (w : Option Instr) (m : Option ModFields) (h : activeOf g lanes w m ≠ 0) :
    checkLanes s g lanes w m ≠ 0 := by
  unfold checkLanes
  split
  · intro h0
    apply h
    simp only [activeOf, h0]
    split <;> simp
  · exact h

/-- Everything that the meaning of a word does: nothing, its effect, a trap entry, or a hold. -/
theorem runWord_cases (i : Instr) (perf : Gang → ModFields → LaneMask → State → State) (s : State) :
    (curGang s = none ∧ runWord i perf s = s) ∨
    ∃ g, curGang s = some g ∧
      ((checkLanes s g s.cur.lanes (some i) s.cur.mod = 0 ∧ runWord i perf s = s) ∨
       ((fullChk s g i = .ok ∨ (s.cur.checked = true ∧ alwaysTraps i = false)) ∧
        runWord i perf s = perf g (s.cur.mod.getD plainMod) (activeOf g s.cur.lanes (some i) s.cur.mod) s) ∨
       (∃ f, fullChk s g i = .fault f ∧ runWord i perf s = raiseFault s g i f) ∨
       (∃ ps, fullChk s g i = .hold ps ∧ runWord i perf s = blockOn s g.gid (.xlate (sortAsc ps)))) := by
  unfold runWord
  cases hg : curGang s with
  | none => exact .inl ⟨rfl, rfl⟩
  | some g =>
    refine .inr ⟨g, rfl, ?_⟩
    by_cases hc : checkLanes s g s.cur.lanes (some i) s.cur.mod = 0
    · exact .inl ⟨hc, by simp only [hc, if_true]⟩
    · by_cases ht : s.cur.checked = true ∧ alwaysTraps i = false
      · exact .inr (.inl ⟨.inr ht, by simp only [hc, if_false, ht.1, ht.2, Bool.not_false, Bool.and_true, if_true]⟩)
      · have ht' : (s.cur.checked && !alwaysTraps i) = false := by
          cases h1 : s.cur.checked <;> cases h2 : alwaysTraps i <;> simp_all
        cases hf : fullChk s g i with
        | ok => exact .inr (.inl ⟨.inl rfl, by simp only [hc, if_false, ht', hf, Bool.false_eq_true]⟩)
        | fault f => exact .inr (.inr (.inl ⟨f, rfl, by simp only [hc, if_false, ht', hf, Bool.false_eq_true]⟩))
        | hold ps => exact .inr (.inr (.inr ⟨ps, rfl, by simp only [hc, if_false, ht', hf, Bool.false_eq_true]⟩))

/-- A word that runs has its effect. -/
theorem runWord_of_runs {s : State} {g : Gang} {i : Instr} {m : ModFields} {act : LaneMask} (perf : Gang → ModFields → LaneMask → State → State)
    (h : Runs s g i m act) (ht : alwaysTraps i = false) : runWord i perf s = perf g m act s := by
  obtain ⟨hg, rfl, rfl, ha, hc⟩ := h
  have hl := checkLanes_ne_zero s g s.cur.lanes (some i) s.cur.mod ha
  unfold runWord
  rw [hg]
  simp only [hl, if_false, ht]
  rcases hc with hc | hc <;> simp [hc]

/-- A word with no active lane, its guard settled, does nothing. -/
theorem runWord_inactive {s : State} {g : Gang} (i : Instr) (perf : Gang → ModFields → LaneMask → State → State) (hg : curGang s = some g)
    (h : checkLanes s g s.cur.lanes (some i) s.cur.mod = 0) : runWord i perf s = s := by
  unfold runWord
  rw [hg]
  simp [h]

theorem curGang_gangOf {s : State} {g : Gang} (h : curGang s = some g) : gangOf s g.gid = some g := by
  unfold curGang at h
  split at h
  · have := gangOf_gid h
    rw [this]; exact h
  · cases h

/-! ## Gangs -/

/-- An update of one gang that keeps its name touches that gang alone. -/
theorem onlyGang_modGang (s : State) (n : Nat) (f : Gang → Gang) (hf : ∀ g, g.gid = n → (f g).gid = n) : OnlyGang s (modGang s n f) n :=
  ⟨rfl, fun m h => gangOf_modGang_ne s n m f hf h⟩

theorem onlyGang_setGang (s : State) (g : Gang) : OnlyGang s (setGang s g) g.gid := ⟨rfl, fun m h => gangOf_setGang_ne s g m h⟩

theorem onlyGang_pushPend (s : State) (g : Gang) (lat : Nat) (acts : List PendAct) : OnlyGang s (pushPend s g lat acts) g.gid :=
  onlyGang_modGang s g.gid _ (fun _ h => h)

/-- Results due: the gang's record of pending results grows, and nothing else changes. -/
theorem gangOf_pushPend (s : State) (g : Gang) (lat : Nat) (acts : List PendAct) (h : gangOf s g.gid = some g) :
    gangOf (pushPend s g lat acts) g.gid = some { g with pend := g.pend ++ acts.map (fun a => { vis := g.tick + lat, act := a }) } :=
  gangOf_modGang_self s g.gid _ g (fun _ h => h) h

/-- A gang that blocks keeps everything but what it waits for. -/
theorem gangOf_blockOn (s : State) (n : Nat) (b : Blocked) (g : Gang) (h : gangOf s n = some g) :
    gangOf (blockOn s n b) n = some { g with blocked := some b, since := s.clock } :=
  gangOf_modGang_self s n _ g (fun _ h => h) h

theorem onlyGang_blockOn (s : State) (n : Nat) (b : Blocked) : OnlyGang s (blockOn s n b) n := onlyGang_modGang s n _ (fun _ h => h)

theorem gangOf_unblock (s : State) (n : Nat) (g : Gang) (h : gangOf s n = some g) : gangOf (unblock s n) n = some { g with blocked := none } :=
  gangOf_modGang_self s n _ g (fun _ h => h) h

theorem onlyGang_unblock (s : State) (n : Nat) : OnlyGang s (unblock s n) n := onlyGang_modGang s n _ (fun _ h => h)

/-! ## Registers of a gang -/

/-- A uniform register after a write. -/
theorem rdK_wrK (g : Gang) (n m : Nat) (v : Word) (h : Sparse.wf 0#32 g.k = true) : rdK (wrK g n v) m = if m = n then v else rdK g m :=
  Sparse.get_set_wf 0#32 g.k n m v h

/-- Writing a uniform register keeps the canonical form of the gang's uniforms. -/
theorem wf_wrK (g : Gang) (n : Nat) (v : Word) (h : Sparse.wf 0#32 g.k = true) : Sparse.wf 0#32 (wrK g n v).k = true := Sparse.wf_set 0#32 g.k n v h

/-- Registers of a gang whose slices and places stand read the same. -/
theorem rdV_congr (s t : State) (g h : Gang) (hs : h.smap = g.smap) (hc : h.core = g.core) (hp : h.part = g.part) (hv : t.vrf = s.vrf) (l n : Nat) :
    rdV t h l n = rdV s g l n := by
  unfold rdV vKey
  rw [hs, hc, hp, hv]

end Sys2Proof.Machine
end

