-- ==== Sys2Proof/Laws/Tables.lean ====
section
/-! SUPPORT. Every operation on memory, the scratchpads, the buffers, the accumulators and the register file keeps their canonical form. -/

namespace Sys2Proof.Machine

/-- An update that leaves the seven tables alone keeps the form. -/
theorem TablesCanonical.congr {s t : State} (h : TablesCanonical s) (h1 : t.mem = s.mem) (h2 : t.scr = s.scr) (h3 : t.dsc = s.dsc) (h4 : t.obuf = s.obuf)
    (h5 : t.wbuf = s.wbuf) (h6 : t.acc = s.acc) (h7 : t.vrf = s.vrf) : TablesCanonical t := by
  unfold TablesCanonical
  rw [h1, h2, h3, h4, h5, h6, h7]
  exact h

theorem foldl_keeps {α β : Type} (P : β → Prop) (f : β → α → β) (h : ∀ b a, P b → P (f b a)) : ∀ (xs : List α) (b : β), P b → P (xs.foldl f b)
  | [], _, hb => hb
  | x :: xs, b, hb => foldl_keeps P f h xs (f b x) (h b x hb)

/-! ## Tables with one part written -/

theorem TablesCanonical.withMem {s : State} (h : TablesCanonical s) (m : Memory) (hm : Memory.wf m = true) : TablesCanonical { s with mem := m } :=
  ⟨hm, h.2⟩

theorem TablesCanonical.withScr {s : State} (h : TablesCanonical s) (m : Memory) (hm : Memory.wf m = true) : TablesCanonical { s with scr := m } :=
  ⟨h.1, hm, h.2.2⟩

theorem TablesCanonical.withDsc {s : State} (h : TablesCanonical s) (m : Memory) (hm : Memory.wf m = true) : TablesCanonical { s with dsc := m } :=
  ⟨h.1, h.2.1, hm, h.2.2.2⟩

theorem TablesCanonical.withObuf {s : State} (h : TablesCanonical s) (m : Memory) (hm : Memory.wf m = true) : TablesCanonical { s with obuf := m } :=
  ⟨h.1, h.2.1, h.2.2.1, hm, h.2.2.2.2⟩

theorem TablesCanonical.withWbuf {s : State} (h : TablesCanonical s) (m : Memory) (hm : Memory.wf m = true) : TablesCanonical { s with wbuf := m } :=
  ⟨h.1, h.2.1, h.2.2.1, h.2.2.2.1, hm, h.2.2.2.2.2⟩

theorem TablesCanonical.withAcc {s : State} (h : TablesCanonical s) (m : Memory) (hm : Memory.wf m = true) : TablesCanonical { s with acc := m } :=
  ⟨h.1, h.2.1, h.2.2.1, h.2.2.2.1, h.2.2.2.2.1, hm, h.2.2.2.2.2.2⟩

theorem TablesCanonical.withVrf {s : State} (h : TablesCanonical s) (m : List (Nat × Word)) (hm : Sparse.wf 0#32 m = true) :
    TablesCanonical { s with vrf := m } :=
  ⟨h.1, h.2.1, h.2.2.1, h.2.2.2.1, h.2.2.2.2.1, h.2.2.2.2.2.1, hm⟩

/-! ## Many bytes -/

/-- Bytes set one after the other keep the form, wherever they go. -/
theorem Memory.wf_foldl_setByte {α : Type} (key : α → Nat) (val : α → Byte) (xs : List α) (m : Memory) (h : Memory.wf m = true) :
    Memory.wf (xs.foldl (fun m x => Memory.setByte m (key x) (val x)) m) = true :=
  foldl_keeps (fun m => Memory.wf m = true) _ (fun m _ hm => Sparse.wf_set 0#8 m _ _ hm) xs m h

theorem wf_loadBytes (m : Memory) (k : Nat) (bs : List (Nat × Byte)) (h : Memory.wf m = true) : Memory.wf (loadBytes m k bs) = true :=
  Memory.wf_foldl_setByte _ _ bs m h

theorem wf_putBytes (k : Nat) (bs : List (Nat × Byte)) (m : Memory) (h : Memory.wf m = true) : Memory.wf (putBytes k bs m) = true :=
  Memory.wf_foldl_setByte _ _ bs m h

theorem wf_putWords (k : Nat) (ws : List (Nat × Word)) (m : Memory) (h : Memory.wf m = true) : Memory.wf (putWords k ws m) = true :=
  foldl_keeps (fun m => Memory.wf m = true) _ (fun m _ hm => Sparse.wf_write 0#8 _ m _ hm) ws m h

/-! ## Captures -/

theorem tables_setCol (s : State) (c : Colour) (r : ColourRow) (h : TablesCanonical s) : TablesCanonical (setCol s c r) := by cases c <;> exact h

theorem tables_emitRec (s : State) (c : Colour) (r : SnapRec) (h : TablesCanonical s) : TablesCanonical (emitRec s c r) := tables_setCol s c _ h

theorem tables_sendCapture (s : State) (die ctx : Nat) (c : Colour) (r : SnapRec) (h : TablesCanonical s) : TablesCanonical (sendCapture s die ctx c r) :=
  tables_emitRec s c r h

theorem tables_captureUnitFor (w : Wr) (c : Colour) (u : CapUnit) (s : State) (h : TablesCanonical s) : TablesCanonical (captureUnitFor w c u s) := by
  unfold captureUnitFor
  split
  · exact h
  · split
    · rename_i ctx die r _
      exact tables_sendCapture s die ctx c r h
    · exact h

theorem tables_captureUnit (w : Wr) (u : CapUnit) (s : State) (h : TablesCanonical s) : TablesCanonical (captureUnit w u s) :=
  tables_captureUnitFor w .c1 u _ (tables_captureUnitFor w .c0 u s h)

theorem tables_patchFor (w : Wr) (c : Colour) (b : Bool) (u : CapUnit) (loc : Nat) (ws : List (Nat × Word)) (bs : List (Nat × Byte)) (s : State)
    (h : TablesCanonical s) : TablesCanonical (patchFor w c b u loc ws bs s) := by
  unfold patchFor
  split
  · exact tables_emitRec _ _ _ h
  · exact h

/-! ## Memory and L2 -/

theorem tables_setL2 (s : State) (r : L2Line) (h : TablesCanonical s) : TablesCanonical (setL2 s r) := by
  unfold setL2
  split <;> exact h

theorem tables_putPteBit (s : State) (pte bit : Nat) (v : Bool) (h : TablesCanonical s) : TablesCanonical (putPteBit s pte bit v) := by
  unfold putPteBit
  have h1 := h.withMem _ (Sparse.wf_set 0#8 s.mem (pte + bit / 8) (if v then Memory.byte s.mem (pte + bit / 8) ||| (1#8 <<< (bit % 8))
    else Memory.byte s.mem (pte + bit / 8) &&& ~~~(1#8 <<< (bit % 8))) h.1)
  dsimp only
  split
  · exact tables_setL2 _ _ h1
  · exact h1

theorem tables_pageLineDone (s : State) (t : PageTag) (i : Nat) (h : TablesCanonical s) : TablesCanonical (pageLineDone s t i) := by
  unfold pageLineDone
  dsimp only
  split
  · exact tables_putPteBit _ _ _ _ h
  · exact h

theorem tables_captureLineFor (w : Wr) (c : Colour) (pa : Nat) (s : State) (h : TablesCanonical s) : TablesCanonical (captureLineFor w c pa s) := by
  unfold captureLineFor
  split
  · exact h
  · exact foldl_keeps TablesCanonical _ (fun s _ hs => tables_pageLineDone _ _ _ (tables_sendCapture _ _ _ _ _ hs)) _ s h

theorem tables_clearZp (s : State) (ptes : List Nat) (h : TablesCanonical s) : TablesCanonical (clearZp s ptes) := by
  exact foldl_keeps TablesCanonical _ (fun s a hs => tables_putPteBit s a 109 false hs) ptes s h

theorem tables_zeroMapWrite (s : State) (pa : Nat) (h : TablesCanonical s) : TablesCanonical (zeroMapWrite s pa) := by
  unfold zeroMapWrite
  split
  · dsimp only
    split
    · exact h
    · have h1 := h.withMem (Sparse.clear s.mem (pa / 128 * 128) 128) (Sparse.wf_clear 0#8 _ _ _ h.1)
      split
      · exact tables_clearZp _ _ h1
      · exact h1
  · exact h

/-- A line written in L2: memory itself changes only where a zero map or a leaf entry's bit does, in canonical form. -/
theorem tables_writeLine (w : Wr) (line va : Nat) (mask : BitVec 128) (data : List Byte) (s : State) (h : TablesCanonical s) :
    TablesCanonical (writeLine w line va mask data s) := by
  unfold writeLine
  refine tables_patchFor _ _ _ _ _ _ _ _ (tables_patchFor _ _ _ _ _ _ _ _ ?_)
  have h1 := tables_zeroMapWrite _ (128 * line) (tables_captureLineFor w .c1 (128 * line) _ (tables_captureLineFor w .c0 (128 * line) s h))
  refine tables_setL2 _ _ ?_
  split
  · exact h1.withMem _ (Sparse.wf_write 0#8 _ _ _ h1.1)
  · exact h1

theorem tables_writePhys (w : Wr) (pa va : Nat) (bytes : List Byte) (s : State) (h : TablesCanonical s) : TablesCanonical (writePhys w pa va bytes s) := by
  unfold writePhys
  dsimp only
  split
  · exact h
  · exact foldl_keeps TablesCanonical _ (fun s _ hs => tables_writeLine _ _ _ _ _ s hs) _ s h

theorem tables_l2ToMem (s : State) (line : Nat) (h : TablesCanonical s) : TablesCanonical (l2ToMem s line) := by
  unfold l2ToMem
  split
  · split
    · exact h
    · exact tables_setL2 _ _ (h.withMem _ (Sparse.wf_write 0#8 _ _ _ h.1))
  · exact h

/-! ## Scratchpads -/

theorem tables_writeBank (w : Wr) (core bank off : Nat) (bytes : List Byte) (s : State) (h : TablesCanonical s) :
    TablesCanonical (writeBank w core bank off bytes s) := by
  unfold writeBank
  refine tables_patchFor _ _ _ _ _ _ _ _ (tables_patchFor _ _ _ _ _ _ _ _ ?_)
  have h1 := tables_captureUnit w (.bank core bank) s h
  exact h1.withScr _ (Sparse.wf_write 0#8 _ _ _ h1.2.1)

theorem tables_writeRange (w : Wr) (die range off : Nat) (bytes : List Byte) (s : State) (h : TablesCanonical s) :
    TablesCanonical (writeRange w die range off bytes s) := by
  unfold writeRange
  refine tables_patchFor _ _ _ _ _ _ _ _ (tables_patchFor _ _ _ _ _ _ _ _ ?_)
  have h1 := tables_captureUnit w (.range die range) s h
  exact h1.withDsc _ (Sparse.wf_write 0#8 _ _ _ h1.2.2.1)

theorem tables_zeroBank (s : State) (core idx : Nat) (h : TablesCanonical s) : TablesCanonical (zeroBank s core idx) :=
  h.withScr _ (Sparse.wf_clear 0#8 _ _ _ h.2.1)

/-! ## Registers -/

theorem tables_writeSpilled (s : State) (g : Gang) (l n : Nat) (v : Word) (m : Option (Option Addr)) (h : TablesCanonical s) :
    TablesCanonical (writeSpilled s g l n v m) := tables_captureUnit _ _ s h

theorem tables_wrV (s : State) (g : Gang) (l n : Nat) (v : Word) (m : Option (Option Addr)) (h : TablesCanonical s) : TablesCanonical (wrV s g l n v m) := by
  unfold wrV
  split
  · split
    · exact tables_writeSpilled _ _ _ _ _ _ h
    · rename_i idx _ _
      split
      · exact h
      have h1 := tables_captureUnit (wrPost g.ctx) (.slice g.core g.part idx) s h
      exact h1.withVrf _ (Sparse.wf_set 0#32 _ _ _ h1.2.2.2.2.2.2)
  · exact h

theorem tables_zeroSlice (s : State) (core part idx : Nat) (h : TablesCanonical s) : TablesCanonical (zeroSlice s core part idx) :=
  h.withVrf _ (Sparse.wf_clear 0#32 _ _ _ h.2.2.2.2.2.2)

/-! ## Buffers and accumulators -/

theorem tables_writeRec (s : State) (r : RecRow) (o : Nat) (bytes : List Byte) (psn : List Nat) (h : TablesCanonical s) :
    TablesCanonical (writeRec s r o bytes psn) := by
  unfold writeRec
  dsimp only
  split
  · exact h.withWbuf _ (Memory.wf_foldl_setByte _ _ _ _ h.2.2.2.2.1)
  · exact h.withObuf _ (Memory.wf_foldl_setByte _ _ _ _ h.2.2.2.1)

theorem tables_zeroUnit (s : State) (wb : Bool) (core idx : Nat) (h : TablesCanonical s) : TablesCanonical (zeroUnit s wb core idx) := by
  unfold zeroUnit
  dsimp only
  split
  · exact h.withWbuf _ (Sparse.wf_clear 0#8 _ _ _ h.2.2.2.2.1)
  · exact h.withObuf _ (Sparse.wf_clear 0#8 _ _ _ h.2.2.2.1)

theorem tables_writeTile (s : State) (core bank half : Nat) (bytes : List Byte) (psn : List Nat) (h : TablesCanonical s) :
    TablesCanonical (writeTile s core bank half bytes psn) := h.withAcc _ (Memory.wf_foldl_setByte _ _ _ _ h.2.2.2.2.2.1)

theorem tables_zeroTile (s : State) (core bank half : Nat) (h : TablesCanonical s) : TablesCanonical (zeroTile s core bank half) :=
  h.withAcc _ (Sparse.wf_clear 0#8 _ _ _ h.2.2.2.2.2.1)

/-! ## A restoration's writes -/

theorem tables_rawWrite (s : State) (pa : Nat) (bytes : List Byte) (h : TablesCanonical s) : TablesCanonical (rawWrite s pa bytes) :=
  h.withMem _ (Sparse.wf_write 0#8 _ _ _ h.1)

theorem tables_rawClear (s : State) (pa n : Nat) (h : TablesCanonical s) : TablesCanonical (rawClear s pa n) :=
  h.withMem _ (Sparse.wf_clear 0#8 _ _ _ h.1)

theorem tables_reloadUnitBytes (s : State) (wb : Bool) (core idx : Nat) (bytes : List (Nat × Byte)) (psn : List Nat) (h : TablesCanonical s) :
    TablesCanonical (placeUnit wb core idx bytes psn s) := by
  have h1 := tables_zeroUnit s wb core idx h
  unfold placeUnit
  dsimp only
  split
  · exact h1.withWbuf _ (wf_putBytes _ _ _ h1.2.2.2.2.1)
  · exact h1.withObuf _ (wf_putBytes _ _ _ h1.2.2.2.1)

/-! ## After reset -/

/-- The memory after reset is in its form: nothing is listed. -/
theorem reset_mem_wf : Memory.wf State.reset.mem = true := rfl

end Sys2Proof.Machine
end

