-- ==== Sys2Proof/Tests/Slice0.lean ====
section
/-! SUPPORT. The model's own tests: ill-formed terms that WellFormed refuses, words written out from the manual's encoding tables, figures of the
manual's worked examples, and for each obligation with hypotheses states and operands that meet them. -/

open Sys2Proof
open Sys2Proof.Machine
open Host (Outcome)

set_option maxRecDepth 100000
set_option Elab.async false

namespace Sys2Proof.Tests

/-! ## Words (04_encoding R84, 05_opcode_map R95 to R110): d = 4, A = v1 (0x001), B = k2 (0x102) in format VV -/

/-- Format VV, integer words. -/
theorem test_decode_vv_integer : ∀ e ∈ ([(0x01100302, .iadd 4 (.vec 0 1) (.uni 2)), (0x02100302, .isub 4 (.vec 0 1) (.uni 2)), (0x03100302, .imul 4 (.vec 0 1) (.uni 2)),
    (0x04100302, .imulhs 4 (.vec 0 1) (.uni 2)), (0x05100302, .imulhn 4 (.vec 0 1) (.uni 2)), (0x06100302, .imad 4 (.vec 0 1) (.uni 2)),
    (0x07100302, .imins 4 (.vec 0 1) (.uni 2)), (0x08100302, .iminn 4 (.vec 0 1) (.uni 2)), (0x09100302, .imaxs 4 (.vec 0 1) (.uni 2)),
    (0x0A100302, .imaxn 4 (.vec 0 1) (.uni 2)), (0x0B100302, .and 4 (.vec 0 1) (.uni 2)), (0x0C100302, .or 4 (.vec 0 1) (.uni 2)),
    (0x0D100302, .xor 4 (.vec 0 1) (.uni 2)), (0x0E100302, .andn 4 (.vec 0 1) (.uni 2)), (0x0F100302, .shl 4 (.vec 0 1) (.uni 2)),
    (0x10100302, .shr 4 (.vec 0 1) (.uni 2)), (0x11100302, .sar 4 (.vec 0 1) (.uni 2)), (0x12100302, .rot 4 (.vec 0 1) (.uni 2)),
    (0x13100302, .bfe 4 (.vec 0 1) (.uni 2)), (0x14100302, .bfi 4 (.vec 0 1) (.uni 2))] : List (BitVec 32 × Instr)), decode e.1 = .ok e.2 := by
  decide +kernel

/-- Format VV, float, packed, LNS6 and crossbar words; RAND's d is even. -/
theorem test_decode_vv_float_packed : ∀ e ∈ ([(0x18100302, .fadd 4 (.vec 0 1) (.uni 2)), (0x19100302, .fsub 4 (.vec 0 1) (.uni 2)),
    (0x1A100302, .fmul 4 (.vec 0 1) (.uni 2)), (0x1B100302, .ffma 4 (.vec 0 1) (.uni 2)), (0x1C100302, .fmin 4 (.vec 0 1) (.uni 2)),
    (0x1D100302, .fmax 4 (.vec 0 1) (.uni 2)), (0x1E100302, .hadd 4 (.vec 0 1) (.uni 2)), (0x1F100302, .hmul 4 (.vec 0 1) (.uni 2)),
    (0x20100302, .hfma 4 (.vec 0 1) (.uni 2)), (0x21100302, .badd 4 (.vec 0 1) (.uni 2)), (0x22100302, .bmul 4 (.vec 0 1) (.uni 2)),
    (0x23100302, .bfma 4 (.vec 0 1) (.uni 2)), (0x24100302, .padd 4 (.vec 0 1) (.uni 2)), (0x25100302, .psub 4 (.vec 0 1) (.uni 2)),
    (0x26100302, .pmul 4 (.vec 0 1) (.uni 2)), (0x27280483, .pmac 10 (.vec 0 2) (.vec 2 3)), (0x28100302, .pshr 4 (.vec 0 1) (.uni 2)),
    (0x29100302, .pmin 4 (.vec 0 1) (.uni 2)), (0x2A100302, .pmax 4 (.vec 0 1) (.uni 2)), (0x2B100302, .ppack 4 (.vec 0 1) (.uni 2)),
    (0x2C100302, .lmul 4 (.vec 0 1) (.uni 2)), (0x3A100302, .slided 4 (.vec 0 1) (.uni 2)), (0x3B100302, .slideu 4 (.vec 0 1) (.uni 2)),
    (0x3C100302, .shfl 4 (.vec 0 1) (.uni 2)), (0x45100302, .rand 4 (.vec 0 1) (.uni 2))] : List (BitVec 32 × Instr)), decode e.1 = .ok e.2 := by
  decide +kernel

/-- Formats CMP, SEL and V1. -/
theorem test_decode_cmp_sel_v1 : ∀ e ∈ ([(0x30283388, .icmp 1 2 (.vec 0 25) (.imm 8)), (0x31280788, .fcmp 1 2 (.vec 0 3) (.imm 8)),
    (0x32280788, .hcmp 1 2 (.vec 0 3) (.imm 8)), (0x33140C3B, .sel 5 (.vec 0 6) 7 3), (0x34740207, .plog 3 5 1 7), (0x36140E00, .vunMov 5 (.vec 0 7)),
    (0x36140E01, .vunNot 5 (.vec 0 7)), (0x36140E02, .vunIneg 5 (.vec 0 7)), (0x36140E03, .vunIabs 5 (.vec 0 7)), (0x36140E04, .vunPopc 5 (.vec 0 7)),
    (0x36140E05, .vunClz 5 (.vec 0 7)), (0x36140E06, .vunCtz 5 (.vec 0 7)), (0x36140E07, .vunBrev 5 (.vec 0 7)), (0x36140E08, .vunBswap 5 (.vec 0 7)),
    (0x36140E10, .vunFrint 5 (.vec 0 7)), (0x36140E11, .vunFfloor 5 (.vec 0 7)), (0x36140E12, .vunFceil 5 (.vec 0 7)), (0x36140E13, .vunFtrunc 5 (.vec 0 7)),
    (0x37000C06, .cvt 0 3 0 (.vec 0 6)), (0x37000D20, .cvt 9 0 0 (.vec 0 6)), (0x38140E00, .xfnRcp 5 (.vec 0 7)), (0x38140E01, .xfnRsq 5 (.vec 0 7)),
    (0x38140E02, .xfnSqrt 5 (.vec 0 7)), (0x38140E03, .xfnExp2 5 (.vec 0 7)), (0x38140E04, .xfnLog2 5 (.vec 0 7)), (0x38140E05, .xfnSin 5 (.vec 0 7)),
    (0x38140E06, .xfnCos 5 (.vec 0 7)), (0x38140E07, .xfnTanh 5 (.vec 0 7)), (0x3D140E21, .red 1 2 5 (.vec 0 7)), (0x3E140E21, .scan 1 2 5 (.vec 0 7)),
    (0x3F542200, .voteAny 21 (.vec 0 17)), (0x3F140E01, .voteAll 5 (.vec 0 7)), (0x3F100E02, .voteBallot 4 (.vec 0 7)),
    (0x3F140E03, .voteCount 5 (.vec 0 7))] : List (BitVec 32 × Instr)), decode e.1 = .ok e.2 := by decide +kernel

/-- Format K, the layouts of R106, BR, and the control words of format T. -/
theorem test_decode_uniform_control : ∀ e ∈ ([(0x40048280, .kopMov 9 10), (0x40048281, .kopAdd 9 10), (0x40048282, .kopSub 9 10), (0x40048283, .kopMul 9 10),
    (0x40048284, .kopAnd 9 10), (0x40048285, .kopOr 9 10), (0x40048286, .kopXor 9 10), (0x40048287, .kopShl 9 10), (0x40048288, .kopShr 9 10),
    (0x40048289, .kopSar 9 10), (0x4004828A, .kopMins 9 10), (0x4004828B, .kopMinn 9 10), (0x4004828C, .kopMaxs 9 10), (0x4004828D, .kopMaxn 9 10),
    (0x40040290, .kopAdd64 8 10), (0x40040291, .kopMov64 8 10), (0x4104C0C0, .kmovK 9 (.uni 3)), (0x410480C1, .kmovV 9 (.vec 0 3)),
    (0x4204C3E8, .kliShort 9 1000), (0x42048002, .kliPimm 9 2), (0x43A00C00, .xset 5 (.vec 0 6)), (0x44A00C00, .xadd 5 (.vec 0 6)),
    (0x48EFFFFD, .bra 7 false 1048573), (0x48500005, .bra 2 true 5), (0x49050000, .brx 10), (0x4A500005, .call 2 true 5), (0x4B000006, .ret 6),
    (0x4C000003, .join 3), (0x4D00000B, .leave 11), (0x4E000003, .waitm 3), (0x4F000000, .yieldW), (0x50000000, .serb), (0x51000000, .sere),
    (0x52048001, .elect 9 1), (0x53000000, .exitW), (0x54060003, .trap 12 3), (0x55000000, .tret), (0x5603FFFF, .wait 0 63 63 63), (0x00ABCDEF, .nop 0xABCDEF),
    (0x46000000, .reservedMajor 0x46 0), (0xFF480000, .mod { plainMod with pred := 2, sat := true }), (0x7FE00900, .mod { plainMod with scale := 9 })] :
    List (BitVec 32 × Instr)), decode e.1 = .ok e.2 := by decide +kernel

def tMem (d : BitVec 6) (a : Src) (w sc : BitVec 3) (sp : BitVec 2) (off : Bool) : MemFields := { d := d, addr := a, width := w, scope := sc, space := sp, off := off }

def tAtom : AtomFields := { d := 10, addr := .vec 0 2, wide := false, scope := 5, sp := false }

/-- Formats MEM, ATOM and CPY, and FENCE. -/
theorem test_decode_memory : ∀ e ∈ ([(0x58260911, .ld (tMem 9 (.uni 4) 4 2 0 true)), (0x59060D28, .st (tMem 1 (.uni 6) 4 5 0 false)),
    (0x5A100506, .ldl (tMem 4 (.vec 0 2) 4 0 3 false)), (0x5B100140, .psh 4 5), (0x5C100140, .pop 4 5), (0x5D28040A, .atomAdd tAtom), (0x5D28042A, .atomMins tAtom),
    (0x5D28044A, .atomMinn tAtom), (0x5D28046A, .atomMaxs tAtom), (0x5D28048A, .atomMaxn tAtom), (0x5D2804AA, .atomAnd tAtom), (0x5D2804CA, .atomOr tAtom),
    (0x5D2804EA, .atomXor tAtom), (0x5D28050A, .atomExch tAtom), (0x5D28052A, .atomCas tAtom), (0x5D28054A, .atomFadd tAtom), (0x5D28056A, .atomFmin tAtom),
    (0x5D28058A, .atomFmax tAtom), (0x5E28044A, .redm 2 tAtom), (0x5F0000C7, .fence 3 7), (0x5F0001C2, .fence 7 2), (0x60020800, .clineWb (.uni 4) false),
    (0x60000C40, .clineWbi (.vec 0 6) false), (0x60020881, .clineMem (.uni 4) true), (0x62000C29, .zfill (.vec 0 6) 5 0 true),
    (0x6118110B, .cpy { s := 6, addr := .vec 0 8, size := 2, ss := 0, ds := 1, h := 3 })] : List (BitVec 32 × Instr)), decode e.1 = .ok e.2 := by decide +kernel

/-- The words of R232, of R326 and of R337. -/
theorem test_decode_tiles_sync_system : ∀ e ∈ ([(0x64050500, .obres 10 20 false), (0x65050000, .obrel 10), (0x66050600, .obld 10 24 0 false), (0x67058700, .wbld 11 28 0),
    (0x680F0002, .acalloc 30 2), (0x690F0000, .acfree 30), (0x6A140000, .mma 40 false), (0x6B100880, .acmovTogl 32 34 false), (0x6B100885, .acmovTosp 32 34 true),
    (0x6B100882, .acmovFromsp 32 34), (0x6B100883, .acmovToreg 32 34 false), (0x6C060000, .twset 12 false), (0x6D070000, .tldw 14), (0x6E000005, .tlnch 5),
    (0x6F000006, .tcapt 6), (0x70000000, .trst), (0x70000001, .trstRel), (0x710F07DB, .balloc 30 31 3 3), (0x720F0000, .bfree 30),
    (0x730F0804, .barvArrive 30 32 true), (0x730F0000, .barvArrive 30 0 false), (0x730F0805, .barvNoarr 30 32), (0x730F0806, .barvDrop 30 32 true),
    (0x740F0844, .bwait 30 33 4), (0x75140A80, .ringCreate 40 42), (0x75140001, .ringRel 40), (0x76140B00, .rawait 40 44), (0x77140000, .rrel 40),
    (0x78048000, .csrr 9 0), (0x78048870, .csrr 9 270), (0x790A0011, .csrwWrite 20 2), (0x79048002, .csrwSet 9 0), (0x79048003, .csrwClr 9 0),
    (0x790480BC, .csrwSwap 9 23), (0x7A0A0581, .snap 20 22 1), (0x7B0C068A, .snapq 24 26 2 true)] : List (BitVec 32 × Instr)), decode e.1 = .ok e.2 := by
  decide +kernel

/-- Source fields of R79: each kind of the table, and the reserved pattern. -/
theorem test_decode_sources : decode 0x01100D02 = .ok (.iadd 4 (.vec 0 6) (.uni 2)) ∧ decode 0x01100C41 = .ok (.iadd 4 (.vec 0 6) (.vec 1 1)) ∧
    decode 0x011003A0 = .ok (.iadd 4 (.vec 0 1) (.imm 0x20)) ∧ decode 0x011003CA = .ok (.iadd 4 (.vec 0 1) (.spec 10)) ∧
    decode 0x011003E5 = .ok (.iadd 4 (.vec 0 1) (.ind 2 true)) ∧ decode 0x011003F3 = .ok (.iadd 4 (.vec 0 1) (.rsvd 3)) := by decide +kernel

/-- Reserved codes and fields (R96, R97): XFN function 8, a nonzero reserved field of SERE, CVT to its own type, MODE 11 of BARV. -/
theorem test_decode_refuses : decode 0x38140E08 = .error .reservedCode ∧ decode 0x51000001 = .error .reservedField ∧ decode 0x37000C00 = .error .badField ∧
    decode 0x730F0003 = .error .reservedCode := by decide +kernel

/-! ## Ill-formed terms -/

/-- One word outside what its description accepts, for each check of `wordOk`. -/
theorem test_wf_words : ∀ i ∈ [Instr.icmp 7 0 (.uni 0) (.uni 0), .fcmp 7 0 (.uni 0) (.uni 0), .hcmp 7 0 (.uni 0) (.uni 0), .plog 7 0 0 0, .cvt 3 3 0 (.uni 0), .cvt 9 3 0 (.uni 0),
    .cvt 10 0 0 (.uni 0), .red 6 0 0 (.uni 0), .red 3 0 0 (.uni 0), .scan 0 6 0 (.uni 0), .voteBallot 1 (.uni 0), .rand 1 (.uni 0) (.uni 0), .kmovK 0 (.vec 0 0), .kmovV 0 (.uni 0),
    .join 12, .leave 12, .waitm 12, .elect 0 7, .ld (tMem 0 (.uni 0) 4 0 3 false), .ld (tMem 1 (.uni 0) 5 0 0 false), .st (tMem 2 (.uni 0) 6 0 0 false),
    .st (tMem 0 (.uni 0) 4 0 3 false), .ldl (tMem 0 (.uni 0) 4 0 0 false), .ldl (tMem 0 (.uni 0) 7 0 3 false), .psh 0 3, .psh 0 7, .pop 1 5, .atomAdd { tAtom with d := 1, wide := true },
    .atomMins { tAtom with d := 1, wide := true }, .atomMinn { tAtom with d := 1, wide := true }, .atomMaxs { tAtom with d := 1, wide := true },
    .atomMaxn { tAtom with d := 1, wide := true }, .atomAnd { tAtom with d := 1, wide := true }, .atomOr { tAtom with d := 1, wide := true },
    .atomXor { tAtom with d := 1, wide := true }, .atomExch { tAtom with d := 1, wide := true }, .atomCas { tAtom with d := 1 }, .atomCas { tAtom with d := 2, wide := true },
    .atomFadd { tAtom with wide := true }, .atomFmin { tAtom with wide := true }, .atomFmax { tAtom with wide := true }, .redm 13 tAtom, .redm 9 tAtom,
    .redm 10 { tAtom with wide := true }, .zfill (.uni 0) 0 3 false, .cpy { s := 0, addr := .uni 0, size := 3, ss := 0, ds := 0, h := 0 },
    .cpy { s := 0, addr := .uni 0, size := 0, ss := 0, ds := 3, h := 0 }, .wbld 0 0 3, .acalloc 0 0, .acalloc 0 17, .balloc 0 0 4 0, .balloc 0 0 2 7, .barvArrive 0 1 false,
    .barvDrop 0 1 false, .snap 0 0 7, .reservedMajor 0x18 0], i.wf = false := by decide +kernel

def tPkt (cls : BitVec 4) (src dst : Nat) : Packet := { seq := 0, stamp := 0, src := src, dst := dst, cls := cls, len := 0, addr := 0, body := .none }

def tFw : FwImage := { bytes := [1], key := [], sig := [] }

def tGrp : GroupWrite := { desc := 0, array := [], agreed := true }

/-- Events whose names lie outside their ranges, one for each check of `eventOk` and of the range tests under it. -/
theorem test_wf_events : ∀ i ∈ [Instr.createContext 17 { id := 1, fn := 0, root := 0, trapvec := 0, group := 0, right := false, rate := 0, windows := [] },
    .createContext 0 { id := 0, fn := 0, root := 0, trapvec := 0, group := 0, right := false, rate := 0, windows := [] },
    .createContext 0 { id := 1, fn := 0, root := 0, trapvec := 0, group := 256, right := false, rate := 0, windows := [] }, .removeContext 0 65536,
    .createQueue 0 { vf := 0, num := 64, ctx := 1, base := 0, slots := 16 }, .removeQueue 0 0 64, .enableQueue 17 0 0, .disableQueue 0 17 0,
    .writePodMap 0 [{ lid := 2048, phys := 0, st := .live, pdom := 0, sgrp := 0, epoch := 0 }] 0, .writeGroupDescriptor 0 4096 tGrp,
    .writeGroupDescriptor 0 0 { tGrp with array := List.replicate 2049 0 }, .setSnapshotGroup 0 1 256 { held := false, rate := 0 },
    .setFirmwarePolicy 0 .scrubPass 17 1, .loadSparImage 0 0 tFw, .mastheadHandover 17 tFw, .readAttestationReport 17 0, .kill 17 3, .hostSnapshotRequest 0 1 256 0,
    .invalidateTranslation 0 0 0, .invalidationComplete 0 0, .walkComplete 1 { core := 0, page := 17592186044416 }, .walkComplete 1 { core := 160, page := 0 }, .queueScan 0 64, .recordAccept 17 0, .spliceDecide 0 64,
    .placeBlock 1 { cores := [160] }, .scratchpadShrink 0 12, .sliceClaim (.slice 0 16 0), .sliceClaim (.bank 0 192), .sliceClaim (.obuf 0 256), .sliceClaim (.wbuf 0 256),
    .sliceClaim (.acc 0 16), .sliceClaim (.array 160), .resumeBlock 2 { cores := [160] }, .ownerChangeZero (.page 1 0 4096) 1, .ownerChangeZero (.bank 160 0) 1,
    .ownerChangeZero (.range 4 0) 1, .ownerChangeZero (.slice 0 0 128) 1, .ownerChangeZero (.obuf 0 256) 1, .ownerChangeZero (.wbuf 0 256) 1, .ownerChangeZero (.acc 0 16) 1,
    .readRequest (tPkt 1 0 0), .readData (tPkt 0 0 0), .ownershipRequest (tPkt 3 0 0), .ownershipGrant (tPkt 2 0 0), .storeData (tPkt 4 2048 0), .invalidation (tPkt 5 0 2048),
    .acknowledgement { tPkt 6 0 0 with len := 5 }, .atomicRequest { tPkt 7 0 0 with addr := 2 ^ 56 }, .multicastStore (tPkt 9 0 0), .multicastLoad (tPkt 8 0 0),
    .promotionRequest (tPkt 11 0 0), .telltale (tPkt 10 0 0), .collectiveStep (tPkt 13 0 0), .reservedClassPacket (tPkt 12 0 0), .halyardSweep .c0 (.line 0 0),
    .halyardSweep .c0 (.bank 0 192), .halyardSweep .c0 (.range 4 0), .halyardSweep .c0 (.slice 0 0 128), .halyardSweep .c0 (.l1 160 0), .captureQueueRoom 4 .c0, .freeAck .c0 2048,
    .linkDetectionTimeout 2048, .markPackageFailed 2048, .startRestoration 0 { group := 0, id := 0, lid := 2048, targets := [], answer := none }, .hbmScrub 8, .hbmCalibration 8, .portRetrain 32,
    .hostPcieWrite 17 1 0 [], .groupStateQuery { member := 2048, tok := 0 } .c0, .rootDigestReport .c0 2048 0 false], i.wf = false := by decide +kernel

end Sys2Proof.Tests

namespace Sys2Proof.Tests

/-! ## Small states -/

/-- Gang 3 of the program load: core 0, eight lanes, one bank. -/
def tGang : Gang := newGang programLaunch programBlock 3 0 0 (0, [0]) false

def tBase : State := programLoaded State.reset

/-- Its first bundle, every lane issuing; the checks of R88 still to come. -/
def tIss : State := { tBase with cur := { Issue.none with gid := 3, busy := true, pc := programEntry, lanes := 0xFF } }

/-- The same with gang `g` in its place, after the checks. -/
def tWith (g : Gang) : State := { tIss with gangs := [g], cur := { tIss.cur with checked := true } }

def tRunsB (s : State) (g : Gang) (m : ModFields) (act : LaneMask) (i : Instr) : Bool :=
  decide (curGang s = some g) && decide (m = s.cur.mod.getD plainMod) && decide (act = activeOf g s.cur.lanes (some i) s.cur.mod) && decide (act ≠ 0) &&
    (s.cur.checked || decide (fullChk s g i = .ok))

theorem runs_of {s : State} {g : Gang} {m : ModFields} {act : LaneMask} {i : Instr} (h : tRunsB s g m act i = true) : Runs s g i m act := by
  simpa [tRunsB, Runs, and_assoc] using h

theorem runs_all {s : State} {g : Gang} {m : ModFields} {act : LaneMask} (l : List Instr) (h : l.all (tRunsB s g m act) = true) : ∀ i ∈ l, Runs s g i m act :=
  fun i hi => runs_of (List.all_eq_true.mp h i hi)

theorem some_all {α β : Type} (f : α → Option β) (l : List α) (h : l.all (fun i => (f i).isSome) = true) : ∀ i ∈ l, ∃ r, f i = some r :=
  fun i hi => Option.isSome_iff_exists.mp (List.all_eq_true.mp h i hi)

/-! ## Figures of lane words: what one word leaves pending in lane 0, with uniforms k0, k1, ... and MOD fields -/

def tDue (ks : List (Nat × Word)) (vrf : List (Nat × Word)) (m : ModFields) (lanes : LaneMask) (i : Instr) : Option (List Pend) :=
  let g := { tGang with k := ks }
  match exec i { tIss with gangs := [g], vrf := vrf, cur := { tIss.cur with checked := true, lanes := lanes, mod := some m } } with
  | .next t => (gangOf t 3).map (fun x => x.pend)
  | _ => none

def tV (l n : Nat) (vis : Nat) (v : Word) : Pend := { vis := vis, act := .write (.v l n) v }

def tF (vis : Nat) (f : Word) : Pend := { vis := vis, act := .flags f }

/-- R128, worked figures: IMULHS and IMULHN of 0x80000000 and 2. -/
theorem test_imulh : tDue [(0, 0x80000000), (1, 2)] [] plainMod 1 (.imulhs 5 (.uni 0) (.uni 1)) = some [tV 0 5 6 0xFFFFFFFF] ∧
    tDue [(0, 0x80000000), (1, 2)] [] plainMod 1 (.imulhn 5 (.uni 0) (.uni 1)) = some [tV 0 5 6 1] := by decide +kernel

/-- R128, worked figures: IADD.sat, IADD, IADD.absa. -/
theorem test_iadd : tDue [(0, 0x7FFFFFF0), (1, 0x20)] [] { plainMod with sat := true } 1 (.iadd 5 (.uni 0) (.uni 1)) = some [tV 0 5 4 0x7FFFFFFF, tF 4 flSAT] ∧
    tDue [(0, 0x7FFFFFF0), (1, 0x20)] [] plainMod 1 (.iadd 5 (.uni 0) (.uni 1)) = some [tV 0 5 4 0x80000010] ∧
    tDue [(0, 0x80000000), (1, 0)] [] { plainMod with absa := true } 1 (.iadd 5 (.uni 0) (.uni 1)) = some [tV 0 5 4 0x80000000] := by decide +kernel

/-- 07_isa_lane, a scaled PMAC: v10 = 1,000, (300, -200) and (100, 50) under .sclm7 give 164; v10 of lane 0 stands at word 80 of its slice. -/
theorem test_pmac : tDue [(0, 0xFF38012C), (1, 0x00320064)] [(80, 1000)] { plainMod with scale := 9 } 1 (.pmac 10 (.uni 0) (.uni 1)) = some [tV 0 10 4 164] := by decide +kernel

/-- 07_isa_lane, the fold order: SCAN.add.f32 of 1, 2^24, 1, -2^24 gives 1, 2^24, 2^24, +0 with NX; RED writes +0 to all four. -/
theorem test_fold_order :
    tDue [] [(48, 0x3F800000), (49, 0x4B800000), (50, 0x3F800000), (51, 0xCB800000)] plainMod 15 (.scan 0 2 7 (.vec 0 6)) =
      some [tV 0 7 10 0x3F800000, tV 1 7 10 0x4B800000, tV 2 7 10 0x4B800000, tV 3 7 10 0, tF 10 flNX] ∧
    tDue [] [(48, 0x3F800000), (49, 0x4B800000), (50, 0x3F800000), (51, 0xCB800000)] plainMod 15 (.red 0 2 7 (.vec 0 6)) =
      some [tV 0 7 10 0, tV 1 7 10 0, tV 2 7 10 0, tV 3 7 10 0, tF 10 flNX] := by decide +kernel

/-- 02_execution, shadow reads and a drain: v4 = 100, IMUL due at 206, IADD at 205: 100 before, 8 at 205, 35 at 206 and after a drain. -/
theorem test_shadow :
    let g := { tGang with tick := 202, pend := [tV 0 4 206 35, tV 0 4 205 8] }
    let s := { tWith g with vrf := [(32, 100)] }
    rdV (retire s 3 204) g 0 4 = 100 ∧ rdV (retire s 3 205) g 0 4 = 8 ∧ rdV (retire s 3 206) g 0 4 = 35 ∧ rdV (drain s 3) g 0 4 = 35 := by decide +kernel

/-- 11_isa_memory, cas in lane order: x = 5 and the pairs (5, 6), (5, 7), (6, 9), (9, 1): x ends as 1. -/
theorem test_cas_order : [(5, 6), (5, 7), (6, 9), (9, 1)].foldl (fun (v : Word) e => atomNew32 9 v e) 5 = 1 ∧
    [(5, 6), (5, 7), (6, 9)].foldl (fun (v : Word) e => atomNew32 9 v e) 5 = 9 := by decide +kernel

/-- R139, R58, R60, figures: with B = 12 and E = 0 in k125, 20.0 becomes element 0b001100 with SAT and NX; that element decodes to 8.0. -/
theorem test_cvt_l6 : tDue [(0, 0x41A00000), (125, 0xC00)] [] plainMod 1 (.cvt 0 9 5 (.uni 0)) = some [tV 0 5 6 0b001100, tF 6 (flSAT ||| flNX)] ∧
    tDue [(0, 0b001100), (125, 0xC00)] [] plainMod 1 (.cvt 9 0 5 (.uni 0)) = some [tV 0 5 6 0x41000000] := by decide +kernel

/-- R134, figures: elements 6 and 7 give 13; -9 and -8 (0x17, 0x18) give zero with UF and NX. -/
theorem test_lmul : lmulElem 6 7 = { bits := 13, flags := 0 } ∧ lmulElem 0x17 0x18 = { bits := 0x10, flags := flUF ||| flNX } := by decide +kernel

/-- R67, figures: with window 20, codes 5, 9, 255 and weights 12, 14, 3 give 17, 255, 255. -/
theorem test_tick_add : tickAdd 5 12 20 = 17 ∧ tickAdd 9 14 20 = 255 ∧ tickAdd 255 3 20 = 255 := by decide +kernel

/-- R54, figures: 1,000,000 at scale -15 is 31, -49,152 is -1, and so is 49,152 under .neg. -/
theorem test_finish_scale : finishInt 32 true { finPlain with scale := -15 } 1000000 = { bits := 31, flags := 0 } ∧
    finishInt 32 true { finPlain with scale := -15 } (-49152) = { bits := 0xFFFFFFFF, flags := 0 } ∧
    finishInt 32 true { finPlain with scale := -15, neg := true } 49152 = { bits := 0xFFFFFFFF, flags := 0 } := by decide +kernel

/-- 06_registers, two writers of GSTAT: a clear of NX due at 302 and a set due at 304. -/
theorem test_gstat_writers :
    let s := tWith { tGang with csr := { tGang.csr with gstat := flNX }, pend := [tF 304 flNX, { vis := 302, act := .write (.csr 0) 0 }] }
    (gangOf (retire s 3 301) 3).map (fun g => g.csr.gstat) = some flNX ∧ (gangOf (retire s 3 303) 3).map (fun g => g.csr.gstat) = some 0 ∧
      (gangOf (retire s 3 304) 3).map (fun g => g.csr.gstat) = some flNX ∧ (gangOf (drain s 3) 3).map (fun g => g.csr.gstat) = some flNX := by decide +kernel

/-- 06_registers, reading through a slice map: v37 of lane 21 is row 5, lane 5 of slice 3. v48 has no place. -/
theorem test_slice_map :
    let g := { tGang with part := 5, width := 32, banks := 3, smap := [[4, 5, 6, 7], [90, 12, 13, 41], [100, 101, 3, 127]] }
    vKey g 21 37 = some (((0 * 16 + 5) * 128 + 3) * 128 + 5 * 8 + 5) ∧ vKey g 0 48 = none := by decide +kernel

/-- SHA-256 (16_snapshot R318) of the three bytes of "abc", the worked example of its standard, FIPS 180-4. -/
theorem test_sha : sha256 [0x61, 0x62, 0x63] = 0xBA7816BF8F01CFEA414140DE5DAE2223B00361A396177A9CB410FF61F20015AD := by decide +kernel

/-- 10_consistency, aggregated fmin: the old values and the last value of both groups. -/
theorem test_fmin_groups : atomNew32 11 0 (0x80000000, 0) = 0x80000000 ∧ atomNew32 11 0x80000000 (0x7FC00000, 0) = 0x80000000 ∧
    atomNew32 11 0x7FA00001 (0x40200000, 0) = 0x40200000 ∧ atomNew32 11 0x40200000 (0xFFC01234, 0) = 0x40200000 := by decide +kernel

end Sys2Proof.Tests

namespace Sys2Proof.Tests

/-! ## Hypotheses met: words of the lanes -/

def tD : BitVec 6 := 4
def tA : Src := .vec 0 1
def tB : Src := .uni 2

def tIntegers : List Instr :=
  [.iadd tD tA tB, .isub tD tA tB, .imul tD tA tB, .imulhs tD tA tB, .imulhn tD tA tB, .imad tD tA tB, .imins tD tA tB, .iminn tD tA tB, .imaxs tD tA tB,
   .imaxn tD tA tB, .and tD tA tB, .or tD tA tB, .xor tD tA tB, .andn tD tA tB, .shl tD tA tB, .shr tD tA tB, .sar tD tA tB, .rot tD tA tB, .bfe tD tA tB, .bfi tD tA tB]

def tFloats : List Instr :=
  [.fadd tD tA tB, .fsub tD tA tB, .fmul tD tA tB, .ffma tD tA tB, .fmin tD tA tB, .fmax tD tA tB, .hadd tD tA tB, .hmul tD tA tB, .hfma tD tA tB, .badd tD tA tB,
   .bmul tD tA tB, .bfma tD tA tB, .xfnRcp tD tA, .xfnRsq tD tA, .xfnSqrt tD tA, .xfnExp2 tD tA, .xfnLog2 tD tA, .xfnSin tD tA, .xfnCos tD tA, .xfnTanh tD tA]

def tPacked : List Instr :=
  [.padd tD tA tB, .psub tD tA tB, .pmul tD tA tB, .pmac tD tA tB, .pshr tD tA tB, .pmin tD tA tB, .pmax tD tA tB, .ppack tD tA tB, .lmul tD tA tB, .vunMov tD tA,
   .vunNot tD tA, .vunIneg tD tA, .vunIabs tD tA, .vunPopc tD tA, .vunClz tD tA, .vunCtz tD tA, .vunBrev tD tA, .vunBswap tD tA, .vunFrint tD tA, .vunFfloor tD tA,
   .vunFceil tD tA, .vunFtrunc tD tA, .sel tD tA 7 3, .cvt 0 3 tD tA]

def tCross : List Instr := [.slided tD tA tB, .slideu tD tA tB, .shfl tD tA tB]

/-- Every word of the tables runs in the fresh gang's first bundle, its checks passed. -/
theorem witness_IntegerWordsDeliver : ∀ i ∈ tIntegers, Runs tIss tGang i plainMod 0xFF ∧ ∃ r, integerRule i = some r :=
  fun i hi => ⟨runs_all tIntegers (by decide +kernel) i hi, some_all integerRule tIntegers (by decide +kernel) i hi⟩

theorem witness_FloatWordsDeliver : ∀ i ∈ tFloats, Runs tIss tGang i plainMod 0xFF ∧ ∃ r, floatRule i = some r :=
  fun i hi => ⟨runs_all tFloats (by decide +kernel) i hi, some_all floatRule tFloats (by decide +kernel) i hi⟩

/-- The words, and operands of every class that conversions tell apart. -/
theorem witness_PackedAndUnaryWordsDeliver : (∀ i ∈ tPacked, Runs tIss tGang i plainMod 0xFF ∧ ∃ r, packedRule i = some r) ∧
    (∀ c ∈ floatTypes, magOf c.2 1 < fmtInf c.2 ∧ 0 < magOf c.2 1 ∧ magOf c.2 (fmtInf c.2 - 1) < fmtInf c.2 ∧ magOf c.2 0 = 0 ∧ magOf c.2 (fmtInf c.2) = fmtInf c.2 ∧
      isNaN c.2 (fmtInf c.2 + 1) = true ∧ fmtInf c.2 + 1 < 2 ^ fmtWidth c.2) ∧
    (finPlain.neg = false ∧ finPlain.clamp = 0 ∧ finPlain.mode < 4 ∧ finPlain.scale = 0 ∧ 3 < 4) ∧ (∃ c ∈ floatTypes, ∃ d ∈ floatTypes, c.1 ≠ d.1) ∧
    (∃ c ∈ intTypes, ∃ d ∈ intTypes, c.1 ≠ d.1) ∧ (∀ c ∈ intTypes, intIn c.2.1 c.2.2 0 = 0 ∧ intIn c.2.1 c.2.2 0xFFFFFFFF ≠ 0) ∧
    (∀ y ∈ [(0x11 : BitVec 6), 0x1F, 0, 0x3F], y ≠ 0x10#6 ∧ y ≠ 0x30#6) :=
  ⟨fun i hi => ⟨runs_all tPacked (by decide +kernel) i hi, some_all packedRule tPacked (by decide +kernel) i hi⟩, by decide +kernel⟩

theorem witness_CrossLaneWordsDeliver : (∀ i ∈ tCross, Runs tIss tGang i plainMod 0xFF ∧ ∃ r, crossRule i = some r) ∧
    ∀ i ∈ [Instr.voteAny tD tA, .voteAll tD tA, .voteCount tD tA, .voteBallot tD tA], Runs tIss tGang i plainMod 0xFF :=
  ⟨fun i hi => ⟨runs_all tCross (by decide +kernel) i hi, some_all crossRule tCross (by decide +kernel) i hi⟩, runs_all _ (by decide +kernel)⟩

theorem witness_FoldWordsDeliver : ∀ i ∈ [Instr.red 0 2 tD tA, .scan 5 1 tD tA], Runs tIss tGang i plainMod 0xFF := runs_all _ (by decide +kernel)

theorem witness_PredicateAndRandomWordsDeliver :
    ∀ i ∈ [Instr.icmp 6 7 tA tB, .fcmp 0 6 tA tB, .hcmp 1 7 tA tB, .plog 6 5 1 7, .elect 9 1, .rand 4 (.vec 0 2) (.vec 0 6)], Runs tIss tGang i plainMod 0xFF :=
  runs_all _ (by decide +kernel)

theorem witness_UniformWordsDeliver :
    (∀ i ∈ [Instr.kopMov 9 10, .kopAdd 9 10, .kopSub 9 10, .kopMul 9 10, .kopAnd 9 10, .kopOr 9 10, .kopXor 9 10, .kopShl 9 10, .kopShr 9 10, .kopSar 9 10, .kopMins 9 10,
      .kopMinn 9 10, .kopMaxs 9 10, .kopMaxn 511 0], Runs tIss tGang i plainMod 0xFF ∧ ∃ r, kopRule i = some r) ∧
    ∀ i ∈ [Instr.kopAdd64 8 10, .kopMov64 510 10, .kmovK 9 (.imm 3), .kmovV 9 (.vec 0 3), .kliShort 9 8191, .kliPimm 9 3, .xset 7 tA, .xadd 0 tA],
      Runs tIss tGang i plainMod 0xFF :=
  ⟨fun i hi => ⟨runs_all _ (by decide +kernel) i hi, some_all kopRule _ (by decide +kernel) i hi⟩, runs_all _ (by decide +kernel)⟩

/-- The last and the first bit; the least and the greatest value that .sat changes, and the bounds that it keeps; each case of the LNS6 product at its edge. -/
theorem witness_IntegerAndLnsArithmetic : (31 < 32 ∧ 0 < 1) ∧ ((-0x80000001 : Int) < -2 ^ 31 ∧ (2 ^ 31 - 1 : Int) < 0x80000000 ∧ (-2 ^ 31 : Int) ≤ -0x80000000 ∧
      (0x7FFFFFFF : Int) ≤ 2 ^ 31 - 1) ∧ (0x30 < 64 ∧ 0x10 < 64 ∧ 63 < 64) ∧
    (∀ e ∈ ([(0x11, 0x1F, -16), (1, 15, 16), (0x11, 0, -15), (0, 15, 15)] : List (Nat × Nat × Int)), e.1 < 64 ∧ e.2.1 < 64 ∧ e.1 ≠ 0x30 ∧ e.2.1 ≠ 0x30 ∧ e.1 ≠ 0x10 ∧
      e.2.1 ≠ 0x10 ∧ (BitVec.ofNat 5 e.1).toInt + (BitVec.ofNat 5 e.2.1).toInt = e.2.2) := by decide +kernel

theorem witness_FloatRoundingAndSpecials :
    (∀ e ∈ [(fmtF32, 1), (fmtF32, 0x7F800000), (fmtF16, 0x03FF), (fmtBf16, 0x8000)], e.2 < 2 ^ fmtWidth e.1 ∧ isNaN e.1 e.2 = false) ∧
    (∀ e ∈ [(fmtF32, 0x7F800001, 0xFFC00000), (fmtF16, 0x7C01, 0xFE00), (fmtBf16, 0x7F81, 0xFFC0)],
      isNaN e.1 e.2.1 = true ∧ isNaN e.1 e.2.2 = true ∧ e.2.1 < 2 ^ fmtWidth e.1 ∧ e.2.2 < 2 ^ fmtWidth e.1) ∧
    (magOf fmtF32 0x7F800000 = fmtInf fmtF32 ∧ magOf fmtF32 0xFF800000 = fmtInf fmtF32 ∧ signOf fmtF32 0x7F800000 ≠ signOf fmtF32 0xFF800000) ∧
    (magOf fmtF16 0xFC00 = fmtInf fmtF16 ∧ magOf fmtF16 0x8000 = 0) ∧ (isNaN fmtBf16 0x7F81 = true ∧ isNaN fmtBf16 0x3F80 = false) ∧
    (magOf fmtF32 0xFF7FFFFF < fmtInf fmtF32 ∧ magOf fmtBf16 0x8000 < fmtInf fmtBf16 ∧ (-1 : Int) ≠ 0) := by decide +kernel

theorem witness_TranscendentalSpecialCases : (∀ x ∈ [0x7F800001, 0xFFFFFFFF], isNaN fmtF32 x = true ∧ x < 2 ^ 32) ∧ 7 < 8 ∧
    (∀ x ∈ [0x80000001, 0xFF7FFFFF], 0x80000000 < x ∧ x < 0xFF800000) ∧ (∀ x ∈ [1, 0xFF7FFFFF], 0 < magOf fmtF32 x ∧ magOf fmtF32 x < 0x7F800000 ∧ x < 2 ^ 32) ∧
    (signOf fmtF32 0x40000000 = false ∧ (if signOf fmtF32 0xC0000000 then -1 else 1) * magVal fmtF32 (magOf fmtF32 0xC0000000) = ((-2 : Int) : ℚ) ∧
      magVal fmtF32 (magOf fmtF32 0x40000000) = (2 : ℚ) ^ (1 : Int)) := by decide +kernel

/-! ## Hypotheses met: operands, pending results, the end of a bundle -/

/-- The gang with uniform pair k4:k5 at `v`, an index register x2 of base 1, length 2, cursor 1 in every lane. -/
def tAddr (v : Word) : Gang :=
  { tGang with k := [(4, v)], lanes := List.replicate 8 { num := 0, pc := programEntry, st := .eligible, yield := false, x := [0, 0, 0x010201, 0, 0, 0, 0, 0], p := 0 } }

theorem witness_OperandAndAddressForms :
    ((tWith (tAddr 4)).cur.cons = false ∧ xCur (xReg (tAddr 4) 7 2) < xLen (xReg (tAddr 4) 7 2) ∧
      xBase (xReg (tAddr 4) 7 2) + xCur (xReg (tAddr 4) 7 2) < 16 * (tAddr 4).banks) ∧
    (let f := tMem 0 (.uni 4) 4 0 1 false
     let q := tMem 0 (.uni 4) 6 0 1 false
     let at_ := fun v => (memAddr (tWith (tAddr v)) (tAddr v) f.addr f.off 0).toNat
     f.space = 1#2 ∧ f.width ≠ 7#3 ∧ q.width ≠ 7#3 ∧ blockOf (tWith (tAddr 4)) (tAddr 4).blk = some programBlock ∧ 4096 * programBlock.banks.length < at_ 4093 + 4 ∧
       (at_ 4090 + 4 ≤ 4096 * programBlock.banks.length ∧ at_ 4090 % 4 ≠ 0) ∧ (at_ 4092 + 4 ≤ 4096 * programBlock.banks.length ∧ at_ 4092 % 4 = 0) ∧
       (at_ 4080 + 16 ≤ 4096 * programBlock.banks.length ∧ at_ 4080 % 16 = 0)) := by decide +kernel

theorem witness_LaneWordsFrame : Runs tIss tGang (.imad tD tA tB) plainMod 0xFF ∧ ∃ r, integerRule (.imad tD tA tB) = some r :=
  ⟨runs_of (by decide +kernel), _, rfl⟩

/-- A gang with these results pending. -/
def tPend (ps : List Pend) : Gang := { tGang with tick := 4, pend := ps }

theorem witness_ResultsLandAtTheirTick :
    let own := fun ps => gangOf (tWith (tPend ps)) 3 = some (tPend ps)
    let k := fun vis (v : Word) => ({ vis := vis, act := .write (.k 9) v } : Pend)
    (own [tV 0 4 5 1] ∧ ∀ p ∈ (tPend [tV 0 4 5 1]).pend, 4 < p.vis) ∧ own [k 4 1] ∧ (own [k 4 1, k 4 2] ∧ own [k 4 1, k 3 2] ∧ Sparse.wf 0#32 tGang.k = true) ∧
    (own [{ vis := 4, act := .write (.p 7 6) 1 }] ∧ own [{ vis := 4, act := .write (.p 7 6) 1 }, { vis := 3, act := .write (.p 7 6) 0 }] ∧
      7 < (tPend []).lanes.length ∧ 7 < (laneAt (tPend []) 7).x.length) ∧ own [tF 4 flNX] ∧
    (own [{ vis := 4, act := .write (.x 7 7) 0x010201 }] ∧ own [{ vis := 4, act := .write (.xcur 7 7) 5 }] ∧
      own [{ vis := 4, act := .write (.x 7 7) 0x010201 }, { vis := 3, act := .write (.x 7 7) 0 }]) ∧
    (own [{ vis := 4, act := .write (.csr 0x040) 9 }] ∧ own [{ vis := 4, act := .write (.csr 0) 0 }, tF 3 flNX] ∧ own [tV 7 15 4 1, tV 7 15 3 2]) ∧
    (own [tV 7 15 4 1] ∧ (vKey (tPend []) 7 15).isSome = true ∧ ((tPend []).smap.getD (15 / 16) [])[7 / 8]? ≠ some spilledSlice ∧
      Sparse.wf 0#32 (tWith tGang).vrf = true) := by decide +kernel

theorem witness_DrainSettlesResults : let g := tPend [tV 0 4 6 1, tV 0 4 5 2, tF 6 flNX]
    ((tWith g).gangs.map (fun x => x.gid)).Nodup ∧ gangOf (tWith g) 3 = some g ∧ ∀ p ∈ g.pend, p.vis ≤ 6 := by decide +kernel

theorem witness_BundleEndMovesPcs : gangOf (tWith tGang) (tWith tGang).cur.gid = some tGang ∧ 7 < tGang.lanes.length ∧
    ((0x1000#64).toNat % 16 = 0 ∧ (0x1000#64).toNat + 16 < 2 ^ 64) ∧ ((0xFFFFFFFFFFFFFFE0#64).toNat % 16 = 0 ∧ (0xFFFFFFFFFFFFFFE0#64).toNat + 16 < 2 ^ 64) := by
  decide +kernel

/-- Lanes 6 and 7 wait on m11, whose bits are `bits`; the others are Eligible. -/
def tWaiting (bits : LaneMask) : Gang :=
  { tGang with m := (List.replicate 11 0) ++ [bits], lanes := tGang.lanes.mapIdx (fun l x => if 6 ≤ l then { x with st := .waiting 11 } else x) }

theorem witness_MasksRelease :
    ((finishBundle false 0 (tWith (tWaiting 0xE0))).gangs.map (fun h => (h.gid, (laneAt h 7).st)) = [(3, .waiting 11)] ∧ (tWaiting 0xE0).width ≤ 64 ∧
      (tWaiting 0xE0).lanes.length = (tWaiting 0xE0).width ∧ gangOf (tWith (tWaiting 0xE0)) (tWith (tWaiting 0xE0)).cur.gid = some (tWaiting 0xE0)) ∧
    ((laneAt (tWaiting 0xC0) 7).st = .waiting 11 ∧ ∀ j, j < 64 → ((tWaiting 0xC0).m.getD 11 0).getLsbD j = true → j < 8 ∧ (laneAt (tWaiting 0xC0) j).st = .waiting 11) ∧
    (∃ j, ((tWaiting 0xE0).m.getD 11 0).getLsbD j = true ∧ (laneAt (tWaiting 0xE0) j).st ≠ .waiting 11) ∧ ∀ n, (laneAt (tWaiting 0xE0) 0).st ≠ .waiting n := by
  refine ⟨by decide +kernel, by decide +kernel, ⟨5, by decide +kernel⟩, fun n h => ?_⟩
  have e : (laneAt (tWaiting 0xE0) 0).st = .eligible := by decide +kernel
  rw [e] at h; cases h

/-! ## Hypotheses met: control words -/

def tCons : State := { tIss with cur := { tIss.cur with checked := true, cons := true } }

theorem witness_TransferWordsTakeLanes :
    (∀ i ∈ [Instr.bra 7 false 1, .bra 2 true 0xFFFFF, .ret 6, .call 7 false 1], Runs (tWith tGang) tGang i plainMod 0xFF) ∧ Runs (tWith (tAddr 0x1000)) (tAddr 0x1000) (.brx 4) plainMod 0xFF ∧
    (tWith tGang).cur.cons = false ∧ Runs tCons tGang (.call 7 false 1) plainMod 0xFF ∧ tCons.cur.cons = true :=
  ⟨runs_all _ (by decide +kernel), runs_of (by decide +kernel), by decide +kernel, runs_of (by decide +kernel), by decide +kernel⟩

theorem witness_LaneMaskWords : (∀ i ∈ [Instr.join 11, .leave 0, .waitm 11, .yieldW], Runs tIss tGang i plainMod 0xFF) ∧ (11#6).toNat < 12 ∧ tGang.m.length = 12 ∧
    7 < tGang.lanes.length := ⟨runs_all _ (by decide +kernel), by decide +kernel⟩

/-- A serial section: lane 2 inside, `held` waiting. -/
def tSerial (held : List Nat) : Gang := { tGang with serial := [{ cur := 2, held := held }] }

/-- The same with every lane in state `st`. -/
def tSerialIn (held : List Nat) (st : LaneSt) : Gang := { tSerial held with lanes := (tSerial held).lanes.map (fun x => { x with st := st }) }

theorem witness_SerialSections : (∀ i ∈ [Instr.serb, .sere], Runs tIss tGang i plainMod 0xFF) ∧ Runs (tWith (tSerial [5, 6])) (tSerial [5, 6]) .sere plainMod 0xFF ∧
    ((tSerialIn [5, 6] .held).serial = { cur := 2, held := 5 :: [6] } :: [] ∧ ∀ j ∈ [5, 6], (laneAt (tSerialIn [5, 6] .held) j).st = .held) ∧
    (∀ hs ∈ [[], [5, 6]], (tSerial hs).serial = { cur := 2, held := hs } :: [] ∧ ∀ j ∈ hs, (laneAt (tSerial hs) j).st ≠ .held) ∧
    (∀ x ∈ (tSerial [5, 6]).serial, x.cur ≠ 5) ∧ (lanesOf 0xFF).filter (fun j => decide ((laneAt tGang j).st ≠ .exited)) = 0 :: [1, 2, 3, 4, 5, 6, 7] ∧
    Runs (tWith (tSerialIn [] .exited)) (tSerialIn [] .exited) .serb plainMod 0xFF ∧ (∀ l ∈ lanesOf 0xFF, (laneAt (tSerialIn [] .exited) l).st = .exited) :=
  ⟨runs_all _ (by decide +kernel), runs_of (by decide +kernel), by decide +kernel, by decide +kernel, by decide +kernel, by decide +kernel, runs_of (by decide +kernel),
    by decide +kernel⟩

theorem witness_ExitLeavesTheGang : Runs (tWith (tSerial [5, 6])) (tSerial [5, 6]) .exitW plainMod 0xFF ∧ 7 < (tSerial [5, 6]).lanes.length ∧
    Runs { tWith (tSerial [5, 6]) with cur := { (tWith (tSerial [5, 6])).cur with lanes := 4 } } (tSerial [5, 6]) .exitW plainMod 4 :=
  ⟨runs_of (by decide +kernel), by decide +kernel, runs_of (by decide +kernel)⟩

theorem witness_WaitNopModAndTrap : Runs tIss tGang (.wait 0 63 63 63) plainMod 0xFF ∧ tIss.cur.busy = true ∧
    (let s := { tIss with cur := { tIss.cur with solo := true } }
     let i := Instr.trap 12 15
     curGang s = some tGang ∧ activeOf tGang s.cur.lanes (some i) s.cur.mod ≠ 0 ∧ illegalWord tGang s.cur.solo (some i) s.cur.mod = false ∧
       guardLocked s tGang (some i) s.cur.mod = false ∧ (12#9).toNat % 2 = 0 ∧ locked s tGang.gid (.k 12) = false ∧ locked s tGang.gid (.k 13) = false) ∧
    checkLanes tIss tGang tIss.cur.lanes (some (.reservedMajor 0x46 0)) tIss.cur.mod ≠ 0 := ⟨runs_of (by decide +kernel), by decide +kernel⟩

/-- The program's context with a trap vector table at 0x2000, whose entry of class `cls` holds 0x1010. -/
def tVec (cls : Nat) (g : Gang) : State :=
  { tWith g with ctxs := [{ programCtx with trapvec := 0x2000 }], mem := Sparse.write 0#8 programTables (0x602000 + 8 * cls) (leBytes 0x1010 8) }

/-- The gang in its handler, every lane a trap lane. -/
def tHandler : Gang := { tGang with handler := true, trapLanes := 0xFF, csr := { tGang.csr with tretpc := 0x400 } }

theorem witness_TrapEntrySavesAndJumps :
    (gangOf (drain (tVec 0 tGang) 3) 3 = some tGang ∧ tGang.side.spl = false ∧ tGang.handler = false ∧ vectorEntry (drain (tVec 0 tGang) 3) 1 (faultClass 0x01) = some 0x1010 ∧
      pcOk tGang (BitVec.ofNat 64 0x1010) = true ∧ vectorEntry (drain (tVec 31 tGang) 3) 1 (faultClass 0x8F) = some 0x1010) ∧
    (gangOf (drain (tWith tHandler) 3) 3 = some tHandler ∧ tHandler.side.spl = false ∧ launchOf (drain (tWith tHandler) 3) 1 = some programLaunch ∧
      programLaunch.fatal = none ∧ programLaunch.id = tHandler.launch) ∧
    (gangOf (drain (tWith tGang) 3) 3 = some tGang ∧ launchOf (drain (tWith tGang) 3) 1 = some programLaunch ∧ vectorEntry (drain (tWith tGang) 3) 1 (faultClass 0x60) = some 0) := by
  decide +kernel

theorem witness_TretReturns : (Runs (tWith tHandler) tHandler .tret plainMod 0xFF ∧ tHandler.handler = true ∧ tHandler.killed = false ∧ 7 < tHandler.lanes.length) ∧
    (Runs (tWith { tHandler with killed := true }) { tHandler with killed := true } .tret plainMod 0xFF ∧ ({ tHandler with killed := true } : Gang).killed = true) :=
  ⟨⟨runs_of (by decide +kernel), by decide +kernel⟩, runs_of (by decide +kernel), by decide +kernel⟩

theorem checked_iadd (d : BitVec 6) : CheckedWord (.iadd d tA tB) := ⟨rfl, fun _ h => (by cases h), fun _ h => (by cases h)⟩

theorem checked_ld : CheckedWord (.ld (tMem 4 (.uni 4) 4 0 0 false)) := ⟨rfl, fun _ h => (by cases h), fun _ h => (by cases h)⟩

/-- A word under a false predicate. -/
theorem witness_InactiveWordsDoNothing : let s := { tIss with cur := { tIss.cur with mod := some { plainMod with pred := 0 } } }
    CheckedWord (.iadd tD tA tB) ∧ curGang s = some tGang ∧ checkLanes s tGang s.cur.lanes (some (.iadd tD tA tB)) s.cur.mod = 0 := ⟨checked_iadd tD, by decide +kernel⟩

/-- A register beyond the gang's one bank; a load whose page has not been walked. -/
theorem witness_FaultingWordsEnterTheTrap :
    (CheckedWord (.iadd 16 tA tB) ∧ curGang tIss = some tGang ∧ tIss.cur.checked = false ∧ checkLanes tIss tGang tIss.cur.lanes (some (.iadd 16 tA tB)) tIss.cur.mod ≠ 0 ∧
      fullChk tIss tGang (.iadd 16 tA tB) = .fault { code := fcBank, mask := 0xFF, addr := 0 }) ∧
    (CheckedWord (.ld (tMem 4 (.uni 4) 4 0 0 false)) ∧ checkLanes tIss tGang tIss.cur.lanes (some (.ld (tMem 4 (.uni 4) 4 0 0 false))) tIss.cur.mod ≠ 0 ∧
      fullChk tIss tGang (.ld (tMem 4 (.uni 4) 4 0 0 false)) = .hold (List.replicate 8 0)) := ⟨⟨checked_iadd 16, by decide +kernel⟩, checked_ld, by decide +kernel⟩

theorem witness_CsrWordsReadAndWrite :
    (∀ i ∈ [Instr.csrr 9 0x060, .csrr 9 0x101, .csrr 9 0x100, .csrr 9 0x1FE, .csrwWrite 20 2, .csrwSet 9 0, .csrwClr 9 1, .csrwSwap 9 0x017], Runs tIss tGang i plainMod 0xFF) ∧
    ¬(0x100 ≤ (0x060#12).toNat ∧ (0x060#12).toNat ≤ 0x1FF ∧ (0x060#12).toNat % 2 = 0) ∧ ¬(0x100 ≤ (0x101#12).toNat ∧ (0x101#12).toNat ≤ 0x1FF ∧ (0x101#12).toNat % 2 = 0) ∧
    (0x100 ≤ (0x1FE#12).toNat ∧ (0x1FE#12).toNat ≤ 0x1FF ∧ (0x1FE#12).toNat % 2 = 0) := ⟨runs_all _ (by decide +kernel), by decide +kernel⟩

end Sys2Proof.Tests

namespace Sys2Proof.Tests

/-! ## Hypotheses met: operations at issue -/

/-- A record of the gang: core 0, record 2, two units. -/
def tRec (wb : Bool) : RecRow :=
  { core := 0, idx := 2, st := .live, wb := wb, gid := 3, blk := 2, hnd := false, fmt := 2, blen := 0, bound := 0, scale := 0, units := [0, 1], g := 0, sc := false,
    badv := false, badoff := 0 }

/-- A barrier of the context: cluster 0, object 0, generation 5, its handle 5; two arrivals expected. -/
def tBar : BarRow := { noBar 0 0 with valid := true, owner := 1, scope := 3, exp := 2, ref := 2, gen := 5 }

/-- A ring of the block: object 0, generation 5, four slots of 128 bytes; its handle. -/
def tRing : RingRow := newRing tGang 0 5 0 0xC01
def tRingH : Word := 0x800000A0

/-- The gang with k8:k9 at `v`, 0. -/
def tK8 (v : Word) : Gang := { tGang with k := [(8, v)] }

theorem witness_OperationsEnterFlight :
    (∀ i ∈ [Instr.ld (tMem 4 (.uni 4) 4 0 1 false), .st (tMem 4 (.uni 4) 5 7 0 true), .ldl (tMem 4 (.vec 0 2) 6 0 3 false), .fence 6 7, .zfill (.uni 4) 7 2 false, .tlnch 15,
      .tcapt 15, .trst, .acmovToreg 32 34 true, .balloc 30 31 5 6, .bfree 30, .barvArrive 30 32 true, .barvNoarr 30 32, .barvDrop 30 0 false],
      Runs (tWith tGang) tGang i plainMod 0xFF ∧ ∃ r, issueRule (tWith tGang) tGang plainMod 0xFF i = some r) ∧ fwdKind (tWith tGang) tGang = 0 ∧
    (∀ i ∈ [Instr.fence 6 0, .fence 7 0, .psh 4 4, .psh 4 5, .psh 4 6, .pop 4 4, .pop 4 5, .pop 4 6, .clineWb (.uni 4) false, .clineWbi (.vec 0 6) false, .clineMem (.uni 4) true, .trstRel],
      Runs (tWith tGang) tGang i plainMod 0xFF) :=
  ⟨fun i hi => ⟨runs_all _ (by decide +kernel) i hi, some_all _ _ (by decide +kernel) i hi⟩, by decide +kernel, runs_all _ (by decide +kernel)⟩

/-- A load of the core scratchpad passes every check of its own. -/
theorem witness_scratchpad_load : Runs { tIss with gangs := [tAddr 0] } (tAddr 0) (.ld (tMem 8 (.uni 4) 4 0 1 false)) plainMod 0xFF := runs_of (by decide +kernel)

theorem witness_AtomicWordsEnterFlight :
    (∀ i ∈ [Instr.atomAdd tAtom, .atomMins tAtom, .atomMinn tAtom, .atomMaxs tAtom, .atomMaxn tAtom, .atomAnd tAtom, .atomOr tAtom, .atomXor tAtom, .atomExch tAtom,
      .atomCas tAtom, .atomFadd tAtom, .atomFmin tAtom, .atomFmax tAtom], Runs (tWith tGang) tGang i plainMod 0xFF ∧ ∃ r, atomCode i = some r) ∧
    Runs (tWith tGang) tGang (.redm 12 tAtom) plainMod 0xFF ∧ (((lanesOf 0xFF).map (fun l => l)).Pairwise (· < ·)) :=
  ⟨fun i hi => ⟨runs_all _ (by decide +kernel) i hi, some_all _ _ (by decide +kernel) i hi⟩, runs_of (by decide +kernel), by decide +kernel⟩

/-- The gang with a handle in k8 and record 2 as its own. -/
def tTile (wb : Bool) : State := { tWith (tK8 2) with recs := [tRec wb] }

theorem witness_EngineWordsEnterFlight :
    (∀ i ∈ [Instr.obld 8 24 0 false, .obld 8 24 3 true, .acmovTogl 8 34 true, .acmovTosp 8 34 false, .acmovFromsp 8 34, .tldw 14],
      Runs (tTile false) (tK8 2) i plainMod 0xFF ∧ ∃ r, engineRule (tTile false) (tK8 2) i = some r) ∧ fwdKind (tTile false) (tK8 2) = 0 ∧
    (Runs (tTile true) (tK8 2) (.wbld 8 28 1) plainMod 0xFF ∧ recLive (tTile true) (tK8 2) ((rdK (tK8 2) 8).toNat % 64) = some (tRec true)) ∧
    Runs (tTile false) (tK8 2) (.mma 40 false) plainMod 0xFF ∧
    (let c : CpyFields := { s := 6, addr := .vec 0 10, size := 2, ss := 0, ds := 1, h := 0 }
     let w := fun v => { tWith { tGang with k := [(0, v)] } with rings := [tRing], bars := [tBar] }
     let g := fun v => ({ tGang with k := [(0, v)] } : Gang)
     (∀ v ∈ [0, 5, tRingH], Runs (w v) (g v) (.cpy c) plainMod 0xFF) ∧ rdK (g 0) 0 = 0 ∧ (rdK (g 5) 0 ≠ 0 ∧ (rdK (g 5) 0).getLsbD 31 = false) ∧
       ((rdK (g tRingH) 0).getLsbD 31 = true ∧ ringLive (w tRingH) (g tRingH) (rdK (g tRingH) 0) = some tRing)) := by
  refine ⟨fun i hi => ⟨runs_all _ (by decide +kernel) i hi, some_all _ _ (by decide +kernel) i hi⟩, by decide +kernel, ⟨runs_of (by decide +kernel), by decide +kernel⟩,
    runs_of (by decide +kernel), fun v hv => runs_of ?_, by decide +kernel⟩
  simp only [List.mem_cons, List.not_mem_nil, or_false] at hv
  obtain rfl | rfl | rfl := hv <;> decide +kernel

/-- A fused gang whose packet's first word has forwarding kind `kind`; its one entry holds four bytes for each of eight lanes. -/
def tFused : Gang :=
  { tGang with side := { tGang.side with spl := true }, fwd := [{ b := 4, bytes := List.replicate 32 1 }] }

def tFwd (kind : BitVec 6) : State := { tWith tFused with cur := { (tWith tFused).cur with kinds := kind } }

theorem witness_ForwardedWords :
    tFused.fwd[0]? = some { b := 4, bytes := List.replicate 32 1 } ∧
    (∀ kind ∈ [1, 2], Runs (tFwd kind) tFused (.st (tMem 4 (.uni 4) 4 0 0 false)) plainMod 0xFF ∧ (fwdKind (tFwd kind) tFused = 1 ∨ fwdKind (tFwd kind) tFused = 2)) ∧
    (∀ l ∈ lanesOf 0xFF, (l + 1) * 4 ≤ (List.replicate 32 (1 : Byte)).length ) ∧
    (let s := { tFwd 1 with cur := { (tFwd 1).cur with lanes := 1 } }
     Runs s tFused (.st (tMem 4 (.uni 4) 4 0 0 false)) plainMod 1 ∧ fwdKind s tFused = 1 ∧ 0 < 4 ∧ (1#64).getLsbD (31 / 4) = false) ∧
    (∀ i ∈ [Instr.ld (tMem 4 (.uni 4) 4 0 0 false), .obld 8 24 0 false], Runs (tFwd 3) tFused i plainMod 0xFF) ∧ fwdKind (tFwd 3) tFused = 3 := by
  refine ⟨by decide +kernel, fun k hk => ?_, by decide +kernel, ⟨runs_of (by decide +kernel), by decide +kernel⟩, runs_all _ (by decide +kernel), by decide +kernel⟩
  simp only [List.mem_cons, List.not_mem_nil, or_false] at hk
  obtain rfl | rfl := hk
  · exact ⟨runs_of (by decide +kernel), .inl (by decide +kernel)⟩
  · exact ⟨runs_of (by decide +kernel), .inr (by decide +kernel)⟩

theorem witness_BlockingWords :
    (∀ i ∈ [Instr.obres 10 20 true, .acalloc 30 16, .ringCreate 40 42, .ringRel 40, .rawait 40 44, .acfree 8],
      Runs (tWith (tK8 2)) (tK8 2) i plainMod 0xFF ∧ ∃ b, waitRule (tWith (tK8 2)) (tK8 2) 0xFF i = some b) ∧
    waitRule (tWith (tK8 2)) (tK8 2) 0xFF (.acfree 8) ≠ some (.acfree 0 (tWith (tK8 2)).fresh) ∧
    (Runs (tWith tGang) tGang (.acfree 8) plainMod 0xFF ∧ (rdK tGang 8).setWidth 16 = 0#16) ∧
    (Runs (tTile false) (tK8 2) (.obrel 8) plainMod 0xFF ∧ recLive (tTile false) (tK8 2) ((rdK (tK8 2) 8).toNat % 64) = some (tRec false)) ∧
    (Runs (tWith tGang) tGang (.twset 8 true) plainMod 0xFF ∧ (arrayOf (tWith tGang) 0).holder = none ∧ (tWith tGang).gangs.any (twsetWaiting 0) = false) ∧
    (let held := fun h => { tWith tGang with arrays := [{ core := 0, holder := some h, max := false, win := 20, w := [], out := [], wpsn := [], opsn := [], hnd := false }] }
     Runs (held 3) tGang (.twset 8 true) plainMod 0xFF ∧ holdsArray (held 3) tGang = true ∧ Runs (held 7) tGang (.twset 8 false) plainMod 0xFF ∧
       holdsArray (held 7) tGang = false ∧ (arrayOf (held 7) 0).holder ≠ none) ∧
    (let s := { tWith (tK8 tRingH) with rings := [tRing] }
     Runs s (tK8 tRingH) (.rrel 8) plainMod 0xFF ∧ ringLive s (tK8 tRingH) (rdK (tK8 tRingH) 8) = some tRing ∧ tRing.core = 0 ∧
       tRing.obj = (rdK (tK8 tRingH) 8).toNat % 32) ∧
    (let s := { tWith (tK8 5) with bars := [tBar] }
     let s1 := { tWith (tK8 5) with bars := [{ tBar with phase := true }] }
     Runs s (tK8 5) (.bwait 8 9 6) plainMod 0xFF ∧ (barNamed s (rdK (tK8 5) 8) = some tBar ∧ tBar.phase = (rdK (tK8 5) 9).getLsbD 0) ∧
       Runs s1 (tK8 5) (.bwait 8 9 7) plainMod 0xFF ∧ (barNamed s1 (rdK (tK8 5) 8) = some { tBar with phase := true } ∧ true ≠ (rdK (tK8 5) 9).getLsbD 0 ∧ 3 ≤ tBar.scope) ∧
       Runs (tWith (tK8 6)) (tK8 6) (.bwait 8 9 0) plainMod 0xFF ∧ barNamed (tWith (tK8 6)) (rdK (tK8 6) 8) = none) := by
  exact ⟨fun i hi => ⟨runs_all _ (by decide +kernel) i hi, some_all _ _ (by decide +kernel) i hi⟩, by decide +kernel, ⟨runs_of (by decide +kernel), by decide +kernel⟩,
    ⟨runs_of (by decide +kernel), by decide +kernel⟩, ⟨runs_of (by decide +kernel), by decide +kernel⟩,
    ⟨runs_of (by decide +kernel), by decide +kernel, runs_of (by decide +kernel), by decide +kernel⟩, ⟨runs_of (by decide +kernel), by decide +kernel⟩,
    ⟨runs_of (by decide +kernel), by decide +kernel, runs_of (by decide +kernel), by decide +kernel, runs_of (by decide +kernel), by decide +kernel⟩⟩

/-- This package is logical id 5 of snapshot group 1, package 4 its other member; the context is captured. -/
def tMember (s : State) : State :=
  let e := fun lid => ({ lid := lid, phys := lid, st := .live, pdom := lid, sgrp := 1, epoch := 1 } : PodEntry)
  { s with pod := [e 4, e 5], fab := { s.fab with lid := 5, phys := 5, member := true }, ctxs := [{ programCtx with group := 1, right := true }] }

/-- Colour 0 in a state of a snapshot of group 1 that package `co` began. -/
def tCol (st : ColSt) (co : Nat) (s : State) : State :=
  { tMember s with col0 := { ColourRow.reset with st := st, snid := 77, group := 1, seq := 1, ever := true, inits := [(co, 77)], grp := 1 } }

theorem witness_SnapshotWords : Runs (tWith tGang) tGang (.snap 20 22 1) plainMod 0xFF ∧ (Runs (tWith tGang) tGang (.snapq 24 26 2 true) plainMod 0xFF ∧ gangMember (tWith tGang) tGang = false) ∧
    (Runs (tCol .capturing 4 (tWith tGang)) tGang (.snapq 24 26 2 true) plainMod 0xFF ∧ gangMember (tCol .capturing 4 (tWith tGang)) tGang = true ∧
      (colRow (tCol .capturing 4 (tWith tGang)) .c0).ever = true ∧ coordinatorOf (tCol .capturing 4 (tWith tGang)) .c0 ≠ (tCol .capturing 4 (tWith tGang)).fab.lid) ∧
    (Runs (tCol .capturing 5 (tWith tGang)) tGang (.snapq 24 26 2 true) plainMod 0xFF ∧ coordinatorOf (tCol .capturing 5 (tWith tGang)) .c0 = (tCol .capturing 5 (tWith tGang)).fab.lid) ∧
    (∀ co ∈ [4, 5], ledKnown (tCol .capturing co (tWith tGang)) .c0 = true) ∧
    (let s := tCol .capturing 4 (tWith tGang)
     let u := { s with col0 := { s.col0 with inits := [] } }
     Runs u tGang (.snapq 24 26 2 true) plainMod 0xFF ∧ gangMember u tGang = true ∧ (colRow u .c0).ever = true ∧ ledKnown u .c0 = false) :=
  ⟨runs_of (by decide +kernel), ⟨runs_of (by decide +kernel), by decide +kernel⟩, ⟨runs_of (by decide +kernel), by decide +kernel⟩, ⟨runs_of (by decide +kernel), by decide +kernel⟩,
    by decide +kernel, runs_of (by decide +kernel), by decide +kernel⟩

end Sys2Proof.Tests

namespace Sys2Proof.Tests

/-! ## Hypotheses met: waits and memory operations performed -/

/-- Operation 9 of gang 3, in all eight lanes. -/
def tOp (cls : OpCls) (kind : OpKind) (ps : List Piece) : Op :=
  { id := 9, gid := 3, core := 0, ctx := 1, blk := 2, cls := cls, kind := kind, lanes := 0xFF, pieces := ps, pre0 := false, pre1 := false, hnd := false, pc := programEntry }

/-- The program load with that operation alone in flight. -/
def tFly (o : Op) : State := { tBase with fresh := 20, ops := [o] }

theorem mem_base : Memory.wf tBase.mem = true := by decide +kernel

theorem clear_of {s : State} {o : Op} (h : s.ops = [o]) (hc : s.chunks = [] := by rfl) : Clear s o :=
  ⟨by simp [opOf, h], by simp [h], by simp [h], by simp [hc]⟩

theorem gang_fly (o : Op) : gangOf (tFly o) o.gid = some tGang ↔ o.gid = 3 := by
  simp [gangOf, tFly, tBase, programLoaded, tGang, newGang]; exact eq_comm

theorem apart_fly (o : Op) : RegsApart (tFly o) tGang := by
  unfold RegsApart; exact ⟨by decide +kernel, by decide +kernel, (by decide +kernel : Sparse.wf 0#32 tBase.vrf = true)⟩

def tPiece (place : Place) (len : Nat) (st : PieceSt) (data : List Byte) : Piece := { lane := 0, off := 0, place := place, len := len, st := st, data := data, psn := [] }

/-- The gang blocked. -/
def tBlocked (b : Blocked) : Gang := { tGang with blocked := some b, cnt := { ld := 2, st := 0, cp := 0, tl := 63 } }

theorem witness_WaitsEnd :
    (gangOf (tWith (tBlocked (.wait 2 0 0 63))) 3 = some (tBlocked (.wait 2 0 0 63)) ∧ (tBlocked (.wait 2 0 0 63)).cnt = { ld := 2, st := 0, cp := 0, tl := 63 }) ∧
    (gangOf (tWith (tBlocked (.full 61 63 63 0))) 3 = some (tBlocked (.full 61 63 63 0)) ∧ 2 + 61 ≤ 63 ∧ 0 + 63 ≤ 63 ∧ 63 + 0 ≤ 63) ∧
    (let s := tWith (tBlocked (.xlate [7]))
     let x : TlbRow := { buf := dieBuf 0, ctx := 1, page := 7, leaf := none, pte := 0 }
     let h := { s with owners := [(0x600000, 0x200000, 2)] }
     ctxRow s 1 = some programCtx ∧ tlbRow s 0 1 7 = none ∧ tlbRow s (dieBuf 0) 1 7 = none ∧ pageFrame s 1 7 = some (0x600000, 0x200000) ∧
       framePending s 1 0x600000 0x200000 = false ∧ gangOf s 3 = some (tBlocked (.xlate [7])) ∧ (tBlocked (.xlate [7])).ctx = 1 ∧ (tBlocked (.xlate [7])).core = 0 ∧
       ctxRow { s with tlb := [x] } 1 = some programCtx ∧ tlbRow { s with tlb := [x] } 0 1 7 = none ∧ tlbRow { s with tlb := [x] } (dieBuf 0) 1 7 = some x ∧
       ctxRow h 1 = some programCtx ∧ tlbRow h 0 1 7 = none ∧ tlbRow h (dieBuf 0) 1 7 = none ∧ pageFrame h 1 7 = some (0x600000, 0x200000) ∧
       framePending h 1 0x600000 0x200000 = true) := by decide +kernel

def tLoad (ord : Order) (ps : List Piece) : Op := tOp .ld (.load 4 4 0 7 ord false) ps

/-- A load all of whose pieces are read, one with an acquire; a load of the scratchpad whose pieces are not, and an acquire of memory; its words have a
place. -/
theorem witness_LoadsComplete :
    (let o := tLoad .acquire [tPiece (.mem 0x600000 0) 4 .done [1, 2, 3, 4]]
     Clear (tFly o) o ∧ gangOf (tFly o) o.gid = some tGang ∧ RegsApart (tFly o) tGang ∧ (∀ p ∈ o.pieces, p.st = .done) ∧ isAcq .acquire = true ∧ 3 ≤ 7) ∧
    (let o := tLoad .relaxed (scratchPieces 0xFF 2 4 (fun l => 4 * l) (fun _ => []))
     Clear (tFly o) o ∧ gangOf (tFly o) o.gid = some tGang ∧ RegsApart (tFly o) tGang ∧ blockOf (tFly o) 2 = some programBlock) ∧
    (let o := tLoad .acquire [tPiece (.mem 0x600000 0) 4 .todo []]
     Clear (tFly o) o ∧ gangOf (tFly o) o.gid = some tGang ∧ RegsApart (tFly o) tGang ∧ homeFree (tFly o) (0x600000 / 128) false = true ∧
       l1Line (tFly o) o.core false (0x600000 / 128) = none ∧ isAcq .acquire = true ∧ 3 ≤ 7) ∧
    (loadWords 4 [1, 2, 3, 4]).length = 1 ∧ (vKey tGang 7 4).isSome = true :=
  ⟨⟨clear_of rfl, (gang_fly _).mpr rfl, apart_fly _, by decide +kernel⟩, ⟨clear_of rfl, (gang_fly _).mpr rfl, apart_fly _, by decide +kernel⟩,
    ⟨clear_of rfl, (gang_fly _).mpr rfl, apart_fly _, by decide +kernel⟩, by decide +kernel⟩

/-- Line 0x610000 of package 4's memory. -/
def tFar : Nat := 4 * 2 ^ 45 + 0x610000

/-- The same in package 5 beside package 4, with group 2's aperture, a window of die 3, and these cached lines. -/
def tNetFly (o : Op) (l1 : List L1Line) (l2 : List L2Line) : State :=
  { tMember (tFly o) with l1 := l1, l2 := l2, ctxs := [{ programCtx with group := 1, right := true, windows := [(3, [6143])] }],
                          groups := [(2, { op := 1, switch := 0, port := 0, size := 4096, trec := 4, mema := 0x700000, members := [(4, 0x620000), (5, 0x620000)] })] }

theorem apart_net (o : Op) (l1 : List L1Line) (l2 : List L2Line) : RegsApart (tNetFly o l1 l2) tGang := apart_fly o

/-- A line of package 4's memory in core 0's L1, and in L2. -/
def tFarL1 : L1Line :=
  { core := 0, peer := true, line := tFar / 128, ctx := 1, va := 0, data := List.replicate 128 7, dirty := 0, tag := 2, who := [], psn := 0, cap0 := false, cap1 := false,
    pre0 := 0, pre1 := 0 }

def tFarL2 (owned : Bool) : L2Line :=
  { peer := true, line := tFar / 128, ctx := 1, va := 0, data := List.replicate 128 7, dirty := 0, filled := true, owned := owned, zero := false, psn := 0, who := [],
    cap0 := false, cap1 := false }

/-- Loads from each other kind of place: a die scratchpad, L1, package 4's memory in L1, in L2 and nowhere here, an aperture. -/
theorem witness_LoadsComplete_places :
    (let o := tLoad .relaxed [tPiece (.die 1 3 4092) 4 .todo []]
     Clear (tNetFly o [] []) o ∧ gangOf (tNetFly o [] []) o.gid = some tGang ∧ RegsApart (tNetFly o [] []) tGang) ∧
    (let o := tOp .ld (.load 4 4 0 1 .relaxed false) [tPiece (.mem 0x60007C 0) 4 .todo []]
     Clear (tNetFly o [] []) o ∧ 0x60007C % 128 + 4 ≤ 128 ∧ homeFree (tNetFly o [] []) (0x60007C / 128) false = true) ∧
    (let o := tOp .ld (.load 4 4 0 1 .relaxed false) [tPiece (.peer (tFar + 124) 0) 4 .todo []]
     let s := tNetFly o [tFarL1] []
     Clear s o ∧ (tFar + 124) % 128 + 4 ≤ 128 ∧ homeBusy s o.id ((tFar + 124) / 128) = false ∧ l1Line s o.core true ((tFar + 124) / 128) = some tFarL1) ∧
    (∀ e ∈ [(5, false), (7, true)], let o := tOp .ld (.load 4 4 0 e.1 .relaxed false) [tPiece (.peer (tFar + 124) 0) 4 .todo []]
     let s := tNetFly o [] [tFarL2 e.2]
     Clear s o ∧ homeBusy s o.id ((tFar + 124) / 128) = false ∧ l1Line s o.core true ((tFar + 124) / 128) = none ∧
       l2Line s true ((tFar + 124) / 128) = some (tFarL2 e.2) ∧ (tFarL2 e.2).filled = true ∧ ((tFarL2 e.2).owned = true ∨ e.1 < 6) ∧ 3 ≤ e.1) ∧
    (let o := tLoad .acquire [tPiece (.peer (tFar + 124) 0) 4 .todo []]
     let s := tNetFly o [] []
     Clear s o ∧ homeBusy s o.id ((tFar + 124) / 128) = false ∧ l1Line s o.core true ((tFar + 124) / 128) = none ∧ l2Line s true ((tFar + 124) / 128) = none ∧
       s.fab.member = true ∧ s.fab.reads = []) ∧
    (let o := tLoad .relaxed [tPiece (.mcast 2 4092 0) 4 .todo []]
     let s := tNetFly o [] []
     Clear s o ∧ (groupDesc s 2).isSome = true ∧ s.fab.member = true) := by
  refine ⟨⟨clear_of rfl, by decide +kernel, apart_net _ _ _⟩, ⟨clear_of rfl, by decide +kernel⟩, ⟨clear_of rfl, by decide +kernel⟩, fun e he => ⟨clear_of rfl, ?_⟩,
    ⟨clear_of rfl, by decide +kernel⟩, clear_of rfl, by decide +kernel⟩
  simp only [List.mem_cons, List.not_mem_nil, or_false] at he
  obtain rfl | rfl := he <;> decide +kernel

def tStore (kind : OpKind) (p : Place) (data : List Byte) : Op := tOp .st kind [tPiece p data.length .todo data]

/-- A store to the last word of the block, one to the last four bytes of a line of memory, a ZFILL. -/
theorem witness_StoresPerform :
    (let o := tStore (.store 2 .relaxed) (.scr 2 4092) [1, 2, 3, 4]
     Clear (tFly o) o ∧ isRel .relaxed = false ∧ blockOf (tFly o) 2 = some programBlock ∧ InBank programBlock 4092 4 0 ∧ Memory.wf (tFly o).scr = true) ∧
    (let o := tStore (.store 7 .relaxed) (.mem 0x60007C 0x7C) [1, 2, 3, 4]
     Clear (tFly o) o ∧ 0x60007C % 128 + 4 ≤ 128 ∧ homeFree (tFly o) (0x60007C / 128) true = true ∧ l1Line (tFly o) o.core false (0x60007C / 128) = none ∧
       (tFly o).zmaps = [] ∧ (tFly o).ptags = []) ∧
    (let o := tStore (.zfill 3) (.mem 0x600080 0x80) (List.replicate 128 0)
     Clear (tFly o) o ∧ 0x600080 % 128 + 128 ≤ 128 ∧ homeFree (tFly o) (0x600080 / 128) true = true ∧ l1Line (tFly o) o.core false (0x600080 / 128) = none) :=
  ⟨⟨clear_of rfl, by decide +kernel, by decide +kernel, by unfold InBank; decide +kernel, by decide +kernel⟩, ⟨clear_of rfl, by decide +kernel⟩, clear_of rfl, by decide +kernel⟩

/-- Stores to each other kind of place, and releases. -/
theorem witness_StoresPerform_places :
    (let o := tStore (.store 4 .relaxed) (.die 1 3 4092) [1, 2, 3, 4]
     Clear (tNetFly o [] []) o ∧ (windowOf (tNetFly o [] []) 1 3)[4092 / 4096]? = some 6143 ∧ 4092 % 4096 + 4 ≤ 4096 ∧ Memory.wf (tNetFly o [] []).dsc = true) ∧
    (∀ l1 ∈ [[], [tFarL1]], let o := tStore (.store 2 .relaxed) (.mem 0x60007C 0) [1, 2, 3, 4]
     Clear (tNetFly o l1 []) o ∧ 0x60007C % 128 + 4 ≤ 128 ∧ homeFree (tNetFly o l1 []) (0x60007C / 128) true = true) ∧
    (∀ e ∈ [(5, [tFarL2 false]), (7, [tFarL2 true]), (3, []), (6, [])], let o := tStore (.store e.1 .relaxed) (.peer (tFar + 124) 0) [1, 2, 3, 4]
     let s := tNetFly o [] e.2
     Clear s o ∧ 3 ≤ e.1 ∧ e.1 < 8 ∧ (tFar + 124) % 128 + 4 ≤ 128 ∧ homeBusy s o.id ((tFar + 124) / 128) = false ∧
       l1Line s o.core true ((tFar + 124) / 128) = none ∧ o.pre0 = false ∧ o.pre1 = false ∧ l2Line s true ((tFar + 124) / 128) = e.2.head? ∧ s.fab.member = true) ∧
    (let o := tStore (.zfill 7) (.mcast 2 128 0) (List.replicate 128 0)
     Clear (tNetFly o [] []) o ∧ 128 % 128 + 128 ≤ 128 ∧ (groupDesc (tNetFly o [] []) 2).isSome = true ∧ (tNetFly o [] []).fab.member = true) ∧
    (let o := tStore (.store 5 .release) (.scr 2 4092) [1, 2, 3, 4]
     Clear (tFly o) o ∧ isRel .release = true ∧ blockOf (tFly o) 2 = some programBlock ∧ InBank programBlock 4092 4 0 ∧ Memory.wf (tFly o).scr = true) ∧
    (∀ e ∈ [(5, []), (7, []), (7, [{ tFarL2 false with dirty := 1, who := [(3, 0)] }])], let o := tStore (.store e.1 .release) (.mem 0x60007C 0x7C) [1, 2, 3, 4]
     let s := tNetFly o [] e.2
     Clear s o ∧ homeFree s (0x60007C / 128) true = true ∧ s.zmaps = [] ∧ s.ptags = [] ∧ s.l1 = [] ∧
       ((unownedPeers s o.gid 0 = [] ∧ othersPosted s o.ctx = false) ↔ e.2 = []) ∧ (e.2 ≠ [] → othersPosted s o.ctx = true)) := by
  refine ⟨⟨clear_of rfl, by decide +kernel⟩, fun l1 h => ⟨clear_of rfl, ?_⟩, fun e he => ⟨clear_of rfl, ?_⟩, ⟨clear_of rfl, by decide +kernel⟩,
    ⟨clear_of rfl, by decide +kernel, by decide +kernel, by unfold InBank; decide +kernel, by decide +kernel⟩, fun e he => ⟨clear_of rfl, ?_⟩⟩
  · simp only [List.mem_cons, List.not_mem_nil, or_false] at h
    obtain rfl | rfl := h <;> decide +kernel
  · simp only [List.mem_cons, List.not_mem_nil, or_false] at he
    obtain rfl | rfl | rfl | rfl := he <;> decide +kernel
  · simp only [List.mem_cons, List.not_mem_nil, or_false] at he
    obtain rfl | rfl | rfl := he <;> decide +kernel

def tGroup (off : Nat) : AtomGroup :=
  { place := .scr 2 off, lanes := [0, 3], opnds := [(1, 1), (2, 2)], olds := [], st := .todo, psn := [], late0 := false, late1 := false }

theorem witness_AtomicsPerform : ∀ e ∈ [(0, false, false, 4092), (9, true, true, 4088)],
    let o := tOp .ld (.atom e.1 e.2.1 2 .relaxed false e.2.2.1 4 [tGroup e.2.2.2]) []
    Clear (tFly o) o ∧ gangOf (tFly o) o.gid = some tGang ∧ RegsApart (tFly o) tGang ∧ blockOf (tFly o) 2 = some programBlock ∧
      InBank programBlock e.2.2.2 (if e.2.1 then 8 else 4) 0 ∧ Memory.wf (tFly o).scr = true ∧ (tGroup e.2.2.2).opnds.length = (tGroup e.2.2.2).lanes.length ∧
      (tGroup e.2.2.2).lanes.Nodup ∧ (∀ p ∈ o.pieces, p.st = .done) ∧ (tGroup e.2.2.2).lanes[1]? = some 3 ∧ (vKey tGang 3 5).isSome = true := by
  intro e he
  simp only [List.mem_cons, List.not_mem_nil, or_false] at he
  obtain rfl | rfl := he <;>
    exact ⟨clear_of rfl, (gang_fly _).mpr rfl, apart_fly _, by decide +kernel, by unfold InBank; decide +kernel, by decide +kernel, by decide +kernel, by decide +kernel,
      by decide +kernel, by decide +kernel, by decide +kernel⟩

theorem witness_AtomicsPerform_places :
    (∀ e ∈ [(0, false, 0x60007C), (9, true, 0x600078)],
      let x := { tGroup 0 with place := .mem e.2.2 0 }
      let o := tOp .ld (.atom e.1 e.2.1 7 .relaxed false true 4 [x]) []
      Clear (tFly o) o ∧ e.2.2 % 128 + (if e.2.1 then 8 else 4) ≤ 128 ∧ homeFree (tFly o) (e.2.2 / 128) true = true ∧ l1Line (tFly o) o.core false (e.2.2 / 128) = none ∧
        (tFly o).zmaps = [] ∧ (tFly o).ptags = []) ∧
    (let x := { tGroup 0 with place := .peer tFar 0 }
     let o := tOp .ld (.atom 12 false 6 .relaxed false true 4 [x]) []
     let s := tNetFly o [] []
     Clear s o ∧ s.fab.member = true ∧ l2Line s true (tFar / 128) = none ∧ l1Line s o.core true (tFar / 128) = none ∧ homeBusy s o.id (tFar / 128) = false ∧ x.opnds ≠ [] ∧
       x.opnds.length * opndBytes 12 false ≤ 128) := by
  refine ⟨fun e he => ⟨clear_of rfl, ?_⟩, clear_of rfl, by decide +kernel⟩
  simp only [List.mem_cons, List.not_mem_nil, or_false] at he
  obtain rfl | rfl := he <;> decide +kernel

/-- A line of core 0's L1: its first four bytes Dirty at scope 2. -/
def tL1 : L1Line :=
  { core := 0, peer := false, line := 0xC000, ctx := 1, va := 0, data := List.replicate 128 7, dirty := 0xF, tag := 2, who := [(3, 0)], psn := 0, cap0 := false, cap1 := false,
    pre0 := 0, pre1 := 0 }

theorem witness_FencesComplete :
    (∀ scope, scope < 8 → let o := tOp .st (.fence scope 6 []) []
     Clear (tFly o) o ∧ gangOf (tFly o) o.gid = some tGang ∧ (∀ r ∈ (tFly o).l1, r.core = o.core → r.dirty = 0) ∧ (∀ l, unownedPeers (tFly o) o.gid l = []) ∧ othersPosted (tFly o) o.ctx = false) ∧
    (let o := tOp .st (.fence 6 6 []) []
     let s := tNetFly o [] [{ tFarL2 false with dirty := 1, who := [(3, 0)] }]
     Clear s o ∧ (∀ r ∈ s.l1, r.core = o.core → r.dirty = 0) ∧ othersPosted s o.ctx = true) ∧
    (∀ e ∈ [(1, 0), (2, 1), (3, 3), (3, 7), (5, 2)], let o := tOp .st (.fence e.1 7 []) []
     let r := { tL1 with tag := e.2 }
     let s := { tFly o with l1 := [r] }
     Clear s o ∧ s.l1 = [r] ∧ r.core = o.core ∧ r.peer = false ∧ r.cap0 = false ∧ r.cap1 = false ∧ s.zmaps = [] ∧ s.ptags = []) ∧
    ∀ e ∈ [(1, 0), (2, 1), (3, 3), (3, 7), (5, 2)], 0 < e.1 ∧ e.1 < 6 ∧ (3 ≤ e.1 ∨ e.2 < e.1) :=
  ⟨fun _ _ => ⟨clear_of rfl, (gang_fly _).mpr rfl, fun _ h => (by cases h), fun _ => rfl, rfl⟩, ⟨clear_of rfl, fun _ h => (by cases h), by decide +kernel⟩,
    fun _ _ => ⟨clear_of rfl, rfl, rfl, rfl, rfl, rfl, rfl, rfl⟩, by decide⟩

/-- The Dirty L2 copy of line 0xC000. -/
def tL2 : L2Line :=
  { peer := false, line := 0xC000, ctx := 1, va := 0, data := List.replicate 128 7, dirty := 1, filled := true, owned := false, zero := false, psn := 0, who := [],
    cap0 := false, cap1 := false }

theorem witness_LineAndCopyOperations :
    (∀ which, which < 3 → let o := tOp .st (.cline which) [{ tPiece (.mem (128 * 0xC000) 0) 128 .todo [] with lane := 0 }]
     let s := { tFly o with l2 := [tL2] }
     Clear s o ∧ s.zmaps = [] ∧ (∀ r, l1Line s o.core false 0xC000 = some r → r.dirty = 0) ∧ Memory.wf s.mem = true ∧ l2Line s false 0xC000 = some tL2 ∧ tL2.dirty ≠ 0 ∧
       tL2.data.length = 128) ∧
    (let c : CpyLane := { lane := 0, src := .scr 2 0, dst := .scr 2 4080 }
     let o := tOp .cp (.cpy 16 0 none false [c]) []
     Clear (tFly o) o ∧ blockOf (tFly o) 2 = some programBlock ∧ InBank programBlock 4080 16 0 ∧ (tFly o).tags = [] ∧ Memory.wf (tFly o).scr = true) ∧
    (∀ k ∈ [OpKind.load 4 4 0 0 .relaxed false, .store 0 .relaxed, .zfill 0, .atom 0 false 0 .relaxed false true 4 []], opOf (tFly (tOp .ld k [])) 9 = some (tOp .ld k [])) :=
  ⟨fun _ _ => ⟨clear_of rfl, rfl, fun _ h => (by cases h), mem_base, rfl, by decide, rfl⟩,
    ⟨clear_of rfl, by decide +kernel, by unfold InBank; decide +kernel, by decide +kernel⟩, by decide +kernel⟩

/-- Package 7 is lost; one of lane 0's stores waits for its ownership in L2. -/
def tLost (o : Op) : State :=
  { tFly o with pod := [{ lid := 7, phys := 7, st := .failed, pdom := 0, sgrp := 0, epoch := 1 }],
                l2 := [{ tL2 with peer := true, line := 7 * 2 ^ 38, who := [(3, 0)] }] }

theorem lost_apart (o : Op) : RegsApart (tLost o) tGang := by
  unfold RegsApart; exact ⟨by decide +kernel, by decide +kernel, (by decide +kernel : Sparse.wf 0#32 tBase.vrf = true)⟩

theorem witness_LostPeersAreReported :
    (let o := tOp .st (.fence 7 6 []) []
     Clear (tLost o) o ∧ gangOf (tLost o) o.gid = some tGang ∧ (tLost o).l1 = [] ∧ (∀ r ∈ (tLost o).l2, r.line * 128 / 2 ^ 45 < 2048) ∧
       (∀ e ∈ (tLost o).fab.mlost, e.2.2 < 2048) ∧ othersPosted (tLost o) o.ctx = false ∧
       (∀ l, ∀ p ∈ unownedPeers (tLost o) o.gid l, lostPkg (tLost o) p = true) ∧ 7 ∈ unownedPeers (tLost o) o.gid 0 ∧ o.lanes.getLsbD 0 = true) ∧
    (let o := tOp .st (.fence 7 6 []) []
     Clear (tFly o) o ∧ (tFly o).l1 = [] ∧ ∀ l, unownedPeers (tFly o) o.gid l = []) ∧
    (let o := tLoad .relaxed ((lanesOf 0xFF).map (fun l => { lane := l, off := 0, place := .peer (7 * 2 ^ 45 + 4 * l) (4 * l), len := 4, st := .sent, data := [], psn := [] }))
     Clear (tLost o) o ∧ gangOf (tLost o) o.gid = some tGang ∧ RegsApart (tLost o) tGang ∧ (∀ l, lostPkg (tLost o) ((7 * 2 ^ 45 + 4 * (l % 64)) / 2 ^ 45) = true)) ∧
    (∀ st ∈ [PieceSt.todo, .sent], let x : AtomGroup := { tGroup 0 with place := .peer (7 * 2 ^ 45) 0, st := st }
     let o := tOp .ld (.atom 9 true 7 .relaxed false true 4 [x]) []
     Clear (tLost o) o ∧ gangOf (tLost o) o.gid = some tGang ∧ RegsApart (tLost o) tGang ∧ x.st ≠ .done ∧ lostPkg (tLost o) (7 * 2 ^ 45 / 2 ^ 45) = true) ∧
    (∀ st ∈ [PieceSt.todo, .sent], let p := tPiece (.peer (7 * 2 ^ 45 + 124) 124) 4 st [1, 2, 3, 4]
     let o := tOp .st (.store 6 .relaxed) [p]
     Clear (tLost o) o ∧ p.st ≠ .done ∧ 0 < p.data.length ∧ (7 * 2 ^ 45 + 124) % 128 + 4 ≤ 128 ∧ lostPkg (tLost o) ((7 * 2 ^ 45 + 124) / 2 ^ 45) = true ∧
       ∀ r, l2Line (tLost o) true ((7 * 2 ^ 45 + 124) / 128) = some r → r.owned = false) ∧
    (∀ k ∈ [OpKind.zfill 7, .cline 2], let o := tOp .st k [tPiece (.peer (7 * 2 ^ 45) 0) 128 .sent []]
     Clear (tLost o) o ∧ lostPkg (tLost o) (7 * 2 ^ 45 / 2 ^ 45) = true) := by
  refine ⟨⟨clear_of rfl, by decide +kernel, rfl, by decide +kernel, fun _ h => (by cases h), by decide +kernel, fun l p hp => ?_, by decide +kernel, by decide +kernel⟩,
    ⟨clear_of rfl, rfl, fun _ => rfl⟩, ⟨clear_of rfl, by decide +kernel, lost_apart _, fun l => ?_⟩, fun st hst => ?_, fun st hst => ?_, fun k hk => ?_⟩
  · have : p = 7 := by
      have e : (tLost (tOp .st (.fence 7 6 []) [])).fab.mlost = [] := rfl
      simp only [unownedPeers, e, List.filter_nil, List.map_nil, List.append_nil, List.mem_map, List.mem_filter] at hp
      obtain ⟨r, ⟨hr, -⟩, rfl⟩ := hp
      have hr' : r = { tL2 with peer := true, line := 7 * 2 ^ 38, who := [(3, 0)] } := by simpa [tLost] using hr
      subst hr'; decide +kernel
    subst this; decide +kernel
  · have : (7 * 2 ^ 45 + 4 * (l % 64)) / 2 ^ 45 = 7 := by omega
    rw [this]; decide +kernel
  · simp only [List.mem_cons, List.not_mem_nil, or_false] at hst
    obtain rfl | rfl := hst <;> exact ⟨clear_of rfl, by decide +kernel, lost_apart _, by decide, by decide +kernel⟩
  · simp only [List.mem_cons, List.not_mem_nil, or_false] at hst
    obtain rfl | rfl := hst <;>
      exact ⟨clear_of rfl, by decide, by decide, by decide, by decide +kernel, fun r h => by
        have : l2Line (tLost (tOp .st (.store 6 .relaxed) [])) true ((7 * 2 ^ 45 + 124) / 128) = some r := h
        simp only [l2Line, tLost] at this
        have hr := List.mem_of_find?_eq_some this
        simp only [List.mem_cons, List.not_mem_nil, or_false] at hr
        subst hr; rfl⟩
  · simp only [List.mem_cons, List.not_mem_nil, or_false] at hk
    obtain rfl | rfl := hk <;> exact ⟨clear_of rfl, by decide +kernel⟩

end Sys2Proof.Tests

namespace Sys2Proof.Tests

/-! ## Hypotheses met: tile and temporal operations -/

theorem witness_MatrixAndTemporalArithmetic : (0xFFFFFFFF < 2 ^ 32) ∧
    (∀ e ∈ [(fmtF16, [0x7C01], [0x3C00]), (fmtBf16, [0x3F80], [0xFFC0])], e.2.1.length = e.2.2.length ∧ (∀ x ∈ e.2.1 ++ e.2.2, x < 2 ^ 16) ∧ ∃ x ∈ e.2.1 ++ e.2.2, isNaN e.1 x = true) ∧
    isNaN fmtF32 0x7F800001 = true ∧
    (∀ x ∈ [0, 0x8000], magOf fmtF16 x = 0 ∧ magOf fmtBf16 x = 0) ∧ (∀ x ∈ [0x7BFF, 0xFBFF], magOf fmtF16 x ≠ fmtInf fmtF16 ∧ isNaN fmtF16 x = false) ∧
    magOf fmtF32 0x80000000 = 0 ∧ ((0x30 : Nat) < 64 ∧ (0x10 : Nat) ≠ 0x30 ∧ (63 : Nat) < 64) ∧ ((20 : Nat) < 10 + 11 ∧ 10 + 10 ≤ 20 ∧ 254 ≠ 255) := by decide +kernel

/-- Terms of float K-blocks: zero times infinity, an infinity alone, both infinities, and 1 + 1 × 1 with 2^0 as its greatest power. -/
theorem witness_MatrixAndTemporalArithmetic_terms :
    (∃ e ∈ [0].zip [0x7C00], (magOf fmtF16 e.1 = 0 ∧ magOf fmtF16 e.2 = fmtInf fmtF16)) ∧
    (InfTerm fmtF16 false 0x7F800000 [0x3C00] [0x3C00] ∧ ¬InfTerm fmtF16 true 0x7F800000 [0x3C00] [0x3C00] ∧ InfTerm fmtF16 true 0x7F800000 [0x7C00] [0xBC00]) ∧
    ((∃ y ∈ blockTerms fmtF16 0x3F800000 [0x3C00] [0x3C00], (2 : ℚ) ^ (0 : Int) ≤ |y|) ∧
      ∀ y ∈ blockTerms fmtF16 0x3F800000 [0x3C00] [0x3C00], |y| < (2 : ℚ) ^ (0 + 1 : Int)) ∧
    (FVal.nan true ∈ [FVal.nan true] ∧ isNaN fmtF32 0x7FC00000 = true ∧ magOf fmtF32 0xFF800000 = fmtInf fmtF32 ∧ magOf fmtF32 0xFF7FFFFF < fmtInf fmtF32) := by
  refine ⟨by decide +kernel, ?_, by decide +kernel, List.mem_singleton.mpr rfl, by decide +kernel⟩
  unfold InfTerm; decide +kernel

theorem witness_ReservationsComeAndGo :
    (let g := tBlocked (.obres 10 (2 + 512 * 2) 5 false)
     gangOf (tWith g) g.gid = some g ∧ firstWaiting (tWith g) g.gid (obresWaiting g.core false) = true ∧
       (2 + 512 * 2 : Word).toNat % 512 ≤ (freeUnits (tWith g) g.core false).length ∧ freeRec (tWith g) g.core = some 0) ∧
    (let r := { tRec false with st := .dead }
     let s := { tBase with recs := [r] }
     recOf s r.core r.idx = some r ∧ r.st = .dead ∧ inFlight s r.core r.idx = 0) := by decide +kernel

/-- Record 2 beside one tile operation. -/
def tTileFly (o : Op) (wb : Bool) : State := { tFly o with recs := [tRec wb] }

/-- The bytes of a stream of no groups, and of one whose header has a reserved bit set, in the block's scratchpad. -/
def tStream (bad : Bool) : List Byte := if bad then [0, 0, 2, 0] else [0, 0, 0, 0]

theorem witness_BufferLoadsComplete :
    (∀ k ∈ [OpKind.obldFwd 2 2044 [1, 2, 3, 4], .obldMem 2 2044, .obldReg 2 2044 false [7]],
      let o := tOp .tl k (if k = .obldMem 2 2044 then [tPiece (.scr 2 0) 4 .todo []] else [])
      let s := tTileFly o false
      Clear s o ∧ tileTurn s o = true ∧ engineReady s o false = true ∧ recOf s o.core 2 = some (tRec false) ∧ (tRec false).units.Nodup ∧ 2044 + 4 ≤ 1024 * (tRec false).units.length ∧
        Memory.wf s.obuf = true ∧ (engineRead s o.core [tPiece (.scr 2 0) 4 .todo []]).1.length = 4) ∧
    (∀ bad : Bool, let hdr : Word := if bad then 0x20000 else 0
     let o := tOp .tl (.wbld 2 4 0 false hdr) [tPiece (.scr 2 0) 4 .todo []]
     let bytes := (leBytes hdr.toNat 4 ++ (engineRead (tTileFly o true) o.core o.pieces).1.drop 4).take 4
     let s := { tTileFly o true with scr := Sparse.write 0#8 [] (scrKey 0 0 0) (tStream bad) }
     Clear s o ∧ tileTurn s o = true ∧ engineReady s o false = true ∧ recOf s o.core 2 = some (tRec true) ∧ gangOf s o.gid = some tGang ∧ Memory.wf s.wbuf = true ∧
       mapGaps s tGang o.pc = [] ∧ (tRec true).core = o.core ∧ (tRec true).idx = 2 ∧ (tRec true).units.Nodup ∧ (∃ x ∈ tGang.lanes, x.st ≠ .exited) ∧
       bytes.length ≤ 1024 * (tRec true).units.length ∧ streamBad (tRec true).fmt (tRec true).blen bytes = (if bad then some 0 else none)) ∧
    (let g := { tGang with weight := [{ pc := programEntry, off := 5, lane := 2 }] }
     gangOf (tWith g) g.gid = some g ∧ g.handler = false ∧ canIssue g = true ∧ selectLanes g = some (g, programEntry, 0xFF) ∧ trapGaps (tWith g) g 0x22 programEntry = []) := by
  refine ⟨fun k hk => ?_, fun bad => ?_, by decide +kernel⟩
  · simp only [List.mem_cons, List.not_mem_nil, or_false] at hk
    obtain rfl | rfl | rfl := hk <;> exact ⟨clear_of rfl, by decide +kernel⟩
  · cases bad <;> exact ⟨clear_of rfl, by decide +kernel⟩

/-- Registers converted into a reservation of each kind of packing: 16-bit elements and LNS6 ones. -/
theorem witness_BufferLoadsComplete_cvt : ∀ e ∈ [(0, 2040, [1, 2, 3, 4]), (4, 2016, [1, 2, 3, 4])],
    let r := { tRec false with fmt := e.1, bound := 15 }
    let o := tOp .tl (.obldReg 2 e.2.1 true e.2.2) []
    let s := { tFly o with recs := [r] }
    Clear s o ∧ tileTurn s o = true ∧ o.pieces = [] ∧ recOf s o.core 2 = some r ∧ gangOf s o.gid = some tGang ∧ r.wb = false ∧ r.units.Nodup ∧ r.fmt < 5 ∧
      (if r.fmt = 4 then e.2.1 % 48 = 0 ∧ e.2.2.length % 4 = 0 else e.2.1 % (fmtBits r.fmt / 8) = 0) ∧
      8 * e.2.1 + fmtBits r.fmt * e.2.2.length ≤ 8192 * r.units.length ∧ Memory.wf s.obuf = true ∧ r.bound < 16 := by
  intro e he
  simp only [List.mem_cons, List.not_mem_nil, or_false] at he
  obtain rfl | rfl := he <;> exact ⟨clear_of rfl, by decide +kernel⟩

/-- A group of s8 elements with one element, 5. -/
def tDataOf (pad second : Byte) : List Byte := [5, second, 0, pad]

theorem good_group : GoodGroup 2 (leBytes (1#64).toNat 8 ++ tDataOf 0 0) := by
  refine ⟨1, tDataOf 0 0, rfl, by decide +kernel, fun i h => ?_, fun i h => ?_⟩
  · have hi : i < 1 := h.1
    obtain rfl : i = 0 := by omega
    revert h; unfold ZeroElem; decide +kernel
  · have : ∀ j, j < 32 → ¬(8 ≤ j ∧ (leNat (tDataOf 0 0)).testBit j = true) := by decide +kernel
    exact this i h.2.1 ⟨h.1, h.2.2⟩

/-- A stream of that group, whole; and one whose group stops at an element of zero, or at a pad bit. -/
theorem witness_BufferLoadsComplete_streams :
    (StreamHead 2 0 1 (leBytes 1 4) ∧ StreamHead 4 3 0 (leBytes 65536 4)) ∧ (∀ g ∈ [leBytes (1#64).toNat 8 ++ tDataOf 0 0], GoodGroup 2 g) ∧
    GoodStream 2 0 (leBytes 1 4 ++ (leBytes (1#64).toNat 8 ++ tDataOf 0 0)) ∧
    ((tDataOf 0 0).length = dataLength 2 3 ∧ ZeroElem 2 3 (tDataOf 0 0) 1 ∧ ∀ j, j < 1 → ¬ZeroElem 2 3 (tDataOf 0 0) j) ∧
    ((tDataOf 1 0).length = dataLength 2 1 ∧ (∀ j, ¬ZeroElem 2 1 (tDataOf 1 0) j) ∧ PadBit 2 1 (tDataOf 1 0) 24 ∧ ∀ j, j < 24 → ¬PadBit 2 1 (tDataOf 1 0) j) ∧
    ((tDataOf 0 0).length - 1 < dataLength 2 1) ∧
    (let s := { tBase with wbuf := Sparse.write 0#8 [] (bufKey 0 0 0) (leBytes 1 4 ++ (leBytes (1#64).toNat 8 ++ tDataOf 0 0)) }
     (tRec true).fmt < 5 ∧ (∀ i, i < 16 → recByte s (tRec true) i = (leBytes 1 4 ++ [leBytes (1#64).toNat 8 ++ tDataOf 0 0].flatten).getD i 0) ∧
       (tRec true).badv = false ∧ { tRec true with badv := true, badoff := 16 }.badoff = 16) := by
  have hd : StreamHead 2 0 1 (leBytes 1 4) := ⟨by decide, rfl⟩
  have one : ∀ g ∈ [leBytes (1#64).toNat 8 ++ tDataOf 0 0], GoodGroup 2 g := fun g h => by rw [List.mem_singleton.mp h]; exact good_group
  refine ⟨⟨hd, by decide, ⟨[], rfl, rfl⟩⟩, one, ⟨_, [_], hd, one, by simp⟩, ⟨by decide +kernel, ?_, ?_⟩, ⟨by decide +kernel, fun j h => ?_, ?_, ?_⟩, by decide +kernel, by decide +kernel⟩
  · unfold ZeroElem; decide +kernel
  · unfold ZeroElem; decide +kernel
  · have hj : j < 1 := h.1
    obtain rfl : j = 0 := by omega
    revert h; unfold ZeroElem; decide +kernel
  · unfold PadBit; decide +kernel
  · unfold PadBit; decide +kernel

theorem witness_AccumulatorBanksComeAndGo :
    (let g := tBlocked (.acalloc 30 16)
     gangOf (tWith g) g.gid = some g ∧ firstWaiting (tWith g) g.gid (acallocWaiting g.core) = true ∧ 16 ≤ (freeBanks (tWith g) g.core).length) ∧
    (let g := tBlocked (.acfree 0x8001 10)
     let s := { tWith g with accs := [{ core := 0, bank := 15, blk := 2, hnd := none }], ops := [tOp .tl (.acmov 3 1 0 false 4 0 1 0) [], { tOp .tl (.acmov 3 15 0 false 4 0 1 0) [] with id := 10 }] }
     gangOf s g.gid = some g ∧ ∀ o ∈ s.ops, o.core = g.core → o.blk = g.blk → o.id < 10 → ∀ x ∈ opTiles o, (0x8001#16).getLsbD x.1 = false) := by decide +kernel

/-- An MMA on bank 15, half 1, of records 2 and 3. -/
def tMma : MmaBlock :=
  { acc := false, half := 1, bank := 15, ah := 2, bh := 3, aoff := 0, bgrp := 0, nkb := 1, wv := false, wh := 0, phase := false, waited := false, go := true, av := false,
    ahb := 0, akind := false, acount := 0 }

/-- A block of five scratchpad banks. -/
def tBig : Block := { programBlock with id := 6, bytes := 20480, banks := [some 1, some 2, some 3, some 4, some 5] }

theorem big_distinct : ∀ i j x, tBig.banks.getD i none = some x → tBig.banks.getD j none = some x → i = j := by
  intro i j x hi hj
  rcases i with _ | _ | _ | _ | _ | i <;> rcases j with _ | _ | _ | _ | _ | j <;> simp [tBig] at hi hj <;> omega

def tTilePiece : Piece := { lane := 0, off := 0, place := .scr 6 4092, len := 16384, st := .todo, data := [], psn := [] }

theorem witness_TilesComplete :
    (let b := { tMma with wv := true, wh := 5, waited := true, go := false }
     let o := tOp .tl (.mma b) []
     let s := { tFly o with bars := [tBar] }
     Clear s o ∧ b.waited = true ∧ b.go = false ∧ barNamed s b.wh = some tBar ∧ 3 ≤ tBar.scope ∧
       barNamed { s with bars := [{ tBar with scope := 2 }] } b.wh = some { tBar with scope := 2 }) ∧
    (let o := tOp .tl (.mma tMma) []
     let s := { tFly o with recs := [tRec false, { tRec true with idx := 3 }] }
     Clear s o ∧ tileTurn s o = true ∧ tMma.go = true ∧ tMma.wv = false ∧ tMma.av = false ∧ recOf s o.core 2 = some (tRec false) ∧
       recOf s o.core 3 = some { tRec true with idx := 3 } ∧ (productOf 2 2).isSome = true ∧ gangOf s o.gid = some tGang ∧ Memory.wf s.acc = true ∧ tMma.bank < 16 ∧ tMma.half < 2 ∧
       (∀ e ∈ [(0, 0), (1, 1), (2, 3), (4, 4)], (productOf e.1 e.2).isSome = true)) ∧
    (let b := { tMma with av := true, ahb := 5, acount := 1 }
     let s := { tBase with bars := [{ tBar with exp := 3 }] }
     barNamed s b.ahb = some { tBar with exp := 3 } ∧ (∀ x ∈ s.l1, x.core = 0 → x.dirty = 0) ∧ 2 ≤ tBar.ref ∧ tBar.arr + 1 < 2 ^ 21 ∧ tBar.arr + 1 < 3 ∧ -0x80000000 ≤ tBar.txb ∧
       tBar.txb ≤ 0x7FFFFFFF) ∧
    (∀ clr : Bool, let o := tOp .tl (.acmov 3 15 1 clr 4 63 2 56) []
     Clear (tFly o) o ∧ tileTurn (tFly o) o = true ∧ gangOf (tFly o) o.gid = some tGang ∧ RegsApart (tFly o) tGang ∧ (vKey tGang 7 5).isSome = true) ∧
    (∀ aop clr, (aop, clr) ∈ [(2, false), (0, true), (1, false)] → let o := tOp .tl (.acmov aop 15 1 clr 4 0 1 0) [tTilePiece]
     let s := { tFly o with blocks := [tBig] }
     Clear s o ∧ tileTurn s o = true ∧ engineReady s o (decide (aop < 2)) = true ∧ blockOf s 6 = some tBig ∧ s.tags = [] ∧ Memory.wf s.scr = true ∧ Memory.wf s.acc = true) ∧
    ∀ i, i < 5 → (tBig.banks.getD (4092 / 4096 + i) none).isSome = true := by
  refine ⟨⟨clear_of rfl, by decide +kernel⟩, ⟨clear_of rfl, by decide +kernel⟩, by decide +kernel,
    fun clr => ⟨clear_of rfl, by cases clr <;> decide +kernel, (gang_fly _).mpr rfl, apart_fly _, by decide +kernel⟩, fun aop clr h => ?_, by decide +kernel⟩
  simp only [List.mem_cons, Prod.mk.injEq, List.not_mem_nil, or_false] at h
  obtain ⟨rfl, rfl⟩ | ⟨rfl, rfl⟩ | ⟨rfl, rfl⟩ := h <;> exact ⟨clear_of rfl, by decide +kernel⟩

/-- A tile moved to global memory in two pieces. -/
theorem witness_TilesComplete_togl :
    let ps : List (Nat × Nat × Nat × Nat) := [(0x600000, 0, 0, 8192), (0x612000, 0x12000, 8192, 8192)]
    let o := tOp .tl (.acmov 0 15 1 true 4 0 1 0) (ps.map (fun p => { lane := 0, off := p.2.2.1, place := .mem p.1 p.2.1, len := p.2.2.2, st := .todo, data := [], psn := [] }))
    Clear (tFly o) o ∧ tileTurn (tFly o) o = true ∧ engineReady (tFly o) o true = true ∧ (tFly o).zmaps = [] ∧ (tFly o).ptags = [] ∧ (tFly o).l1 = [] ∧
      (∀ p ∈ ps, p.2.2.1 + p.2.2.2 ≤ 16384) ∧ ps.Pairwise (fun x y => x.1 + x.2.2.2 ≤ y.1 ∨ y.1 + y.2.2.2 ≤ x.1) :=
  ⟨clear_of rfl, by decide +kernel⟩

def tArray (holder : Option Nat) : ArrayRow := { core := 0, holder := holder, max := false, win := 20, w := [(0, 12), (64, 14)], out := [(7, 3)], wpsn := [], opsn := [], hnd := false }

theorem witness_TemporalWordsComplete :
    (let g := tBlocked (.twset 254 true)
     gangOf (tWith g) g.gid = some g ∧ (arrayOf (tWith g) g.core).holder = none ∧ firstWaiting (tWith g) g.gid (twsetWaiting g.core) = true) ∧
    (∀ k ∈ [OpKind.tldw 0, .tlnch ([5, 9] ++ List.replicate 62 255) false 254, .tlnch ([5, 9] ++ List.replicate 62 255) true 1, .tcapt 15, .trst false, .trst true],
      let o := tOp .tl k (if k = .tldw 0 then [{ lane := 0, off := 0, place := .scr 2 0, len := 4096, st := .todo, data := [], psn := [] }] else [])
      let s := { tFly o with arrays := [tArray (some 3)] }
      Clear s o ∧ tileTurn s o = true ∧ engineReady s o false = true ∧ blockOf s 2 = some programBlock ∧ gangOf s o.gid = some tGang ∧ RegsApart s tGang ∧
        (∀ e ∈ (arrayOf s o.core).w, e.2 ≤ 255)) ∧
    (∀ c ∈ ([5, 9] ++ List.replicate 62 255 : List Nat), c ≤ 255) ∧ (vKey tGang 7 15).isSome = true := by
  refine ⟨by decide +kernel, fun k hk => ?_, by decide +kernel⟩
  simp only [List.mem_cons, List.not_mem_nil, or_false] at hk
  obtain rfl | rfl | rfl | rfl | rfl | rfl := hk <;>
    exact ⟨clear_of rfl, by decide +kernel, by decide +kernel, by decide +kernel, by decide +kernel, by unfold RegsApart; decide +kernel,
      by decide +kernel⟩

/-! ## Hypotheses met: barriers and rings -/

/-- Every object of cluster 0 taken. -/
def tFull : List BarRow := (List.range 1024).map (fun i => { noBar 0 i with valid := true })

theorem full_pool {s : State} (e : s.bars = tFull) : freeBar s 0 = none := by
  have h : ∀ i, i < 1024 → (barAt s 0 i).valid = true := fun i hi => by
    have hs : (tFull.find? (fun b => b.clu == 0 && b.slot == i)).isSome = true :=
      List.find?_isSome.mpr ⟨{ noBar 0 i with valid := true }, List.mem_map.mpr ⟨i, List.mem_range.mpr hi, rfl⟩, by simp [noBar]⟩
    obtain ⟨r, hr⟩ := Option.isSome_iff_exists.mp hs
    obtain ⟨j, -, rfl⟩ := List.mem_map.mp (List.mem_of_find?_eq_some hr)
    simp [barAt, e, hr]
  simp only [freeBar, List.find?_eq_none, List.mem_range]
  intro i hi
  simp [h i hi]

theorem no_unowned {s : State} (h : s.l2 = []) (gid l : Nat) (hm : s.fab.mlost = [] := by rfl) : unownedPeers s gid l = [] := by simp [unownedPeers, h, hm]

theorem witness_BarriersServe :
    (let o := tOp .ld (.balloc 30 6 5 2) []
     Clear (tFly o) o ∧ gangOf (tFly o) o.gid = some tGang ∧ Sparse.wf 0#32 tGang.k = true ∧ freeBar (tFly o) (o.core / 4) = some 0 ∧ o.core < 160 ∧
       (barAt (tFly o) 0 0).gen < 2 ^ 14 ∧ Clear { tFly o with bars := tFull } o ∧ freeBar { tFly o with bars := tFull } (o.core / 4) = none) ∧
    (∀ b ∈ [tBar, { tBar with ref := 1 }], let o := tOp .st (.bfree 5) []
     let s := { tFly o with bars := [b], gangs := [tGang, { tBlocked (.bwait 5 4 0xFF none) with gid := 8 }] }
     Clear s o ∧ barNamed s 5 = some b ∧ (5#32).toNat < 2 ^ 30 ∧ syncTurn s o = true ∧ gangOf s 8 = some { tBlocked (.bwait 5 4 0xFF none) with gid := 8 }) ∧
    (let o := tOp .st (.bfree 6) []
     Clear { tFly o with bars := [tBar] } o ∧ syncTurn { tFly o with bars := [tBar] } o = true ∧ barNamed { tFly o with bars := [tBar] } 6 = none) ∧
    (∀ e ∈ [(0, { tBar with exp := 2 }, (0 : Word)), (0, { tBar with exp := 1 }, 0), (0, { tBar with exp := 1, txb := -5 }, 3), (1, { tBar with exp := 2 }, 0xFFFFFFF),
        (2, { tBar with exp := 1 }, 0), (2, { tBar with exp := 2, arr := 1 }, 9)],
      let o := tOp .st (.barv 5 e.1 true e.2.2) []
      let s := { tFly o with bars := [e.2.1], gangs := [tGang, { tBlocked (.bwait 5 4 0xFF none) with gid := 8 }] }
      Clear s o ∧ barNamed s 5 = some e.2.1 ∧ (5#32).toNat < 2 ^ 30 ∧ (∀ x ∈ s.l1, x.core = o.core → x.dirty = 0) ∧ (∀ l, unownedPeers s o.gid l = []) ∧ (∀ d ∈ s.dir, d.pend = []) ∧ syncTurn s o = true ∧ e.2.1.arr + 1 < 2 ^ 21 ∧
        e.2.1.txb + e.2.2.toNat < 0x80000000 ∧ -0x80000000 ≤ e.2.1.txb + e.2.2.toNat ∧ ctxRow s e.2.1.owner = some programCtx) ∧
    (∀ ok : Bool, let g := tBlocked (.bwait 5 6 0x81 (some ok))
      gangOf (tWith g) g.gid = some g ∧ barNamed { tWith g with bars := [tBar] } 5 = some tBar ∧ 3 ≤ tBar.scope ∧ 7 < g.lanes.length) := by
  refine ⟨⟨clear_of rfl, by decide +kernel, by decide +kernel, by decide +kernel, by decide +kernel, by decide +kernel, clear_of rfl, full_pool rfl⟩, fun b hb => ?_,
    ⟨clear_of rfl, by decide +kernel⟩, fun e he => ?_, fun ok => by cases ok <;> decide +kernel⟩
  · simp only [List.mem_cons, List.not_mem_nil, or_false] at hb
    obtain rfl | rfl := hb <;> exact ⟨clear_of rfl, by decide +kernel⟩
  · simp only [List.mem_cons, List.not_mem_nil, or_false] at he
    obtain rfl | rfl | rfl | rfl | rfl | rfl := he <;>
      exact ⟨clear_of rfl, by decide +kernel, by decide +kernel, by decide +kernel, no_unowned rfl 3, by decide +kernel⟩

/-- The ring with these slot states. -/
def tSlots (st : List SlotSt) : RingRow := { tRing with st := st, rpend := 1 }

theorem witness_RingsServe :
    (let g := tBlocked (.ring 40 0 0xC01)
     gangOf (tWith g) g.gid = some g ∧ freeRing (tWith g) g.core = some 0 ∧ firstWaiting (tWith g) g.gid (ringWaiting g.core) = true) ∧
    (let g := tBlocked (.ringRel tRingH)
     let x := { tBlocked (.rawait tRingH 44 0xFF) with gid := 8 }
     let s := { tWith g with rings := [tRing], gangs := [g, x] }
     gangOf s g.gid = some g ∧ ringNamed s g.core tRingH = some tRing ∧ ringCopies s g.core tRing.obj = [] ∧ gangOf s x.gid = some x ∧ x.core = g.core) ∧
    (let g := tBlocked (.rawait tRingH 44 0xFF)
     let r := tSlots [.full, .filling, .free, .free]
     let s := { tWith g with rings := [r] }
     gangOf s g.gid = some g ∧ ringNamed s g.core tRingH = some r ∧ r.st[r.rp]? = some .full ∧ firstWaiting s g.gid (rawaitWaiting g.core tRingH) = true) ∧
    (let o := tOp .st (.rrel tRingH) []
     let r := tSlots [.held, .full, .free, .free]
     let s := { tFly o with rings := [r] }
     Clear s o ∧ ringNamed s o.core tRingH = some r ∧ (∀ x ∈ s.l1, x.core = o.core → x.dirty = 0) ∧ syncTurn s o = true) :=
  ⟨by decide +kernel, by decide +kernel, by decide +kernel, clear_of rfl, by decide +kernel⟩

end Sys2Proof.Tests

namespace Sys2Proof.Tests

/-! ## Hypotheses met: the device, the host's requests -/

/-- A signature of the right shape, leaf 5, and the key whose root it leads to. -/
def tSig : List Byte := beBytes 5 4 ++ otsType ++ List.replicate 1120 0 ++ lmsType ++ List.replicate 640 0

def tKey : List Byte := lmsKey (List.replicate 16 7) (lmsRoot (List.replicate 16 7) [1] tSig)

/-- An image with that signature under that key, or with none. -/
def tImg (good : Bool) : FwImage := if good then { bytes := [1], key := tKey, sig := tSig } else tFw

def tFuse : BitVec 256 := sha256 tKey

theorem sig_shape : lmsShape tSig = true := by decide +kernel

theorem no_key (msg sig : List Byte) : lmsValid [] msg sig = false := rfl

theorem img_verified (b : Bool) : Verified tFuse (tImg b) ↔ b = true := by
  cases b
  · simp [Verified, tImg, tFw, no_key]
  · exact ⟨fun _ => rfl, fun _ => ⟨rfl, lmsValid_own _ _ _ (by decide) sig_shape, by decide⟩⟩

/-- This package in group 1 with package 4. -/
def tNet : State := tMember tBase

/-- What a first start-up meets: sound or unsound images in the banks (bank B empty where `b` is none) and with the spars, 17 expanders. -/
def tFacts (a : Bool) (b : Option Bool) (sp : Bool) (fail : Nat) : BootFacts :=
  { bankA := some (tImg a), bankB := b.map tImg, spars := List.replicate 16 (tImg sp), expanders := List.replicate 16 4096 ++ [2 ^ 60],
    target0 := some { kind := .nvme 1, pdom := none }, target1 := some { kind := .cxl 0 4096, pdom := some 2 }, failStep := fail, fuse := tFuse,
    ident := { phys := 9, keys := List.replicate 16 [1] } }

/-- A package ready for the host, `tree` key trees used up and `leaf` keys of the next; the masthead came from bank B if `inB`. -/
def tReady (tree leaf : Nat) (inB : Bool := false) : State :=
  { State.reset with boot := { State.reset.boot with step := 8, fuse := tFuse, tree := tree, leaf := leaf, inB := inB, spars := List.replicate 16 (tImg true) } }

def tPower (reef cool : Nat) : State := { State.reset with power := { State.reset.power with reef := reef, cool := cool } }

theorem witness_DeviceServes_boot :
    let fuse := tFuse
    let good := fun f : BootFacts => (∃ i ∈ f.bankA.or State.reset.boot.bankA, Verified fuse i) ∨ (∃ i ∈ f.bankB.or State.reset.boot.bankB, Verified fuse i)
    let spars := fun f : BootFacts => f.spars.length = 16 ∧ ∀ i ∈ f.spars, Verified fuse i
    State.reset.boot.fuse = 0 ∧ (∀ a b sp n, (if State.reset.boot.fuse = 0 then (tFacts a b sp n).fuse else State.reset.boot.fuse) = fuse) ∧
      ¬good (tFacts false none true 0) ∧ (good (tFacts false (some true) false 0) ∧ ¬spars (tFacts false (some true) false 0)) ∧
      (∀ n ∈ [3, 7], good (tFacts true none true n) ∧ spars (tFacts true none true n) ∧ 3 ≤ (tFacts true none true n).failStep ∧ (tFacts true none true n).failStep ≤ 7) ∧
      (∀ n ∈ [2, 8], good (tFacts true (some false) true n) ∧ spars (tFacts true (some false) true n) ∧
        ((tFacts true (some false) true n).failStep < 3 ∨ 7 < (tFacts true (some false) true n).failStep)) := by
  have e : State.reset.boot.fuse = 0 := rfl
  have ha : State.reset.boot.bankA = none := rfl
  have hb : State.reset.boot.bankB = none := rfl
  simp [tFacts, img_verified, e, ha, hb]

theorem witness_DeviceServes_images :
    ({ State.reset with boot := { State.reset.boot with recovery := true, fuse := tFuse } } : State).boot.recovery = true ∧
    (tReady 0 0).boot.step = 8 ∧ (tReady 0 0).boot.fuse = tFuse ∧ (∀ vf ∈ [1, 16], 1 ≤ vf ∧ vf ≤ 16 ∧ vf ≤ (tReady 0 0).boot.spars.length) ∧ Verified tFuse (tImg true) ∧
    (tReady 0 0).boot.inB = false ∧ (tReady 0 0 true).boot.inB = true ∧ ¬Verified tFuse (tImg false) ∧
    ¬Verified tFuse { tImg true with bytes := List.replicate (2 ^ 20 + 1) 0 } := by
  refine ⟨rfl, rfl, rfl, ?_, (img_verified _).mpr rfl, rfl, rfl, fun h => (by cases (img_verified _).mp h), fun h => absurd h.2.2 (by rw [List.length_replicate]; decide)⟩
  have e : (tReady 0 0).boot.spars.length = 16 := List.length_replicate
  rw [e]; decide

theorem witness_DeviceServes_power :
    State.reset.policies.powerCeiling = 3000 ∧
    (∀ e ∈ ([(0, 115), (3001, 114), (0, 105), (0, 99), (2699, 99), (2700, 99), (3000, 104)] : List (Nat × Int)),
      115 ≤ e.2 ∨ (e.2 < 115 ∧ (3000 < e.1 ∨ 105 ≤ e.2)) ∨ (e.1 ≤ 3000 ∧ e.2 < 100 ∧ 10 * e.1 < 27000) ∨ (e.1 ≤ 3000 ∧ e.2 < 105 ∧ (100 ≤ e.2 ∨ 27000 ≤ 10 * e.1))) ∧
    (tPower 1 9).power.cool + 1 = 10 ∧ (tPower 1 8).power.cool + 1 ≠ 10 ∧ ((105 : Int) ≤ 114 ∧ (115 : Int) ≤ 124 ∧ (125 : Int) ≤ 125) := by decide

theorem witness_DeviceServes_reports :
    (tReady 16 0).boot.step = 8 ∧ 16 ≤ (tReady 16 0).boot.tree ∧ (tReady 15 (2 ^ 20 - 2)).boot.tree < 16 ∧ (tReady 15 (2 ^ 20 - 2)).boot.leaf + 1 < 2 ^ 20 ∧
    (tReady 15 (2 ^ 20 - 1)).boot.leaf + 1 = 2 ^ 20 ∧ (∀ e ∈ policyTable, e.2.1 ≤ e.2.2 ∧ ¬(e.2.1 ≤ e.2.2 + 1 ∧ e.2.2 + 1 ≤ e.2.2)) ∧
    (tReady 0 0).policies.sliceLength.length = 17 ∧ (tReady 0 0).policies.sliceWeight.length = 17 ∧ ((31 : Nat) < 32 ∧ State.reset.fab.ports = []) ∧
    31 ∈ ({ State.reset with fab := { State.reset.fab with ports := [31] } } : State).fab.ports := by decide +kernel

def tSpec : CtxSpec := { id := 2, fn := 16, root := 0x800000, trapvec := 0x100, group := 255, right := true, rate := 300, windows := [(3, [6143])] }

/-- A queue of context 1 at virtual address 0x10000, its header in memory with TAIL `tail`. -/
def tQueue (slots head : Nat) : QueueRow :=
  { vf := 0, num := 63, ctx := 1, base := 0x10000, slots := slots, enabled := true, head := head, tail := 0, qerr := 0, seen := none, asis := false, plan := none }

def tQ (q : QueueRow) (bytes : List Byte) (recs : List Byte) : State :=
  { tBase with queues := [q], mem := Sparse.write 0#8 (Sparse.write 0#8 tBase.mem 0x610000 bytes) 0x610080 recs }

def tPod (st : PodState) : PodEntry := { lid := 2047, phys := 9, st := st, pdom := 1, sgrp := 255, epoch := 3 }

/-- Two members, this package and package 4, each with the 4,096 bytes at its local address 0x610000; loads add. -/
def tGrpWrite : GroupWrite :=
  { desc := BitVec.ofNat 512 (2 + 2 ^ 18 + 4096 * 2 ^ 64 + 0x700000 * 2 ^ 256), array := [0x610000, BitVec.ofNat 64 (4 * 2 ^ 45 + 0x610000)], agreed := true }

theorem witness_HostRequestsServed_contexts :
    (tBase.boot.step = 8 ∧ ctxSpecOk tBase tSpec = true ∧ tBase.tags = [] ∧ opsUse tBase (fun p _ => match p with
      | .die _ _ _ => true
      | _ => false) = false) ∧
    ctxRow tBase 1 = some programCtx ∧ programCtx.fn = 0 ∧ programCtx.fn ≠ 16 ∧ ctxBusy tBase 1 = true ∧
    ctxBusy { tBase with gangs := [], blocks := [] } 1 = false ∧ ctxRow { tBase with gangs := [], blocks := [] } 1 = some programCtx := by decide +kernel

theorem witness_HostRequestsServed_maps :
    (∀ k ∈ [1, 16], queueSpecOk tBase 0 { vf := 0, num := 63, ctx := 1, base := 0x10000, slots := 2 ^ k } = true) ∧
    ctxGaps tBase 1 true [(0x10000, 128)] = [] ∧ ctxRoom tBase 1 [(0x10000, 128)] = true ∧ queueOf (tQ (tQueue 2 0) [] []) 0 63 = some (tQueue 2 0) ∧
    ([tPod .live].map (fun e => e.lid)).Nodup ∧ (tBase.pod.map (fun e => e.lid)).Nodup ∧ (∀ e ∈ [tPod .live, tPod .retiring, tPod .failed], e.lid < 2048 ∧ e.sgrp < 256) ∧
    (∀ e ∈ [tPod .live], e.st = .failed → inService tBase e.lid = false) ∧ entryGroup tBase 4 = entryGroup tBase tBase.fab.lid ∧
    entryGroup { tBase with pod := [tPod .live] } 2047 ≠ entryGroup { tBase with pod := [tPod .live] } 0 ∧
    (let s := { tBase with pod := [tPod .live] }
     s.col0.st = .free ∧ s.col1.st = .free ∧ snapqAsks s .c0 = [] ∧ snapqAsks s .c1 = [] ∧ (tPod .failed).st = .failed ∧ inService s (tPod .failed).lid = true ∧
       lostPkg s (tPod .failed).lid = false) := by decide +kernel

theorem witness_HostRequestsServed_groups :
    (groupOk tBase tGrpWrite = true ∧ 4095 < 4096 ∧ (tBase.groups.map (fun e => e.1)).Nodup ∧ tBase.zmaps = [] ∧ groupOk tBase { tGrpWrite with agreed := false } = false) ∧
    Memory.wf tBase.mem = true ∧ ∀ r ∈ tBase.l2, r.peer = false → r.dirty = 0 → ∀ n, n < 128 → r.data.getD n 0 = Memory.byte tBase.mem (128 * r.line + n) :=
  ⟨by decide +kernel, mem_base, fun r h => (by cases h)⟩

theorem witness_HostRequestsServed_writes :
    (∀ va ∈ [0x10000, 0x10FF8], va < 2 ^ 56 ∧ va % 4096 + 8 ≤ 4096 ∧ translateNow tBase 1 va .wr = .place (.mem (0x600000 + va) va) ∧ (0x600000 + va) % 4096 + 8 ≤ 4096 ∧
      ctxGaps tBase 1 true [(va, 8)] = []) ∧
    tBase.zmaps = [] ∧ tBase.ptags = [] ∧ (1, 16) ∈ ({ tBase with invals := [(1, 16)] } : State).invals ∧ ∀ o ∈ tBase.ops, o.ctx ≠ 1 := by decide +kernel

theorem witness_HostRequestsServed_lines :
    let r : L2Line := { tL2 with peer := false, line := 0x610000 / 128, dirty := 1 }
    let s := { tBase with l2 := [r] }
    l2Line s false (0x610000 / 128) = some r ∧ r.dirty ≠ 0 ∧ l2Line s true (0x610000 / 128) = none ∧ s.zmaps = [] ∧ Memory.wf s.mem = true ∧ ∀ x ∈ s.l1, x.dirty = 0 := by
  decide +kernel

def tFarHeld (owned : Bool) (dirty : Nat) (wbs : List Nat) : State :=
  { tNet with l2 := [{ tFarL2 owned with dirty := BitVec.ofNat 128 dirty }], fab := { tNet.fab with wbs := wbs } }

theorem witness_HostRequestsServed_peers :
    (∀ owned ∈ [false, true], ∀ dirty ∈ [0, 1],
      l2Line (tFarHeld owned dirty []) false (tFar / 128) = none ∧ l2Line (tFarHeld owned dirty []) true (tFar / 128) = some { tFarL2 owned with dirty := BitVec.ofNat 128 dirty } ∧
        tFar / 128 ∉ (tFarHeld owned dirty []).fab.wbs ∧ (tFarHeld owned dirty []).fab.member = true) ∧
    tFar / 128 ∈ (tFarHeld true 0 [tFar / 128]).fab.wbs := by decide +kernel

theorem witness_HostRequestsServed_losses :
    let held := { tBase with boot := { tBase.boot with expanders := [(Config.cxlBase, 4096)] } }
    ((Config.cxlBase, 4096) ∈ held.boot.expanders ∧ (Config.cxlBase, 4096) ∉ held.boot.cxlLost ∧ (Config.cxlBase, 4096) ∉ tBase.boot.expanders) ∧
    ∀ st ∈ [PodState.live, .retiring], ∀ down ∈ [[], [2047]], let s := { tBase with pod := [tPod st], fab := { tBase.fab with down := down } }
      podEntry s 2047 = some (tPod st) ∧ ((tPod st).st = .live ∨ (tPod st).st = .retiring) ∧ s.col0.st = .free ∧ s.col1.st = .free ∧ snapqAsks s .c0 = [] ∧
        snapqAsks s .c1 = [] ∧ 2047 ≠ s.fab.lid ∧ (2047 ∈ s.fab.down ↔ down = [2047]) := by decide +kernel

end Sys2Proof.Tests

namespace Sys2Proof.Tests

/-! ## Hypotheses met: queues, dispatch, residency -/

/-- Pieces of bytes put in the program's page, at its virtual addresses. -/
def tPut (m : Memory) (ps : List (Nat × List Byte)) : Memory := ps.foldl (fun m p => Sparse.write 0#8 m (0x600000 + p.1) p.2) m

/-- A launch record: the first two words, entry, descriptor, parameters, a grid of one block, the wait and arrival fields. -/
def tLrec (w0 w1 entry kdesc param wait arr : Nat) : List Byte :=
  leBytes w0 4 ++ leBytes w1 4 ++ leBytes entry 8 ++ leBytes kdesc 8 ++ leBytes param 8 ++ leBytes 1 2 ++ leBytes 1 2 ++ leBytes 1 2 ++ List.replicate 30 0 ++
    leBytes wait 4 ++ leBytes arr 4

/-- A record of one gang at the program's entry. -/
def tPlain (w0 wait : Nat) : List Byte := tLrec w0 0 0x1000 0 0 wait 0

/-- The queue with TAIL `tail` read and in memory, its first records at their slots. -/
def tQs (base slots tail : Nat) (recs : List (List Byte)) (more : List (Nat × List Byte)) : State :=
  { tBase with queues := [{ tQueue slots 0 with base := base, tail := tail }],
               mem := tPut tBase.mem ((base, leBytes tail 4) :: (recs.mapIdx (fun i r => (base + 128 + 128 * i, r)) ++ more)) }

def tQr (base slots tail : Nat) : QueueRow := { tQueue slots 0 with base := base, tail := tail }

/-- Queue `q` has a head record, every line that its acceptance needs is there, and the record meets `f` once it has been seen. -/
def tHead (s : State) (q : QueueRow) (f : State → QueueRow → LaunchRec → Bool) : Prop :=
  ∃ r x, headRecord s q = some r ∧ readGaps s q.ctx [(slotAt q q.head, 128)] = [] ∧
    firstGaps [descGaps s q.ctx r, recordGaps s q.ctx r, ctxGaps s q.ctx true (takeWrites q r)] = [] ∧ ctxRoom s q.ctx (takeWrites q r) = true ∧
    queueOf (noteSeen s q) q.vf q.num = some x ∧ f (noteSeen s q) x r = true

def tHeadIs (s : State) (q : QueueRow) (f : State → QueueRow → LaunchRec → Bool) : Bool :=
  match headRecord s q, queueOf (noteSeen s q) q.vf q.num with
  | some r, some x => decide (readGaps s q.ctx [(slotAt q q.head, 128)] = []) &&
      decide (firstGaps [descGaps s q.ctx r, recordGaps s q.ctx r, ctxGaps s q.ctx true (takeWrites q r)] = []) && ctxRoom s q.ctx (takeWrites q r) && f (noteSeen s q) x r
  | _, _ => false

theorem head_is {s : State} {q : QueueRow} {f : State → QueueRow → LaunchRec → Bool} (h : tHeadIs s q f = true) : tHead s q f := by
  unfold tHeadIs at h
  split at h
  · rename_i r x h1 h2
    simp only [Bool.and_eq_true, decide_eq_true_eq] at h
    exact ⟨r, x, h1, h.1.1.1, h.1.1.2, h.1.2, h2, h.2⟩
  · cases h

/-- A kernel of two packets: its region (`w`, NOP, a branch to itself while p0), and an EXIT. -/
def tKernel (w : Instr) : List Byte :=
  [w, .nop 0, .bra 0 false 0, .nop 0, .exitW, .nop 0, .nop 0, .nop 0].flatMap (fun i => leBytes ((encode i).getD 0).toNat 4)

/-- Its descriptor: role, one tile entry of one row of eight 32-bit elements, the arena at 0x13000. -/
def tDesc (role isIn : Nat) : List Byte :=
  leBytes (role * 2 ^ 30 + 2 ^ 24 + 16) 4 ++ leBytes 0 4 ++ leBytes 1 4 ++ leBytes 2 4 ++ leBytes 0x13000 8 ++ leBytes 4096 4 ++ leBytes 0 4 ++
    leBytes (isIn * 2 ^ 23) 4 ++ leBytes 0 4 ++ leBytes 64 4 ++ leBytes 1 2 ++ leBytes 8 2

/-- A splice pair in one queue; `role` of the second descriptor. -/
def tPair (role : Nat) : State :=
  tQs 0x10000 2 2 [tLrec 5 (2 ^ 13) 0x11000 0x11200 0x12000 0 0, tLrec 6 (2 ^ 13) 0x11100 0x11280 0x12000 0 0]
    [(0x11000, tKernel (.st (tMem 4 (.uni 4) 4 0 0 false))), (0x11100, tKernel (.ld (tMem 4 (.uni 4) 4 0 0 false))), (0x11200, tDesc 1 0), (0x11280, tDesc role 1)]

/-- What DispatcherServes asks of a producer at the head of a queue whose partner the splicer fuses with it (`want`) or refuses. -/
def tPlanned (s : State) (q : QueueRow) (want : Bool) : Bool :=
  let s1 := noteSeen s q
  match headRecord s q, queueOf s1 q.vf q.num with
  | some p, some x => decide (slotGaps s q = []) && decide (descGaps s q.ctx p = []) && decide (recordGaps s q.ctx p = []) && isProducer s1 x p &&
      decide (rejectStatus s1 x.ctx p = none) && !recordWaits s1 x p && !headHeld s1 x && (match partnerOf s1 x p with
      | some (qc, c) => decide (firstGaps [descGaps s1 qc.ctx c ++ recordGaps s1 qc.ctx c, kernGaps s1 x.ctx p ++ kernGaps s1 qc.ctx c] = []) &&
          (match planOf s1 x.ctx qc.ctx p c with
           | .error e => !want && decide (e < 6) && decide (ctxGaps s1 x.ctx true (takeWrites x p) = []) && ctxRoom s1 x.ctx (takeWrites x p)
           | .ok pl =>
             let d := decided s1 x qc p c pl
             let s2 := setQueue s1 { x with plan := some d }
             want && !c.serial && !arenaInUse s2 x.ctx pl.pd.arena && (match partnerThere s2 x d with
             | some qd => decide (ctxGaps s2 x.ctx true (planWrites d x qd) = []) && ctxRoom s2 x.ctx (planWrites d x qd)
             | none => false))
      | none => false)
  | _, _ => false

/-- What DispatcherServes asks of a queue that is scanned: TAIL `n`, its records within the queue or not, their slots readable or not. -/
def tScan (s : State) (q : QueueRow) (n : Nat) (pendOk slotsOk : Bool) : Bool :=
  decide (queueOf s q.vf q.num = some q) && headerOk s q && decide (readGaps s q.ctx [(q.base, 4)] = []) && decide (ctxNat s q.ctx q.base 4 .rd = some n) &&
    decide (ctxGaps s q.ctx true [(q.base, 128)] = []) && ctxRoom s q.ctx [(q.base, 128)] && (decide (n ≤ q.slots) == pendOk) &&
    ((List.range n).all (fun i => pageOk s q.ctx (slotAt q (q.head + i)) .rd) == slotsOk) &&
    (!slotsOk || decide (n = 0) || decide (readGaps s q.ctx [(slotAt q q.head, 128)] = []))

def tJob (next ended cpla : Nat) : Launch := { programLaunch with next := next, ended := ended, cpla := cpla }

def tJobs (l : Launch) : State := { tBase with launches := [l], gangs := [], blocks := [], slices := [], banks := [] }

theorem witness_DispatcherServes_scans :
    (tQr 0x10000 2 0).enabled = true ∧ (tQr 0x10000 2 0).qerr = 0 ∧
      queueOf (tQs 0x200000 2 0 [] []) 0 63 = some (tQr 0x200000 2 0) ∧ headerOk (tQs 0x200000 2 0 [] []) (tQr 0x200000 2 0) = false ∧
      tScan (tQs 0x10000 2 0 [] []) (tQr 0x10000 2 0) 0 true true = true ∧ tScan (tQs 0x10000 2 2 [] []) (tQr 0x10000 2 2) 2 true true = true ∧
      tScan (tQs 0x10000 2 3 [] []) (tQr 0x10000 2 3) 3 false true = true ∧ tScan (tQs 0x1FFF80 2 1 [] []) (tQr 0x1FFF80 2 1) 1 true false = true := by decide +kernel

/-- The same record with a collective binding and a completion record. -/
def tEnds (r : List Byte) (coll cpla : Nat) : List Byte := r ++ leBytes 0 4 ++ leBytes coll 8 ++ leBytes cpla 8

/-- Neither a skipped record nor a producer, and no splice waits for the head. -/
def tGoes (s1 : State) (x : QueueRow) (r : LaunchRec) : Bool := !headHeld s1 x && decide (r.kind ≠ 3) && !isProducer s1 x r

/-- Queue 62's splice waits for the record at the head of queue 63. -/
def tPlanFor : State :=
  let s := tQs 0x10000 2 1 [tPlain 5 0] []
  { s with queues := s.queues ++ [{ tQueue 2 0 with num := 62, plan := some { partner := 63, record := 0, serialC := false, arena := 0x13000, units := [], launch := programLaunch } }] }

theorem witness_DispatcherServes_heads :
    tHead (tQs 0x10000 2 1 [tPlain (3 * 2 ^ 30) 0] []) (tQr 0x10000 2 1) (fun s1 x r => !headHeld s1 x && decide (r.kind = 3)) ∧
    tHead (tPair 2) (tQr 0x10000 2 2) (fun s1 x r => decide (r.kind ≠ 3) && isProducer s1 x r) ∧
    tHead tPlanFor (tQr 0x10000 2 1) (fun s1 x _ => headHeld s1 x) ∧
    tHead { tQs 0x10000 2 1 [tPlain 0 (2 ^ 31 + 5)] [] with bars := [tBar] } (tQr 0x10000 2 1)
      (fun s1 x r => decide (r.kind ≠ 3) && recordWaits s1 x r && decide (rejectStatus s1 1 r = none)) ∧
    tHead (tQs 0x10000 2 1 [tPlain 5 0] []) (tQr 0x10000 2 1)
      (fun s1 x r => tGoes s1 x r && decide (rejectStatus s1 1 r = none) && !recordWaits s1 x r && !r.wv && !r.av && decide (r.coll = 0)) := by
  refine ⟨head_is ?_, head_is ?_, head_is ?_, head_is ?_, head_is ?_⟩ <;> decide +kernel

/-- Each row of R257 is the first that fails for one of these records: a reserved KIND (its completion record can be written, or cannot), a snapshot without
the right, a barrier that does not live, a pool that names a page without code, a collective binding that cannot be read. -/
theorem witness_DispatcherServes_rejected :
    (∀ e ∈ [(2 * 2 ^ 30, 0, 0, 0, 0, 4), (2 * 2 ^ 30, 0, 0, 0, 0x14000, 4), (2 * 2 ^ 30, 0, 0, 0, 0x200000, 4), (5, 2 ^ 14, 0, 0, 0, 6), (5, 0, 2 ^ 31 + 5, 0, 0, 7),
        (5, 0, 0, 0x14000, 0, 4)],
      tHeadIs (tQs 0x10000 2 1 [tEnds (tLrec e.1 e.2.1 0x1000 0 0 e.2.2.1 0) e.2.2.2.1 e.2.2.2.2.1] []) (tQr 0x10000 2 1)
        (fun s1 x r => tGoes s1 x r && decide (rejectStatus s1 1 r = some e.2.2.2.2.2) && decide (r.cpla = e.2.2.2.2.1) &&
          (decide (r.cpla = 0) || (ctxWrite s1 1 r.cpla (leBytes e.2.2.2.2.2 4 ++ leBytes 0 4 ++ leBytes 0 8)).isSome == decide (r.cpla = 0x14000))) = true) ∧
    tHeadIs (tQs 0x10000 2 1 [leBytes (2 ^ 30) 4 ++ leBytes 0 4 ++ leBytes 0 8 ++ leBytes 0 40 ++ leBytes 0x14000 8 ++ leBytes 1 4] [(0x14000, leBytes 0x200000 8)])
      (tQr 0x10000 2 1) (fun s1 x r => tGoes s1 x r && decide (r.kind = 1) && decide (rejectStatus s1 1 r = some 5) && poolRefused s1 1 r) = true := by
  decide +kernel

theorem witness_DispatcherServes_pairs : ∀ b : Bool, tPlanned (tPair (if b then 2 else 1)) (tQr 0x10000 2 2) b = true := by decide +kernel

def tWordsOf (is : List Instr) : List Word := is.map (fun i => (encode i).getD 0#32)

/-- A fused pair: each kernel a region of one packet that branches back to itself and a packet that exits, the second with a word that decodes to nothing. -/
def tFusedPlan : Plan :=
  let k : Nat → Instr → Kern := fun entry w => {
    entry := entry, so := 0, sl := 1, last := 1, pks := [tWordsOf [w, .nop 0, .bra 0 false 0, .nop 0], tWordsOf [.mod plainMod, .exitW] ++ [0x38140E08#32, 0]] }
  let d : KDesc := { role := 1, tripp := 0, regs := 16, sploff := 0, spllen := 1, codelen := 2, arena := 0x13000, arenasz := 4096,
                     tiles := [{ pidx := 0, isIn := false, trans := true, slot := 0, fmt := 0, wpkt := 0, stride := 64, rows := 1, cols := 8 }] }
  { p := k 0x11000 (.st (tMem 4 (.uni 4) 4 0 0 false)), c := k 0x11100 (.ld (tMem 4 (.uni 4) 4 0 0 false)), pd := d, cd := { d with role := 2 },
    outs := [some 0], took := [some 0], np := 16, up := 8, pm := [], xm := [], mm := [] }

theorem witness_DispatcherServes_image :
    let pl := tFusedPlan
    fusedOrder pl = [(false, 0), (true, 0), (false, 1), (true, 1)] ∧ pl.p.word 1 2 = none ∧ pl.p.word 0 1 = some (.nop 0) ∧ targetOf 0 (.nop 0) = none ∧
    pl.p.word 0 2 = some (.bra 0 false 0) ∧ pl.p.back = some 2 ∧ pl.p.part 1 = 2 ∧ pl.p.word 1 1 = some .exitW ∧ modBefore pl.p 1 1 ≠ none ∧
    (∃ i, pl.c.word 0 0 = some i ∧ targetOf 0 i = none) ∧ pl.c.word 0 2 = some (.bra 0 false 0) ∧ pl.c.back = some 2 ∧ tileKind pl (false, 1) = none ∧
    tileKind pl (false, 0) = some (0, 2, 0) ∧ tileKind pl (true, 0) = some (0, 3, 0) := by
  refine ⟨?_, ?_, ?_, rfl, ?_, ?_, ?_, ?_, ?_, ⟨.ld (tMem 4 (.uni 4) 4 0 0 false), ?_, rfl⟩, ?_, ?_, ?_, ?_, ?_⟩ <;> decide +kernel

theorem witness_DispatcherServes_launches :
    (∀ c ∈ [0, 159], launchOf (tJobs (tJob 0 0 0)) 1 = some (tJob 0 0 0) ∧ dispatchTurn (tJobs (tJob 0 0 0)) 1 = true ∧
      placementOk (tJobs (tJob 0 0 0)) (tJob 0 0 0) { cores := [c] } = true ∧
      ∀ g ∈ (tJobs (tJob 0 0 0)).gangs, g.gid < (tJobs (tJob 0 0 0)).fresh ∧ (g.core = c → g.parked = false)) ∧
    (∀ a ∈ [0, 0x20000, 0x200000], launchOf (tJobs (tJob 1 1 a)) 1 = some (tJob 1 1 a) ∧ launchDone (tJobs (tJob 1 1 a)) (tJob 1 1 a) = true ∧
      (tJob 1 1 a).fused = none ∧ (tJob 1 1 a).wv = false ∧ (tJob 1 1 a).av = false ∧ (tJobs (tJob 1 1 a)).l1 = [] ∧ (tJobs (tJob 1 1 a)).l2 = [] ∧
      ctxGaps (tJobs (tJob 1 1 a)) 1 true [(a, 16)] = [] ∧ ctxRoom (tJobs (tJob 1 1 a)) 1 [(a, 16)] = true) ∧
    ∀ e ∈ [(0x20000, true), (0x200000, false)], (ctxWrite (tJobs (tJob 1 1 e.1)) 1 e.1 (leBytes 0 4 ++ leBytes 0 4 ++ leBytes 0 8)).isSome = e.2 := by
  decide +kernel

/-- The program with its gang changed. -/
def tGangs (gs : List Gang) : State := { tBase with gangs := gs }

def tAllExited : Gang := { tGang with lanes := tGang.lanes.map (fun x => { x with st := .exited }) }

/-- The context's vectors at virtual address 0x100, its KILL handler at the program's entry. -/
def tVectors : State := { tBase with ctxs := [{ programCtx with trapvec := 0x100 }], mem := tPut tBase.mem [(0x138, leBytes 0x1000 8)] }

/-- Contexts 1 and 2, range 6143 of die 3 the last of context 2's window. -/
def tWindow : State :=
  { tBase with ctxs := [programCtx, { programCtx with id := 2, windows := [(3, [6142, 6143])] }], ranges := [(3, 6142, 2), (3, 6143, 2)] }

/-- Two launches wait: the one of priority 6 comes first. -/
def tLaunches (steps : Nat) (rows : List BankRow) : State :=
  { tBase with launches := [{ programLaunch with next := 0, split := 7, prio := 5 }, { programLaunch with id := 8, next := 0, split := steps, prio := 6 }], banks := rows, splits := [(0, 11), (159, 11)] }

theorem witness_ResidencyChanges_splits :
    (∀ core ∈ [0, 159], splitAsker (tLaunches 2 []) core = some { programLaunch with id := 8, next := 0, split := 2, prio := 6 }) ∧ splitOf (tLaunches 2 []) 0 = 11 ∧
    (2 < 11 ∧ 2 ≤ 2 ∧ ∀ r ∈ (tLaunches 2 []).banks, r.core = 0 → r.idx < 16 * 2) ∧ 1 < 2 ∧
    (∃ r ∈ (tLaunches 2 [{ core := 0, idx := 32, blk := 2, ctx := 1 }]).banks, r.core = 0 ∧ 16 * 2 ≤ r.idx) ∧
    blockOf tBase 2 = some programBlock ∧ programBlock.away = false ∧ gangOf tBase 3 = some tGang := by decide +kernel

theorem witness_ResidencyChanges_claims :
    let n := { tGang with gid := 9, smap := [] }
    let v := { tGang with away := true }
    let s := { tGangs [n, v] with slices := [{ core := 0, part := 0, idx := 0, st := .claimed 3 9 }] }
    sliceRow s 0 0 0 = some { core := 0, part := 0, idx := 0, st := .claimed 3 9 } ∧ gangOf s 3 = some v ∧ sliceHolder s 0 0 0 = some (v, 0, 0) ∧
      sliceTargeted s v 0 0 = false ∧ Sparse.wf 0#32 s.vrf = true ∧ ∀ x ∈ s.gangs, x.core = 0 → x.load = false := by decide +kernel

/-- A block that is away; its launch asks for seven steps, the core has two, or more than its gangs leave free. -/
def tAway (steps : Nat) (full : Bool) : State :=
  let b := { programBlock with away := true }
  { tGangs ({ tGang with away := true } :: if full then (List.range 16).map (fun i => { tGang with gid := 20 + i, slot := i, blk := 7 }) else []) with
    blocks := [b], launches := [{ programLaunch with split := 7 }], splits := [(0, steps)] }

theorem witness_ResidencyChanges_resumes :
    ∀ full ∈ [false, true], let b := { programBlock with away := true }
      let s := tAway 2 full
      let s1 := regrow s b
      blockOf s 2 = some b ∧ (s.gangs.map (fun x => x.gid)).Nodup ∧ (resumeOk s1 b (s1.gangs.filter (fun g => g.blk == 2)) = !full) ∧
        launchOf s b.launch = some { programLaunch with split := 7 } ∧ splitOf s 0 = 2 ∧ s.saved = [] := by decide +kernel

theorem witness_ResidencyChanges_owners :
    (bankRow tBase 159 175 = none ∧ Memory.wf tBase.scr = true ∧ sliceRow tBase 159 15 127 = none ∧ Sparse.wf 0#32 tBase.vrf = true ∧ accOf tBase 159 15 = none ∧
      Memory.wf tBase.acc = true ∧ leafNames tBase 1 0 0x600000 0x200000 = true ∧ frameBusy tBase 0x600000 0x200000 = false ∧
      pageRoom tBase 0x600000 0x200000 = true ∧ frameGaps tBase 0x600000 0x200000 = []) ∧
    ∀ c ∈ [0, 1], rangeBusy tWindow 3 6143 = false ∧ lastRange tWindow 3 6143 = true ∧ (3, 6143, c) ∉ tWindow.ranges ∧ unitRoom (wrPost 0) (.range 3 6143) 3 tWindow = true ∧
      (c = 0 ∨ (ctxRow tWindow c).isSome = true) ∧ Memory.wf tWindow.dsc = true := by decide +kernel

theorem witness_ResidencyChanges_ends :
    gangOf (tGangs [tAllExited]) 3 = some tAllExited ∧ gangDone (tGangs [tAllExited]) tAllExited = true ∧ blockOf (tGangs [tAllExited]) 2 = some programBlock ∧
    launchOf (tGangs [tAllExited]) 1 = some programLaunch ∧ tAllExited.killed = false ∧ (∀ h ∈ (tGangs [tAllExited]).gangs, h.gid ≠ 3 → h.blk ≠ 2) ∧
    ∀ k : Bool, let g := { tAllExited with killed := k }
      let s := tGangs [g, { tGang with gid := 9 }]
      gangOf s 3 = some g ∧ gangDone s g = true ∧ (s.gangs.map (fun x => x.gid)).Nodup ∧ (∃ h ∈ s.gangs, h.gid ≠ 3 ∧ h.blk = 2) ∧
        launchOf s g.launch = some programLaunch ∧ programLaunch.fatal = none := by decide +kernel

theorem witness_ResidencyChanges_kills :
    (tGang.dead = false ∧ tGang.pend = [] ∧ tGang.lanes.length = tGang.width ∧ tGang.width ≤ 64 ∧ (∃ x ∈ tGang.lanes, x.st ≠ .exited) ∧
      gangOf tVectors 3 = some tGang ∧ vectorEntry tVectors 1 7 = some 0x1000 ∧ pcOk tGang 0x1000 = true ∧ vectorEntry tBase 1 7 = some 0 ∧
      vectorGaps tVectors 1 7 = [] ∧ vectorGaps tBase 1 7 = [] ∧ (∃ y ∈ (tSerialIn [] .held).lanes, y.st = .held) ∧ ∀ y ∈ tGang.lanes, y.st = .eligible ∨ y.st = .exited) ∧
    (let g := { tGang with killed := true, handler := true }
     gangOf (tGangs [g]) 3 = some g) ∧
    (let g := tBlocked (.ringRel 0)
     gangOf (tGangs [g]) g.gid = some g ∧ g.dead = false ∧ g.away = false ∧ g.blocked ≠ none ∧ g.width ≤ 64 ∧ (laneAt g 0).st ≠ .exited) := by decide +kernel

end Sys2Proof.Tests

namespace Sys2Proof.Tests

/-! ## Hypotheses met: packets and collectives -/

/-- A packet from package 4 to this one about an address. -/
def tFrom (cls : BitVec 4) (addr : Nat) (body : PktBody) : Packet := { tPkt cls 4 5 with addr := addr, body := body }

/-- An address that this package homes. -/
def tHome : Nat := 5 * 2 ^ 45 + 0x610000

def tArr (s : State) (cls : BitVec 4) (p : Packet) : Bool :=
  deliverable cls p s && decide (p.stamp = stampOf s) && decide ((chanOf s p.src).got.length < 2 ^ 30)

theorem arrives_iff {s : State} {cls : BitVec 4} {p : Packet} : Arrives s cls p ↔ tArr s cls p = true := by simp [Arrives, tArr, and_assoc]

def tBytes : List Byte := List.replicate 128 7

/-- An atomic operation of this package, its one group at its home. -/
def tAtomOp : Op := tOp .ld (.atom 0 false 7 .relaxed false true 4 [{ place := .peer tFar 0, lanes := [0], opnds := [(0, 1)], olds := [], st := .sent, psn := [], late0 := false, late1 := false }]) []

/-- L2's copy of package 4's line, one byte Dirty. -/
def tPeerL2 (owned : Bool) (dirty : BitVec 128) : State := { tNet with l2 := [{ tL2 with peer := true, line := tFar / 128, dirty := dirty, owned := owned }] }

/-- The directory with package 7 as owner of the line. -/
def tOwned : State := { tNet with dir := [{ noDir (0x610000 / 128) with owner := some 7, shared := [4] }] }

def tOps (o : Op) : State := { tNet with ops := [o], fresh := 20 }

/-- A telltale's payload: COUNT 0, ID 77, SEQ, group 1, INIT, the colour. -/
def tTell (seq : Nat) (c : Colour) : BitVec 128 := BitVec.ofNat 128 (77 * 2 ^ 64 + seq * 2 ^ 32 + 2 ^ 8 + 2 + if c = .c1 then 1 else 0)

theorem witness_PacketsAct_requests :
    (∀ rem : Bool, Arrives tNet 0 (tFrom 0 tHome (.req 3 rem 159)) ∧ tHome / 2 ^ 45 = tNet.fab.lid ∧ freeFor tNet (tHome % 2 ^ 45 / 128) 4 false = true ∧
      engineHolds tNet (tHome % 2 ^ 45 / 128) = false) ∧
    (∀ s ∈ [tNet, tOwned], Arrives s 2 (tFrom 2 tHome (.req 0 false 0)) ∧ engineHolds s (tHome % 2 ^ 45 / 128) = false) ∧
    freeFor tNet (tHome % 2 ^ 45 / 128) 4 true = true ∧ freeFor tOwned (tHome % 2 ^ 45 / 128) 4 true = false ∧
    (dirLine tOwned (tHome % 2 ^ 45 / 128)).owner = some 7 ∧ 7 ≠ (tFrom 2 tHome (.req 0 false 0)).src := by
  simp only [arrives_iff]; decide +kernel

/-- A load of package 4's memory asked of its home, the answer good or not, L2 with a copy or none, another operation of pod scope under way there or not. -/
def tAsked (ok : Bool) (l2 : List L2Line) (wbs : List Nat) (busy : Bool) : State :=
  let o := tOp .ld (.load 4 1 0 6 .relaxed false) [tPiece (.peer tFar 0) 4 .sent []]
  let w := { tOp .st (.store 6 .relaxed) [tPiece (.peer (tFar + 4) 0) 4 .sent [1, 2, 3, 4]] with id := 10 }
  { tNet with ops := if busy then [o, w] else [o], fresh := 20, l2 := l2, fab := { tNet.fab with reads := [(tFar / 128, tagOf 9 0, ok)], wbs := wbs } }

theorem witness_PacketsAct_lines :
    Arrives tNet 1 (tFrom 1 tFar (.data 0 0 tBytes 0)) ∧ tBytes.length = 128 ∧ tNet.fab.reads = [] ∧ scopePlace 6 = 2 ∧
    ∀ e ∈ [(true, [], [], false), (true, [tFarL2 false], [], false), (true, [{ tFarL2 false with filled := false, dirty := 1 }], [], false), (false, [], [], false),
        (true, [], [tFar / 128], false), (true, [], [], true)],
      let s := tAsked e.1 e.2.1 e.2.2.1 e.2.2.2
      Arrives s 1 (tFrom 1 tFar (.data (tagOf 9 0) 0 tBytes 0)) ∧ (∀ x ∈ s.l1, x.dirty = 0) ∧
        s.fab.reads.find? (fun x => x.1 == tFar / 128 && x.2.1 == tagOf 9 0) = some (tFar / 128, tagOf 9 0, e.1) ∧ homeBusy s 0 (tFar / 128) = e.2.2.2 ∧
        l2Line s true (tFar / 128) = e.2.1.head? ∧ ∃ o, opOf s 9 = some o ∧ o.pieces[0]? = some (tPiece (.peer tFar 0) 4 .sent []) := by
  simp only [arrives_iff]
  refine ⟨by decide +kernel, rfl, rfl, by decide, ?_⟩
  intro e he
  refine ⟨?_, ?_, ?_, ?_, ?_, tOp .ld (.load 4 1 0 6 .relaxed false) [tPiece (.peer tFar 0) 4 .sent []], ?_, rfl⟩ <;> revert e <;> decide +kernel

/-- The package in multicast group 2, its range at 0x620000. -/
def tMc : State := { tNet with groups := [(2, { op := 1, switch := 0, port := 0, size := 4096, trec := 4, mema := 0x700000, members := [(4, 0x620000), (5, 0x620000)] })] }

/-- A load from the aperture, or a store to it, under way. -/
def tMcOp (kind : OpKind) : State := { tMc with ops := [tOp .ld kind [tPiece (.mcast 2 8 0) 4 .sent [1, 2, 3, 4]]], fresh := 20 }

theorem witness_PacketsAct_groups :
    (∀ kind ∈ [OpKind.load 4 1 0 6 .relaxed false, .store 6 .relaxed], let o := tOp .ld kind [tPiece (.mcast 2 8 0) 4 .sent [1, 2, 3, 4]]
      opOf (tMcOp kind) 9 = some o ∧ 0 < o.id ∧ o.pieces[0]? = some (tPiece (.mcast 2 8 0) 4 .sent [1, 2, 3, 4])) ∧
    Arrives (tMcOp (.load 4 1 0 6 .relaxed false)) 1 (tFrom 1 0 (.mvals (tagOf 9 0) [[1, 0, 0, 0], [2, 0, 0, 0]] [])) ∧
    Arrives (tMcOp (.store 6 .relaxed)) 6 (tFrom 6 0 (.ack (tagOf 9 0))) ∧
    (groupDesc tMc 2).map (fun d => d.members.length) = some 2 ∧
    apertureAddr tMc (tFrom 8 (2 * 2 ^ 32) .none) = some 0x620000 ∧ tMc.zmaps = [] ∧ tMc.ptags = [] ∧ homeFree tMc (0x620000 / 128) true = true ∧
    (∀ cls ∈ [8, 12], Arrives tMc (BitVec.ofNat 4 cls) (tFrom (BitVec.ofNat 4 cls) (2 * 2 ^ 32) (.data 9 1 tBytes 0))) ∧
    Arrives tMc 9 (tFrom 9 (2 * 2 ^ 32) (.mload 9 4 false)) ∧ (0x620000 + 4 - 1) / 128 = 0x620000 / 128 ∧ homeFree tMc (0x620000 / 128) false = true := by
  simp only [arrives_iff]; decide +kernel

theorem witness_PacketsAct_engines : ∀ line : Nat, engineHolds tMc line = false := fun _ => rfl

theorem witness_PacketsAct_atomics :
    (Arrives (tOps tAtomOp) 1 (tFrom 1 tFar (.olds (tagOf 9 0) 0 1 [5] [])) ∧ opOf (tOps tAtomOp) 9 = some tAtomOp ∧
      (tOps tAtomOp).fab.parts = [] ∧ l2Line (tOps tAtomOp) true (tFar / 128) = none ∧ l1Line (tOps tAtomOp) 0 true (tFar / 128) = none) ∧
    ∀ e ∈ [(false, 2), (true, 2), (true, 64)], Arrives tNet 7 (tFrom 7 (tHome + 120) (.atomic 9 0 e.1 0 e.2 [(1, 2), (3, 4)])) ∧ tNet.fab.parts = [] ∧
      (tHome + 120) / 2 ^ 45 = tNet.fab.lid ∧ engineHolds tNet ((tHome + 120) % 2 ^ 45 / 128) = false ∧
      homeFree tNet ((tHome + 120) % 2 ^ 45 / 128) true = true ∧ (tHome + 120) % 2 ^ 45 % 128 + (if e.1 then 8 else 4) ≤ 128 := by
  simp only [arrives_iff]; decide +kernel

/-- The same with an OWNERSHIP_REQUEST for the line under way, or its grant received. -/
def tGrants (s : State) (owns mine : Bool) : State :=
  { s with fab := { s.fab with owns := if owns then [tFar / 128] else [], mine := if mine then [tFar / 128] else [] } }

theorem witness_PacketsAct_ownership :
    (∀ owns ∈ [false, true], Arrives (tGrants (tPeerL2 false 1) owns false) 3 (tFrom 3 tFar .none) ∧
      (l2Line (tGrants (tPeerL2 false 1) owns false) true (tFar / 128)).isSome = true ∧ (tFar / 128 ∈ (tGrants (tPeerL2 false 1) owns false).fab.owns ↔ owns = true)) ∧
    (∀ tag ∈ [0, 4096], Arrives tNet 4 (tFrom 4 tHome (.data tag (BitVec.allOnes 128) tBytes 0)) ∧ tNet.zmaps = [] ∧ tNet.ptags = [] ∧
      freeFor tNet (tHome % 2 ^ 45 / 128) 4 true = true ∧ lostPkg tNet 4 = false) ∧
    (Arrives tNet 5 (tFrom 5 tFar (.req 0 false 0)) ∧ l2Line tNet true (tFar / 128) = none ∧ tNet.fab.wbs = []) ∧
    (Arrives tNet 5 (tFrom 5 tFar (.ack 1)) ∧ tFar / 128 ∉ tNet.fab.mine ∧ Arrives (tGrants tNet false true) 5 (tFrom 5 tFar (.ack 1)) ∧
      tFar / 128 ∈ (tGrants tNet false true).fab.mine ∧ engineKeeps (tGrants tNet false true) (tFar / 128) = false) ∧
    (∀ e ∈ [(false, 1), (true, 0), (true, 1)], Arrives (tPeerL2 e.1 (BitVec.ofNat 128 e.2)) 5 (tFrom 5 tFar (.req 0 false 0)) ∧
      l2Line (tPeerL2 e.1 (BitVec.ofNat 128 e.2)) true (tFar / 128) = some { tL2 with peer := true, line := tFar / 128, dirty := BitVec.ofNat 128 e.2, owned := e.1 }) ∧
    Arrives tOwned 6 (tFrom 6 tHome (.ack 0)) := by
  simp only [arrives_iff]; decide +kernel

theorem witness_PacketsAct_acks :
    let q := tPiece (.peer tFar 0) 4 .sent [1, 2, 3, 4]
    let o := tOp .st (.store 7 .relaxed) [q]
    Arrives (tOps o) 6 (tFrom 6 tFar (.ack (tagOf 9 0))) ∧ opOf (tOps o) 9 = some o ∧ o.pieces[0]? = some q ∧ q.st = .sent ∧ isMcast q.place = false ∧
      l2Line (tOps o) true (tFar / 128) = none ∧ l1Line (tOps o) 0 true (tFar / 128) = none := by
  simp only [arrives_iff]; decide +kernel

theorem witness_PacketsAct_promotions :
    (Arrives tNet 10 (tFrom 10 tHome (.req 0 false 159)) ∧ tNet.l1 = [] ∧ postsDone tNet = true) ∧
    (let r : DirReq := { src := 4, own := false, tag := 3, rem := true, core := 0 }
     let s := { tNet with dir := [{ noDir 7 with reqs := [r] }] }
     (dirLine s 7).reqs = [r] ∧ (dirLine s 7).note = none ∧ r.src ≠ s.fab.lid ∧ freeFor s 7 r.src false = true ∧ engineHolds s 7 = false ∧ s.fab.member = true) ∧
    13 ≤ (tFrom 13 0 .none).cls.toNat ∧ (tFrom 13 0 .none).dst = tNet.fab.lid ∧ tNet.fab.member = true ∧ 13 ≤ (tFrom 15 0 .none).cls.toNat := by
  simp only [arrives_iff]; decide +kernel

theorem witness_PacketsAct_telltales :
    (∀ b : Bool, let c := if b then Colour.c1 else .c0
      let p := { tFrom 11 0 (.tell (tTell 1 c)) with stamp := if b then 2 else 1 }
      deliverable 11 p tNet = true ∧ fellow tNet 4 = true ∧ (((tTell 1 c).extractLsb' 8 8).toNat = ownGroup tNet) ∧ (tTell 1 c).getLsbD 0 = b ∧ tNet.snapAcc = none ∧
        stampDiffers tNet p (otherColour c) = false ∧ (chanOf tNet 4).got.length < 2 ^ 30 ∧ seqBefore (cutSeqOf tNet 1) ((tTell 1 c).extractLsb' 32 32) = true ∧
        (colRow tNet c).st = .free) ∧
    (let s := tCol .capturing 4 tBase
     let s1 := { s with cutSeqs := [(1, 1)] }
     let p := fun seq => tFrom 11 0 (.tell (tTell seq .c0))
     deliverable 11 (p 1) s = true ∧ fellow s 4 = true ∧ 1 = ownGroup s ∧ s.snapAcc = none ∧ stampDiffers s (p 1) .c1 = false ∧ seqBefore (cutSeqOf s 1) 1 = true ∧
       (colRow s .c0).st ≠ .free ∧ (colRow s .c0).st ≠ .freePending ∧ deliverable 11 (p 1) s1 = true ∧ seqBefore (cutSeqOf s1 1) 1 = false ∧ (colRow s1 .c0).seq = 1) ∧
    (let o := tOp .st (.snapq 24 6 .c0 true none) []
     let s := { tCol .capturing 4 tBase with ops := [o], fresh := 20 }
     Arrives s 12 (tFrom 12 0 (.coord 5 .c0 0 false 3 (BitVec.ofNat 32 9))) ∧ fellow s 4 = true ∧ coordinatorOf s .c0 = 4 ∧ opOf s 9 = some o ∧
       Arrives tNet 12 (tFrom 12 0 (.coord 4 .c0 0 false 0 7)) ∧ fellow tNet 4 = true) := by
  simp only [arrives_iff]; decide +kernel

end Sys2Proof.Tests

namespace Sys2Proof.Tests

/-- A chunk at a step of the group's collective: bytes 0x12000 on are the bound range, the aperture's range lies at 0x20000 of the same page. `busy` and
`got` are what its packets await and have brought, `down` the packages whose links are down. -/
def tCollAt (epoch : Word) (kind src dst len : Nat) (closed : Bool) (busy : List Nat) (got : List (Nat × List Byte × List Nat)) (down : List Nat) : State :=
  let b : CollBind := { rtab := 0x11000, rbase := 0x12000, trec := 0, epoch := epoch }
  let k : RouteStep := { kind := kind, grp := 2, src := src, dst := dst, len := len }
  { tMc with launches := [{ programLaunch with coll := some b }], fab := { tMc.fab with down := down },
             chunks := [{ launch := 1, chunk := 0, step := 0, busy := busy, closed := closed, steps := some [k], dests := [], core := 0, tag0 := 7, got := got, cut0 := false,
                          cut1 := false }],
             mem := tPut tBase.mem [(0x11000, leBytes 1 4 ++ leBytes 1 4), (0x11010, leBytes (kind * 2 ^ 30 + 2) 4 ++ leBytes src 4 ++ leBytes dst 4 ++ leBytes len 4)] }

def tColl (epoch : Word) (kind src dst len : Nat) (closed : Bool) : State := tCollAt epoch kind src dst len closed [] [] []

def tCur (s : State) (kind : Nat) (f : ChunkStep → Bool) : Bool :=
  match currentStep s 1 0 kind with
  | .ok (some k) => f k
  | _ => false

theorem cur_is {s : State} {kind : Nat} {f : ChunkStep → Bool} (h : tCur s kind f = true) : ∃ k, currentStep s 1 0 kind = .ok (some k) ∧ f k = true := by
  unfold tCur at h
  split at h
  · rename_i k hk; exact ⟨k, hk, h⟩
  · cases h

def tReaches (s : State) (k : ChunkStep) (va n : Nat) (acc : Acc) (ps : List (Place × Nat)) : Bool :=
  match enginePlaces s k.launch.ctx va n acc with
  | .ok qs => decide (qs = ps) && (chunkAsk s (decide (acc = .wr)) qs).isNone
  | .error _ => false

/-- The same chunk before it fires. -/
def tUnfired : Chunk :=
  { launch := 1, chunk := 0, step := 0, busy := [], closed := false, steps := none, dests := [], core := 0, tag0 := 0, got := [], cut0 := false, cut1 := false }

/-- Its route table is in memory, or at an address without a page. -/
theorem witness_CollectiveStepsRun_fires :
    (∀ e ∈ [(0x11000, true), (0x400000, false)],
      let b : CollBind := { rtab := e.1, rbase := 0x12000, trec := 0, epoch := 1 }
      let s := { tColl 1 0 0 4088 8 false with launches := [{ programLaunch with coll := some b }], chunks := [tUnfired] }
      launchOf s 1 = some { programLaunch with coll := some b } ∧ chunkOf s 1 0 = some tUnfired ∧ routeGaps s 1 b 0 = [] ∧
        routeSteps s 1 b 0 = if e.2 then some [{ kind := 0, grp := 2, src := 0, dst := 4088, len := 8 }] else none) ∧
    tMc.l1 = [] ∧ tMc.fab.member = true ∧ tMc.zmaps = [] ∧ tMc.ptags = [] := by decide +kernel

theorem witness_CollectiveStepsRun_pushes :
    (∃ k, currentStep (tColl 1 0 0 4089 8 false) 1 0 0 = .ok (some k) ∧ (!k.chunk.closed && decide (k.grp.size < k.step.dst + k.step.len)) = true) ∧
    (∃ k, currentStep (tColl 1 0 0x3EE000 4088 8 false) 1 0 0 = .ok (some k) ∧ (!k.chunk.closed && decide (k.step.dst + k.step.len ≤ k.grp.size) &&
      (match enginePlaces (tColl 1 0 0x3EE000 4088 8 false) k.launch.ctx (k.bind.rbase + k.step.src) k.step.len .rd with
       | .error c => decide (c = fcXlate)
       | .ok _ => false)) = true) ∧
    ∃ k, currentStep (tColl 1 0 0 4088 8 false) 1 0 0 = .ok (some k) ∧ (!k.chunk.closed && decide (k.step.dst + k.step.len ≤ k.grp.size) &&
      tReaches (tColl 1 0 0 4088 8 false) k (k.bind.rbase + k.step.src) k.step.len .rd [(.mem 0x612000 0x12000, 8)] &&
      !opsOwn (tColl 1 0 0 4088 8 false) [(.mem 0x612000 0x12000, 8)]) = true := by
  refine ⟨cur_is ?_, cur_is ?_, cur_is ?_⟩ <;> decide +kernel

/-- A step whose packets are out: an acknowledgement is awaited of package 4, which lives; nothing is awaited; nothing but of package 4, which is lost. -/
theorem witness_CollectiveStepsRun_sent : ∀ kind ∈ [0, 2], ∀ e ∈ [([4], [], true), ([], [], false), ([4], [4], false)],
    let s := tCollAt 1 kind 0 0 8 true e.1 [] e.2.1
    tCur s kind (fun k => k.chunk.closed && (k.chunk.busy.any (fun b => !lostPkg s (b % 2048)) == e.2.2) && decide (lostMembers s k.grp = e.2.1)) = true := by decide +kernel

/-- The line that package 4 has not granted yet. -/
def tOpen : State := { tColl 1 2 4088 0 0 false with l2 := [{ tFarL2 false with dirty := 1 }] }

theorem witness_CollectiveStepsRun_flags :
    (∃ k, currentStep (tColl 1 2 4089 0 0 false) 1 0 2 = .ok (some k) ∧ (!k.chunk.closed && decide (ownRank (tColl 1 2 4089 0 0 false) k.step.grp = some 1) &&
      decide (k.grp.size < k.step.src + 4 * 1 + 4)) = true) ∧
    ∀ e ∈ [(tColl 1 2 4088 0 0 false, false), (tOpen, true)], tCur e.1 2 (fun k => !k.chunk.closed && decide (ownRank e.1 k.step.grp = some 1) &&
      decide (k.step.src + 4 * 1 + 4 ≤ k.grp.size) && decide ((k.step.src + 4 * 1) % 128 ≤ 124) && (postsOpen e.1 k.launch.ctx == e.2)) = true := by
  refine ⟨cur_is ?_, ?_⟩ <;> decide +kernel

theorem witness_CollectiveStepsRun_waits :
    (∃ k, currentStep (tColl 1 3 4089 0 0 false) 1 0 3 = .ok (some k) ∧ decide (k.grp.size < k.step.src + 4 * k.grp.members.length) = true) ∧
    ∀ epoch ∈ [0, 1], let s := tColl (BitVec.ofNat 32 epoch) 3 4088 0 0 false
      tCur s 3 (fun k => decide (k.step.src + 4 * k.grp.members.length ≤ k.grp.size) && (chunkAsk s false (physPlaces (ownBase s k.grp + k.step.src) 8)).isNone &&
        (List.range 2).all (fun i => decide (leNat (dirBytes s (ownBase s k.grp + k.step.src + 4 * i) 4) = 0)) && decide (k.bind.epoch = BitVec.ofNat 32 epoch) &&
        !opsOwn s (physPlaces (ownBase s k.grp + k.step.src) 8) && decide (lostMembers s k.grp = [])) = true := by
  refine ⟨cur_is ?_, ?_⟩ <;> decide +kernel

/-- PULL: out of range; not sent yet; part of its answers brought, one byte of them poisoned; a member lost. -/
theorem witness_CollectiveStepsRun_pulls :
    (∃ k, currentStep (tColl 1 1 4089 0 8 false) 1 0 1 = .ok (some k) ∧ decide (k.grp.size < k.step.src + k.step.len) = true) ∧
    ∀ e ∈ [(false, [], [], []), (true, [7 * 2048 + 4], [(0, List.replicate 8 1, [3])], []), (true, [], [], [4])],
      let s := tCollAt 1 1 4088 0 8 e.1 e.2.1 e.2.2.1 e.2.2.2
      tCur s 1 (fun k => decide (k.step.len = 8) && decide (k.step.src + 8 ≤ k.grp.size) && decide (k.grp.op ≠ 0) && decide (8 % groupElem k.grp = 0) &&
        (k.chunk.closed == e.1) && tReaches s k (k.bind.rbase + k.step.dst) 8 .wr [(.mem 0x612000 0x12000, 8)] && !opsOwn s [(.mem 0x612000 0x12000, 8)] &&
        decide ((localBytes [(.mem 0x612000 0x12000, 8)]).Nodup) && decide ((k.chunk.got.map (fun x => x.1)).Nodup) &&
        k.chunk.got.all (fun x => decide (x.2.1.length ≤ 128)) && decide (lostMembers s k.grp = e.2.2.2)) = true := by
  refine ⟨cur_is ?_, ?_⟩ <;> decide +kernel

end Sys2Proof.Tests

namespace Sys2Proof.Tests

/-! ## Hypotheses met: snapshots, restorations -/

/-- A program's SNAP, a request of the host for context 1 or of the policy waits, for group 1. -/
def tReq (src : SnapSrc) (s : State) : State :=
  { s with snapReqs := [{ src := src, group := 1, id := 77 }], ops := [tOp .st (.snap 20 1 77 1 none) []], fresh := 20 }

def tSources : List SnapSrc := [.host 1, .policy, .op 9]

/-- The package of group 1 with its context so. -/
def tMay (c : CtxRow) : State := { tNet with ctxs := [c] }

def tCtx1 (right recent : Bool) : CtxRow := { programCtx with group := 1, right := right, rate := 300, recent := recent }

/-- Colour 1 capturing as well. -/
def tBoth : State := let s := tCol .capturing 4 tBase; { s with col1 := { s.col0 with snid := 78 } }

/-- The group has no member but this package, which coordinates. -/
def tAlone (st : ColSt) : State := let s := tCol st 5 tBase; { s with pod := s.pod.drop 1 }

/-- A tag on the gang's slice and on the program's page. -/
def tTagged : State :=
  { tCol .capturing 4 tBase with
    tags := [{ col := .c0, unit := .slice 0 0 0 }], ptags := [{ col := .c0, ctx := 1, pte := 0x402000, va := 0, frame := 0x600000, lines := 16384, done := [] }] }

/-- Colour 0 of a snapshot of group 1 that package `co` began: FREE at the members in `acks`, ABORTED at those in `aborts`, the group at `grp`. -/
def tColOf (st : ColSt) (co grp : Nat) (acks aborts : List Nat) : State :=
  let s := tCol st co tBase
  { s with col0 := { s.col0 with acks := acks, aborts := aborts, grp := grp } }

/-- Die 0's engine writes colour 0 to this target; the package has 1 MiB of expander memory. -/
def tHal (d : TargetDesc) (s : State) : State :=
  { s with halyard := [{ die := 0, col := .c0, desc := d, copy := none, subm := 0, comp := 0 }], boot := { s.boot with cxlBytes := 2 ^ 20 } }

def tTargets : List TargetDesc := [{ kind := .nvme 1, pdom := none }, { kind := .nvme 1, pdom := some 9 }, { kind := .cxl Config.cxlBase (2 ^ 20), pdom := some 5 }]

/-- What LOCAL_DONE writes there can be written. -/
def tWritten (d : TargetDesc) : Bool :=
  let s := tHal d (tCol .capturing 4 tBase)
  let recs := (colRow s .c0).stream ++ [.fin]
  (putTarget .c0 d (targetTop s d.kind) (streamBytes recs ++ trailerBytes (chunkDigests recs)) (modHalyard s .c0 (fun x => { x with copy := none }))).isSome

/-- Package 5's image of that snapshot, on a window. -/
def tHeld : Image :=
  { group := 1, id := 77, lid := 5, recs := [], chunks := [], root := 0, complete := true, size := 64, places := [(.cxl Config.cxlBase (2 ^ 20), 0)] }

theorem witness_SnapshotsProceed_requests : ∀ src ∈ tSources,
    (tReq src tBase).snapAcc = none ∧ (tReq src tBase).snapReqs = [{ src := src, group := 1, id := 77 }] ∧ memberOf (tReq src tBase) 1 = false ∧
    memberOf (tReq src tNet) 1 = true ∧ ctxRow (tReq src (tMay (tCtx1 false false))) 1 = some (tCtx1 false false) ∧ (tCtx1 false false).right = false ∧
    ctxRow (tReq src (tMay (tCtx1 true true))) 1 = some (tCtx1 true true) ∧ (tCtx1 true true).recent = true ∧ (tCtx1 true true).rate ≠ 0 ∧
    ctxRow (tReq src (tMay (tCtx1 true false))) 1 = some (tCtx1 true false) ∧ (tCtx1 true false).right = true ∧ (tCtx1 true false).group = 1 ∧
    (tCtx1 true false).recent = false ∧ (opOf (tReq src tNet) 9).map (fun o => o.ctx) = some 1 ∧ (colRow (tReq src tNet) .c0).st = .free ∧
    memberOf (tReq src tBoth) 1 = true ∧ (tReq src tBoth).col0.st ≠ .free ∧ (tReq src tBoth).col1.st ≠ .free ∧
    memberOf (tReq src (tCol .capturing 4 tBase)) 1 = true ∧ (colRow (tReq src (tCol .capturing 4 tBase)) .c1).st = .free ∧
    (tReq src (tCol .capturing 4 tBase)).col0.st ≠ .free := by decide +kernel

/-- The accepted request before its cut. -/
def tCut (src : SnapSrc) (c : Colour) : State :=
  { tMember (tFly (tOp .st (.snap 20 1 77 1 none) [])) with snapAcc := some ({ src := src, group := 1, id := 77 }, c) }

theorem witness_SnapshotsProceed_cuts (src : SnapSrc) (c : Colour) :
    let o := tOp .st (.snap 20 1 77 1 none) []
    (tCut src c).snapAcc = some ({ src := src, group := 1, id := 77 }, c) ∧ (tCut src c).fab.member = true ∧ Clear (tCut src c) o ∧
      gangOf (tCut src c) o.gid = some tGang ∧ Sparse.wf 0#32 tGang.k = true :=
  ⟨rfl, rfl, clear_of rfl, rfl, by decide +kernel⟩

theorem witness_SnapshotsProceed_answers :
    (let o := tOp .st (.snap 20 1 77 1 (some 0)) []
     Clear (tFly o) o ∧ gangOf (tFly o) o.gid = some tGang ∧ Sparse.wf 0#32 tGang.k = true) ∧
    (let o := tOp .st (.snapq 24 6 .c0 true (some 3)) []
     Clear (tOps o) o ∧ gangOf (tOps o) o.gid = some tGang ∧ gangMember (tOps o) tGang = true ∧ Clear (tFly o) o ∧ gangMember (tFly o) tGang = false) :=
  ⟨⟨clear_of rfl, by decide +kernel⟩, clear_of rfl, by decide +kernel, by decide +kernel, clear_of rfl, by decide +kernel⟩

theorem witness_SnapshotsProceed_units :
    (colRow tTagged .c0).st = .capturing ∧ tagged tTagged .c0 (.slice 0 0 0) = true ∧ (unitRec tTagged (.slice 0 0 0)).isSome = true ∧ tTagged.ptags.length = 1 ∧
    (∀ i ∈ [0, 16383], i < 16384 ∧ ([] : List Nat).length + 1 < 16384) ∧
    (∀ d ∈ tTargets, (colRow (tHal d (tCol .capturing 4 tBase)) .c0).st = .capturing ∧ captureDone (tHal d (tCol .capturing 4 tBase)) .c0 = true ∧
      (targetRow (tHal d (tCol .capturing 4 tBase)) .c0).map (fun h => h.desc) = some d ∧ tWritten d = true ∧
      coordinatorOf (tHal d (tCol .capturing 4 tBase)) .c0 = 4) ∧
    (let s := { tCol .coPowered 4 tBase with images := [tHeld] }
     (colRow s .c0).st = .coPowered ∧ s.images.find? (isImage (colRow s .c0) s) = some tHeld ∧ (∀ p ∈ tHeld.places, p.1 ≠ .nvme 1) ∧
       isNvme { kind := .nvme 1, pdom := none } = true) := by decide +kernel

/-- Its image is in the targets: a member, the coordinator alone, the coordinator of a group whose other member has reported or has not. -/
theorem witness_SnapshotsProceed_durable : ∀ st ∈ [ColSt.localDone, .coPowered], ∀ d ∈ tTargets,
    (let s := tHal d (tCol st 4 tBase)
     (colRow s .c0).st = st ∧ halTarget s .c0 = some d ∧ targetSettled s .c0 d = true ∧ targetPdom s d = d.pdom.getD 5 ∧ ownPdom s = 5 ∧ s.fab.member = true ∧
       coordinatorOf s .c0 ≠ s.fab.lid) ∧
    (let s := tHal d (tAlone st)
     (colRow s .c0).st = st ∧ halTarget s .c0 = some d ∧ targetSettled s .c0 d = true ∧ coordinatorOf s .c0 = s.fab.lid ∧ (colRow s .c0).grp ≠ 3 ∧
       allMembers s (colRow s .c0).group = [s.fab.lid]) ∧
    ∀ told : Bool, let s0 := tHal d (tColOf st 5 1 [] [])
      let s := { s0 with col0 := { s0.col0 with reports := if told then [(4, 3, true)] else [] } }
      (colRow s .c0).st = st ∧ halTarget s .c0 = some d ∧ targetSettled s .c0 d = true ∧ coordinatorOf s .c0 = s.fab.lid ∧ (colRow s .c0).acks = [] ∧
        allMembers s (colRow s .c0).group = [4, 5] ∧ otherMembers s (colRow s .c0).group = [4] ∧ ((colRow s .c0).reports.any (fun e => e.1 == 4 && e.2.2) = told) := by
  decide +kernel

theorem witness_SnapshotsProceed_members : ∀ st ∈ [ColSt.durable, .aborted, .freePending, .capturing, .localDone, .coPowered],
    coordinatorOf (tCol st 4 tBase) .c0 ≠ (tCol st 4 tBase).fab.lid ∧ (colRow (tCol st 4 tBase) .c0).st = st := by decide +kernel

theorem witness_SnapshotsProceed_coordinator :
    (∀ grp ∈ [1, 3], ∀ acks ∈ [[], [4]], let s := tColOf .durable 5 grp acks []
      coordinatorOf s .c0 = s.fab.lid ∧ (colRow s .c0).st = .durable ∧ (colRow s .c0).grp = grp ∧ otherMembers s (colRow s .c0).group = [4] ∧ (colRow s .c0).acks = acks) ∧
    (let s := tColOf .aborted 5 6 [] [4, 5]
     coordinatorOf s .c0 = s.fab.lid ∧ (colRow s .c0).st = .aborted ∧ ∀ n ∈ s.fab.lid :: otherMembers s (colRow s .c0).group, n ∈ (colRow s .c0).aborts) ∧
    (∀ acks ∈ [[], [5], [4, 5]], let s := tColOf .freePending 5 3 acks []
      coordinatorOf s .c0 = s.fab.lid ∧ (colRow s .c0).st = .freePending ∧ otherMembers s (colRow s .c0).group = [4] ∧ (colRow s .c0).acks = acks) ∧
    (∀ st ∈ [ColSt.capturing, .localDone, .coPowered], ∀ aborts ∈ [[], [4]], coordinatorOf (tColOf st 5 1 [] aborts) .c0 = 5 ∧ (colRow (tColOf st 5 1 [] aborts) .c0).st = st ∧
      (colRow (tColOf st 5 1 [] aborts) .c0).aborts = aborts) ∧
    (let s0 := tColOf .durable 5 1 [] []
     let s := { s0 with col0 := { s0.col0 with reports := [(5, 3, true)] } }
     (colRow s .c0).grp ≠ 3 ∧ ∀ n ∈ allMembers s (colRow s .c0).group, n = 4 ∨ n = 5) ∧
    fellow tNet 4 = true ∧ tNet.fab.member = true := by decide +kernel

/-- An image of package 5 of group 1 that holds these records, its digests right or its root wrong by one. -/
def tImage (recs : List SnapRec) (good : Bool) : Image :=
  let ds := chunkDigests recs
  { group := 1, id := 77, lid := 5, recs := recs, chunks := ds, root := if good then rootDigest ds else rootDigest ds + 1, complete := true, size := (streamBytes recs ++ trailerBytes ds).length, places := [] }

def tRest : RestoreSpec := { group := 1, id := 77, lid := 5, targets := [(5, 5, 5)], answer := none }

def tRestore (phase : Nat) (recs : List SnapRec) : State := { tNet with restore := some { phase := phase, img := tImage recs true, spec := tRest } }

theorem badChunk_tImage (s : State) (recs : List SnapRec) (good : Bool) :
    badChunk s tRest (tImage recs good) = if good then none else some (chunkDigests recs).length := by
  have h : (List.range (max (chunkDigests recs).length (chunkDigests recs).length)).find?
      (fun i => decide ((chunkDigests recs)[i]? ≠ (chunkDigests recs)[i]?)) = none := by simp
  have d : byteDigests (targetBytes s tRest (tImage recs good)) = chunkDigests recs := rfl
  cases good
  · simp only [badChunk, d]
    simp only [tImage, h, Bool.false_eq_true, if_false]
    rw [if_neg]
    intro e
    have := congrArg (fun x => x - rootDigest (chunkDigests recs)) e
    simp at this
  · simp only [badChunk, d]
    simp only [tImage, h, if_true]

def tBlk : Block := { programBlock with id := 7, core := 159, banks := [some 175] }

def tWords : List (Nat × Word) := [(1023, 9)]

/-- The package with that image; one of its targets may be known as failed. -/
def tStored (good : Bool) (dead : Bool) : State :=
  { tNet with images := [tImage [.fin] good], pod := if dead then [{ lid := 5, phys := 5, st := .failed, pdom := 0, sgrp := 1, epoch := 1 }] else tNet.pod }

theorem witness_RestorationRuns_begins :
    tNet.boot.step = 8 ∧ tNet.images.find? (fun m => m.group == 1 && m.id == 77 && m.lid == 5 && m.complete) = none ∧
    (∃ e ∈ tRest.targets, e.1 = tRest.lid ∧ e.2.1 = tNet.fab.phys) ∧ (∀ e ∈ tRest.targets, deadTarget (tStored true false) e.2.1 = false) ∧
    (∃ e ∈ tRest.targets, deadTarget (tStored true true) e.2.1 = true) ∧
    (∀ e ∈ ({ tRest with targets := [(5, 6, 5)] } : RestoreSpec).targets, e.1 = tRest.lid → e.2.1 ≠ tNet.fab.phys) ∧
    (∀ y ∈ tNet.slices, ∃ g, y.st = .held g) ∧ (∀ b ∈ tNet.blocks, ∀ i ∈ b.banks, i.isSome = true) ∧ ∀ g ∈ tNet.gangs, g.parked = false := by
  refine ⟨rfl, rfl, ⟨_, List.mem_singleton.mpr rfl, rfl, rfl⟩, ?_, ?_, ?_, fun y hy => ⟨3, ?_⟩, ?_, ?_⟩
  case refine_4 =>
    have : y = { core := 0, part := 0, idx := 0, st := .held 3 } := by simpa [tNet, tMember, tBase, programLoaded] using hy
    rw [this]
  all_goals decide +kernel

theorem witness_RestorationRuns_images (good dead : Bool) :
    (tStored good dead).images.find? (fun m => m.group == 1 && m.id == 77 && m.lid == 5 && m.complete) = some (tImage [.fin] good) ∧
    fitsImage (tStored good dead) (tImage [.fin] good) = true ∧ ∀ s, (badChunk s tRest (tImage [.fin] good)).isNone = good := by
  refine ⟨by simp [tStored, tImage], ?_, fun s => ?_⟩
  · cases good <;> cases dead <;> decide +kernel
  · rw [badChunk_tImage]; cases good <;> rfl

theorem witness_RestorationRuns_phases (phase : Nat) (recs : List SnapRec) :
    (tRestore phase recs).restore = some { phase := phase, img := tImage recs true, spec := tRest } ∧ (∀ r ∈ (tRestore phase recs).l1, r.dirty = 0) ∧
    (tRestore phase recs).fab.member = true := ⟨rfl, fun _ h => (by cases h), rfl⟩

theorem witness_RestorationRuns_memory :
    (tBlk.banks.getD 0 none = some 175 ∧ Memory.wf tNet.scr = true ∧ Sparse.wf 0#32 tWords = true ∧ ∀ e ∈ tWords, e.1 < 1024) ∧ tNet.zmaps = [] ∧ tNet.ptags = [] := by
  decide +kernel

theorem witness_RestorationRuns_packets :
    replayList (tImage [] true) = [] ∧ (let p := tFrom 4 tHome (.data 4096 1 tBytes 0)
      replayList (tImage [.packet 4 0 p true] true) = [p] ∧ p.cls = 4) ∧
    (∀ r ∈ (tImage [.fin] true).recs, (∀ a b c d e f, r ≠ .l2 a b c d e f) ∧ (∀ a b c d e, r ≠ .l1 a b c d e) ∧ ∀ a b c d e, r ≠ .patch a b c d e) ∧
    (tImage [.l2 1 0 tFar 1 tBytes [0]] true).recs = [.l2 1 0 tFar 1 tBytes [0]] ∧ 0 < 32 ∧ (1 : BitVec 128).extractLsb' 0 4 ≠ 0#4 := by
  refine ⟨rfl, ⟨rfl, rfl⟩, fun r hr => ?_, rfl, by decide, by decide⟩
  have : r = .fin := by simpa [tImage] using hr
  subst this; exact ⟨fun _ _ _ _ _ _ h => (by cases h), fun _ _ _ _ _ h => (by cases h), fun _ _ _ _ _ h => (by cases h)⟩

theorem witness_RestorationRuns_gangs :
    let o := tOp .ld (.load 4 4 0 0 .relaxed false) []
    let p := tOp .st (.snap 20 1 77 1 none) []
    imgGangs (tImage [.eager 1 (.gang tGang)] true) = [tGang] ∧ imgOps (tImage [.eager 1 (.op o)] true) = [o] ∧ imgOps (tImage [.eager 1 (.op p)] true) = [p] :=
  ⟨rfl, rfl, rfl⟩

theorem witness_RestorationRuns_start :
    (let x : Restore := { phase := 6, img := tImage [.eager 1 (.ctx programCtx)] true, spec := tRest }
     syncLeft { tNet with restore := some x } = false ∧ syncLeft { tNet with restore := some x, ops := [tOp .st (.bfree 5) []] } = true) ∧
    (let g := { tGang with parked := true }
     gangOf (tGangs [g]) 3 = some g ∧ g.core < 160 ∧ g.parked = true ∧ blockOf (tGangs [g]) g.blk = some programBlock ∧ (∀ i ∈ programBlock.banks, i.isSome = true) ∧
       ∀ r ∈ (tGangs [g]).slices, ∀ v, r.st ≠ .claimed v g.gid) := by
  refine ⟨⟨?_, ?_⟩, ?_, ?_, rfl, ?_, ?_, fun r hr v h => ?_⟩
  case refine_7 =>
    have : r = { core := 0, part := 0, idx := 0, st := .held 3 } := by simpa [tGangs, tBase, programLoaded] using hr
    subst this; cases h
  all_goals decide +kernel

end Sys2Proof.Tests

namespace Sys2Proof.Tests

/-! ## Hypotheses met: one step, words and bits, invariants -/

/-- The program with the word `w` where it is fetched next. -/
def tWord (w : Word) : State := placeWord tBase w

def tIssues (s : State) (core part : Nat) (f : Gang → Addr → LaneMask → List Byte → Bool) : Bool :=
  !halted s && decide (nextTurn s = .issue core part) && (match chooseGang ((onPartition (ticked s core part) core part).filter canIssue) with
    | some g0 => decide (gangOf (ticked s core part) g0.gid = some g0) &&
        (onPartition (ticked s core part) core part).all (fun h => h.gid == g0.gid) && decide (g0.weight = []) &&
        (match selectLanes g0 with
         | some (g, pc, lanes) => (match fetchPacket (setGang (ticked s core part) g) g.core g.ctx (pc.toNat / 16 * 16) with
           | .ok (pkt, false, false, false, false) => f g pc lanes pkt
           | _ => false)
         | none => false)
    | none => false)

theorem issues_of {s : State} {core part : Nat} {f : Gang → Addr → LaneMask → List Byte → Bool} (h : tIssues s core part f = true) :
    ∃ g pc lanes pkt, IssuesAt s core part g pc lanes pkt ∧ f g pc lanes pkt = true := by
  unfold tIssues at h
  simp only [Bool.and_eq_true, Bool.not_eq_true', decide_eq_true_eq] at h
  obtain ⟨⟨hh, ht⟩, h⟩ := h
  split at h
  · rename_i g0 hg
    simp only [Bool.and_eq_true, decide_eq_true_eq] at h
    obtain ⟨⟨⟨h1, h2⟩, h3⟩, h⟩ := h
    split at h
    · rename_i g pc lanes hs
      split at h
      · rename_i pkt hf
        exact ⟨g, pc, lanes, pkt, ⟨hh, ht, g0, hg, h1, .inr fun x hx _ => by simpa using List.all_eq_true.mp h2 x hx, .inr h3, hs, hf⟩, h⟩
      · cases h
    · cases h
  · cases h

/-- The state of the lone word's checks, as the statement has it. -/
def tLone (s : State) (g : Gang) (pc : Addr) (lanes : LaneMask) (pkt : List Byte) (i : Instr) : State :=
  let slot := pc.toNat / 4 % 4
  let s1 := fetched g (pc.toNat / 16 * 16) (setGang (ticked s 0 0) g)
  let e := mapEntry s1 g pc
  { s1 with cur := { gid := g.gid, busy := true, pc := pc, lanes := lanes, pimm := (wordOf pkt 12).extractLsb' 0 30, slot := slot, last := slot, mod := none,
                     solo := true, checked := false, cons := (e.map (fun x => x.cons)).getD false, kinds := (e.map (fun x => x.kinds)).getD 0,
                     pair := (e.map (fun x => x.pair)).getD 0, taken := [], words := [{ slot := slot, word := some i, mod := none }] } }

def tLoneOk (s : State) (want : Bool) (i : Instr) (g : Gang) (pc : Addr) (lanes : LaneMask) (pkt : List Byte) : Bool :=
  let slot := pc.toNat / 4 % 4
  decide (slot < 3) && decide ((wordOf pkt 12).toNat / 2 ^ 30 = 0) && decide (mapGaps (fetched g (pc.toNat / 16 * 16) (setGang (ticked s 0 0) g)) g pc = []) &&
    decide (firstAccess (tLone s g pc lanes pkt i) g (tLone s g pc lanes pkt i).cur.words = []) && !(wordOf pkt (4 * slot)).getLsbD 31 && decide (decode (wordOf pkt (4 * slot)) = .ok i) &&
    (match fullChk (tLone s g pc lanes pkt i) g i with
     | .ok => want && countsFit g.cnt (bundleCounts g lanes [{ slot := slot, word := some i, mod := none }])
     | .fault _ => !want
     | _ => false)

def tBundleOk (s : State) (g : Gang) (pc : Addr) (lanes : LaneMask) (pkt : List Byte) : Bool :=
  let slot := pc.toNat / 4 % 4
  let ctl := wordOf pkt 12
  let s1 := fetched g (pc.toNat / 16 * 16) (setGang (ticked s 0 0) g)
  let raw := bundleWords slot ((packetWords pkt).drop slot)
  let s2 := { s1 with cur := issueOf s1 g pc lanes ctl raw }
  let ws := s2.cur.words
  decide (1 < ws.length) && decide (slot < 3) && decide (ctl.toNat / 2 ^ 30 = 0) && decide (mapGaps s1 g pc = []) && !chainBad raw &&
    decide (bundleFault s2 g ws = none) && decide (firstAccess s2 g ws = []) && decide ((bundleStep8 s2 g ws).1 = .ok) && countsFit g.cnt (bundleCounts g lanes ws)

/-- A bundle of two words: KLI and IADD. -/
def tTwo : State :=
  let s := tWord 0xC204C3E8
  { s with mem := Sparse.write 0#8 s.mem 0x601004 (leBytes ((encode (.iadd 4 (.uni 0) (.uni 1))).getD 0).toNat 4) }

theorem witness_StepRunsBundle_issues :
    (∃ g pc lanes pkt, IssuesAt tTwo 0 0 g pc lanes pkt ∧ tBundleOk tTwo g pc lanes pkt = true) ∧
    (∃ g pc lanes pkt, IssuesAt (tWord 0x4204C3E8) 0 0 g pc lanes pkt ∧ tLoneOk (tWord 0x4204C3E8) true (.kliShort 9 1000) g pc lanes pkt = true) ∧
    (∃ g pc lanes pkt, IssuesAt (tWord 0x46000000) 0 0 g pc lanes pkt ∧ tLoneOk (tWord 0x46000000) false (.reservedMajor 0x46 0) g pc lanes pkt = true) := by
  refine ⟨issues_of ?_, issues_of ?_, issues_of ?_⟩ <;> decide +kernel

def tTurn (x : Turn) : State := { tBase with agenda := [x] }

theorem witness_StepRunsBundle_turns :
    (∀ x ∈ [Turn.event (.hbmScrub 0), .upset { at_ := .mem, g := 5, hard := false }, .upset { at_ := .mem, g := 5, hard := true }, .paced 1, .stored tHeld],
      nextTurn (tTurn x) = x ∧ halted (tTurn x) = false) ∧
    (ctxRow (tTurn (.paced 1)) 1).isSome = true ∧ (tTurn (.stored tHeld)).images = [] ∧ tBase.agenda = [] ∧ ∃ g ∈ tBase.gangs, canIssue g = true := by decide +kernel

theorem witness_StepRunsBundle_halted :
    let s := { State.reset with power := { State.reset.power with on := false } }
    halted s = true ∧ ∀ f, nextTurn s ≠ .event (.powerOnReset f) := by
  refine ⟨rfl, fun f h => ?_⟩
  have e : nextTurn { State.reset with power := { State.reset.power with on := false } } = .idle := rfl
  rw [e] at h; cases h

theorem witness_DecodeAndEncodeAgree :
    ((Instr.kliShort 9 1000).wf = true ∧ encode (.kliShort 9 1000) = some 0x4204C3E8) ∧ decode 0xC204C3E8 = .ok (.kliShort 9 1000) := by decide +kernel

theorem witness_StepKeepsTablesCanonical : TablesCanonical (tWord 0x4204C3E8) ∧ ∃ t, step (tWord 0x4204C3E8) = .next t := by
  refine ⟨by unfold TablesCanonical; decide +kernel, ?_⟩
  have h : (match step (tWord 0x4204C3E8) with
    | .next _ => true
    | _ => false) = true := by decide +kernel
  split at h
  · rename_i t ht; exact ⟨t, ht⟩
  · cases h

/-- One step of that program: k9 has 1000 pending, and the gang stands at the packet's next word. -/
theorem test_step_kli : (match step (tWord 0x4204C3E8) with
    | .next t => (gangOf t 3).map (fun g => (g.pend.map (fun p => p.act), (laneAt g 0).pc))
    | _ => none) = some ([.write (.k 9) 1000], 0x1004) := by decide +kernel

end Sys2Proof.Tests
end

section
/-! PROOFS. A word with no active lane has no effect (00_scope R9, 04_encoding R88). -/

namespace Sys2Proof.Machine

/-- Every word of a bundle but NOP and MOD has its meaning run by `runWord`, which decides on the active lanes and on the checks of R88; what differs
from word to word is the effect alone. The other constructors are the events, which have no encoding. -/
theorem exec_checkedWord_eq_runWord {i : Instr} (h : CheckedWord i) :
    ∃ perf : Gang → ModFields → LaneMask → State → State, ∀ s, exec i s = .next (runWord i perf s) := by
  obtain ⟨hasEncoding, notNop, notMod⟩ := h
  cases i
  case nop r => exact absurd rfl (notNop r)
  case mod m => exact absurd rfl (notMod m)
  case waitRelease | stallRelease | walkComplete | loadComplete | storePerformed | atomComplete | fenceComplete | lostPeerBound |
      clineComplete | cpyComplete | engineRecall | obresGrant | obrelFree | obldComplete | wbldComplete | weightFault | acallocGrant |
      acfreeDone | mmaBarrierWaitEnd | mmaComplete | acmovComplete | twsetClaim | tldwComplete | tlnchComplete | tcaptComplete | trstApply |
      ballocComplete | bfreeApply | barvApply | bwaitDone | ringGrant | ringRelDone | rawaitTake | rrelApply | snapComplete |
      snapqComplete | powerOnReset | createContext | removeContext | createQueue | removeQueue | enableQueue | disableQueue | writePodMap |
      writeGroupDescriptor | setSnapshotGroup | setFirmwarePolicy | loadSparImage | mastheadHandover | readAttestationReport | kill |
      killHandlerTimeout | stallWatchdog | hostSnapshotRequest | invalidateTranslation | invalidationComplete | queueScan | recordAccept |
      spliceDecide | placeBlock | scratchpadShrink | timeSliceEnd | sliceClaim | resumeBlock | ownerChangeZero | gangEnd | launchEnd |
      collectivePush | collectivePull | collectiveFlag | collectiveWaitf | readRequest | readData | ownershipRequest | ownershipGrant |
      storeData | invalidation | acknowledgement | atomicRequest | multicastStore | multicastLoad | promotionRequest | remoteAcquireAnswer |
      telltale | collectiveStep | reservedClassPacket | snapshotRequest | halyardSweep | captureQueueRoom | localDone | durableAck | free |
      freeAck | commit | durabilityBoundExpiry | targetWriteFailure | linkDetectionTimeout | markPackageFailed | startRestoration |
      restoreMemory | restoreChannels | restorePeerLines | restoreObjects | restoreGangs | restoreStart | powerWindow | junctionHot |
      thermalAlarm | thermalShutdown | healthMonitorTick | hbmScrub | hbmCalibration | portRetrain | cxlExpanderLost | hostPcieWrite |
      lineEviction | powerLoss | recoveryImageLoad | groupStateQuery | rootDigestReport =>
    exact absurd hasEncoding Bool.false_ne_true
  all_goals exact ⟨_, fun _ => rfl⟩

/-- Settles O24: every checked word runs through `runWord`, which leaves the state as it is where no lane is active. -/
theorem inactiveWordsDoNothing : Obligations.InactiveWordsDoNothing := by
  intro s g i hword hgang hnone
  obtain ⟨perf, hexec⟩ := exec_checkedWord_eq_runWord hword
  rw [hexec, runWord_inactive i perf hgang hnone]

end Sys2Proof.Machine
end

section
/-! PROOFS. Words of the lanes with fixed-latency results: what they deliver (07_isa_lane R128) and what they leave alone (02_execution R41). -/

namespace Sys2Proof.Machine

open Host (Outcome)

/-! ## Results of the active lanes -/

/-- The model's results of a register are the results due of R41. -/
theorem laneResults_eq_delivered (s : State) (g : Gang) (lat d : Nat) (act : LaneMask) (f : Nat → Res) :
    laneResults s g lat d act f = delivered s g lat d act f := by
  simp [laneResults, delivered, flagsOf, List.foldl_map, Function.comp_def]

/-! ## Integer words -/

theorem intOp_eq_intModded (abs neg : Bool) (x : Word) : intOp abs neg x = intModded abs neg x := by
  unfold intOp intModded
  rw [Int.abs_eq_natAbs]
  cases neg
  · simp
  · cases abs
    · simp
    · simp

/-- An integer word finished as s32 delivers what its rule says. -/
theorem finishedInt_of_runs {s : State} {g : Gang} {i : Instr} {m : ModFields} {act : LaneMask} (hr : Runs s g i m act) (ht : alwaysTraps i = false)
    (lat : Nat) (d : BitVec 6) (a b : Src) (y : Int → Int → Int → Int) :
    finishedInt i lat d a b y s = delivered s g (intFin lat d a b y).lat (intFin lat d a b y).d act ((intFin lat d a b y).val s g m) := by
  unfold finishedInt
  rw [runWord_of_runs _ hr ht, laneResults_eq_delivered]
  simp only [intOp_eq_intModded, intFin]

/-- An integer word that writes its pattern delivers what a rule with the same function says. -/
theorem plainInt_of_runs {s : State} {g : Gang} {i : Instr} {m : ModFields} {act : LaneMask} (hr : Runs s g i m act) (ht : alwaysTraps i = false)
    (lat : Nat) (d : BitVec 6) (a b : Src) {y z : Word → Word → Word → Word} (hyz : ∀ u v w, y u v w = z u v w) :
    plainInt i lat d a b y s = delivered s g (intRaw lat d a b z).lat (intRaw lat d a b z).d act ((intRaw lat d a b z).val s g m) := by
  obtain rfl : y = z := funext₃ hyz
  unfold plainInt
  rw [runWord_of_runs _ hr ht, laneResults_eq_delivered]
  rfl

/-- The high word of a signed product is that of the product of the sign-extended operands. -/
theorem wrap32_floorShr_mul (x y : Word) : wrap32 (floorShr (x.toInt * y.toInt) 32) = ((x.signExtend 64 * y.signExtend 64) >>> 32).setWidth 32 := by
  have hmul : x.signExtend 64 * y.signExtend 64 = BitVec.ofInt 64 (x.toInt * y.toInt) := (BitVec.ofInt_mul x.toInt y.toInt).symm
  rw [hmul]
  apply BitVec.eq_of_toNat_eq
  simp only [wrap32, floorShr, BitVec.toNat_ofInt, BitVec.toNat_setWidth, BitVec.toNat_ushiftRight, Nat.shiftRight_eq_div_pow]
  omega

theorem ofNat_mul_high (x y : Word) : BitVec.ofNat 32 (x.toNat * y.toNat / 2 ^ 32) = ((x.setWidth 64 * y.setWidth 64) >>> 32).setWidth 32 := by
  have hxy : x.toNat * y.toNat < 2 ^ 64 := by
    calc x.toNat * y.toNat ≤ (2 ^ 32 - 1) * (2 ^ 32 - 1) := Nat.mul_le_mul (by omega) (by omega)
      _ < 2 ^ 64 := by norm_num
  apply BitVec.eq_of_toNat_eq
  have hx : x.toNat % 2 ^ 64 = x.toNat := Nat.mod_eq_of_lt (by omega)
  have hy : y.toNat % 2 ^ 64 = y.toNat := Nat.mod_eq_of_lt (by omega)
  simp only [BitVec.toNat_ofNat, BitVec.toNat_setWidth, BitVec.toNat_ushiftRight, BitVec.toNat_mul, Nat.shiftRight_eq_div_pow, hx, hy,
    Nat.mod_eq_of_lt hxy]

theorem minS_eq (x y : Word) : minS x y = if x.sle y then x else y := by simp [minS, BitVec.sle]

theorem maxS_eq (x y : Word) : maxS x y = if x.sle y then y else x := by simp [maxS, BitVec.sle]

theorem minN_eq (x y : Word) : minN x y = if x.ule y then x else y := by simp [minN, BitVec.ule]

theorem maxN_eq (x y : Word) : maxN x y = if x.ule y then y else x := by simp [maxN, BitVec.ule]

theorem shiftCount_eq (y : Word) : shiftCount y = y.toNat % 256 := rfl

theorem shiftCount_mod (y : Word) : shiftCount y % 32 = y.toNat % 32 := by rw [shiftCount_eq]; omega

theorem shlWord_eq (x y : Word) : shlWord x y = BitVec.ofNat 32 (x.toNat * 2 ^ (y.toNat % 256)) := by
  unfold shlWord
  rw [shiftCount_eq]
  apply BitVec.eq_of_toNat_eq
  split
  · rename_i hbig
    have hdvd : 2 ^ 32 ∣ x.toNat * 2 ^ (y.toNat % 256) := Dvd.dvd.mul_left (pow_dvd_pow 2 hbig) _
    simpa using (Nat.mod_eq_zero_of_dvd hdvd).symm
  · simp [Nat.shiftLeft_eq]

theorem shrWord_eq (x y : Word) : shrWord x y = BitVec.ofNat 32 (x.toNat / 2 ^ (y.toNat % 256)) := by
  unfold shrWord
  rw [shiftCount_eq]
  apply BitVec.eq_of_toNat_eq
  split
  · rename_i hbig
    have hlt : x.toNat < 2 ^ (y.toNat % 256) := lt_of_lt_of_le x.isLt (Nat.pow_le_pow_right (by norm_num) hbig)
    simp [Nat.div_eq_of_lt hlt]
  · have hle : x.toNat / 2 ^ (y.toNat % 256) < 2 ^ 32 := lt_of_le_of_lt (Nat.div_le_self _ _) x.isLt
    rw [BitVec.toNat_ushiftRight, Nat.shiftRight_eq_div_pow, BitVec.toNat_ofNat, Nat.mod_eq_of_lt hle]

/-- An arithmetic shift by 31 already gives the sign alone. -/
theorem sarWord_eq (x y : Word) : sarWord x y = BitVec.ofInt 32 (x.toInt / 2 ^ (y.toNat % 256)) := by
  unfold sarWord
  rw [shiftCount_eq]
  have hdiv : x.toInt / 2 ^ (min (y.toNat % 256) 31) = x.toInt / 2 ^ (y.toNat % 256) := by
    rcases Nat.lt_or_ge (y.toNat % 256) 31 with hs | hb
    · rw [min_eq_left hs.le]
    · rw [min_eq_right hb]
      have hlo : -2 ^ 31 ≤ x.toInt := by have := BitVec.le_toInt x; simpa using this
      have hhi : x.toInt < 2 ^ 31 := by have := BitVec.toInt_lt (x := x); simpa using this
      have hpow : (2 : Int) ^ 31 ≤ 2 ^ (y.toNat % 256) := pow_le_pow_right₀ (by norm_num) hb
      rcases lt_or_ge x.toInt 0 with hneg | hpos
      · rw [Int.ediv_eq_neg_one_of_neg_of_le hneg (by omega), Int.ediv_eq_neg_one_of_neg_of_le hneg (by omega)]
      · rw [Int.ediv_eq_zero_of_lt hpos hhi, Int.ediv_eq_zero_of_lt hpos (by omega)]
  rw [← hdiv]
  exact congrArg (BitVec.ofInt 32) (Int.shiftRight_eq_div_pow _ _)

/-! ## The obligation of the integer words -/

/-- Settles O1: each word of the table is one of the two kinds, and its function is the table's. -/
theorem integerWordsDeliver : Obligations.IntegerWordsDeliver := by
  intro s g i m act r hr hrule
  cases i
  case iadd | isub | imul | imad => cases hrule; exact congrArg Outcome.next (finishedInt_of_runs hr rfl ..)
  case and | or | xor | andn | bfe | bfi => cases hrule; exact congrArg Outcome.next (plainInt_of_runs hr rfl _ _ _ _ (fun _ _ _ => rfl))
  case imulhs => cases hrule; exact congrArg Outcome.next (plainInt_of_runs hr rfl _ _ _ _ (fun x y _ => wrap32_floorShr_mul x y))
  case imulhn => cases hrule; exact congrArg Outcome.next (plainInt_of_runs hr rfl _ _ _ _ (fun x y _ => ofNat_mul_high x y))
  case imins => cases hrule; exact congrArg Outcome.next (plainInt_of_runs hr rfl _ _ _ _ (fun x y _ => minS_eq x y))
  case iminn => cases hrule; exact congrArg Outcome.next (plainInt_of_runs hr rfl _ _ _ _ (fun x y _ => minN_eq x y))
  case imaxs => cases hrule; exact congrArg Outcome.next (plainInt_of_runs hr rfl _ _ _ _ (fun x y _ => maxS_eq x y))
  case imaxn => cases hrule; exact congrArg Outcome.next (plainInt_of_runs hr rfl _ _ _ _ (fun x y _ => maxN_eq x y))
  case shl => cases hrule; exact congrArg Outcome.next (plainInt_of_runs hr rfl _ _ _ _ (fun x y _ => shlWord_eq x y))
  case shr => cases hrule; exact congrArg Outcome.next (plainInt_of_runs hr rfl _ _ _ _ (fun x y _ => shrWord_eq x y))
  case sar => cases hrule; exact congrArg Outcome.next (plainInt_of_runs hr rfl _ _ _ _ (fun x y _ => sarWord_eq x y))
  case rot => cases hrule; exact congrArg Outcome.next (plainInt_of_runs hr rfl _ _ _ _ (fun x y _ => congrArg x.rotateLeft (shiftCount_mod y)))
  all_goals cases hrule

/-! ## The frame of the lane words -/

theorem mem_lanesOf {m : LaneMask} {l : Nat} : l ∈ lanesOf m ↔ m.getLsbD l = true := by
  simp only [lanesOf, List.mem_filter, List.mem_range, and_iff_right_iff_imp]
  intro hl
  by_contra hge
  rw [BitVec.getLsbD_of_ge m l (not_lt.mp hge)] at hl
  cases hl

/-- What is due after a word's results: a write of its register in an active lane, or its flags. -/
theorem mem_laneResults_acts {lat d : Nat} {act : LaneMask} {f : Nat → Res} {fl : Word} {tick : Nat} {p : Pend}
    (hp : p ∈ ((lanesOf act).map (fun l => PendAct.write (.v l d) (BitVec.ofNat 32 (f l).bits)) ++ flagAct fl).map
      (fun a => ({ vis := tick + lat, act := a } : Pend))) :
    p.vis = tick + lat ∧ ((∃ l v, act.getLsbD l = true ∧ p.act = .write (.v l d) v) ∨ ∃ f, p.act = .flags f) := by
  obtain ⟨a, ha, rfl⟩ := List.mem_map.mp hp
  refine ⟨rfl, ?_⟩
  rcases List.mem_append.mp ha with hw | hf
  · obtain ⟨l, hl, rfl⟩ := List.mem_map.mp hw
    exact .inl ⟨l, _, mem_lanesOf.mp hl, rfl⟩
  · unfold flagAct at hf
    split at hf
    · cases hf
    · exact .inr ⟨fl, List.mem_singleton.mp hf⟩

/-- Every word of the four tables delivers results in its rule's register and at its rule's latency. -/
theorem exec_eq_delivered_of_laneRule {s : State} {g : Gang} {i : Instr} {m : ModFields} {act : LaneMask} {r : LaneRule} (hr : Runs s g i m act)
    (hrule : integerRule i = some r ∨ floatRule i = some r ∨ packedRule i = some r ∨ crossRule i = some r) :
    ∃ f, exec i s = .next (delivered s g r.lat r.d act f) := by
  rcases hrule with h | h
  · exact ⟨_, integerWordsDeliver s g i m act r hr h⟩
  · suffices hs : ∃ f, exec i s = .next (laneResults s g r.lat r.d act f) by
      obtain ⟨f, hf⟩ := hs
      exact ⟨f, by rw [hf, laneResults_eq_delivered]⟩
    cases i
    case fadd | fsub | fmul | ffma | fmin | fmax | hadd | hmul | hfma | badd | bmul | bfma | xfnRcp | xfnRsq | xfnSqrt | xfnExp2 | xfnLog2 |
        xfnSin | xfnCos | xfnTanh | padd | psub | pmul | pshr | pmin | pmax | ppack | pmac | lmul | vunMov | vunNot | vunIneg | vunIabs | vunPopc |
        vunClz | vunCtz | vunBrev | vunBswap | vunFrint | vunFfloor | vunFceil | vunFtrunc | sel | cvt | slided | slideu | shfl =>
      rcases h with h | h | h <;> cases h; exact ⟨_, congrArg Outcome.next (runWord_of_runs _ hr rfl)⟩
    all_goals rcases h with h | h | h <;> cases h

/-- Settles O12: what is delivered stands in the gang's record of pending results, and nothing else of the state has changed. -/
theorem laneWordsFrame : Obligations.LaneWordsFrame := by
  intro s g i m act r hr hrule
  obtain ⟨f, hexec⟩ := exec_eq_delivered_of_laneRule hr hrule
  have hgang : gangOf s g.gid = some g := curGang_gangOf hr.1
  exact ⟨_, _, hexec, onlyGang_pushPend .., gangOf_pushPend s g r.lat _ hgang, fun p hp => mem_laneResults_acts hp,
    rdV_congr s _ g _ rfl rfl rfl rfl, fun a => ⟨rfl, rfl⟩⟩

end Sys2Proof.Machine
end

section
/-! PROOFS. Pending results (02_execution R41, R43): what one leaves alone, when it takes effect, what stands of two; drains, and the end of a bundle. -/

namespace Sys2Proof.Machine

open Host (Outcome)

/-! ## Capture -/

/-- `t` is `s` but for the colours, the capture queues, the contexts' counts and the tags: what a capture changes (16_snapshot R308). -/
def Captured (s t : State) : Prop := t = { s with col0 := t.col0, col1 := t.col1, capQ := t.capQ, ctxs := t.ctxs, tags := t.tags }

theorem Captured.trans {s t u : State} (h : Captured s t) (h' : Captured t u) : Captured s u := by
  unfold Captured at *
  rw [h', h]

theorem captured_sendCapture (s : State) (die ctx : Nat) (c : Colour) (r : SnapRec) : Captured s (sendCapture s die ctx c r) := by
  cases c
  · rfl
  · rfl

theorem captured_captureUnitFor (w : Wr) (c : Colour) (u : CapUnit) (s : State) : Captured s (captureUnitFor w c u s) := by
  unfold captureUnitFor
  split
  · rfl
  · split
    · exact (captured_sendCapture ..).trans rfl
    · rfl

theorem captured_captureUnit (w : Wr) (u : CapUnit) (s : State) : Captured s (captureUnit w u s) :=
  (captured_captureUnitFor w .c0 u s).trans (captured_captureUnitFor w .c1 u _)

@[simp] theorem captureUnit_gangs (w : Wr) (u : CapUnit) (s : State) : (captureUnit w u s).gangs = s.gangs := by
  rw [captured_captureUnit w u s]

@[simp] theorem captureUnit_cur (w : Wr) (u : CapUnit) (s : State) : (captureUnit w u s).cur = s.cur := by
  rw [captured_captureUnit w u s]

@[simp] theorem captureUnit_vrf (w : Wr) (u : CapUnit) (s : State) : (captureUnit w u s).vrf = s.vrf := by
  rw [captured_captureUnit w u s]

@[simp] theorem captureUnit_vmark (w : Wr) (u : CapUnit) (s : State) : (captureUnit w u s).vmark = s.vmark := by
  rw [captured_captureUnit w u s]

/-! ## A vector register written -/

theorem wrV_gangs (s : State) (g : Gang) (l n : Nat) (v : Word) (mark : Option (Option Addr)) : (wrV s g l n v mark).gangs = s.gangs := by
  unfold wrV
  split
  · split
    · exact captureUnit_gangs ..
    · split
      · rfl
      · exact captureUnit_gangs ..
  · rfl

theorem wrV_cur (s : State) (g : Gang) (l n : Nat) (v : Word) (mark : Option (Option Addr)) : (wrV s g l n v mark).cur = s.cur := by
  unfold wrV
  split
  · split
    · exact captureUnit_cur ..
    · split
      · rfl
      · exact captureUnit_cur ..
  · rfl

/-- A register in a slice of the gang's own: its word is written, its poison mark goes. -/
theorem wrV_of_vKey {s : State} {g : Gang} {l n k : Nat} (v : Word) (hk : vKey g l n = some k)
    (hs : (g.smap.getD (n / 16) [])[l / 8]? ≠ some spilledSlice) :
    (wrV s g l n v none).vrf = Sparse.set 0#32 s.vrf k v ∧ (wrV s g l n v none).vmark = s.vmark.filter (fun e => e.1 != k) := by
  unfold vKey at hk
  split at hk
  · rename_i idx hidx
    rw [hidx] at hs
    obtain ⟨hlt, hkey⟩ := Option.ite_none_right_eq_some.mp hk
    have hsp : idx ≠ spilledSlice := fun h => hs (congrArg some h)
    have hun : idx ≠ unclaimedSlice := by unfold unclaimedSlice; omega
    simp only [wrV, hidx, hsp, hun, if_false, Option.some.inj hkey, captureUnit_vrf, captureUnit_vmark, and_self]
  · cases hk

/-! ## What a result that takes effect leaves of its gang -/

/-- The gang `h` is `g` but for its lanes' index registers and predicates, its uniforms, CSRs and performance counters. -/
def ResultsOnly (g h : Gang) : Prop :=
  h = { g with lanes := h.lanes, k := h.k, csr := h.csr, perf := h.perf } ∧ h.lanes.length = g.lanes.length ∧
    ∀ l, laneAt h l = { laneAt g l with x := (laneAt h l).x, p := (laneAt h l).p }

theorem ResultsOnly.refl (g : Gang) : ResultsOnly g g := ⟨rfl, rfl, fun _ => rfl⟩

theorem ResultsOnly.trans {g h i : Gang} (hgh : ResultsOnly g h) (hhi : ResultsOnly h i) : ResultsOnly g i := by
  obtain ⟨e1, len1, lane1⟩ := hgh
  obtain ⟨e2, len2, lane2⟩ := hhi
  refine ⟨?_, len2.trans len1, fun l => ?_⟩
  · rw [e2, e1]
  · rw [lane2 l, lane1 l]

/-- A lane keeps its PC, its state and its yield bit. -/
theorem ResultsOnly.lane {g h : Gang} (hr : ResultsOnly g h) (l : Nat) :
    (laneAt h l).pc = (laneAt g l).pc ∧ (laneAt h l).st = (laneAt g l).st ∧ (laneAt h l).yield = (laneAt g l).yield := by
  rw [hr.2.2 l]
  exact ⟨rfl, rfl, rfl⟩

theorem laneAt_modLane (g : Gang) (l n : Nat) (f : Lane → Lane) :
    laneAt (modLane g l f) n = if n = l ∧ l < g.lanes.length then f (laneAt g l) else laneAt g n := by
  unfold laneAt modLane
  rw [List.getD_eq_getElem?_getD, List.getD_eq_getElem?_getD, List.getD_eq_getElem?_getD, List.getElem?_modify]
  by_cases hl : n = l
  · subst hl
    by_cases hlt : n < g.lanes.length
    · simp [hlt]
    · simp [hlt]
  · simp [hl, Ne.symm hl]

/-- A lane whose index registers and predicates alone change. -/
theorem resultsOnly_modLane (g : Gang) (l : Nat) (f : Lane → Lane) (hf : ∀ y, f y = { y with x := (f y).x, p := (f y).p }) :
    ResultsOnly g (modLane g l f) := by
  refine ⟨rfl, by simp [modLane], fun n => ?_⟩
  rw [laneAt_modLane]
  split
  · rename_i h
    rw [h.1, hf]
  · rfl

/-- What a result other than a vector register's does to its gang. -/
def actOnGang (a : PendAct) (g : Gang) : Gang :=
  match a with
  | .write (.v _ _) _ => g
  | .write (.x l n) v => modLane g l (fun y => { y with x := setAt y.x n (v.setWidth 24) })
  | .write (.xcur l n) v => modLane g l (fun y => { y with x := setAt y.x n ((y.x.getD n 0 &&& 0x00FFFF#24) ||| ((v.setWidth 24) <<< 16)) })
  | .write (.p l n) v => modLane g l (fun y => { y with p := if v = 0 then y.p &&& ~~~(1#7 <<< n) else y.p ||| (1#7 <<< n) })
  | .write (.k n) v => wrK g n v
  | .write (.csr n) v => { g with csr := csrPut g.csr n v }
  | .flags f => { g with csr := { g.csr with gstat := g.csr.gstat ||| f } }

theorem resultsOnly_actOnGang (a : PendAct) (g : Gang) : ResultsOnly g (actOnGang a g) := by
  cases a with
  | flags f => exact ⟨rfl, rfl, fun _ => rfl⟩
  | write d v =>
    cases d with
    | v l n => exact .refl g
    | x l n => exact resultsOnly_modLane g l _ (fun _ => rfl)
    | xcur l n => exact resultsOnly_modLane g l _ (fun _ => rfl)
    | p l n => exact resultsOnly_modLane g l _ (fun _ => rfl)
    | k n => exact ⟨rfl, rfl, fun _ => rfl⟩
    | csr n => exact ⟨rfl, rfl, fun _ => rfl⟩

/-- The result names a vector register. -/
def writesVector : PendAct → Bool
  | .write (.v _ _) _ => true
  | _ => false

/-- A result that names no vector register is an update of its gang. -/
theorem applyPend_of_gang (gid : Nat) (s : State) (p : Pend) (h : writesVector p.act = false) :
    applyPend gid s p = modGang s gid (actOnGang p.act) := by
  obtain ⟨vis, act⟩ := p
  cases act with
  | flags f => rfl
  | write d v =>
    cases d
    case v => cases h
    all_goals rfl

/-! ## Results in a fold -/

theorem gangOf_congr {s t : State} (h : t.gangs = s.gangs) (n : Nat) : gangOf t n = gangOf s n := by unfold gangOf; rw [h]

theorem countZero_cur (gid : Nat) (v : Word) (s : State) : (countZero gid v s).cur = s.cur := by
  unfold countZero
  split
  · rfl
  · rfl

theorem countZero_vrf (gid : Nat) (v : Word) (s : State) : (countZero gid v s).vrf = s.vrf := by
  unfold countZero
  split
  · rfl
  · rfl

theorem countZero_vmark (gid : Nat) (v : Word) (s : State) : (countZero gid v s).vmark = s.vmark := by
  unfold countZero
  split
  · rfl
  · rfl

theorem gangOf_countZero {s : State} {gid : Nat} {g : Gang} (v : Word) (h : gangOf s gid = some g) :
    ∃ x, gangOf (countZero gid v s) gid = some x ∧ ResultsOnly g x := by
  unfold countZero
  split
  · exact ⟨_, gangOf_modGang_self s gid _ g (fun _ hx => hx) h, rfl, rfl, fun _ => rfl⟩
  · exact ⟨g, h, .refl g⟩

theorem gangOf_countZero_ne {s : State} {gid n : Nat} (v : Word) (hn : n ≠ gid) : gangOf (countZero gid v s) n = gangOf s n := by
  unfold countZero
  split
  · exact gangOf_modGang_ne s gid n _ (fun _ hx => hx) hn
  · rfl

theorem gid_actOnGang (a : PendAct) (g : Gang) : (actOnGang a g).gid = g.gid := by rw [(resultsOnly_actOnGang a g).1]

/-- A result that takes effect, of whatever kind: a vector register's, or an update of its gang. -/
theorem applyPend_cases (gid : Nat) (s : State) (p : Pend) :
    (∃ l n v g, p.act = .write (.v l n) v ∧ gangOf s gid = some g ∧ applyPend gid s p = putV s g l n v none) ∨
    (gangOf s gid = none ∧ applyPend gid s p = s) ∨ applyPend gid s p = modGang s gid (actOnGang p.act) := by
  cases hp : writesVector p.act with
  | false => exact .inr (.inr (applyPend_of_gang gid s p hp))
  | true =>
    obtain ⟨vis, act⟩ := p
    obtain ⟨l, n, v, rfl⟩ : ∃ l n v, act = .write (.v l n) v := by
      unfold writesVector at hp
      split at hp
      · exact ⟨_, _, _, by assumption⟩
      · cases hp
    cases hg : gangOf s gid with
    | none => exact .inr (.inl ⟨rfl, by simp only [applyPend, hg]⟩)
    | some g => exact .inl ⟨l, n, v, g, rfl, rfl, by simp only [applyPend, hg]⟩

theorem applyPend_cur (gid : Nat) (s : State) (p : Pend) : (applyPend gid s p).cur = s.cur := by
  rcases applyPend_cases gid s p with ⟨l, n, v, g, -, -, h⟩ | ⟨-, h⟩ | h <;> rw [h]
  · rw [putV, countZero_cur, wrV_cur]
  · rfl

/-- The gang of the result keeps all but what results write. -/
theorem gangOf_applyPend {s : State} {gid : Nat} {g : Gang} (p : Pend) (hg : gangOf s gid = some g) :
    ∃ h, gangOf (applyPend gid s p) gid = some h ∧ ResultsOnly g h := by
  rcases applyPend_cases gid s p with ⟨l, n, v, g', -, hg', h⟩ | ⟨hnone, -⟩ | h
  · rw [h, putV, gangOf_gid hg']
    exact gangOf_countZero v ((gangOf_congr (wrV_gangs ..) gid).trans hg)
  · rw [hnone] at hg
    cases hg
  · rw [h]
    exact ⟨_, gangOf_modGang_self s gid _ g (fun x hx => (gid_actOnGang p.act x).trans hx) hg, resultsOnly_actOnGang p.act g⟩

theorem gangOf_applyPend_ne {s : State} {gid n : Nat} (p : Pend) (hn : n ≠ gid) : gangOf (applyPend gid s p) n = gangOf s n := by
  rcases applyPend_cases gid s p with ⟨l, m, v, g', -, hg', h⟩ | ⟨-, h⟩ | h <;> rw [h]
  · rw [putV, gangOf_gid hg', gangOf_countZero_ne v hn]
    exact gangOf_congr (wrV_gangs ..) n
  · exact gangOf_modGang_ne s gid n _ (fun x hx => (gid_actOnGang p.act x).trans hx) hn

theorem foldl_applyPend_cur (gid : Nat) (ps : List Pend) (s : State) : (ps.foldl (applyPend gid) s).cur = s.cur := by
  induction ps generalizing s with
  | nil => rfl
  | cons p ps ih => exact (ih _).trans (applyPend_cur gid s p)

theorem gangOf_foldl_applyPend {gid : Nat} (ps : List Pend) {s : State} {g : Gang} (hg : gangOf s gid = some g) :
    ∃ h, gangOf (ps.foldl (applyPend gid) s) gid = some h ∧ ResultsOnly g h := by
  induction ps generalizing s g with
  | nil => exact ⟨g, hg, .refl g⟩
  | cons p ps ih =>
    obtain ⟨h1, hg1, hr1⟩ := gangOf_applyPend p hg
    obtain ⟨h2, hg2, hr2⟩ := ih hg1
    exact ⟨h2, hg2, hr1.trans hr2⟩

theorem gangOf_foldl_applyPend_ne {gid n : Nat} (ps : List Pend) (s : State) (hn : n ≠ gid) :
    gangOf (ps.foldl (applyPend gid) s) n = gangOf s n := by
  induction ps generalizing s with
  | nil => rfl
  | cons p ps ih => exact (ih _).trans (gangOf_applyPend_ne p hn)

/-! ## Results that fall due -/

/-- The results that are not due at `tick` are kept as pending. -/
def keepUndue (s : State) (gid tick : Nat) : State :=
  modGang s gid (fun g => { g with pend := g.pend.filter (fun p => !decide (p.vis ≤ tick)) })

theorem gangOf_keepUndue {s : State} {gid : Nat} {g : Gang} (tick : Nat) (hg : gangOf s gid = some g) :
    gangOf (keepUndue s gid tick) gid = some { g with pend := g.pend.filter (fun p => !decide (p.vis ≤ tick)) } :=
  gangOf_modGang_self s gid _ g (fun _ h => h) hg

theorem retire_eq {s : State} {gid : Nat} {g : Gang} (tick : Nat) (hg : gangOf s gid = some g) :
    retire s gid tick = (sortBy (·.vis) (g.pend.filter (fun p => p.vis ≤ tick))).foldl (applyPend gid) (keepUndue s gid tick) := by
  simp only [retire, hg]
  rfl

theorem retire_cur (s : State) (gid tick : Nat) : (retire s gid tick).cur = s.cur := by
  cases hg : gangOf s gid with
  | none => simp only [retire, hg]
  | some g => rw [retire_eq tick hg, foldl_applyPend_cur]; rfl

/-- A gang whose due results take effect keeps its undue ones, and all but what results write. -/
theorem gangOf_retire {s : State} {gid : Nat} {g : Gang} (tick : Nat) (hg : gangOf s gid = some g) :
    ∃ h, gangOf (retire s gid tick) gid = some h ∧ ResultsOnly { g with pend := g.pend.filter (fun p => !decide (p.vis ≤ tick)) } h := by
  rw [retire_eq tick hg]
  exact gangOf_foldl_applyPend _ (gangOf_keepUndue tick hg)

/-! ## Drains -/

theorem filter_due_eq_self {ps : List Pend} {tick : Nat} (h : ∀ p ∈ ps, p.vis ≤ tick) : ps.filter (fun p => p.vis ≤ tick) = ps :=
  List.filter_eq_self.mpr (fun p hp => decide_eq_true (h p hp))

theorem filter_undue_eq_nil {ps : List Pend} {tick : Nat} (h : ∀ p ∈ ps, p.vis ≤ tick) : ps.filter (fun p => !decide (p.vis ≤ tick)) = [] :=
  List.filter_eq_nil_iff.mpr (fun p hp => by simp [h p hp])

/-- The gang of a name where names are not repeated. -/
theorem eq_of_mem_of_gid {s : State} {gid : Nat} {g x : Gang} (hnd : (s.gangs.map (fun x => x.gid)).Nodup) (hg : gangOf s gid = some g)
    (hx : x ∈ s.gangs) (hxg : x.gid = gid) : x = g :=
  List.inj_on_of_nodup_map hnd hx (List.mem_of_find?_eq_some hg) (hxg.trans (gangOf_gid hg).symm)

theorem drain_eq_retire {s : State} {gid tick : Nat} {g : Gang} (hnd : (s.gangs.map (fun x => x.gid)).Nodup) (hg : gangOf s gid = some g)
    (hdue : ∀ p ∈ g.pend, p.vis ≤ tick) : drain s gid = retire s gid tick := by
  have hgangs : modGang s gid (fun g => { g with pend := [] }) = keepUndue s gid tick := by
    unfold keepUndue modGang
    congr 1
    refine List.map_congr_left fun x hx => ?_
    split
    · rename_i hxg
      obtain rfl := eq_of_mem_of_gid hnd hg hx hxg
      simp only [filter_undue_eq_nil hdue]
    · rfl
  rw [retire_eq tick hg, filter_due_eq_self hdue, ← hgangs]
  simp only [drain, hg]

/-- Settles O14: a drain is the retirement of a tick beyond every pending result, and a retirement changes only what results write. -/
theorem drainSettlesResults : Obligations.DrainSettlesResults := by
  intro s gid tick g hnd hg hdue
  have heq := drain_eq_retire hnd hg hdue
  obtain ⟨h, hh, hres⟩ := gangOf_retire tick hg
  have hkept := hres.1
  rw [heq]
  refine ⟨rfl, h, hh, ?_, ?_, ?_, ?_, ?_, hres.lane⟩
  · rw [hkept]; exact filter_undue_eq_nil hdue
  · rw [hkept]
  · rw [hkept]
  · rw [hkept]
  · rw [hkept]

end Sys2Proof.Machine
end

section
/-! PROOFS. The end of a bundle (04_encoding R75, 08_isa_control R147, 02_execution R40). -/

namespace Sys2Proof.Machine

/-! ## Fall-through PCs -/

theorem and_not_15 (x : Addr) : x &&& ~~~0xF#64 = (x >>> 4) <<< 4 := by
  apply BitVec.eq_of_getLsbD_eq
  intro i hi
  have h15 : (0xF#64).getLsbD i = decide (i < 4) := by
    rw [show 0xF#64 = BitVec.ofNat 64 (2 ^ 4 - 1) from rfl, BitVec.getLsbD_ofNat, Nat.testBit_two_pow_sub_one]
    simp [hi]
  rw [BitVec.getLsbD_and, BitVec.getLsbD_not, h15, BitVec.getLsbD_shiftLeft, BitVec.getLsbD_ushiftRight]
  by_cases h4 : i < 4
  · simp [h4]
  · simp [h4, hi, Nat.add_sub_cancel' (not_lt.mp h4)]

/-- The packet of a PC. -/
theorem toNat_packet (x : Addr) : (x &&& ~~~0xF#64).toNat = x.toNat / 16 * 16 := by
  rw [and_not_15, BitVec.toNat_shiftLeft, BitVec.toNat_ushiftRight, Nat.shiftRight_eq_div_pow, Nat.shiftLeft_eq]
  omega

/-- The PC after a slot of an aligned packet: the next slot, or the next packet's slot 0 (R75). -/
theorem toNat_fallPc {pc : Addr} {slot : Nat} (hal : pc.toNat % 16 = 0) (hlt : pc.toNat + 16 < 2 ^ 64) (hslot : slot < 3) :
    (fallPc (pc + BitVec.ofNat 64 (4 * slot)) slot).toNat = if slot = 2 then pc.toNat + 16 else pc.toNat + 4 * (slot + 1) := by
  have hpc : (pc + BitVec.ofNat 64 (4 * slot)).toNat = pc.toNat + 4 * slot := by
    rw [BitVec.toNat_add, BitVec.toNat_ofNat]
    omega
  have hpkt : ((pc + BitVec.ofNat 64 (4 * slot)) &&& ~~~0xF#64).toNat = pc.toNat := by
    rw [toNat_packet, hpc]
    omega
  unfold fallPc
  by_cases h2 : slot = 2
  · rw [if_neg (by omega), if_pos h2, BitVec.toNat_add, hpkt]
    exact Nat.mod_eq_of_lt hlt
  · rw [if_pos (by omega), if_neg h2, BitVec.toNat_add, hpkt, BitVec.toNat_ofNat]
    omega

/-! ## The end of a bundle -/

/-- A mask's release changes lanes' states alone. -/
theorem laneAt_releaseMasks (g : Gang) (l : Nat) : laneAt (releaseMasks g) l = { laneAt g l with st := (laneAt (releaseMasks g) l).st } := by
  unfold laneAt releaseMasks
  rw [List.getD_eq_getElem?_getD, List.getD_eq_getElem?_getD, List.getElem?_map]
  cases g.lanes[l]? with
  | none => rfl
  | some x =>
    simp only [Option.map_some, Option.getD_some]
    split
    · split
      · rfl
      · rfl
    · rfl

/-- The gang as a bundle's end leaves it before its results fall due: its issuing lanes moved, its tick one higher. -/
def movedOn (c : Issue) (clock : Nat) (packed : Bool) (zw : Nat) (g : Gang) : Gang :=
  { g with lanes := g.lanes.mapIdx (fun l x => if c.lanes.getLsbD l && decide (x.st ≠ .exited) then { x with pc := nextPc c l } else x),
           tick := g.tick + 1, lastIssue := clock,
           perf := { g.perf with bundles := g.perf.bundles + 1, packed := g.perf.packed + (if packed then 1 else 0),
                                 zwords := g.perf.zwords + zw } }

theorem laneAt_movedOn (c : Issue) (clock : Nat) (packed : Bool) (zw : Nat) (g : Gang) {l : Nat} (hl : l < g.lanes.length) :
    (laneAt (movedOn c clock packed zw g) l).pc = if c.lanes.getLsbD l = true ∧ (laneAt g l).st ≠ .exited then nextPc c l else (laneAt g l).pc := by
  unfold laneAt movedOn
  simp only [List.getD_eq_getElem?_getD, List.getElem?_mapIdx, List.getElem?_eq_getElem hl, Option.map_some, Option.getD_some,
    Bool.and_eq_true, decide_eq_true_eq]
  split
  · rfl
  · rfl

theorem finishBundle_eq {s : State} {g : Gang} (packed : Bool) (zw : Nat) (hg : gangOf s s.cur.gid = some g) :
    finishBundle packed zw s = modGang (retire (setGang { s with cur := Issue.none } (movedOn s.cur s.clock packed zw g)) g.gid (g.tick + 1))
      g.gid releaseMasks := by
  simp only [finishBundle, hg]
  rfl

theorem finishBundle_not_busy {s : State} {g : Gang} (packed : Bool) (zw : Nat) (hg : gangOf s s.cur.gid = some g) :
    (finishBundle packed zw s).cur.busy = false := by
  rw [finishBundle_eq packed zw hg, modGang_cur, retire_cur]
  rfl

/-- The gang after its bundle: as `movedOn` leaves it, its due results in effect, its masks released. -/
theorem gangOf_finishBundle {s : State} {g : Gang} (packed : Bool) (zw : Nat) (hg : gangOf s s.cur.gid = some g) :
    ∃ x, gangOf (finishBundle packed zw s) g.gid = some (releaseMasks x) ∧
      ResultsOnly { movedOn s.cur s.clock packed zw g with
        pend := (movedOn s.cur s.clock packed zw g).pend.filter (fun p => !decide (p.vis ≤ g.tick + 1)) } x := by
  have hself : gangOf s g.gid = some g := by rw [gangOf_gid hg]; exact hg
  have hset : gangOf (setGang { s with cur := Issue.none } (movedOn s.cur s.clock packed zw g)) g.gid = some (movedOn s.cur s.clock packed zw g) :=
    gangOf_setGang_self { s with cur := Issue.none } (movedOn s.cur s.clock packed zw g) g hself
  obtain ⟨x, hx, hres⟩ := gangOf_retire (g.tick + 1) hset
  rw [finishBundle_eq packed zw hg]
  exact ⟨x, gangOf_modGang_self _ g.gid releaseMasks x (fun _ h => h) hx, hres⟩

/-- Settles O15: the issuing lanes move in `movedOn`; neither results nor masks move a PC. -/
theorem bundleEndMovesPcs : Obligations.BundleEndMovesPcs := by
  intro s packed zw g hg
  obtain ⟨x, hx, hres⟩ := gangOf_finishBundle packed zw hg
  refine ⟨finishBundle_not_busy packed zw hg, ⟨releaseMasks x, hx, ?_, ?_, ?_, fun l hl => ?_⟩, fun pc hal hlt slot hslot => toNat_fallPc hal hlt hslot⟩
  · show x.tick = _
    rw [hres.1]
    rfl
  · show x.lastIssue = _
    rw [hres.1]
    rfl
  · have hlen : x.lanes.length = (movedOn s.cur s.clock packed zw g).lanes.length := hres.2.1
    simpa [releaseMasks, movedOn] using hlen
  · rw [laneAt_releaseMasks]
    exact (hres.lane l).1.trans (laneAt_movedOn s.cur s.clock packed zw g hl)

end Sys2Proof.Machine
end

section
/-! PROOFS. Pending results at their visibility tick (02_execution R41; 06_registers R116, R119; 08_isa_control R161; 17_isa_sync_system R337). -/

namespace Sys2Proof.Machine

/-! ## One or two results due -/

theorem retire_one {s : State} {gid tick : Nat} {g : Gang} {p : Pend} (hg : gangOf s gid = some g) (hp : g.pend = [p]) (hv : p.vis ≤ tick) :
    retire s gid tick = applyPend gid (keepUndue s gid tick) p := by
  rw [retire_eq tick hg, hp]
  simp [hv, sortBy, insertBy]

/-- Of two due results the one with the later tick takes effect last, of equal ticks the later one. -/
theorem retire_two {s : State} {gid tick : Nat} {g : Gang} {p q : Pend} (hg : gangOf s gid = some g) (hpq : g.pend = [p, q]) (hp : p.vis ≤ tick)
    (hq : q.vis ≤ tick) : retire s gid tick = if p.vis ≤ q.vis then applyPend gid (applyPend gid (keepUndue s gid tick) p) q
      else applyPend gid (applyPend gid (keepUndue s gid tick) q) p := by
  rw [retire_eq tick hg, hpq]
  by_cases hle : p.vis ≤ q.vis
  · simp [hp, hq, sortBy, insertBy, hle]
  · simp [hp, hq, sortBy, insertBy, hle]

theorem gangOf_keepUndue_of_due {s : State} {gid tick : Nat} {g : Gang} (hg : gangOf s gid = some g) (hdue : ∀ p ∈ g.pend, p.vis ≤ tick) :
    gangOf (keepUndue s gid tick) gid = some { g with pend := [] } := by
  rw [gangOf_keepUndue tick hg, filter_undue_eq_nil hdue]

theorem gangOf_applyPend_of_gang {s : State} {gid : Nat} {g : Gang} {p : Pend} (hw : writesVector p.act = false) (hg : gangOf s gid = some g) :
    gangOf (applyPend gid s p) gid = some (actOnGang p.act g) := by
  rw [applyPend_of_gang gid s p hw]
  exact gangOf_modGang_self s gid _ g (fun x hx => (gid_actOnGang p.act x).trans hx) hg

theorem gangOf_retire_one {s : State} {gid tick vis : Nat} {g : Gang} {a : PendAct} (hw : writesVector a = false) (hg : gangOf s gid = some g)
    (hv : vis ≤ tick) (hp : g.pend = [{ vis := vis, act := a }]) : gangOf (retire s gid tick) gid = some (actOnGang a { g with pend := [] }) := by
  rw [retire_one hg hp hv]
  exact gangOf_applyPend_of_gang hw (gangOf_keepUndue_of_due hg (by simp [hp, hv]))

theorem gangOf_retire_two {s : State} {gid tick vis vis2 : Nat} {g : Gang} {a b : PendAct} (ha : writesVector a = false) (hb : writesVector b = false)
    (hg : gangOf s gid = some g) (hv : vis ≤ tick) (hv2 : vis2 ≤ tick) (hp : g.pend = [{ vis := vis, act := a }, { vis := vis2, act := b }]) :
    gangOf (retire s gid tick) gid = some (if vis ≤ vis2 then actOnGang b (actOnGang a { g with pend := [] })
      else actOnGang a (actOnGang b { g with pend := [] })) := by
  have hk : gangOf (keepUndue s gid tick) gid = some { g with pend := [] } := gangOf_keepUndue_of_due hg (by simp [hp, hv, hv2])
  rw [retire_two hg hp hv hv2]
  split
  · exact gangOf_applyPend_of_gang hb (gangOf_applyPend_of_gang ha hk)
  · exact gangOf_applyPend_of_gang ha (gangOf_applyPend_of_gang hb hk)

/-! ## What a result does to the register it names -/

theorem getLsbD_one_shift {n : Nat} (hn : n < 7) (i : Nat) : (1#7 <<< n).getLsbD i = decide (i = n) := by
  rw [BitVec.getLsbD_shiftLeft, BitVec.getLsbD_one]
  rcases lt_trichotomy i n with h | rfl | h
  · simp [h, h.ne]
  · simp [hn]
  · simp [h.ne', Nat.sub_eq_zero_iff_le, h]

/-- A predicate's bit set or cleared in a lane's byte of predicates. -/
theorem getLsbD_putPred (p : BitVec 7) (v : Word) {n : Nat} (hn : n < 7) (i : Nat) :
    (if v = 0 then p &&& ~~~(1#7 <<< n) else p ||| (1#7 <<< n)).getLsbD i = if i = n then decide (v ≠ 0) else p.getLsbD i := by
  by_cases hv : v = 0
  · rw [if_pos hv, BitVec.getLsbD_and, BitVec.getLsbD_not, getLsbD_one_shift hn]
    by_cases hi : i = n
    · rw [if_pos hi]
      simp [hi, hv]
    · rw [if_neg hi]
      by_cases h7 : i < 7
      · simp [hi, h7]
      · rw [BitVec.getLsbD_of_ge p i (not_lt.mp h7), Bool.false_and]
  · rw [if_neg hv, BitVec.getLsbD_or, getLsbD_one_shift hn]
    by_cases hi : i = n
    · simpa [hi] using hv
    · simp [hi]

theorem predOf_actOnGang {g : Gang} {l n : Nat} (v : Word) (hn : n < 7) (hl : l < g.lanes.length) (l2 n2 : Nat) :
    predOf (actOnGang (.write (.p l n) v) g) l2 n2 = if (l2, n2) = (l, n) then decide (v ≠ 0) else predOf g l2 n2 := by
  unfold predOf actOnGang
  rw [laneAt_modLane]
  by_cases hl2 : l2 = l
  · subst hl2
    rw [if_pos ⟨rfl, hl⟩, getLsbD_putPred _ v hn]
    by_cases hn2 : n2 = n
    · subst hn2
      simp [hn.ne]
    · simp [hn2]
  · simp [hl2]

theorem xReg_modLane {g : Gang} {l n : Nat} (w : Lane → BitVec 24) (hl : l < g.lanes.length) (hn : n < (laneAt g l).x.length) (l2 n2 : Nat) :
    xReg (modLane g l (fun y => { y with x := setAt y.x n (w y) })) l2 n2 = if (l2, n2) = (l, n) then w (laneAt g l) else xReg g l2 n2 := by
  unfold xReg
  rw [laneAt_modLane]
  by_cases hl2 : l2 = l
  · subst hl2
    by_cases hn2 : n2 = n
    · subst hn2
      simp [hl, setAt, hn]
    · simp [hl, setAt, hn2, Ne.symm hn2]
  · simp [hl2]

/-- XADD's result has a new CURSOR; BASE and LEN stand. -/
theorem cursor_fields (a : BitVec 24) (v : Word) :
    xCur ((a &&& 0x00FFFF#24) ||| (v.setWidth 24 <<< 16)) = v.toNat % 256 ∧
    xBase ((a &&& 0x00FFFF#24) ||| (v.setWidth 24 <<< 16)) = xBase a ∧ xLen ((a &&& 0x00FFFF#24) ||| (v.setWidth 24 <<< 16)) = xLen a := by
  have hmask : ∀ i, i < 24 → (0x00FFFF#24).getLsbD i = decide (i < 16) := by decide
  have hlow : ∀ i, i < 16 → ((a &&& 0x00FFFF#24) ||| (v.setWidth 24 <<< 16)).getLsbD i = a.getLsbD i := by
    intro i hi
    rw [BitVec.getLsbD_or, BitVec.getLsbD_and, hmask i (by omega), BitVec.getLsbD_shiftLeft]
    simp [hi]
  refine ⟨?_, congrArg BitVec.toNat ?_, congrArg BitVec.toNat ?_⟩
  · have hcur : ((a &&& 0x00FFFF#24) ||| (v.setWidth 24 <<< 16)).extractLsb' 16 8 = v.setWidth 8 := by
      apply BitVec.eq_of_getLsbD_eq
      intro i hi
      rw [BitVec.getLsbD_extractLsb', BitVec.getLsbD_or, BitVec.getLsbD_and, hmask (16 + i) (by omega), BitVec.getLsbD_shiftLeft,
        BitVec.getLsbD_setWidth, BitVec.getLsbD_setWidth]
      simp [hi, show i < 24 by omega, show 16 + i < 24 by omega]
    unfold xCur
    rw [hcur, BitVec.toNat_setWidth]
  · apply BitVec.eq_of_getLsbD_eq
    intro i hi
    rw [BitVec.getLsbD_extractLsb', BitVec.getLsbD_extractLsb', hlow (0 + i) (by omega)]
  · apply BitVec.eq_of_getLsbD_eq
    intro i hi
    rw [BitVec.getLsbD_extractLsb', BitVec.getLsbD_extractLsb', hlow (8 + i) (by omega)]

/-- A writable CSR holds what was written, and no other CSR changes. -/
theorem csrGet_csrPut (c : Csrs) {n : Nat} (v : Word) (hn : n ∈ [0x000, 0x001, 0x002, 0x017, 0x020, 0x040]) (k : Nat) :
    csrGet (csrPut c n v) k = if k = n then v else csrGet c k := by
  by_cases hk : k = n
  · subst hk
    rw [if_pos rfl]
    fin_cases hn <;> rfl
  · rw [if_neg hk]
    simp only [List.mem_cons, List.not_mem_nil, or_false] at hn
    unfold csrGet
    rcases hn with rfl | rfl | rfl | rfl | rfl | rfl <;> (split <;> simp_all [csrPut])


/-! ## Vector registers -/

theorem ResultsOnly.smap {g h : Gang} (hr : ResultsOnly g h) : h.smap = g.smap := by rw [hr.1]

theorem ResultsOnly.vKey {g h : Gang} (hr : ResultsOnly g h) (l n : Nat) : vKey h l n = vKey g l n := by
  unfold Machine.vKey
  rw [hr.1]

/-- A vector register's result writes the register's word and clears its poison mark. -/
theorem applyPend_vector {s : State} {gid l n k : Nat} {g : Gang} (vis : Nat) (v : Word) (hg : gangOf s gid = some g) (hk : vKey g l n = some k)
    (hs : (g.smap.getD (n / 16) [])[l / 8]? ≠ some spilledSlice) :
    (applyPend gid s { vis := vis, act := .write (.v l n) v }).vrf = Sparse.set 0#32 s.vrf k v ∧
    (applyPend gid s { vis := vis, act := .write (.v l n) v }).vmark = s.vmark.filter (fun e => e.1 != k) := by
  obtain ⟨hvrf, hmark⟩ := wrV_of_vKey v hk hs
  simp only [applyPend, hg, putV]
  exact ⟨(countZero_vrf ..).trans hvrf, (countZero_vmark ..).trans hmark⟩

theorem rdV_of_vKey {s : State} {g : Gang} {l n k : Nat} (hk : vKey g l n = some k) : rdV s g l n = Sparse.get 0#32 s.vrf k := by
  unfold rdV
  rw [hk]

theorem vMarkOf_of_filter {s : State} {g : Gang} {l n k : Nat} {ms : List (Nat × Option Addr)} (hk : vKey g l n = some k)
    (hm : s.vmark = ms.filter (fun e => e.1 != k)) : vMarkOf s g l n = none := by
  have hnone : s.vmark.find? (fun e => e.1 == k) = none := by
    rw [hm, List.find?_eq_none]
    intro e he
    simpa using (List.mem_filter.mp he).2
  simp only [vMarkOf, hk, hnone]

/-- Of two results for one vector register, the one that takes effect last stands. -/
theorem get_vrf_applyPend_twice {s : State} {gid l n k : Nat} {g : Gang} (vis vis2 : Nat) (v w : Word) (hg : gangOf s gid = some g)
    (hk : vKey g l n = some k) (hs : (g.smap.getD (n / 16) [])[l / 8]? ≠ some spilledSlice) (hwf : Sparse.wf 0#32 s.vrf = true) :
    Sparse.get 0#32 (applyPend gid (applyPend gid s { vis := vis, act := .write (.v l n) v }) { vis := vis2, act := .write (.v l n) w }).vrf k = w := by
  obtain ⟨h1, hg1, hr⟩ := gangOf_applyPend { vis := vis, act := .write (.v l n) v } hg
  rw [(applyPend_vector vis2 w hg1 ((hr.vKey l n).trans hk) (by rw [hr.smap]; exact hs)).1, (applyPend_vector vis v hg hk hs).1,
    Sparse.get_set_wf _ _ _ _ _ (Sparse.wf_set _ _ _ _ hwf), if_pos rfl]

/-! ## What stands after one or two due results -/

section
variable {s : State} {gid tick vis vis2 : Nat} {g : Gang}

theorem retire_of_undue (hg : gangOf s gid = some g) (hnone : ∀ p ∈ g.pend, tick < p.vis) :
    gangOf (retire s gid tick) gid = some g ∧ retire s gid tick = { s with gangs := (retire s gid tick).gangs } := by
  have hdue : g.pend.filter (fun p => p.vis ≤ tick) = [] := List.filter_eq_nil_iff.mpr (fun p hp => by simp [hnone p hp])
  have hkeep : g.pend.filter (fun p => !decide (p.vis ≤ tick)) = g.pend := List.filter_eq_self.mpr (fun p hp => by simp [hnone p hp])
  have heq : retire s gid tick = keepUndue s gid tick := by rw [retire_eq tick hg, hdue]; rfl
  rw [heq]
  exact ⟨by rw [gangOf_keepUndue tick hg, hkeep], rfl⟩

theorem rdK_retire_twice {n : Nat} {v w : Word} (hg : gangOf s gid = some g) (hwf : Sparse.wf 0#32 g.k = true) (hv : vis ≤ tick) (hv2 : vis2 ≤ tick)
    (hp : g.pend = [{ vis := vis, act := .write (.k n) v }, { vis := vis2, act := .write (.k n) w }]) :
    ∃ h, gangOf (retire s gid tick) gid = some h ∧ rdK h n = if vis ≤ vis2 then w else v := by
  refine ⟨_, gangOf_retire_two rfl rfl hg hv hv2 hp, ?_⟩
  split
  · exact (rdK_wrK _ n n w (wf_wrK { g with pend := [] } n v hwf)).trans (if_pos rfl)
  · exact (rdK_wrK _ n n v (wf_wrK { g with pend := [] } n w hwf)).trans (if_pos rfl)

theorem predOf_retire {l n : Nat} {v : Word} (hg : gangOf s gid = some g) (hv : vis ≤ tick) (hn : n < 7) (hl : l < g.lanes.length)
    (hp : g.pend = [{ vis := vis, act := .write (.p l n) v }]) :
    ∃ h, gangOf (retire s gid tick) gid = some h ∧ predOf h l n = decide (v ≠ 0) ∧ ∀ l2 n2, (l2, n2) ≠ (l, n) → predOf h l2 n2 = predOf g l2 n2 := by
  have hpred := predOf_actOnGang (g := { g with pend := [] }) v hn hl
  exact ⟨_, gangOf_retire_one rfl hg hv hp, (hpred l n).trans (if_pos rfl), fun l2 n2 hne => (hpred l2 n2).trans (if_neg hne)⟩

theorem predOf_retire_twice {l n : Nat} {v w : Word} (hg : gangOf s gid = some g) (hv : vis ≤ tick) (hv2 : vis2 ≤ tick) (hn : n < 7)
    (hl : l < g.lanes.length) (hp : g.pend = [{ vis := vis, act := .write (.p l n) v }, { vis := vis2, act := .write (.p l n) w }]) :
    ∃ h, gangOf (retire s gid tick) gid = some h ∧ predOf h l n = decide ((if vis ≤ vis2 then w else v) ≠ 0) := by
  have hlen : ∀ a, l < (actOnGang a { g with pend := [] }).lanes.length := fun a => (resultsOnly_actOnGang a { g with pend := [] }).2.1.symm ▸ hl
  refine ⟨_, gangOf_retire_two rfl rfl hg hv hv2 hp, ?_⟩
  split
  · exact (predOf_actOnGang w hn (hlen _) l n).trans (if_pos rfl)
  · exact (predOf_actOnGang v hn (hlen _) l n).trans (if_pos rfl)

theorem xReg_retire {l n : Nat} {v : Word} (hg : gangOf s gid = some g) (hv : vis ≤ tick) (hl : l < g.lanes.length)
    (hn : n < (laneAt g l).x.length) (hp : g.pend = [{ vis := vis, act := .write (.x l n) v }]) :
    ∃ h, gangOf (retire s gid tick) gid = some h ∧ xReg h l n = v.setWidth 24 ∧ ∀ l2 n2, (l2, n2) ≠ (l, n) → xReg h l2 n2 = xReg g l2 n2 := by
  have hx := xReg_modLane (g := { g with pend := [] }) (fun _ => v.setWidth 24) hl hn
  exact ⟨_, gangOf_retire_one rfl hg hv hp, (hx l n).trans (if_pos rfl), fun l2 n2 hne => (hx l2 n2).trans (if_neg hne)⟩

theorem xReg_retire_cursor {l n : Nat} {v : Word} (hg : gangOf s gid = some g) (hv : vis ≤ tick) (hl : l < g.lanes.length)
    (hn : n < (laneAt g l).x.length) (hp : g.pend = [{ vis := vis, act := .write (.xcur l n) v }]) :
    ∃ h, gangOf (retire s gid tick) gid = some h ∧ xCur (xReg h l n) = v.toNat % 256 ∧ xBase (xReg h l n) = xBase (xReg g l n) ∧
      xLen (xReg h l n) = xLen (xReg g l n) ∧ ∀ l2 n2, (l2, n2) ≠ (l, n) → xReg h l2 n2 = xReg g l2 n2 := by
  have hx := xReg_modLane (g := { g with pend := [] }) (fun y => (y.x.getD n 0 &&& 0x00FFFF#24) ||| ((v.setWidth 24) <<< 16)) hl hn
  have hself := (hx l n).trans (if_pos rfl)
  obtain ⟨hcur, hbase, hlen⟩ := cursor_fields (xReg g l n) v
  exact ⟨_, gangOf_retire_one rfl hg hv hp, (congrArg xCur hself).trans hcur, (congrArg xBase hself).trans hbase, (congrArg xLen hself).trans hlen,
    fun l2 n2 hne => (hx l2 n2).trans (if_neg hne)⟩

theorem xReg_retire_twice {l n : Nat} {v w : Word} (hg : gangOf s gid = some g) (hv : vis ≤ tick) (hv2 : vis2 ≤ tick) (hl : l < g.lanes.length)
    (hn : n < (laneAt g l).x.length) (hp : g.pend = [{ vis := vis, act := .write (.x l n) v }, { vis := vis2, act := .write (.x l n) w }]) :
    ∃ h, gangOf (retire s gid tick) gid = some h ∧ xReg h l n = (if vis ≤ vis2 then w else v).setWidth 24 := by
  have hlen : ∀ u : Word, l < (actOnGang (.write (.x l n) u) { g with pend := [] }).lanes.length := fun u =>
    (resultsOnly_actOnGang (.write (.x l n) u) { g with pend := [] }).2.1.symm ▸ hl
  have hx : ∀ u : Word, n < (laneAt (actOnGang (.write (.x l n) u) { g with pend := [] }) l).x.length := fun u => by
    unfold actOnGang
    rw [laneAt_modLane, if_pos ⟨rfl, hl⟩]
    simp only [setAt, List.length_set]
    exact hn
  refine ⟨_, gangOf_retire_two rfl rfl hg hv hv2 hp, ?_⟩
  split
  · exact (xReg_modLane (fun _ => w.setWidth 24) (hlen v) (hx v) l n).trans (if_pos rfl)
  · exact (xReg_modLane (fun _ => v.setWidth 24) (hlen w) (hx w) l n).trans (if_pos rfl)

theorem csrGet_retire {n : Nat} {v : Word} (hg : gangOf s gid = some g) (hv : vis ≤ tick) (hn : n ∈ [0x000, 0x001, 0x002, 0x017, 0x020, 0x040])
    (hp : g.pend = [{ vis := vis, act := .write (.csr n) v }]) :
    ∃ h, gangOf (retire s gid tick) gid = some h ∧ h = { g with pend := [], csr := h.csr } ∧ csrGet h.csr n = v ∧
      ∀ k, k ≠ n → csrGet h.csr k = csrGet g.csr k :=
  ⟨_, gangOf_retire_one rfl hg hv hp, rfl, (csrGet_csrPut g.csr v hn n).trans (if_pos rfl),
    fun k hne => (csrGet_csrPut g.csr v hn k).trans (if_neg hne)⟩

theorem gstat_retire_write_flags {v f : Word} (hg : gangOf s gid = some g) (hv : vis ≤ tick) (hv2 : vis2 ≤ tick)
    (hp : g.pend = [{ vis := vis, act := .write (.csr 0) v }, { vis := vis2, act := .flags f }]) :
    ∃ h, gangOf (retire s gid tick) gid = some h ∧ csrGet h.csr 0 = if vis ≤ vis2 then v ||| f else v := by
  refine ⟨_, gangOf_retire_two rfl rfl hg hv hv2 hp, ?_⟩
  split
  · rfl
  · rfl

theorem rdV_retire {l n k : Nat} {v : Word} (hg : gangOf s gid = some g) (hv : vis ≤ tick) (hk : vKey g l n = some k)
    (hs : (g.smap.getD (n / 16) [])[l / 8]? ≠ some spilledSlice) (hwf : Sparse.wf 0#32 s.vrf = true)
    (hp : g.pend = [{ vis := vis, act := .write (.v l n) v }]) :
    rdV (retire s gid tick) g l n = v ∧ vMarkOf (retire s gid tick) g l n = none ∧
      ∀ k2, k2 ≠ k → Sparse.get 0#32 (retire s gid tick).vrf k2 = Sparse.get 0#32 s.vrf k2 := by
  obtain ⟨hvrf, hmark⟩ := applyPend_vector vis v (gangOf_keepUndue_of_due (tick := tick) hg (by simp [hp, hv])) hk hs
  have hget := fun k2 => Sparse.get_set_wf 0#32 s.vrf k k2 v hwf
  rw [retire_one hg hp hv, rdV_of_vKey hk, hvrf]
  exact ⟨(hget k).trans (if_pos rfl), vMarkOf_of_filter hk hmark, fun k2 hne => (hget k2).trans (if_neg hne)⟩

theorem rdV_retire_twice {l n k : Nat} {v w : Word} (hg : gangOf s gid = some g) (hv : vis ≤ tick) (hv2 : vis2 ≤ tick) (hk : vKey g l n = some k)
    (hs : (g.smap.getD (n / 16) [])[l / 8]? ≠ some spilledSlice) (hwf : Sparse.wf 0#32 s.vrf = true)
    (hp : g.pend = [{ vis := vis, act := .write (.v l n) v }, { vis := vis2, act := .write (.v l n) w }]) :
    rdV (retire s gid tick) g l n = if vis ≤ vis2 then w else v := by
  have hkeep : gangOf (keepUndue s gid tick) gid = some { g with pend := [] } := gangOf_keepUndue_of_due hg (by simp [hp, hv, hv2])
  rw [retire_two hg hp hv hv2, rdV_of_vKey hk]
  split
  · exact get_vrf_applyPend_twice vis vis2 v w hkeep hk hs hwf
  · exact get_vrf_applyPend_twice vis2 vis w v hkeep hk hs hwf

end

/-- Settles O13, kind of register by kind of register: what one due result leaves there, and which of two stands. -/
theorem resultsLandAtTheirTick : Obligations.ResultsLandAtTheirTick := fun _ _ _ _ _ hg =>
  ⟨retire_of_undue hg, fun _ _ hv hp => gangOf_retire_one rfl hg hv hp, fun _ _ _ _ hwf hv hv2 hp => rdK_retire_twice hg hwf hv hv2 hp,
    fun _ _ _ hv hn hl hp => predOf_retire hg hv hn hl hp, fun _ _ _ _ _ hv hv2 hn hl hp => predOf_retire_twice hg hv hv2 hn hl hp,
    fun _ _ _ hv hl hn => ⟨xReg_retire hg hv hl hn, xReg_retire_cursor hg hv hl hn, fun _ _ hv2 hp => xReg_retire_twice hg hv hv2 hl hn hp⟩,
    fun _ _ hv hn hp => csrGet_retire hg hv hn hp, fun _ _ _ hv hv2 hp => gstat_retire_write_flags hg hv hv2 hp,
    fun _ hv hp => gangOf_retire_one rfl hg hv hp, fun _ _ _ _ hv hk hs hwf hp => rdV_retire hg hv hk hs hwf hp,
    fun _ _ _ _ _ _ hv hv2 hk hs hwf hp => rdV_retire_twice hg hv hv2 hk hs hwf hp⟩

end Sys2Proof.Machine
end

section
/-! PROOFS. CSR words (17_isa_sync_system R337, 06_registers R117). -/

namespace Sys2Proof.Machine

open Host (Outcome)

/-- The two halves of a 64-bit counter. -/
theorem hi32_append_lo32 (x : BitVec 64) : hi32 x ++ lo32 x = x := by
  apply BitVec.eq_of_getLsbD_eq
  intro i hi
  rw [BitVec.getLsbD_append]
  unfold hi32 lo32
  rw [BitVec.getLsbD_setWidth, BitVec.getLsbD_setWidth, BitVec.getLsbD_ushiftRight]
  split
  · simp [*]
  · rename_i h
    simp [show i - 32 < 32 by omega, Nat.add_sub_cancel' (not_lt.mp h)]

theorem OnlyGang.trans {s t u : State} {gid : Nat} (h : OnlyGang s t gid) (h' : OnlyGang t u gid) : OnlyGang s u gid := by
  obtain ⟨hst, hg⟩ := h
  obtain ⟨htu, hg'⟩ := h'
  refine ⟨?_, fun n hn => (hg' n hn).trans (hg n hn)⟩
  rw [htu, hst]

/-- Results due of a gang that an earlier part of the word has changed. -/
theorem gangOf_pushPend_of {s : State} {g x : Gang} (lat : Nat) (acts : List PendAct) (h : gangOf s g.gid = some x) :
    gangOf (pushPend s g lat acts) g.gid = some { x with pend := x.pend ++ acts.map (fun a => { vis := g.tick + lat, act := a }) } :=
  gangOf_modGang_self s g.gid _ x (fun _ hx => hx) h

/-- A word that is no even performance counter's read latches nothing. -/
theorem csrLatch_of_not {s : State} {g : Gang} {n : Nat} (h : ¬(0x100 ≤ n ∧ n ≤ 0x1FF ∧ n % 2 = 0)) : csrLatch s g n = s := if_neg h

theorem csrLatch_of_even {s : State} {g : Gang} {n : Nat} (h : 0x100 ≤ n ∧ n ≤ 0x1FF ∧ n % 2 = 0) :
    csrLatch s g n = modGang s g.gid (fun x => { x with latch := some (hi32 (perf64 s g n)) }) := if_pos h

theorem csrValue_of_even {s : State} {g : Gang} {n : Nat} (lo : 0x100 ≤ n) (hi : n ≤ 0x1FF) (even : n % 2 = 0) :
    csrValue s g n = lo32 (perf64 s g n) := by
  unfold csrValue
  rw [if_pos ⟨lo, hi⟩, if_pos even]

/-- CSRR of an even performance counter: its low half is due, its high half is latched. -/
theorem csrr_even_latches {s : State} {g : Gang} {m : ModFields} {act : LaneMask} {k : BitVec 9} {n : BitVec 12} (hr : Runs s g (.csrr k n) m act)
    (lo : 0x100 ≤ n.toNat) (hi : n.toNat ≤ 0x1FF) (even : n.toNat % 2 = 0) :
    ∃ (t : State) (h : Gang), exec (.csrr k n) s = .next t ∧ OnlyGang s t g.gid ∧ gangOf t g.gid = some h ∧
      h = { g with latch := h.latch, pend := g.pend ++ [{ vis := g.tick + 2, act := .write (.k k.toNat) (csrValue s g n.toNat) }] } ∧
      h.latch.map (fun w => w ++ csrValue s g n.toNat) = some (BitVec.ofNat 64 (perfCounter s g n.toNat)) := by
  have hlatch : gangOf (csrLatch s g n.toNat) g.gid = some { g with latch := some (hi32 (perf64 s g n.toNat)) } := by
    rw [csrLatch_of_even ⟨lo, hi, even⟩]
    exact gangOf_modGang_self s g.gid _ g (fun _ hx => hx) (curGang_gangOf hr.1)
  have hframe : OnlyGang s (csrLatch s g n.toNat) g.gid := by
    rw [csrLatch_of_even ⟨lo, hi, even⟩]
    exact onlyGang_modGang s g.gid _ (fun _ hx => hx)
  refine ⟨_, _, congrArg Outcome.next (runWord_of_runs _ hr rfl), hframe.trans (onlyGang_pushPend ..), gangOf_pushPend_of 2 _ hlatch, rfl, ?_⟩
  rw [csrValue_of_even lo hi even, Option.map_some, hi32_append_lo32]
  rfl

/-- Settles O26: each word's one result, and the CSRs that a gang's own fields hold. -/
theorem csrWordsReadAndWrite : Obligations.CsrWordsReadAndWrite := by
  refine ⟨fun s g m act k n => ⟨fun hr hn => ?_, csrr_even_latches, fun hr => ?_, fun hr => ?_, fun hr => ?_, fun hr => ?_⟩,
    fun s g => ⟨rfl, rfl, rfl, rfl, rfl, rfl, rfl⟩⟩
  · have hlatch : csrLatch s g n.toNat = s := csrLatch_of_not hn
    refine congrArg Outcome.next ((runWord_of_runs _ hr rfl).trans ?_)
    rw [hlatch]
  all_goals exact congrArg Outcome.next (runWord_of_runs _ hr rfl)

end Sys2Proof.Machine
end

section
/-! PROOFS. Words that leave an operation in flight (02_execution R42, 11_isa_memory R218 to R227, 12_isa_tiles R249, 17_isa_sync_system R329, R330). -/

namespace Sys2Proof.Machine

open Host (Outcome)

/-! ## An operation enters flight -/

theorem issued_startOp {s : State} {g : Gang} (hg : gangOf s g.gid = some g) (cls : OpCls) (kind : OpKind) (act : LaneMask) (ps : List Piece) :
    Issued s (startOp s g cls kind act ps) g cls kind act ps :=
  ⟨_, rfl, rfl, rfl, rfl, rfl, rfl, rfl, rfl, rfl, rfl, rfl, rfl, rfl, rfl, rfl, fun n hn => gangOf_modGang_ne _ g.gid n _ (fun _ hx => hx) hn,
    gangOf_modGang_self _ g.gid _ g (fun _ hx => hx) hg⟩

/-- What the word does to its gang besides: `b'` is the gang as the word leaves it, but for the counter. -/
theorem issued_modGang {s t : State} {b b' : Gang} {cls : OpCls} {kind : OpKind} {act : LaneMask} {ps : List Piece} (h : Issued s t b cls kind act ps)
    (f : Gang → Gang) (hf : ∀ x, (f x).gid = x.gid) (hb : f { b with cnt := cntAdd b.cnt cls } = { b' with cnt := cntAdd b'.cnt cls })
    (hsame : b'.gid = b.gid ∧ b'.core = b.core ∧ b'.ctx = b.ctx ∧ b'.blk = b.blk ∧ b'.handler = b.handler) :
    Issued s (modGang t b.gid f) b' cls kind act ps := by
  obtain ⟨o, hops, hid, hgid, hcore, hctx, hblk, hcls, hkind, hlanes, hps, hpc, hhnd, hpre0, hpre1, ht, hne, hself⟩ := h
  obtain ⟨egid, ecore, ectx, eblk, ehnd⟩ := hsame
  have hframe : modGang t b.gid f = { s with fresh := s.fresh + 1, ops := (modGang t b.gid f).ops, gangs := (modGang t b.gid f).gangs } := by
    rw [ht]
    rfl
  refine ⟨o, hops, hid, hgid.trans egid.symm, hcore.trans ecore.symm, hctx.trans ectx.symm, hblk.trans eblk.symm, hcls, hkind, hlanes, hps, hpc,
    hhnd.trans ehnd.symm, hpre0, hpre1, hframe, fun n hn => ?_, ?_⟩
  · rw [egid] at hn
    exact (gangOf_modGang_ne t b.gid n f (fun x hx => (hf x).trans hx) hn).trans (hne n hn)
  · refine (congrArg (gangOf _) egid).trans ?_
    exact (gangOf_modGang_self t b.gid f _ (fun x hx => (hf x).trans hx) hself).trans (congrArg some hb)

/-- A word whose effect is an operation started. -/
theorem exists_issued_of_runs {s : State} {g : Gang} {i : Instr} {m : ModFields} {act : LaneMask} {cls : OpCls} {kind : OpKind} {ps : List Piece}
    (hr : Runs s g i m act) (he : exec i s = .next (startOp s g cls kind act ps)) : ∃ t : State, exec i s = .next t ∧ Issued s t g cls kind act ps :=
  ⟨_, he, issued_startOp (curGang_gangOf hr.1) cls kind act ps⟩

/-! ## The words' fields -/

theorem effScope_eq_scopeRule (space : BitVec 2) (scope : BitVec 3) : effScope space.toNat scope.toNat = scopeRule space scope := by
  unfold effScope scopeRule
  have hlt := space.isLt
  split
  · rename_i h
    rw [if_pos (BitVec.eq_of_toNat_eq h)]
  · rename_i h
    have h2 : space = 2#2 := BitVec.eq_of_toNat_eq h
    rw [h2]
    rfl
  · rename_i h1 h2
    rw [if_neg (fun h => h1 (by rw [h]; rfl)), if_neg (fun h => h2 (by rw [h]; rfl))]

theorem bitsN_eq (x lo n : Nat) : bitsN x lo n = x / 2 ^ lo % 2 ^ n := by rw [bitsN, Nat.shiftRight_eq_div_pow]

theorem spillWidth_eq (w : BitVec 3) : spillWidth w = if w = 4#3 then 4 else if w = 5#3 then 8 else 16 := by
  unfold spillWidth
  split
  · rename_i h
    rw [if_pos (BitVec.eq_of_toNat_eq h)]
  · rename_i h
    have h5 : w = 5#3 := BitVec.eq_of_toNat_eq h
    rw [h5]
    rfl
  · rename_i h4 h5
    rw [if_neg (fun h => h4 (by rw [h]; rfl)), if_neg (fun h => h5 (by rw [h]; rfl))]

/-! ## The words -/

/-- What a word of the table leaves in flight is what its rule says. -/
theorem exec_of_issueRule {s : State} {g : Gang} {i : Instr} {m : ModFields} {act : LaneMask} {cls : OpCls} {kind : OpKind} {ps : List Piece}
    (hr : Runs s g i m act) (hfwd : fwdKind s g = 0) (hrule : issueRule s g m act i = some (cls, kind, ps)) :
    exec i s = .next (startOp s g cls kind act ps) := by
  cases i
  case ld f =>
    cases hrule
    refine congrArg Outcome.next ((runWord_of_runs _ hr rfl).trans ?_)
    rw [if_neg (by omega), effScope_eq_scopeRule]
    rfl
  case st f =>
    cases hrule
    refine congrArg Outcome.next ((runWord_of_runs _ hr rfl).trans ?_)
    simp only [hfwd, effScope_eq_scopeRule]
    rfl
  case fence pd scope =>
    by_cases h0 : scope = 0#3
    · simp [issueRule, h0] at hrule
    · simp only [issueRule, h0, if_false, Option.some.injEq, Prod.mk.injEq] at hrule
      obtain ⟨rfl, rfl, rfl⟩ := hrule
      exact congrArg Outcome.next ((runWord_of_runs _ hr rfl).trans (if_neg h0))
  case zfill a scope space off =>
    cases hrule
    refine congrArg Outcome.next ((runWord_of_runs _ hr rfl).trans ?_)
    rw [effScope_eq_scopeRule]
    rfl
  case acmovToreg kt kq clr =>
    cases hrule
    refine congrArg Outcome.next ((runWord_of_runs _ hr rfl).trans ?_)
    simp only [acmovRegs, bitsN_eq, Nat.reducePow, Nat.div_one]
  case ldl | tlnch | tcapt | trst | balloc | bfree | barvArrive | barvNoarr | barvDrop =>
    cases hrule
    exact congrArg Outcome.next (runWord_of_runs _ hr rfl)
  all_goals cases hrule

/-- A word whose effect is an operation started and a change of its own gang. -/
theorem exists_issued_modGang {s : State} {g b : Gang} {i : Instr} {m : ModFields} {act : LaneMask} {cls : OpCls} {kind : OpKind} {ps : List Piece}
    (hr : Runs s g i m act) (f : Gang → Gang) (he : exec i s = .next (modGang (startOp s g cls kind act ps) g.gid f)) (hf : ∀ x, (f x).gid = x.gid)
    (hb : f { g with cnt := cntAdd g.cnt cls } = { b with cnt := cntAdd b.cnt cls })
    (hsame : b.gid = g.gid ∧ b.core = g.core ∧ b.ctx = g.ctx ∧ b.blk = g.blk ∧ b.handler = g.handler) :
    ∃ t : State, exec i s = .next t ∧ Issued s t b cls kind act ps :=
  ⟨_, he, issued_modGang (issued_startOp (curGang_gangOf hr.1) cls kind act ps) f hf hb hsame⟩

theorem exec_fence_thread {s : State} {g : Gang} {m : ModFields} {act : LaneMask} {pd : BitVec 3} (hr : Runs s g (.fence pd 0) m act) :
    exec (.fence pd 0) s = .next (if pd = 7#3 then s else pushPend s g 1 ((lanesOf act).map (fun l => .write (.p l pd.toNat) 1))) :=
  congrArg Outcome.next (runWord_of_runs _ hr rfl)

theorem exists_issued_cline {s : State} {g : Gang} {i : Instr} {m : ModFields} {act : LaneMask} {a : Src} {off : Bool} {which : Nat}
    (hi : (which, i) ∈ [(0, Instr.clineWb a off), (1, .clineWbi a off), (2, .clineMem a off)]) (hr : Runs s g i m act) :
    ∃ t : State, exec i s = .next t ∧ Issued s t g .st (.cline which) act
      ((onePerLine (wordPieces s g i act)).map (fun p => { p with place := lineStart p.place, len := 128, off := 0 })) := by
  simp only [List.mem_cons, Prod.mk.injEq, List.not_mem_nil, or_false] at hi
  rcases hi with ⟨rfl, rfl⟩ | ⟨rfl, rfl⟩ | ⟨rfl, rfl⟩
  · exact exists_issued_of_runs hr (congrArg Outcome.next (runWord_of_runs _ hr rfl))
  · exact exists_issued_of_runs hr (congrArg Outcome.next (runWord_of_runs _ hr rfl))
  · exact exists_issued_of_runs hr (congrArg Outcome.next (runWord_of_runs _ hr rfl))

theorem cntAdd_eq_bumped (c : Counts) (cls : OpCls) :
    ((cntAdd c cls).ld, (cntAdd c cls).st, (cntAdd c cls).cp, (cntAdd c cls).tl) = bumped c cls := by
  cases cls <;> rfl

/-- Settles O27: a word's effect is `startOp`, which appends one operation and raises one counter; PSH, POP and TRST.rel change their own gang besides. -/
theorem operationsEnterFlight : Obligations.OperationsEnterFlight := by
  intro s g m act
  refine ⟨fun i cls kind ps hr hfwd hrule => exists_issued_of_runs hr (exec_of_issueRule hr hfwd hrule), fun pd hr => exec_fence_thread hr,
    fun d w => ⟨fun hr => ?_, fun hr => ?_⟩, fun a off which i hi hr => exists_issued_cline hi hr, fun hr => ?_, cntAdd_eq_bumped⟩
  · rw [← spillWidth_eq]
    exact exists_issued_modGang hr _ (congrArg Outcome.next (runWord_of_runs _ hr rfl)) (fun _ => rfl) rfl ⟨rfl, rfl, rfl, rfl, rfl⟩
  · rw [← spillWidth_eq]
    exact exists_issued_modGang hr _ (congrArg Outcome.next (runWord_of_runs _ hr rfl)) (fun _ => rfl) rfl ⟨rfl, rfl, rfl, rfl, rfl⟩
  · exact exists_issued_modGang hr _ (congrArg Outcome.next (runWord_of_runs _ hr rfl)) (fun _ => rfl) rfl ⟨rfl, rfl, rfl, rfl, rfl⟩

end Sys2Proof.Machine
end

section
/-! PROOFS. Waiting gangs go on (08_isa_control R157, 02_execution R42, 09_memories R172, R176, R189, 11_isa_memory R216). -/

namespace Sys2Proof.Machine

open Host (Outcome)

/-! ## Released gangs -/

theorem waitEvent_of_holds {s : State} {gid : Nat} {g : Gang} {nl ns nc nt : Nat} (hg : gangOf s gid = some g) (hb : g.blocked = some (.wait nl ns nc nt))
    (hl : g.cnt.ld ≤ nl) (hs : g.cnt.st ≤ ns) (hc : g.cnt.cp ≤ nc) (ht : g.cnt.tl ≤ nt) : waitEvent gid s = unblock s gid := by
  simp [waitEvent, hg, hb, waitHolds, hl, hs, hc, ht]

theorem stallEvent_of_room {s : State} {gid : Nat} {g : Gang} {nl ns nc nt : Nat} (hg : gangOf s gid = some g) (hb : g.blocked = some (.full nl ns nc nt))
    (hl : g.cnt.ld + nl ≤ 63) (hs : g.cnt.st + ns ≤ 63) (hc : g.cnt.cp + nc ≤ 63) (ht : g.cnt.tl + nt ≤ 63) : stallEvent gid s = unblock s gid := by
  simp [stallEvent, hg, hb, hl, hs, hc, ht]

/-! ## A walk's rows and owners -/

theorem walkRow_eq {s : State} {ctx : Nat} {r : CtxRow} (h : ctxRow s ctx = some r) (b page : Nat) :
    walkRow s b ctx page = { buf := b, ctx := ctx, page := page, leaf := (walkFrom s (page * 4096) 4 r.root).map (fun e => (e.2.1, e.2.2)),
                             pte := ((walkFrom s (page * 4096) 4 r.root).map (fun e => e.1)).getD 0 } := by
  simp only [walkRow, walk, h]
  cases walkFrom s (page * 4096) 4 r.root <;> rfl

theorem firstOwner_frame (s : State) (ctx base n : Nat) : firstOwner s ctx base n = { s with owners := (firstOwner s ctx base n).owners } := by
  unfold firstOwner
  split <;> rfl

/-- A first access changes the owners alone. -/
theorem takeFrame_frame (f : Option (Nat × Nat)) (ctx : Nat) (s : State) : takeFrame f ctx s = { s with owners := (takeFrame f ctx s).owners } := by
  cases f with
  | none => rfl
  | some f => exact firstOwner_frame s ctx f.1 f.2

theorem tlbRow_cons (s : State) (x : TlbRow) (xs : List TlbRow) (b c p : Nat) :
    tlbRow { s with tlb := x :: xs } b c p = if x.buf = b ∧ x.ctx = c ∧ x.page = p then some x else tlbRow { s with tlb := xs } b c p := by
  unfold tlbRow
  rw [List.find?_cons]
  by_cases h : x.buf = b ∧ x.ctx = c ∧ x.page = p
  · simp [h]
  · rw [if_neg h]
    split
    · rename_i hb
      exact absurd (by simpa [and_assoc] using hb) h
    · rfl

/-! ## Held gangs go on -/

/-- What the coming of a page leaves of a gang. -/
def freed (for_ : Gang → Bool) (page : Nat) (g : Gang) : Gang := if for_ g then { g with blocked := heldAfter page g.blocked } else g

theorem freed_gid (for_ : Gang → Bool) (page : Nat) (g : Gang) : (freed for_ page g).gid = g.gid := by
  unfold freed
  split <;> rfl

theorem gangOf_pageCome (for_ : Gang → Bool) (page : Nat) (s : State) (n : Nat) :
    gangOf (pageCome for_ page s) n = (gangOf s n).map (freed for_ page) := by
  show (s.gangs.map (freed for_ page)).find? _ = (s.gangs.find? _).map _
  rw [List.find?_map]
  congr 2
  funext g
  simp [freed_gid]

theorem heldAfter_only (page : Nat) : heldAfter page (some (.xlate [page])) = none := by simp [heldAfter]

/-- A gang held for that page alone goes on. -/
theorem gangOf_pageCome_of_held {for_ : Gang → Bool} {page n : Nat} {s t : State} {g : Gang} (hs : t.gangs = s.gangs) (hg : gangOf s n = some g)
    (hfor : for_ g = true) (hb : g.blocked = some (.xlate [page])) : gangOf (pageCome for_ page t) n = some { g with blocked := none } := by
  have ht : gangOf t n = some g := by rw [← hg, gangOf, hs, gangOf]
  rw [gangOf_pageCome, ht, Option.map_some, freed, if_pos hfor, hb, heldAfter_only]

/-! ## The walk event -/

/-- The gangs a walk frees: those of its die and its context. -/
def walkFor (core ctx : Nat) (g : Gang) : Bool := g.ctx == ctx && g.core / 40 == core / 40

theorem walkFor_of (core ctx : Nat) {g : Gang} (hc : g.ctx = ctx) (hd : g.core / 40 = core / 40) : walkFor core ctx g = true := by
  simp [walkFor, hc, hd]

/-- What a walk that no buffer answers finds and counts. -/
def walked (core ctx page : Nat) (s : State) : State :=
  modCtx (takeFrame (pageFrame s ctx page) ctx { s with tlb := walkRow s core ctx page :: walkRow s (dieBuf core) ctx page :: s.tlb }) ctx
    (fun r => { r with walks := r.walks + 1 })

theorem walked_frame (core ctx page : Nat) (s : State) :
    walked core ctx page s =
      { s with tlb := walkRow s core ctx page :: walkRow s (dieBuf core) ctx page :: s.tlb, ctxs := (walked core ctx page s).ctxs, owners := (walked core ctx page s).owners } := by
  unfold walked
  rw [takeFrame_frame]
  rfl

theorem walkEvent_of_waits {s : State} {core ctx page : Nat} {r : CtxRow} {f : Nat × Nat} (hr : ctxRow s ctx = some r) (hc : tlbRow s core ctx page = none)
    (hd : tlbRow s (dieBuf core) ctx page = none) (hf : pageFrame s ctx page = some f) (hlater : framePending s ctx f.1 f.2 = true) :
    walkEvent core ctx page s = s := by
  simp [walkEvent, hr, coreRow, hc, hd, hf, hlater]

theorem walkEvent_of_none {s : State} {core ctx page : Nat} {r : CtxRow} (hr : ctxRow s ctx = some r) (hc : tlbRow s core ctx page = none)
    (hd : tlbRow s (dieBuf core) ctx page = none) (hfree : ∀ f, pageFrame s ctx page = some f → ¬framePending s ctx f.1 f.2 = true) :
    walkEvent core ctx page s = pageCome (walkFor core ctx) page (walked core ctx page s) := by
  have hany : (pageFrame s ctx page).any (fun f => framePending s ctx f.1 f.2) = false := by
    cases hf : pageFrame s ctx page with
    | none => rfl
    | some f => exact Bool.eq_false_iff.mpr (hfree f hf)
  simp only [walkEvent, hr, hany, Bool.and_false, Bool.false_eq_true, if_false, hc, hd]
  rfl

theorem walkEvent_of_die {s : State} {core ctx page : Nat} {r : CtxRow} {x : TlbRow} (hr : ctxRow s ctx = some r) (hc : tlbRow s core ctx page = none)
    (hd : tlbRow s (dieBuf core) ctx page = some x) :
    walkEvent core ctx page s = pageCome (walkFor core ctx) page { s with tlb := { x with buf := core } :: s.tlb } := by
  simp only [walkEvent, hr, coreRow, hc, hd, Option.isNone_some, Bool.false_and, Bool.false_eq_true, if_false]
  rfl

/-- The rows that both buffers hold after a walk, and the others'. -/
theorem tlbRow_walked {s : State} (core ctx page : Nat) (for_ : Gang → Bool) :
    let t := pageCome for_ page (walked core ctx page s)
    tlbRow t core ctx page = some (walkRow s core ctx page) ∧ tlbRow t (dieBuf core) ctx page = some (walkRow s (dieBuf core) ctx page) ∧
      ∀ b c p, ((c, p) ≠ (ctx, page) ∨ (b ≠ core ∧ b ≠ dieBuf core)) → tlbRow t b c p = tlbRow s b c p := by
  have hrow : ∀ b, (walkRow s b ctx page).buf = b ∧ (walkRow s b ctx page).ctx = ctx ∧ (walkRow s b ctx page).page = page := by
    intro b
    unfold walkRow
    split <;> exact ⟨rfl, rfl, rfl⟩
  have ht : ∀ b c p, tlbRow (pageCome for_ page (walked core ctx page s)) b c p =
      tlbRow { s with tlb := walkRow s core ctx page :: walkRow s (dieBuf core) ctx page :: s.tlb } b c p := by
    intro b c p
    rw [walked_frame]
    rfl
  obtain ⟨hb, hc, hp⟩ := hrow core
  obtain ⟨db, dc, dp⟩ := hrow (dieBuf core)
  refine ⟨?_, ?_, fun b c p hne => ?_⟩
  · rw [ht, tlbRow_cons, if_pos ⟨hb, hc, hp⟩]
  · rw [ht, tlbRow_cons]
    split
    · rename_i h
      rw [← hb.symm.trans h.1]
    · rw [tlbRow_cons, if_pos ⟨db, dc, dp⟩]
  · rw [ht, tlbRow_cons, tlbRow_cons, hb, hc, hp, db, dc, dp, if_neg, if_neg]
    · rintro ⟨h1, rfl, rfl⟩
      rcases hne with h | h
      · exact h rfl
      · exact h.2 h1.symm
    · rintro ⟨h1, rfl, rfl⟩
      rcases hne with h | h
      · exact h rfl
      · exact h.1 h1.symm

/-- Settles O33: a released gang is `unblock`ed; a walk adds rows, counts itself, takes its frame and lets the held gangs go on. -/
theorem waitsEnd : Obligations.WaitsEnd := by
  refine ⟨fun s gid g nl ns nc nt hg hb hl hs hc ht => ?_, fun s gid g nl ns nc nt hg hb hl hs hc ht => ?_, fun s core ctx page r hr => ?_⟩
  · exact ⟨_, congrArg Outcome.next (waitEvent_of_holds hg hb hl hs hc ht), onlyGang_unblock s gid, gangOf_unblock s gid g hg⟩
  · exact ⟨_, congrArg Outcome.next (stallEvent_of_room hg hb hl hs hc ht), onlyGang_unblock s gid, gangOf_unblock s gid g hg⟩
  refine ⟨fun hc hd hfree => ?_, fun x hc hd => ?_, fun f hc hd hf hlater => congrArg Outcome.next (walkEvent_of_waits hr hc hd hf hlater)⟩
  · obtain ⟨hcore, hdie, hother⟩ := tlbRow_walked (s := s) core ctx page (walkFor core ctx)
    rw [walkRow_eq hr] at hcore hdie
    refine ⟨_, congrArg Outcome.next (walkEvent_of_none hr hc hd hfree), ?_, hcore, hdie, hother, fun n g hg hx hk hb => ?_⟩
    · rw [walked_frame]
      rfl
    · exact gangOf_pageCome_of_held (by rw [walked_frame]) hg (walkFor_of core ctx hx hk) hb
  · refine ⟨_, congrArg Outcome.next (walkEvent_of_die hr hc hd), rfl, ?_, fun n g hg hx hk hb => ?_⟩
    · obtain ⟨-, hx, hp⟩ : x.buf = dieBuf core ∧ x.ctx = ctx ∧ x.page = page := by
        simpa [and_assoc] using List.find?_some hd
      exact (tlbRow_cons s _ _ _ _ _).trans (if_pos ⟨rfl, hx, hp⟩)
    · exact gangOf_pageCome_of_held rfl hg (walkFor_of core ctx hx hk) hb

end Sys2Proof.Machine
end

section
/-! PROOFS. Words that wait for a grant, and BWAIT (02_execution R32, 12_isa_tiles R235, R236, R240, R241, R248, 17_isa_sync_system R331, R334 to R336). -/

namespace Sys2Proof.Machine

open Host (Outcome)

/-! ## What a drain leaves alone -/

/-- `t` is `s` but for gangs, registers and what their capture changes. -/
def RegistersMoved (s t : State) : Prop :=
  t = { s with vrf := t.vrf, vmark := t.vmark, saved := t.saved, gangs := t.gangs, col0 := t.col0, col1 := t.col1, capQ := t.capQ, ctxs := t.ctxs, tags := t.tags }

theorem RegistersMoved.refl (s : State) : RegistersMoved s s := rfl

theorem RegistersMoved.trans {s t u : State} (h : RegistersMoved s t) (h' : RegistersMoved t u) : RegistersMoved s u := by
  unfold RegistersMoved at *
  rw [h', h]

theorem Captured.registersMoved {s t : State} (h : Captured s t) : RegistersMoved s t := by
  unfold Captured at h
  unfold RegistersMoved
  rw [h]

theorem registersMoved_wrV (s : State) (g : Gang) (l n : Nat) (v : Word) (mark : Option (Option Addr)) : RegistersMoved s (wrV s g l n v mark) := by
  unfold wrV
  split
  · split
    · exact (captured_captureUnit ..).registersMoved.trans rfl
    · split
      · rfl
      · exact (captured_captureUnit ..).registersMoved.trans rfl
  · rfl

theorem registersMoved_countZero (gid : Nat) (v : Word) (s : State) : RegistersMoved s (countZero gid v s) := by
  unfold countZero
  split <;> rfl

theorem registersMoved_applyPend (gid : Nat) (s : State) (p : Pend) : RegistersMoved s (applyPend gid s p) := by
  rcases applyPend_cases gid s p with ⟨l, n, v, g, -, -, h⟩ | ⟨-, h⟩ | h <;> rw [h]
  · exact (registersMoved_wrV ..).trans (registersMoved_countZero ..)
  · rfl
  · rfl

theorem registersMoved_drain (s : State) (gid : Nat) : RegistersMoved s (drain s gid) := by
  unfold drain
  split
  · exact foldl_keeps (RegistersMoved s) (applyPend gid) (fun b p hb => hb.trans (registersMoved_applyPend gid b p)) _ _ rfl
  · rfl

/-- A drained gang has nothing pending, and keeps all but what results write. -/
theorem gangOf_drain {s : State} {gid : Nat} {g : Gang} (hg : gangOf s gid = some g) :
    ∃ h, gangOf (drain s gid) gid = some h ∧ ResultsOnly { g with pend := [] } h := by
  simp only [drain, hg]
  exact gangOf_foldl_applyPend _ (gangOf_modGang_self s gid _ g (fun _ hx => hx) hg)

theorem gangOf_drain_ne (s : State) {gid n : Nat} (hn : n ≠ gid) : gangOf (drain s gid) n = gangOf s n := by
  unfold drain
  split
  · exact (gangOf_foldl_applyPend_ne _ _ hn).trans (gangOf_modGang_ne s gid n _ (fun _ hx => hx) hn)
  · rfl

/-- A gang that is drained and then blocks. -/
theorem gangOf_blockOn_drain {s : State} {gid : Nat} {g : Gang} (b : Blocked) (hg : gangOf s gid = some g) :
    ∃ h, gangOf (blockOn (drain s gid) gid b) gid = some h ∧ h.blocked = some b ∧ h.since = s.clock ∧ h.pend = [] := by
  obtain ⟨x, hx, hres⟩ := gangOf_drain hg
  refine ⟨_, gangOf_blockOn _ _ _ _ hx, rfl, ?_, ?_⟩
  · show (drain s gid).clock = s.clock
    rw [registersMoved_drain s gid]
  · show x.pend = []
    rw [hres.1]

/-! ## Words that wait for a grant -/

theorem exec_of_waitRule {s : State} {g : Gang} {i : Instr} {m : ModFields} {act : LaneMask} {b : Blocked} (hr : Runs s g i m act)
    (hw : waitRule s g act i = some b) (hb : b ≠ .acfree 0 s.fresh) :
    exec i s = .next (blockOn (if drainsFirst i then drain s g.gid else s) g.gid b) := by
  cases i
  case acfree k =>
    cases hw
    have hm : (rdK g k.toNat).setWidth 16 ≠ 0#16 := fun h => hb (by rw [h]; rfl)
    exact congrArg Outcome.next ((runWord_of_runs _ hr rfl).trans (if_neg hm))
  case obres | acalloc | ringCreate | ringRel | rawait =>
    cases hw
    exact congrArg Outcome.next (runWord_of_runs _ hr rfl)
  all_goals cases hw

/-- What blocking leaves, with and without a drain before it. -/
theorem blocked_of_waitRule {s : State} {g : Gang} {i : Instr} {m : ModFields} {act : LaneMask} {b : Blocked} (hr : Runs s g i m act)
    (hw : waitRule s g act i = some b) (hb : b ≠ .acfree 0 s.fresh) :
    ∃ (t : State) (h : Gang), exec i s = .next t ∧ gangOf t g.gid = some h ∧ h.blocked = some b ∧ h.since = s.clock ∧
      (∀ n, n ≠ g.gid → gangOf t n = gangOf s n) ∧ t.ops = s.ops ∧ t.mem = s.mem ∧ t.scr = s.scr ∧
      (drainsFirst i = false → OnlyGang s t g.gid ∧ h = { g with blocked := some b, since := s.clock }) ∧ (drainsFirst i = true → h.pend = []) := by
  have hg := curGang_gangOf hr.1
  have he := exec_of_waitRule hr hw hb
  cases hd : drainsFirst i with
  | false =>
    rw [hd] at he
    obtain ⟨hframe, hne⟩ := onlyGang_blockOn s g.gid b
    exact ⟨_, _, he, gangOf_blockOn s g.gid b g hg, rfl, rfl, hne, rfl, rfl, rfl, fun _ => ⟨⟨hframe, hne⟩, rfl⟩, Bool.noConfusion⟩
  | true =>
    rw [hd] at he
    obtain ⟨h, hh, hblocked, hsince, hpend⟩ := gangOf_blockOn_drain b hg
    have hkept := registersMoved_drain s g.gid
    refine ⟨_, h, he, hh, hblocked, hsince, fun n hn => ?_, ?_, ?_, ?_, Bool.noConfusion, fun _ => hpend⟩
    · exact ((onlyGang_blockOn _ g.gid b).2 n hn).trans (gangOf_drain_ne s hn)
    · show (drain s g.gid).ops = s.ops
      rw [hkept]
    · show (drain s g.gid).mem = s.mem
      rw [hkept]
    · show (drain s g.gid).scr = s.scr
      rw [hkept]

theorem exec_acfree_zero {s : State} {g : Gang} {m : ModFields} {act : LaneMask} {k : BitVec 9} (hr : Runs s g (.acfree k) m act)
    (hm : (rdK g k.toNat).setWidth 16 = 0#16) : exec (.acfree k) s = .next (drain s g.gid) :=
  congrArg Outcome.next ((runWord_of_runs _ hr rfl).trans (if_pos hm))

/-! ## OBREL -/

theorem recOf_setRec (s : State) (r : RecRow) (c i : Nat) :
    recOf (setRec s r) c i = if (c, i) = (r.core, r.idx) then (recOf s c i).map (fun _ => r) else recOf s c i := by
  have hkey : ∀ d j, (fun x : RecRow => x.core == d && x.idx == j) = fun x => @BEq.beq (Nat × Nat) instBEqOfDecidableEq (x.core, x.idx) (d, j) := by
    intro d j
    funext x
    rw [Bool.eq_iff_iff]
    simp
  have hfind := find_map_of_key (fun x : RecRow => (x.core, x.idx)) (fun _ => r) (r.core, r.idx) (fun _ _ => rfl) s.recs (c, i)
  unfold recOf setRec
  simp only [hkey, Prod.mk.injEq] at hfind ⊢
  rw [hfind]
  split
  · rename_i h
    rw [h.1, h.2]
  · rfl

theorem recLive_some {s : State} {g : Gang} {i : Nat} {r : RecRow} (h : recLive s g i = some r) :
    recOf s g.core i = some r ∧ r.core = g.core ∧ r.idx = i := by
  unfold recLive at h
  split at h
  · rename_i r' hr'
    obtain ⟨-, hrr⟩ := Option.ite_none_right_eq_some.mp h
    obtain rfl := Option.some.inj hrr
    exact ⟨hr', by simpa using List.find?_some hr'⟩
  · cases h

theorem obrel_kills {s : State} {g : Gang} {m : ModFields} {act : LaneMask} {k : BitVec 9} {r : RecRow} (hr : Runs s g (.obrel k) m act)
    (hlive : recLive s g ((rdK g k.toNat).toNat % 64) = some r) :
    ∃ t : State, exec (.obrel k) s = .next t ∧ t = { s with recs := t.recs } ∧ recLive t g ((rdK g k.toNat).toNat % 64) = none ∧
      ∀ c i, (c, i) ≠ (r.core, r.idx) → recOf t c i = recOf s c i := by
  obtain ⟨hrec, hcore, hidx⟩ := recLive_some hlive
  have he : exec (.obrel k) s = .next (setRec s { r with st := .dead }) := by
    refine congrArg Outcome.next ((runWord_of_runs _ hr rfl).trans ?_)
    simp only [bitsN_eq, Nat.pow_zero, Nat.div_one, Nat.reducePow, hlive]
  refine ⟨_, he, rfl, ?_, fun c i hne => (recOf_setRec _ _ _ _).trans (if_neg hne)⟩
  rw [recLive, recOf_setRec, if_pos (by rw [hcore, hidx]), hrec]
  rfl

/-! ## TWSET -/

theorem arrayOf_core (s : State) (c : Nat) : (arrayOf s c).core = c := by
  unfold arrayOf
  cases h : s.arrays.find? (fun a => a.core == c) with
  | none => rfl
  | some a => simpa using List.find?_some h

theorem holder_of_holdsArray {s : State} {g : Gang} (h : (arrayOf s g.core).holder = none) : holdsArray s g = false := by
  simp [holdsArray, h]

theorem exec_twset {s : State} {g : Gang} {m : ModFields} {act : LaneMask} {k : BitVec 9} {max : Bool} (hr : Runs s g (.twset k max) m act) :
    let win := (rdK g k.toNat).toNat % 256
    let twin : List PendAct := [.write (.csr 0x020) (BitVec.ofNat 32 win)]
    exec (.twset k max) s = .next (if holdsArray s g then pushPend (setArray s { arrayOf s g.core with max := max, win := win }) g 1 twin
      else if (arrayOf s g.core).holder = none ∧ !s.gangs.any (twsetWaiting g.core) then pushPend (claimArray s g max win) g 1 twin
      else blockOn s g.gid (.twset win max)) := by
  refine congrArg Outcome.next ((runWord_of_runs _ hr rfl).trans ?_)
  simp only [bitsN_eq, Nat.pow_zero, Nat.div_one, Nat.reducePow]

/-- A claim of the array, its window to be seen at the next tick. -/
theorem twset_claims {s : State} {g : Gang} (a : ArrayRow) (ha : a.core = g.core) (hg : gangOf s g.gid = some g) (win : Nat) :
    let t := pushPend (setArray s a) g 1 [.write (.csr 0x020) (BitVec.ofNat 32 win)]
    arrayOf t g.core = a ∧
      gangOf t g.gid = some { g with pend := g.pend ++ [{ vis := g.tick + 1, act := .write (.csr 0x020) (BitVec.ofNat 32 win) }] } := by
  refine ⟨(arrayOf_setArray s a g.core).trans (if_pos ha.symm), gangOf_pushPend _ g 1 _ hg⟩

/-! ## RREL -/

theorem rrel_issues {s : State} {g : Gang} {m : ModFields} {act : LaneMask} {k : BitVec 9} {r : RingRow} (hr : Runs s g (.rrel k) m act)
    (hlive : ringLive s g (rdK g k.toNat) = some r) :
    ∃ t : State, exec (.rrel k) s = .next t ∧ Issued (setRing s { r with rpend := r.rpend + 1 }) t g .st (.rrel (rdK g k.toNat)) act [] ∧
      ringAt t r.core r.obj = { r with rpend := r.rpend + 1 } := by
  refine ⟨startOp (setRing s { r with rpend := r.rpend + 1 }) g .st (.rrel (rdK g k.toNat)) act [], ?_, ?_, ?_⟩
  · refine congrArg Outcome.next ((runWord_of_runs _ hr rfl).trans ?_)
    simp only [hlive]
  · exact issued_startOp ((gangOf_congr (setRing_gangs ..) _).trans (curGang_gangOf hr.1)) _ _ _ _
  · exact (ringAt_setRing s { r with rpend := r.rpend + 1 } r.core r.obj).trans (if_pos ⟨rfl, rfl⟩)

/-! ## An acquire leaves the gangs alone -/

@[simp] theorem emitRec_gangs (s : State) (c : Colour) (r : SnapRec) : (emitRec s c r).gangs = s.gangs := by cases c <;> rfl

@[simp] theorem sendCapture_gangs (s : State) (die ctx : Nat) (c : Colour) (r : SnapRec) : (sendCapture s die ctx c r).gangs = s.gangs := by
  rw [captured_sendCapture s die ctx c r]

theorem foldl_gangs {α : Type} {f : State → α → State} (hf : ∀ s x, (f s x).gangs = s.gangs) (xs : List α) (s : State) :
    (xs.foldl f s).gangs = s.gangs :=
  foldl_keeps (fun t => t.gangs = s.gangs) f (fun b x hb => (hf b x).trans hb) xs s rfl

@[simp] theorem captureL1_gangs (c : Colour) (r : L1Line) (s : State) : (captureL1 c r s).gangs = s.gangs := by
  unfold captureL1
  split
  · exact sendCapture_gangs s (r.core / 40) r.ctx c (l1Rec r)
  · rfl

@[simp] theorem captureL2_gangs (c : Colour) (r : L2Line) (s : State) : (captureL2 c r s).gangs = s.gangs := by
  unfold captureL2
  exact (apply_ite State.gangs ..).trans (ite_eq_right_iff.mpr fun _ => sendCapture_gangs s 0 r.ctx c (l2Rec r))

@[simp] theorem captureL2_unless_gangs (p : Bool) (c : Colour) (r : L2Line) (s : State) : (if p then s else captureL2 c r s).gangs = s.gangs := by
  cases p
  · exact captureL2_gangs c r s
  · rfl

@[simp] theorem putPteBit_gangs (s : State) (pte bit : Nat) (v : Bool) : (putPteBit s pte bit v).gangs = s.gangs := by
  have hset : ∀ (t : State) (x : Option L2Line) (f : L2Line → L2Line), (match x with | some r => setL2 t (f r) | none => t).gangs = t.gangs := by
    intro t x f
    cases x
    · rfl
    · exact setL2_gangs ..
  exact hset _ _ (fun r => { r with data := _ })

theorem pageLineDone_gangs (s : State) (t : PageTag) (i : Nat) : (pageLineDone s t i).gangs = s.gangs := by
  unfold pageLineDone
  dsimp only
  split
  · exact putPteBit_gangs ..
  · rfl

@[simp] theorem captureLineFor_gangs (w : Wr) (c : Colour) (pa : Nat) (s : State) : (captureLineFor w c pa s).gangs = s.gangs := by
  unfold captureLineFor
  split
  · rfl
  · exact foldl_gangs (fun s t => (pageLineDone_gangs ..).trans (sendCapture_gangs ..)) _ s

@[simp] theorem patchFor_gangs (w : Wr) (c : Colour) (tg : Bool) (u : CapUnit) (loc : Nat) (ws : List (Nat × Word)) (bs : List (Nat × Byte)) (s : State) :
    (patchFor w c tg u loc ws bs s).gangs = s.gangs := by
  unfold patchFor
  split
  · exact emitRec_gangs ..
  · rfl

@[simp] theorem lateL2_gangs (w : Wr) (c : Colour) (tg : Bool) (va line : Nat) (mask : BitVec 128) (data : List Byte) (s : State) :
    (lateL2 w c tg va line mask data s).gangs = s.gangs := by
  unfold lateL2
  split
  · exact patchFor_gangs ..
  · rfl

@[simp] theorem zeroMapWrite_gangs (s : State) (pa : Nat) : (zeroMapWrite s pa).gangs = s.gangs := by
  unfold zeroMapWrite
  split
  · dsimp only
    split
    · rfl
    · split
      · exact foldl_gangs (fun s a => putPteBit_gangs ..) _ _
      · rfl
  · rfl

@[simp] theorem askOwn_gangs (s : State) (line core : Nat) : (askOwn s line core).gangs = s.gangs := by
  unfold askOwn
  split
  · rfl
  · exact sendPkt_gangs ..

theorem writeLine_gangs (w : Wr) (line va : Nat) (mask : BitVec 128) (data : List Byte) (s : State) : (writeLine w line va mask data s).gangs = s.gangs := by
  unfold writeLine
  simp only [patchFor_gangs, setL2_gangs]
  split <;> simp only [zeroMapWrite_gangs, captureLineFor_gangs]

theorem writePeerLine_gangs (w : Wr) (line va : Nat) (mask : BitVec 128) (data : List Byte) (s : State) :
    (writePeerLine w line va mask data s).gangs = s.gangs := by
  unfold writePeerLine
  dsimp only
  rw [apply_ite State.gangs, askOwn_gangs, ite_self]
  simp only [lateL2_gangs, setL2_gangs, captureL2_unless_gangs]

theorem writeBackClass_gangs (r : L1Line) (s : State) (e : Bool × Bool × BitVec 128) : (writeBackClass r s e).gangs = s.gangs := by
  unfold writeBackClass
  dsimp only
  split
  · exact writePeerLine_gangs ..
  · exact writeLine_gangs ..

@[simp] theorem shareOut_gangs (line : Nat) (who : List (Nat × Nat)) (s : State) : (shareOut line who s).gangs = s.gangs := by
  unfold shareOut
  split
  · rfl
  · exact foldl_gangs (fun s h => sendPkt_gangs ..) _ s

@[simp] theorem poisonBack_gangs (r : L1Line) (s : State) : (poisonBack r s).gangs = s.gangs := by
  unfold poisonBack
  refine foldl_gangs (fun s k => ?_) _ s
  split
  · split
    · exact setL2_gangs ..
    · rfl
  · rfl

theorem writeBackL1_gangs (r : L1Line) (s : State) : (writeBackL1 r s).gangs = s.gangs := by
  unfold writeBackL1
  split
  · rfl
  · simp only [poisonBack_gangs]
    split <;> simp only [shareOut_gangs, foldl_gangs (writeBackClass_gangs r), captureL1_gangs]

theorem acquireL1_gangs (core sc : Nat) (s : State) : (acquireL1 core sc s).gangs = s.gangs := by
  unfold acquireL1
  split
  · rfl
  · exact foldl_gangs (fun s r => writeBackL1_gangs r s) _ s

/-- An acquire at cluster scope or wider leaves its core no line. -/
theorem acquireL1_l1 {core sc : Nat} (h : 3 ≤ sc) (s : State) : ∀ x ∈ (acquireL1 core sc s).l1, x.core ≠ core := by
  intro x hx
  rw [acquireL1, if_neg (by omega)] at hx
  simpa using (List.mem_filter.mp hx).2

/-! ## Predicates that a completion sets -/

theorem laneAt_modLanes {g : Gang} {l : Nat} (m : LaneMask) (f : Lane → Lane) (hl : l < g.lanes.length) :
    laneAt (modLanes g m f) l = if m.getLsbD l then f (laneAt g l) else laneAt g l := by
  simp [laneAt, modLanes, List.getD_eq_getElem?_getD, hl]

/-- A predicate register with one predicate given. -/
def predPut (v : Bool) (p : Nat) (y : BitVec 7) : BitVec 7 := if v then y ||| (1#7 <<< p) else y &&& ~~~(1#7 <<< p)

theorem getLsbD_predPut (v : Bool) {p : Nat} (hp : p < 7) (y : BitVec 7) : (predPut v p y).getLsbD p = v := by
  cases v <;> simp [predPut, hp]

/-- What the setting of predicate `p` of some lanes does to their gang. -/
def predsPut (p : Nat) (m : LaneMask) (v : Bool) (g : Gang) : Gang :=
  if p = 7 then g else modLanes g m (fun y => { y with p := predPut v p y.p })

theorem gangOf_setPreds {s : State} {gid : Nat} {g : Gang} (p : Nat) (m : LaneMask) (v : Bool) (hg : gangOf s gid = some g) :
    gangOf (setPreds s gid p m v) gid = some (predsPut p m v g) := by
  unfold setPreds predsPut
  split
  · exact hg
  · exact gangOf_modGang_self s gid _ g (fun _ hx => hx) hg

theorem setPreds_l1 (s : State) (gid p : Nat) (m : LaneMask) (v : Bool) : (setPreds s gid p m v).l1 = s.l1 := by
  unfold setPreds
  split <;> rfl

/-- The gang keeps everything but its lanes' predicates. -/
theorem predsPut_kept (p : Nat) (m : LaneMask) (v : Bool) (g : Gang) : predsPut p m v g = { g with lanes := (predsPut p m v g).lanes } := by
  unfold predsPut
  split <;> rfl

theorem predOf_predsPut {g : Gang} {p l : Nat} {m : LaneMask} (v : Bool) (hp : p < 7) (hl : l < g.lanes.length) (hm : m.getLsbD l = true) :
    predOf (predsPut p m v g) l p = v := by
  have hne : p ≠ 7 := by omega
  have hb : (p == 7) = false := beq_false_of_ne hne
  rw [predOf, hb, Bool.false_or, predsPut, if_neg hne, laneAt_modLanes m _ hl, if_pos hm]
  exact getLsbD_predPut v hp _

theorem toNat_lt_seven {pd : BitVec 3} (h : pd ≠ 7#3) : pd.toNat < 7 := by
  have : pd.toNat ≠ 7 := fun e => h (BitVec.eq_of_toNat_eq e)
  omega

/-! ## BWAIT -/

theorem barNamed_drain (s : State) (gid : Nat) (h : Word) : barNamed (drain s gid) h = barNamed s h := by
  rw [registersMoved_drain s gid]
  rfl

theorem drain_l1 (s : State) (gid : Nat) : (drain s gid).l1 = s.l1 := by rw [registersMoved_drain s gid]

section
variable {s : State} {g : Gang} {m : ModFields} {act : LaneMask} {kh kp : BitVec 9} {pd : BitVec 3}

theorem exec_bwait (hr : Runs s g (.bwait kh kp pd) m act) :
    exec (.bwait kh kp pd) s = .next (match barNamed s (rdK g kh.toNat) with
      | some b => if b.phase = (rdK g kp.toNat).getLsbD 0 then blockOn (drain s g.gid) g.gid (.bwait (rdK g kh.toNat) pd.toNat act none)
        else bwaitEnd (drain s g.gid) g (rdK g kh.toNat) pd.toNat act true
      | none => bwaitEnd (drain s g.gid) g (rdK g kh.toNat) pd.toNat act false) :=
  congrArg Outcome.next ((runWord_of_runs _ hr rfl).trans rfl)

/-- A wait on an object that is gone ends with its predicate false. -/
theorem bwait_of_gone (hr : Runs s g (.bwait kh kp pd) m act) (hb : barNamed s (rdK g kh.toNat) = none) :
    ∃ (t : State) (h : Gang), exec (.bwait kh kp pd) s = .next t ∧ gangOf t g.gid = some h ∧ h.pend = [] ∧ h.blocked = g.blocked ∧ t.l1 = s.l1 ∧
      (pd ≠ 7#3 → ∀ l, l < g.lanes.length → act.getLsbD l = true → predOf h l pd.toNat = false) := by
  obtain ⟨x, hx, hkept, hlen, -⟩ := gangOf_drain (curGang_gangOf hr.1)
  have he := exec_bwait hr
  simp only [hb, bwaitEnd, Bool.false_eq_true, if_false] at he
  refine ⟨_, _, he, gangOf_setPreds pd.toNat act false hx, ?_, ?_, (setPreds_l1 ..).trans (drain_l1 ..), fun hpd l hl hact => ?_⟩
  · rw [predsPut_kept, hkept]
  · rw [predsPut_kept, hkept]
  · exact predOf_predsPut false (toNat_lt_seven hpd) (hlen.symm ▸ hl) hact

/-- A wait on a phase that still runs blocks the gang. -/
theorem bwait_of_running {b : BarRow} (hr : Runs s g (.bwait kh kp pd) m act) (hb : barNamed s (rdK g kh.toNat) = some b)
    (hph : b.phase = (rdK g kp.toNat).getLsbD 0) :
    ∃ (t : State) (h : Gang), exec (.bwait kh kp pd) s = .next t ∧ gangOf t g.gid = some h ∧ h.pend = [] ∧
      h.blocked = some (.bwait (rdK g kh.toNat) pd.toNat act none) ∧ t.l1 = s.l1 := by
  obtain ⟨h, hh, hblocked, -, hpend⟩ := gangOf_blockOn_drain (.bwait (rdK g kh.toNat) pd.toNat act none) (curGang_gangOf hr.1)
  have he := exec_bwait hr
  simp only [hb, hph, if_true] at he
  exact ⟨_, h, he, hh, hpend, hblocked, drain_l1 s g.gid⟩

/-- A wait on a phase that is over ends at once, its core's lines acquired at the barrier's scope. -/
theorem bwait_of_over {b : BarRow} (hr : Runs s g (.bwait kh kp pd) m act) (hb : barNamed s (rdK g kh.toNat) = some b)
    (hph : b.phase ≠ (rdK g kp.toNat).getLsbD 0) :
    ∃ (t : State) (h : Gang), exec (.bwait kh kp pd) s = .next t ∧ gangOf t g.gid = some h ∧ h.pend = [] ∧ h.blocked = g.blocked ∧
      (∀ l, l < g.lanes.length → act.getLsbD l = true → predOf h l pd.toNat = true) ∧ (3 ≤ b.scope → ∀ x ∈ t.l1, x.core ≠ g.core) := by
  obtain ⟨x, hx, hkept, hlen, -⟩ := gangOf_drain (curGang_gangOf hr.1)
  have he := exec_bwait hr
  simp only [hb, hph, bwaitEnd, barNamed_drain, if_true, if_false] at he
  have hx' := (gangOf_congr (acquireL1_gangs g.core b.scope (drain s g.gid)) g.gid).trans hx
  refine ⟨_, _, he, gangOf_setPreds pd.toNat act true hx', ?_, ?_, fun l hl hact => ?_, fun hsc => ?_⟩
  · rw [predsPut_kept, hkept]
  · rw [predsPut_kept, hkept]
  · by_cases hpd : pd = 7#3
    · rw [hpd]
      rfl
    · exact predOf_predsPut true (toNat_lt_seven hpd) (hlen.symm ▸ hl) hact
  · rw [setPreds_l1]
    exact acquireL1_l1 hsc _

/-- What BWAIT leaves, by what its barrier says. -/
theorem bwait_cases (hr : Runs s g (.bwait kh kp pd) m act) : ∃ (t : State) (h : Gang), exec (.bwait kh kp pd) s = .next t ∧ gangOf t g.gid = some h ∧
    h.pend = [] ∧
    (∀ b, barNamed s (rdK g kh.toNat) = some b → b.phase = (rdK g kp.toNat).getLsbD 0 →
      h.blocked = some (.bwait (rdK g kh.toNat) pd.toNat act none) ∧ t.l1 = s.l1) ∧
    (∀ b, barNamed s (rdK g kh.toNat) = some b → b.phase ≠ (rdK g kp.toNat).getLsbD 0 →
      h.blocked = g.blocked ∧ (∀ l, l < g.lanes.length → act.getLsbD l = true → predOf h l pd.toNat = true) ∧
      (3 ≤ b.scope → ∀ x ∈ t.l1, x.core ≠ g.core)) ∧
    (barNamed s (rdK g kh.toNat) = none → h.blocked = g.blocked ∧ t.l1 = s.l1 ∧
      (pd ≠ 7#3 → ∀ l, l < g.lanes.length → act.getLsbD l = true → predOf h l pd.toNat = false)) := by
  cases hb : barNamed s (rdK g kh.toNat) with
  | none =>
    obtain ⟨t, h, he, hh, hp, hrest⟩ := bwait_of_gone hr hb
    exact ⟨t, h, he, hh, hp, nofun, nofun, fun _ => hrest⟩
  | some b =>
    by_cases hph : b.phase = (rdK g kp.toNat).getLsbD 0
    · obtain ⟨t, h, he, hh, hp, hrest⟩ := bwait_of_running hr hb hph
      exact ⟨t, h, he, hh, hp, fun _ _ _ => hrest, fun _ e hne => absurd (Option.some.inj e ▸ hph) hne, nofun⟩
    · obtain ⟨t, h, he, hh, hp, hrest⟩ := bwait_of_over hr hb hph
      exact ⟨t, h, he, hh, hp, fun _ e heq => absurd heq (Option.some.inj e ▸ hph), fun _ e _ => Option.some.inj e ▸ hrest, nofun⟩

end

/-- Settles O31: a word that waits is `blockOn`, after a drain for RAWAIT and ACFREE; the others write their own table's row. -/
theorem blockingWords : Obligations.BlockingWords := by
  intro s g m act
  refine ⟨fun i b hr hw hb => blocked_of_waitRule hr hw hb, fun k hr hm => exec_acfree_zero hr hm, fun k r hr hlive => obrel_kills hr hlive,
    fun k max hr => ⟨_, exec_twset hr, fun hholds => ?_, fun hnone hwait => ?_, fun hnot hbusy => ?_⟩,
    fun k r hr hlive _ _ => rrel_issues hr hlive, fun kh kp pd hr => bwait_cases hr⟩
  · rw [if_pos hholds]
    exact twset_claims { arrayOf s g.core with max := max, win := (rdK g k.toNat).toNat % 256 } (arrayOf_core s g.core) (curGang_gangOf hr.1) _
  · rw [if_neg (by rw [holder_of_holdsArray hnone]; exact Bool.false_ne_true), if_pos ⟨hnone, by rw [hwait]; rfl⟩]
    exact twset_claims _ rfl (curGang_gangOf hr.1) _
  · rw [if_neg (by rw [hnot]; exact Bool.false_ne_true), if_neg (fun h => hbusy.elim (fun hne => hne h.1) (fun hany => by simp [hany] at h))]
    exact ⟨rfl, gangOf_blockOn s g.gid _ g (curGang_gangOf hr.1)⟩

end Sys2Proof.Machine
end

section
/-! PROOFS. The codes of the faults that a word's checks report (04_encoding R88, 08_isa_control R166, R167): TRAP's alone are 0x80 and more. -/

namespace Sys2Proof.Machine

/-! ## Faults of a class below the traps' -/

/-- A fault of the check is of a class below the traps'. -/
def ChkLow (c : Chk) : Prop := ∀ f, c = .fault f → f.code < 0x80

/-- A lane's fault is of a class below the traps'. -/
def LaneLow (x : LaneChk) : Prop := ∀ c a, x = .bad c a → c < 0x80

/-- A translation's fault is of a class below the traps'. -/
def XlLow (x : Xl) : Prop := ∀ c, x = .fault c → c < 0x80

@[simp] theorem chkLow_ok : ChkLow .ok := nofun

@[simp] theorem chkLow_hold (ps : List Nat) : ChkLow (.hold ps) := nofun

theorem chkLow_fault {code : Nat} (h : code < 0x80) (mask : LaneMask) (addr : BitVec 64) : ChkLow (.fault { code := code, mask := mask, addr := addr }) :=
  fun _ e => Chk.fault.inj e ▸ h

theorem chkLow_tileFlt {code : Nat} (h : code < 0x80) (act : LaneMask) (off : Nat) : ChkLow (tileFlt code act off) := chkLow_fault h _ _

theorem chkLow_syncFlt {code : Nat} (h : code < 0x80) (act : LaneMask) : ChkLow (syncFlt code act) := chkLow_fault h _ _

theorem chkLow_andThen {a b : Chk} (ha : ChkLow a) (hb : ChkLow b) : ChkLow (andThen a b) := by
  cases a with
  | ok => exact hb
  | fault f => exact ha
  | hold ps => exact ha

theorem chkLow_failIf (b : Bool) {c : Chk} (h : ChkLow c) : ChkLow (failIf b c) := by
  cases b
  · exact chkLow_ok
  · exact h

theorem chkLow_ite (p : Prop) [Decidable p] {c d : Chk} (hc : ChkLow c) (hd : ChkLow d) : ChkLow (if p then c else d) := by
  split
  · exact hc
  · exact hd

theorem chkLow_firstChk {cs : List Chk} (h : ∀ c ∈ cs, ChkLow c) : ChkLow (firstChk cs) := by
  induction cs with
  | nil => exact chkLow_ok
  | cons c cs ih => exact chkLow_andThen (h c List.mem_cons_self) (ih fun d hd => h d (List.mem_cons_of_mem _ hd))

@[simp] theorem laneLow_ok (ps : List Piece) : LaneLow (.ok ps) := nofun

@[simp] theorem laneLow_hold (ps : List Nat) : LaneLow (.hold ps) := nofun

theorem laneLow_bad {c : Nat} (h : c < 0x80) (a : Nat) : LaneLow (.bad c a) := fun _ _ e => (LaneChk.bad.inj e).1 ▸ h

theorem laneLow_ite (p : Prop) [Decidable p] {x y : LaneChk} (hx : LaneLow x) (hy : LaneLow y) : LaneLow (if p then x else y) := by
  split
  · exact hx
  · exact hy

theorem xlLow_fault {c : Nat} (h : c < 0x80) : XlLow (.fault c) := fun _ e => Xl.fault.inj e ▸ h

theorem xlLow_place (p : Place) : XlLow (.place p) := nofun

theorem xlLow_ite (p : Prop) [Decidable p] {x y : Xl} (hx : XlLow x) (hy : XlLow y) : XlLow (if p then x else y) := by
  split
  · exact hx
  · exact hy

/-! ## Translation -/

theorem xlLow_leafPlace (s : State) (ctx va : Nat) (p : BitVec 128) (acc : Acc) : XlLow (leafPlace s ctx va p acc) := by
  unfold leafPlace
  refine xlLow_ite _ (xlLow_fault (by decide)) (xlLow_ite _ (xlLow_fault (by decide)) ?_)
  split
  · exact xlLow_place _
  · exact xlLow_place _
  · exact xlLow_ite _ (xlLow_place _) (xlLow_place _)

theorem xlLow_translate (s : State) (core ctx va : Nat) (acc : Acc) : XlLow (translate s core ctx va acc) := by
  unfold translate
  split
  · exact nofun
  · unfold rowPlace
    split
    · exact xlLow_fault (by decide)
    · exact xlLow_leafPlace _ _ _ _ _

theorem mcastCheck_lt {s : State} {grp off n c : Nat} {l6 : Bool} {u : McUse} (h : mcastCheck s grp off n l6 u = some c) : c < 0x80 := by
  unfold mcastCheck at h
  have hx : fcXlate < 0x80 ∧ fcSpace < 0x80 ∧ fcProtect < 0x80 := by decide
  obtain ⟨hxlate, hspace, hprotect⟩ := hx
  grind

theorem xlLow_placePart (s : State) (g : Gang) (space va n : Nat) (l6 : Bool) (acc : Acc) (u : McUse) : XlLow (placePart s g space va n l6 acc u) := by
  unfold placePart
  split
  · exact nofun
  · exact nofun
  · split
    · split
      · rename_i c hc
        exact xlLow_fault (mcastCheck_lt hc)
      · exact nofun
    · exact xlLow_translate _ _ _ _ _

/-! ## One lane's access -/

theorem firstRanked_mem {xs : List (Nat × Nat)} {x : Nat × Nat} (h : firstRanked xs = some x) : x ∈ xs := by
  induction xs with
  | nil => cases h
  | cons y ys ih =>
    unfold firstRanked at h
    split at h
    · exact Option.some.inj h ▸ List.mem_cons_self
    · rename_i z hz
      split at h
      · exact List.mem_cons_of_mem _ (ih (hz.trans h))
      · exact Option.some.inj h ▸ List.mem_cons_self

/-- The fault reported of some parts is one of the parts'. -/
theorem firstRanked_partFaults_lt {xs : List ((Nat × Nat) × Xl)} {c a : Nat} (hx : ∀ e ∈ xs, XlLow e.2)
    (h : firstRanked (partFaults xs) = some (c, a)) : c < 0x80 := by
  obtain ⟨e, he, hc⟩ := List.mem_filterMap.mp (firstRanked_mem h)
  split at hc
  · rename_i d hd
    obtain ⟨rfl, -⟩ := Prod.mk.inj (Option.some.inj hc)
    exact hx e he _ hd
  · cases hc

theorem laneLow_laneAccess (s : State) (g : Gang) (space va n align : Nat) (l6 : Bool) (acc : Acc) (u : McUse) (lane : Nat) :
    LaneLow (laneAccess s g space va n align l6 acc u lane) := by
  have hspace : fcSpace < 0x80 := by decide
  have halign : fcAlign < 0x80 := by decide
  unfold laneAccess
  dsimp only
  split
  · exact laneLow_bad hspace _
  · refine laneLow_ite _ (laneLow_bad halign _) (laneLow_ite _ (laneLow_hold _) ?_)
    split
    · rename_i c a hc
      refine laneLow_bad (firstRanked_partFaults_lt (fun e he => ?_) hc) _
      obtain ⟨p, -, rfl⟩ := List.mem_map.mp he
      exact xlLow_placePart _ _ _ _ _ _ _ _
    · exact laneLow_ite _ (laneLow_hold _) (laneLow_ite _ (laneLow_bad hspace _) (laneLow_ok _))

theorem laneLow_rangeAccess (s : State) (g : Gang) (space va n align : Nat) (acc : Acc) (lane : Nat) :
    LaneLow (rangeAccess s g space va n align acc lane) := by
  have hspace : fcSpace < 0x80 := by decide
  have halign : fcAlign < 0x80 := by decide
  unfold rangeAccess
  dsimp only
  refine laneLow_ite _ (laneLow_ok _) (laneLow_ite _ (laneLow_bad hspace _) (laneLow_ite _ (laneLow_bad halign _) (laneLow_ite _ (laneLow_hold _) ?_)))
  split
  · rename_i c a hc
    refine laneLow_bad (firstRanked_partFaults_lt (fun e he => ?_) hc) _
    obtain ⟨p, -, rfl⟩ := List.mem_map.mp he
    exact xlLow_placePart _ _ _ _ _ _ _ _
  · exact laneLow_ok _

theorem chkLow_gatherLanes {xs : List (Nat × LaneChk)} (h : ∀ e ∈ xs, LaneLow e.2) : ChkLow (gatherLanes xs) := by
  unfold gatherLanes
  refine chkLow_ite _ (chkLow_hold _) ?_
  split
  · rename_i c a hc
    obtain ⟨e, he, hbad⟩ := Laws.firstSome_some hc
    split at hbad
    · rename_i c' a' hx
      obtain ⟨rfl, -⟩ := Prod.mk.inj (Option.some.inj hbad)
      exact chkLow_fault (h e he _ _ hx) _ _
    · cases hbad
  · exact chkLow_ok

/-- Words with one access a lane. -/
theorem laneLow_laneAccesses (s : State) (g : Gang) (i : Instr) (act : LaneMask) : ∀ e ∈ laneAccesses s g i act, LaneLow e.2 := by
  have heach : ∀ f : Nat → LaneChk, (∀ l, LaneLow (f l)) → ∀ e ∈ (lanesOf act).map (fun l => (l, f l)), LaneLow e.2 := by
    intro f hf e he
    obtain ⟨l, -, rfl⟩ := List.mem_map.mp he
    exact hf l
  unfold laneAccesses
  dsimp only
  split
  case h_10 =>
    split
    · exact heach _ fun l => laneLow_laneAccess _ _ _ _ _ _ _ _ _ _
    · exact nofun
  all_goals exact heach _ fun l => laneLow_laneAccess _ _ _ _ _ _ _ _ _ _

/-! ## Memory words -/

theorem laneLow_cpySrc (s : State) (g : Gang) (f : CpyFields) (l : Nat) : LaneLow (cpySrc s g f l) := laneLow_laneAccess _ _ _ _ _ _ _ _ _ _

theorem laneLow_cpyDst (s : State) (g : Gang) (f : CpyFields) (l : Nat) : LaneLow (cpyDst s g f l) := by
  unfold cpyDst
  dsimp only
  split
  · exact laneLow_ite _ (laneLow_ite _ (laneLow_bad (by decide) _) (laneLow_ite _ (laneLow_bad (by decide) _) (laneLow_ok _)))
      (laneLow_laneAccess _ _ _ _ _ _ _ _ _ _)
  · exact laneLow_laneAccess _ _ _ _ _ _ _ _ _ _

theorem laneLow_cpyLane (s : State) (g : Gang) (f : CpyFields) (l : Nat) : LaneLow (cpyLane s g f l) := by
  have hsrc := laneLow_cpySrc s g f l
  have hdst := laneLow_cpyDst s g f l
  unfold cpyLane
  cases hs : cpySrc s g f l with
  | hold p =>
    cases cpyDst s g f l <;> exact laneLow_hold _
  | bad c a =>
    have hc := laneLow_bad (hsrc c a hs)
    cases hd : cpyDst s g f l with
    | hold q => exact laneLow_hold _
    | bad c2 a2 => exact laneLow_ite _ (hc a) (laneLow_bad (hdst c2 a2 hd) a2)
    | ok q => exact hc a
  | ok p =>
    cases hd : cpyDst s g f l with
    | hold q => exact laneLow_hold _
    | bad c a => exact laneLow_bad (hdst c a hd) a
    | ok q => exact laneLow_ite _ (laneLow_laneAccess _ _ _ _ _ _ _ _ _ _) (laneLow_ok _)

theorem chkLow_cpyHandle (s : State) (g : Gang) (f : CpyFields) (act : LaneMask) : ChkLow (cpyHandle s g f act) := by
  unfold cpyHandle
  refine chkLow_ite _ chkLow_ok (chkLow_ite _ ?_ ?_)
  · split
    · exact chkLow_ite _ chkLow_ok (chkLow_fault (by decide) _ _)
    · exact chkLow_fault (by decide) _ _
  · split
    · exact chkLow_ite _ (chkLow_fault (by decide) _ _) chkLow_ok
    · exact chkLow_fault (by decide) _ _

theorem chkLow_spillChk (g : Gang) (i : Instr) (act : LaneMask) : ChkLow (spillChk g i act) := by
  unfold spillChk
  split
  · exact chkLow_ite _ (chkLow_fault (by decide) _ _) chkLow_ok
  · exact chkLow_ite _ (chkLow_fault (by decide) _ _) chkLow_ok
  · exact chkLow_ok

theorem chkLow_memChk (s : State) (g : Gang) (i : Instr) (act : LaneMask) : ChkLow (memChk s g i act) := by
  have hlanes := fun i => chkLow_gatherLanes (laneLow_laneAccesses s g i act)
  unfold memChk
  split
  · exact chkLow_ite _ (chkLow_fault (by decide) _ _) (chkLow_ite _ chkLow_ok (hlanes _))
  · exact chkLow_ite _ (chkLow_fault (by decide) _ _) (hlanes _)
  · rename_i f
    refine chkLow_andThen (chkLow_gatherLanes fun e he => ?_) (chkLow_cpyHandle s g f act)
    obtain ⟨l, -, rfl⟩ := List.mem_map.mp he
    exact laneLow_cpyLane s g f l
  · exact chkLow_andThen (chkLow_spillChk g _ act) (hlanes _)

/-! ## Tile and temporal words -/

theorem chkLow_rangeChk (act : LaneMask) {x : LaneChk} (h : LaneLow x) : ChkLow (rangeChk act x) := by
  cases x with
  | ok ps => exact chkLow_ok
  | hold ps => exact chkLow_hold ps
  | bad c a => exact chkLow_tileFlt (h c a rfl) act a

theorem chkLow_recChk (s : State) (g : Gang) (h : Nat) (wb : Option Bool) (act : LaneMask) : ChkLow (recChk s g h wb act) := by
  unfold recChk
  split
  · exact chkLow_tileFlt (by decide) act 0
  · exact chkLow_ite _ (chkLow_tileFlt (by decide) act 0) (chkLow_failIf _ (chkLow_tileFlt (by decide) act 0))

theorem chkLow_accChk (s : State) (g : Gang) (banks : List Nat) (act : LaneMask) : ChkLow (accChk s g banks act) :=
  chkLow_ite _ (chkLow_tileFlt (by decide) act 0) (chkLow_failIf _ (chkLow_tileFlt (by decide) act 0))

theorem chkLow_earlierHold (s : State) (g : Gang) (act : LaneMask) : ChkLow (earlierHold s g act) := by
  unfold earlierHold
  split
  · exact chkLow_ok
  · exact chkLow_hold _

theorem chkLow_lineHold (s : State) (ps : List Piece) : ChkLow (lineHold s ps) := by
  unfold lineHold
  split
  · exact chkLow_ok
  · exact chkLow_hold _

theorem chkLow_obldChk (s : State) (g : Gang) (kh kq space : Nat) (cvt : Bool) (act : LaneMask) : ChkLow (obldChk s g kh kq space cvt act) := by
  have hop := fun off => chkLow_tileFlt (code := fcOpbuf) (by decide) act off
  unfold obldChk
  simp only
  refine chkLow_firstChk fun c hc => ?_
  simp only [List.mem_cons, List.not_mem_nil, or_false] at hc
  rcases hc with rfl | rfl | rfl | rfl
  · exact chkLow_ite _ (chkLow_rangeChk act (laneLow_rangeAccess _ _ _ _ _ _ _ _)) chkLow_ok
  · exact chkLow_failIf _ (chkLow_tileFlt (by decide) act 0)
  · exact chkLow_recChk s g _ _ act
  · split
    · exact chkLow_ok
    · split
      · split
        · exact chkLow_failIf _ (hop _)
        · exact chkLow_ok
      · exact chkLow_ite _ (chkLow_failIf _ (hop _)) (chkLow_failIf _ (hop _))

theorem chkLow_wbldChk (s : State) (g : Gang) (kh kq space : Nat) (act : LaneMask) : ChkLow (wbldChk s g kh kq space act) := by
  refine chkLow_firstChk fun c hc => ?_
  simp only [List.mem_cons, List.not_mem_nil, or_false] at hc
  rcases hc with rfl | rfl | rfl | rfl
  · exact chkLow_rangeChk act (laneLow_rangeAccess _ _ _ _ _ _ _ _)
  · split
    · exact chkLow_andThen (chkLow_earlierHold s g act) (chkLow_lineHold s _)
    · exact chkLow_ok
  · exact chkLow_recChk s g _ _ act
  · split
    · exact chkLow_failIf _ (chkLow_tileFlt (by decide) act _)
    · exact chkLow_ok

theorem chkLow_mmaBarriers (s : State) (g : Gang) (b : MmaBlock) (act : LaneMask) : ChkLow (mmaBarriers s g b act) := by
  have hone : ∀ (v : Bool) (h : Word) (n : Nat), ChkLow (if !v then Chk.ok else match barLive s g.ctx h with
      | some r => failIf (refFull r n) (tileFlt fcBarrier act 0)
      | none => tileFlt fcBarrier act 0) := by
    intro v h n
    refine chkLow_ite _ chkLow_ok ?_
    split
    · exact chkLow_failIf _ (chkLow_tileFlt (by decide) act 0)
    · exact chkLow_tileFlt (by decide) act 0
  refine chkLow_firstChk fun c hc => ?_
  simp only [List.mem_cons, List.not_mem_nil, or_false] at hc
  rcases hc with rfl | rfl
  · exact hone _ _ _
  · exact hone _ _ _

theorem chkLow_mmaChk (s : State) (g : Gang) (kp : Nat) (cp : Bool) (act : LaneMask) : ChkLow (mmaChk s g kp cp act) := by
  have hplace : LaneLow (mmaPlace s g kp cp) := laneLow_rangeAccess _ _ _ _ _ _ _ _
  unfold mmaChk
  split
  · exact chkLow_hold _
  · rename_i c a hc
    exact chkLow_tileFlt (hplace c a hc) act a
  · rename_i ps _
    have hholds := chkLow_andThen (chkLow_earlierHold s g act) (chkLow_lineHold s ps)
    split
    · refine chkLow_ite _ (chkLow_tileFlt (by decide) act _) (chkLow_ite _ (chkLow_tileFlt (by decide) act 0) (chkLow_firstChk fun c hc => ?_))
      simp only [List.mem_cons, List.not_mem_nil, or_false] at hc
      rcases hc with rfl | rfl | rfl | rfl | rfl
      · exact chkLow_recChk s g _ _ act
      · exact chkLow_recChk s g _ _ act
      · split
        · split
          · exact chkLow_tileFlt (by decide) act _
          · exact chkLow_ok
        · exact chkLow_ok
      · exact chkLow_accChk s g _ act
      · exact chkLow_mmaBarriers s g _ act
    · exact hholds

theorem chkLow_acmovChk (s : State) (g : Gang) (aop kt kq : Nat) (act : LaneMask) : ChkLow (acmovChk s g aop kt kq act) := by
  unfold acmovChk
  refine chkLow_ite _ (chkLow_firstChk fun c hc => ?_)
    (chkLow_andThen (chkLow_rangeChk act (laneLow_rangeAccess _ _ _ _ _ _ _ _)) (chkLow_accChk s g _ act))
  simp only [List.mem_cons, List.not_mem_nil, or_false] at hc
  rcases hc with rfl | rfl | rfl
  · exact chkLow_failIf _ (chkLow_tileFlt (by decide) act 0)
  · exact chkLow_accChk s g _ act
  · exact chkLow_failIf _ (chkLow_tileFlt (by decide) act 0)

theorem chkLow_arrayChk (s : State) (g : Gang) (act : LaneMask) : ChkLow (arrayChk s g act) :=
  chkLow_ite _ (chkLow_tileFlt (by decide) act 0) (chkLow_failIf _ (chkLow_tileFlt (by decide) act 0))

theorem chkLow_twsetChk (s : State) (g : Gang) (kw : Nat) (act : LaneMask) : ChkLow (twsetChk s g kw act) :=
  chkLow_ite _ (chkLow_tileFlt (by decide) act 0) (chkLow_failIf _ (chkLow_tileFlt (by decide) act 0))

theorem chkLow_tileChk (s : State) (g : Gang) (i : Instr) (act : LaneMask) : ChkLow (tileChk s g i act) := by
  have hflt : ∀ b code, code < 0x80 → ChkLow (failIf b (tileFlt code act 0)) := fun b code h => chkLow_failIf b (chkLow_tileFlt h act 0)
  cases i <;> dsimp only [tileChk]
  case obres | acalloc => exact hflt _ _ (by decide)
  case obrel => exact chkLow_recChk s g _ _ act
  case obld => exact chkLow_obldChk s g _ _ _ _ act
  case wbld => exact chkLow_wbldChk s g _ _ _ act
  case acfree => exact chkLow_accChk s g _ act
  case mma => exact chkLow_mmaChk s g _ _ act
  case acmovTogl | acmovTosp | acmovFromsp | acmovToreg => exact chkLow_acmovChk s g _ _ _ act
  case twset => exact chkLow_twsetChk s g _ act
  case tldw => exact chkLow_andThen (chkLow_rangeChk act (laneLow_rangeAccess _ _ _ _ _ _ _ _)) (chkLow_arrayChk s g act)
  case tlnch | tcapt | trst | trstRel => exact chkLow_arrayChk s g act
  all_goals exact chkLow_ok

/-! ## Words on barriers, rings and snapshots -/

theorem chkLow_barChk (s : State) (g : Gang) (h : Word) (act : LaneMask) : ChkLow (barChk s g h act) := by
  unfold barChk
  split
  · exact chkLow_ok
  · exact chkLow_syncFlt (by decide) act

theorem chkLow_ringChk (s : State) (g : Gang) (h : Word) (act : LaneMask) : ChkLow (ringChk s g h act) := by
  unfold ringChk
  split
  · exact chkLow_ok
  · exact chkLow_syncFlt (by decide) act

theorem chkLow_rrelChk (s : State) (g : Gang) (h : Word) (act : LaneMask) : ChkLow (rrelChk s g h act) := by
  unfold rrelChk
  split
  · exact chkLow_failIf _ (chkLow_syncFlt (by decide) act)
  · exact chkLow_syncFlt (by decide) act

theorem chkLow_ringCreateChk (s : State) (g : Gang) (q0 q1 : Word) (act : LaneMask) : ChkLow (ringCreateChk s g q0 q1 act) :=
  chkLow_ite _ (chkLow_syncFlt (by decide) act) (chkLow_ite _ (chkLow_syncFlt (by decide) act)
    (chkLow_ite _ (chkLow_syncFlt (by decide) act) (chkLow_failIf _ (chkLow_syncFlt (by decide) act))))

theorem chkLow_syncChk (s : State) (g : Gang) (i : Instr) (act : LaneMask) : ChkLow (syncChk s g i act) := by
  cases i
  case balloc | snap => exact chkLow_failIf _ (chkLow_syncFlt (by decide) act)
  case bfree | barvArrive | barvNoarr | barvDrop | bwait => exact chkLow_barChk s g _ act
  case ringCreate => exact chkLow_ringCreateChk s g _ _ act
  case ringRel | rawait => exact chkLow_ringChk s g _ act
  case rrel => exact chkLow_rrelChk s g _ act
  all_goals exact chkLow_ok

/-! ## A word's whole check -/

theorem chkLow_transferChk (s : State) (g : Gang) (i : Instr) (act : LaneMask) : ChkLow (transferChk s g i act) := by
  unfold transferChk
  split
  · exact chkLow_ok
  · exact chkLow_fault (by decide) _ _

theorem chkLow_poisonCheck (s : State) (g : Gang) (i : Instr) (m : ModFields) (act : LaneMask) : ChkLow (poisonCheck s g i m act) := by
  unfold poisonCheck
  dsimp only
  split
  · exact chkLow_ok
  · exact chkLow_fault (by decide) _ _

/-- The word is a TRAP. -/
def isTrap : Instr → Bool
  | .trap _ _ => true
  | _ => false

theorem chkLow_ownChk {s : State} {g : Gang} {i : Instr} {act : LaneMask} (hi : isTrap i = false) : ChkLow (ownChk s g i act) := by
  unfold ownChk
  split
  · cases hi
  · exact chkLow_ite _ (chkLow_fault (by decide) _ _) (chkLow_ite _ chkLow_ok (chkLow_transferChk s g _ act))
  · exact chkLow_andThen (chkLow_transferChk s g _ act)
      (chkLow_andThen (chkLow_memChk s g _ act) (chkLow_andThen (chkLow_tileChk s g _ act) (chkLow_syncChk s g _ act)))

theorem chkLow_wordChk {s : State} {g : Gang} {i : Instr} {m : ModFields} {act : LaneMask} (hi : isTrap i = false) : ChkLow (wordChk s g i m act) := by
  have hrest := fun i (hi : isTrap i = false) => chkLow_andThen (chkLow_ownChk (s := s) (g := g) (act := act) hi) (chkLow_poisonCheck s g i m act)
  unfold wordChk
  refine chkLow_ite _ chkLow_ok ?_
  split
  · cases hi
  · exact chkLow_ite _ chkLow_ok (hrest _ rfl)
  · exact hrest _ hi

/-- The PC that TRETPC takes of a word's fault: past a TRAP, else the bundle's own. -/
theorem retPcOf_of_fault {s : State} {g : Gang} {i : Instr} {m : ModFields} {act : LaneMask} {f : Flt} (h : wordChk s g i m act = .fault f) :
    retPcOf s i = if 0x80 ≤ f.code then fallPc s.cur.pc s.cur.last else s.cur.pc := by
  cases hi : isTrap i with
  | false =>
    rw [if_neg (by have := chkLow_wordChk hi f h; omega)]
    cases i
    case trap => cases hi
    all_goals rfl
  | true =>
    cases i
    case trap ka n =>
      unfold wordChk at h
      split at h
      · cases h
      · obtain rfl : _ = f := Chk.fault.inj h
        exact (if_pos (Nat.le_add_right 0x80 n.toNat)).symm
    all_goals cases hi

theorem laneFault_code {code : Nat} {bad : List Nat} {f : Flt} (h : laneFault code bad = some f) : f.code = code := by
  unfold laneFault at h
  split at h
  · cases h
  · exact Option.some.inj h ▸ rfl

/-- A fault of steps 3 to 7 is of a class below the traps'. -/
theorem earlyFault_lt {s : State} {g : Gang} {bw : BundleWord} {f : Flt} (h : earlyFault s g bw = some f) : f.code < 0x80 := by
  obtain ⟨n, -, hf⟩ := Laws.firstSome_some h
  unfold stepFault at hf
  have hcodes : fcIllegal < 0x80 ∧ fcSource < 0x80 ∧ fcCsr < 0x80 ∧ fcBank < 0x80 ∧ fcIndex < 0x80 ∧ fcUnwaited < 0x80 := by decide
  obtain ⟨h1, h2, h3, h4, h5, h6⟩ := hcodes
  have hlane := @laneFault_code
  grind

end Sys2Proof.Machine
end

section
/-! PROOFS. One step runs one turn (02_execution R33, R35, R36, 04_encoding R76, R77, R86, R88, 08_isa_control R147, 19_host_firmware R359). -/

namespace Sys2Proof.Machine

open Host (Outcome)

/-! ## Every word and event ends in a state -/

theorem exec_next (i : Instr) (s : State) : ∃ t, exec i s = .next t := by
  cases i <;> exact ⟨_, rfl⟩

theorem runWords_next (ws : List BundleWord) (s : State) : ∃ t, runWords ws s = .next t := by
  induction ws generalizing s with
  | nil => exact ⟨s, rfl⟩
  | cons w ws ih =>
    unfold runWords
    cases w.word with
    | none => exact ih s
    | some i =>
      obtain ⟨t, ht⟩ := exec_next i (atWord s w)
      simp only [ht]
      exact ih t

/-! ## A turn's gang -/

theorem chooseGang_eq_none {gs : List Gang} (h : chooseGang gs = none) : gs = [] := by
  cases gs with
  | nil => rfl
  | cons g gs =>
    unfold chooseGang at h
    split at h
    · cases h
    · split at h <;> cases h

theorem le_lastIssue_of_not_issuesBefore {a b : Gang} (h : ¬issuesBefore a b = true) : b.lastIssue ≤ a.lastIssue := by
  simp only [issuesBefore, Bool.or_eq_true, decide_eq_true_eq, not_or] at h
  omega

theorem le_lastIssue_of_issuesBefore {a b : Gang} (h : issuesBefore a b = true) : a.lastIssue ≤ b.lastIssue := by
  simp only [issuesBefore, Bool.or_eq_true, Bool.and_eq_true, decide_eq_true_eq] at h
  omega

/-- The gang chosen is one of them, issued no later than any. -/
theorem chooseGang_eq_some {gs : List Gang} {x : Gang} (h : chooseGang gs = some x) : x ∈ gs ∧ ∀ y ∈ gs, x.lastIssue ≤ y.lastIssue := by
  induction gs generalizing x with
  | nil => cases h
  | cons g gs ih =>
    unfold chooseGang at h
    split at h
    · rename_i hnone
      obtain rfl := Option.some.inj h
      rw [chooseGang_eq_none hnone]
      simp
    · rename_i z hz
      obtain ⟨hmem, hle⟩ := ih hz
      split at h
      · rename_i hb
        obtain rfl := Option.some.inj h
        have hg := le_lastIssue_of_issuesBefore hb
        exact ⟨List.mem_cons_self, List.forall_mem_cons.mpr ⟨le_rfl, fun y hy => hg.trans (hle y hy)⟩⟩
      · rename_i hb
        obtain rfl := Option.some.inj h
        exact ⟨List.mem_cons_of_mem _ hmem, List.forall_mem_cons.mpr ⟨le_lastIssue_of_not_issuesBefore hb, hle⟩⟩

theorem mem_insertBy {α : Type} (key : α → Nat) (x y : α) (xs : List α) : y ∈ insertBy key x xs ↔ y = x ∨ y ∈ xs := by
  induction xs with
  | nil => simp [insertBy]
  | cons z zs ih =>
    unfold insertBy
    split
    · simp
    · simp only [List.mem_cons, ih]
      tauto

theorem mem_sortBy {α : Type} (key : α → Nat) (y : α) (xs : List α) : y ∈ sortBy key xs ↔ y ∈ xs := by
  induction xs with
  | nil => rfl
  | cons x xs ih => rw [sortBy, mem_insertBy, ih, List.mem_cons]

/-- Where no other gang can issue, none is packed. -/
theorem packWith_eq_nil {g : Gang} {gs : List Gang} (h : ∀ x ∈ gs, canIssue x = true → x.gid = g.gid) (w : Nat) : packWith g w gs = [] := by
  induction gs with
  | nil => rfl
  | cons x xs ih =>
    obtain ⟨hx, hxs⟩ := List.forall_mem_cons.mp h
    rw [packWith, if_neg, ih hxs]
    intro hc
    simp only [Bool.and_eq_true, bne_iff_ne, decide_eq_true_eq] at hc
    exact hc.1.1.1.1 (hx hc.1.1.2)

/-- A partition's turn with one gang to issue. -/
theorem issueTurn_of_alone {s : State} {core part : Nat} {g : Gang}
    (hg : chooseGang ((onPartition (countBlocked core part s) core part).filter canIssue) = some g)
    (halone : 64 ≤ g.width ∨ ∀ h ∈ onPartition (countBlocked core part s) core part, canIssue h = true → h.gid = g.gid) :
    issueTurn core part s = issueAll false [g.gid] (countBlocked core part s) := by
  have hothers : (if g.width < 64 then packWith g g.width (sortBy (·.slot) (onPartition (countBlocked core part s) core part)) else []) = [] := by
    rcases halone with hw | hsame
    · exact if_neg (by omega)
    · rw [packWith_eq_nil (fun x hx => hsame x ((mem_sortBy _ _ _).mp hx)), ite_self]
  simp only [issueTurn, hg, hothers]
  rfl

theorem issueAll_singleton {s t : State} {packed : Bool} {gid : Nat} (h : issueGang packed gid s = .next t) :
    issueAll packed [gid] s = .next (if queuesHold s t = true then t else s) := by
  simp only [issueAll, h, roomed]

/-! ## A gang's issue -/

/-- Selection keeps the gang's mode and its faults to come. -/
theorem selectLanes_kept {g0 g : Gang} {pc : Addr} {lanes : LaneMask} (h : selectLanes g0 = some (g, pc, lanes)) :
    g.handler = g0.handler ∧ g.weight = g0.weight := by
  unfold selectLanes at h
  dsimp only at h
  split at h
  · cases h
  · split at h
    · cases h
    · obtain ⟨rfl, -, -⟩ : _ = g ∧ _ := by simpa only [Option.some.injEq, Prod.mk.injEq] using h
      split <;> exact ⟨rfl, rfl⟩

/-- The state in which a fetched bundle is checked, but for its record. -/
def atBundle (s : State) (core part : Nat) (g : Gang) (pc : Addr) : State :=
  fetched g (pc.toNat / 16 * 16) (setGang (ticked s core part) g)

/-- The words of the bundle at `pc` in its packet. -/
def rawAt (pc : Addr) (pkt : List Byte) : List (Nat × BitVec 32) := bundleWords (pc.toNat / 4 % 4) ((packetWords pkt).drop (pc.toNat / 4 % 4))

section
variable {s : State} {core part : Nat} {g : Gang} {pc : Addr} {lanes : LaneMask} {pkt : List Byte}

/-- A turn whose gang meets no fault of its packet runs its bundle. -/
theorem issueGang_of_fetched {T : State} {g0 : Gang} (hg : gangOf T g0.gid = some g0) (hcan : canIssue g0 = true)
    (hw : g0.handler = true ∨ g0.weight = []) (hsel : selectLanes g0 = some (g, pc, lanes))
    (hpkt : fetchPacket (setGang T g) g.core g.ctx (pc.toNat / 16 * 16) = .ok (pkt, false, false, false, false))
    (hkind : (wordOf pkt 12).toNat / 2 ^ 30 = 0) (hchain : chainBad (rawAt pc pkt) = false)
    (hgaps : mapGaps (fetched g (pc.toNat / 16 * 16) (setGang T g)) g pc = []) :
    issueGang false g0.gid T = runBundle false g { fetched g (pc.toNat / 16 * 16) (setGang T g) with
      cur := issueOf (fetched g (pc.toNat / 16 * 16) (setGang T g)) g pc lanes (wordOf pkt 12) (rawAt pc pkt) } := by
  obtain ⟨hhandler, hweight⟩ := selectLanes_kept hsel
  have hcan' : canIssue { g0 with dead := false } = true := by
    simp only [canIssue, Bool.and_eq_true] at hcan ⊢
    exact ⟨⟨⟨⟨rfl, hcan.1.1.1.2⟩, hcan.1.1.2⟩, hcan.1.2⟩, hcan.2⟩
  have hslot : bitsN pc.toNat 2 2 = pc.toNat / 4 % 4 := by rw [bitsN_eq]; rfl
  have hctl : ctlKind (wordOf pkt 12) = 0 := by rw [ctlKind, bitsN_eq, hkind, Nat.zero_mod]
  have hpsn : fetchPoisoned (false, false, false, false) (rawAt pc pkt) = false := by
    rw [fetchPoisoned, Bool.false_or, List.any_eq_false]
    intro e _
    split <;> exact Bool.false_ne_true
  simp only [issueGang, hg, hcan', Bool.not_true, Bool.false_eq_true, if_false, hsel, toNat_packet, hpkt, hslot]
  split
  · rename_i w ws hh hws
    rw [← hhandler, ← hweight, hh, hws] at hw
    exact absurd hw (by simp)
  · change (if fetchPoisoned _ (rawAt pc pkt) = true then _ else _) = _
    rw [if_neg (by rw [hpsn]; exact Bool.false_ne_true), if_neg (not_not.mpr hctl)]
    change (if chainBad (rawAt pc pkt) = true then _ else _) = _
    rw [if_neg (by rw [hchain]; exact Bool.false_ne_true), if_neg (not_not.mpr hgaps)]
    rfl

/-- The state that holds a bundle's record. -/
def recorded (s : State) (core part : Nat) (g : Gang) (pc : Addr) (lanes : LaneMask) (pkt : List Byte) : State :=
  { atBundle s core part g pc with cur := issueOf (atBundle s core part g pc) g pc lanes (wordOf pkt 12) (rawAt pc pkt) }

/-- A step whose bundle ends its issue in `t`: `t` stands where the capture queues hold it. -/
theorem step_of_runBundle {t : State} (h : IssuesAt s core part g pc lanes pkt) (hkind : (wordOf pkt 12).toNat / 2 ^ 30 = 0)
    (hchain : chainBad (rawAt pc pkt) = false) (hgaps : mapGaps (atBundle s core part g pc) g pc = [])
    (hrun : runBundle false g (recorded s core part g pc lanes pkt) = .next t) :
    step s = .next (if queuesHold (ticked s core part) t = true then t else ticked s core part) := by
  obtain ⟨hon, hturn, g0, hchoose, hg0, halone, hw, hsel, hpkt⟩ := h
  have hcan : canIssue g0 = true := (List.mem_filter.mp (chooseGang_eq_some hchoose).1).2
  have hissue := (issueGang_of_fetched hg0 hcan hw hsel hpkt hkind hchain hgaps).trans hrun
  have hstep : step s = issueTurn core part { s with agenda := s.agenda.drop 1, clock := s.clock + 1 } := by
    simp only [step, turn, hon, hturn, Bool.false_and, Bool.false_eq_true, if_false]
    rfl
  exact hstep.trans ((issueTurn_of_alone hchoose halone).trans (issueAll_singleton hissue))

end

/-! ## A bundle's run -/

section
variable {s t : State} {g : Gang}

/-- A bundle that passes every check runs its words and ends. -/
theorem runBundle_of_passes {ws : List BundleWord} (hws : s.cur.words = ws) (hf : bundleFault s g ws = none) (hc : firstAccess s g ws = [])
    (h8 : (bundleStep8 s g ws).1 = .ok) (hroom : countsFit g.cnt (bundleCounts g s.cur.lanes ws) = true)
    (hrun : runWords (sortBy wordRank ws) { s with cur := { s.cur with checked := true } } = .next t) :
    runBundle false g s = .next (finishBundle false (zeroReads s g ws) t) := by
  subst hws
  obtain ⟨ret, h8'⟩ : ∃ ret, bundleStep8 s g s.cur.words = (.ok, ret) := ⟨_, Prod.ext h8 rfl⟩
  simp only [runBundle, hf, hc, h8', hroom, hrun, ne_eq, not_true_eq_false, if_false, Bool.not_true, Bool.false_eq_true]

/-- A fault of steps 3 to 7 enters the trap at the bundle. -/
theorem runBundle_of_bundleFault {f : Flt} (hf : bundleFault s g s.cur.words = some f) : runBundle false g s = .next (faultBundle s g f s.cur.pc) := by
  simp only [runBundle, hf]

/-- A fault of step 8 enters the trap at the PC that its word gives. -/
theorem runBundle_of_step8Fault {ws : List BundleWord} {f : Flt} {ret : Addr} (hws : s.cur.words = ws) (hf : bundleFault s g ws = none)
    (hc : firstAccess s g ws = []) (h8 : bundleStep8 s g ws = (.fault f, ret)) : runBundle false g s = .next (faultBundle s g f ret) := by
  subst hws
  simp only [runBundle, hf, hc, h8, ne_eq, not_true_eq_false, if_false]

end

/-! ## A lone word -/

/-- The bundle of a word that stands alone. -/
def loneWord (slot : Nat) (i : Instr) : BundleWord := { slot := slot, word := some i, mod := none }

section
variable {s : State} {g : Gang} {i : Instr} {slot : Nat}

theorem bundleFault_loneWord : bundleFault s g [loneWord slot i] = earlyFault (atWord s (loneWord slot i)) g (loneWord slot i) := by
  have hone : ∀ st, firstSome (fun w => stepFault (atWord s w) g w st) [loneWord slot i] = stepFault (atWord s (loneWord slot i)) g (loneWord slot i) st := by
    intro st
    unfold firstSome
    cases stepFault (atWord s (loneWord slot i)) g (loneWord slot i) st <;> rfl
  simp only [bundleFault, hone, earlyFault]

/-- The whole check of a lone word: steps 3 to 7, then step 8. -/
theorem fullChk_loneWord : fullChk (atWord s (loneWord slot i)) g i = match earlyFault (atWord s (loneWord slot i)) g (loneWord slot i) with
    | some f => .fault f
    | none => wordChk (atWord s (loneWord slot i)) g i plainMod (activeOf g s.cur.lanes (some i) none) := rfl

theorem bundleStep8_loneWord_of_ok (h : wordChk (atWord s (loneWord slot i)) g i plainMod (activeOf g s.cur.lanes (some i) none) = .ok) :
    (bundleStep8 s g [loneWord slot i]).1 = .ok := by
  have h' : wordChk (atWord s (loneWord slot i)) g i ((loneWord slot i).mod.getD plainMod) (activeOf g s.cur.lanes (some i) (loneWord slot i).mod) = .ok := h
  simp only [bundleStep8, loneWord] at h' ⊢
  rw [h']

theorem bundleStep8_loneWord_of_fault {f : Flt}
    (h : wordChk (atWord s (loneWord slot i)) g i plainMod (activeOf g s.cur.lanes (some i) none) = .fault f) :
    bundleStep8 s g [loneWord slot i] = (.fault f, retPcOf s i) := by
  have h' : wordChk (atWord s (loneWord slot i)) g i ((loneWord slot i).mod.getD plainMod) (activeOf g s.cur.lanes (some i) (loneWord slot i).mod) = .fault f := h
  simp only [bundleStep8, loneWord] at h' ⊢
  rw [h']

/-- The trap does not read which slot's turn it was. -/
theorem faultBundle_atWord (w : BundleWord) (f : Flt) (ret : Addr) : faultBundle (atWord s w) g f ret = faultBundle s g f ret := rfl

theorem firstAccess_atWord (w : BundleWord) (ws : List BundleWord) : firstAccess (atWord s w) g ws = firstAccess s g ws := rfl

theorem zeroReads_atWord (w : BundleWord) (ws : List BundleWord) : zeroReads (atWord s w) g ws = zeroReads s g ws := rfl

theorem sortBy_singleton {α : Type} (key : α → Nat) (x : α) : sortBy key [x] = [x] := rfl

theorem runWords_loneWord : runWords [loneWord slot i] s = exec i (atWord s (loneWord slot i)) := by
  obtain ⟨t, ht⟩ := exec_next i (atWord s (loneWord slot i))
  simp only [runWords, loneWord] at ht ⊢
  rw [ht]

/-- A lone word that passes its check runs. -/
theorem runBundle_loneWord {t : State} (hws : s.cur.words = [loneWord slot i]) (hc : firstAccess s g [loneWord slot i] = [])
    (hok : fullChk (atWord s (loneWord slot i)) g i = .ok) (hroom : countsFit g.cnt (bundleCounts g s.cur.lanes [loneWord slot i]) = true)
    (hrun : exec i (atWord { s with cur := { s.cur with checked := true } } (loneWord slot i)) = .next t) :
    runBundle false g s = .next (finishBundle false (zeroReads s g [loneWord slot i]) t) := by
  rw [fullChk_loneWord] at hok
  split at hok
  · cases hok
  · rename_i hearly
    exact runBundle_of_passes hws (bundleFault_loneWord.trans hearly) hc (bundleStep8_loneWord_of_ok hok) hroom (runWords_loneWord.trans hrun)

/-- A lone word's fault enters the trap, with the PC past a TRAP, else its own. -/
theorem runBundle_loneWord_of_fault {f : Flt} (hws : s.cur.words = [loneWord slot i]) (hlast : s.cur.last = slot)
    (hc : firstAccess s g [loneWord slot i] = []) (hflt : fullChk (atWord s (loneWord slot i)) g i = .fault f) :
    runBundle false g s = .next (faultBundle s g f (if 0x80 ≤ f.code then fallPc s.cur.pc slot else s.cur.pc)) := by
  rw [fullChk_loneWord] at hflt
  split at hflt
  · rename_i f' hearly
    obtain rfl := Chk.fault.inj hflt
    rw [if_neg (by have := earlyFault_lt hearly; omega)]
    exact runBundle_of_bundleFault (by rw [hws]; exact bundleFault_loneWord.trans hearly)
  · rename_i hearly
    have hret : retPcOf s i = if 0x80 ≤ f.code then fallPc s.cur.pc s.cur.last else s.cur.pc :=
      retPcOf_of_fault (s := atWord s (loneWord slot i)) hflt
    rw [← hlast, ← hret]
    exact runBundle_of_step8Fault hws (bundleFault_loneWord.trans hearly) hc (bundleStep8_loneWord_of_fault hflt)

end

/-! ## The lone word of a packet -/

theorem decode_of_isModWord {w : BitVec 32} {i : Instr} (h : isModWord w = true) (hi : decode w = .ok i) : ∃ m, i = .mod m := by
  have hop : (fieldOf w 24 7).toNat = 0x7F := congrArg BitVec.toNat (of_decide_eq_true h)
  have hf : decodeFields w = .ok (.mod (decodeMod w)) := by
    unfold decodeFields
    rw [hop]
    rfl
  rw [decode, hf] at hi
  dsimp only at hi
  split at hi
  · exact ⟨_, (Except.ok.inj hi).symm⟩
  · cases hi

section
variable {pc : Addr} {pkt : List Byte} {i : Instr}

/-- A word without its chain bit ends the bundle. -/
theorem rawAt_of_lone (hslot : pc.toNat / 4 % 4 < 3) (hbit : (wordOf pkt (4 * (pc.toNat / 4 % 4))).getLsbD 31 = false) :
    rawAt pc pkt = [(pc.toNat / 4 % 4, wordOf pkt (4 * (pc.toNat / 4 % 4)))] := by
  unfold rawAt
  generalize pc.toNat / 4 % 4 = k at hslot hbit ⊢
  interval_cases k
  all_goals simp_all [packetWords, bundleWords]

theorem chainBad_of_lone {k : Nat} {w : BitVec 32} (hbit : w.getLsbD 31 = false) (hmod : isModWord w = false) : chainBad [(k, w)] = false := by
  simpa [chainBad, hmod, pipeClash] using hbit

theorem withMods_of_lone {k : Nat} {w : BitVec 32} (hmod : isModWord w = false) (hi : decode w = .ok i) : withMods none [(k, w)] = [loneWord k i] := by
  simp [withMods, hmod, hi, loneWord]

theorem soloBundle_singleton (w : BundleWord) : soloBundle [w] = true := decide_eq_true (List.length_filter_le _ [w])

theorem isModWord_of_decode {w : BitVec 32} (hi : decode w = .ok i) (hnot : ∀ m, i ≠ .mod m) : isModWord w = false := by
  rw [Bool.eq_false_iff]
  intro h
  obtain ⟨m, hm⟩ := decode_of_isModWord h hi
  exact hnot m hm

variable {s t : State} {core part : Nat} {g : Gang} {lanes : LaneMask}

/-- The record of a lone word's bundle, at the word's turn. -/
theorem atWord_recorded_lone {w : BitVec 32} (hraw : rawAt pc pkt = [(pc.toNat / 4 % 4, w)]) (hmod : isModWord w = false) (hi : decode w = .ok i) :
    let slot := pc.toNat / 4 % 4
    let ctl := wordOf pkt 12
    let s1 := atBundle s core part g pc
    let e := mapEntry s1 g pc
    ({ s1 with cur := { gid := g.gid, busy := true, pc := pc, lanes := lanes, pimm := ctl.extractLsb' 0 30, slot := slot, last := slot, mod := none,
                        solo := true, checked := false, cons := (e.map (fun x => x.cons)).getD false, kinds := (e.map (fun x => x.kinds)).getD 0,
                        pair := (e.map (fun x => x.pair)).getD 0, taken := [], words := [loneWord slot i] } } : State) =
      atWord (recorded s core part g pc lanes pkt) (loneWord slot i) := by
  have hlast : ([(pc.toNat / 4 % 4, w)].map (fun e => e.1)).foldl max 0 = pc.toNat / 4 % 4 := Nat.zero_max _
  simp only [recorded, issueOf, hraw, withMods_of_lone hmod hi, soloBundle_singleton, hlast]
  rfl

/-- A step on a word that stands alone: the word runs where its check passes, its fault enters the trap. -/
theorem step_of_loneWord (h : IssuesAt s core part g pc lanes pkt) (hslot : pc.toNat / 4 % 4 < 3) (hkind : (wordOf pkt 12).toNat / 2 ^ 30 = 0)
    (hgaps : mapGaps (atBundle s core part g pc) g pc = []) (hbit : (wordOf pkt (4 * (pc.toNat / 4 % 4))).getLsbD 31 = false)
    (hi : decode (wordOf pkt (4 * (pc.toNat / 4 % 4))) = .ok i) (hnot : ∀ m, i ≠ .mod m) :
    let slot := pc.toNat / 4 % 4
    let held := fun u : State => if queuesHold (ticked s core part) u = true then u else ticked s core part
    let s2 := atWord (recorded s core part g pc lanes pkt) (loneWord slot i)
    firstAccess s2 g [loneWord slot i] = [] →
    (fullChk s2 g i = .ok → countsFit g.cnt (bundleCounts g lanes [loneWord slot i]) = true →
      ∃ t : State, exec i { s2 with cur := { s2.cur with checked := true } } = .next t ∧
        step s = .next (held (finishBundle false (zeroReads s2 g [loneWord slot i]) t))) ∧
    (∀ f, fullChk s2 g i = .fault f → step s = .next (held (faultBundle s2 g f (if 0x80 ≤ f.code then fallPc pc slot else pc)))) := by
  intro slot held s2 hc
  have hmod := isModWord_of_decode hi hnot
  have hraw := rawAt_of_lone hslot hbit
  have hchain : chainBad (rawAt pc pkt) = false := by rw [hraw]; exact chainBad_of_lone hbit hmod
  have hws : (recorded s core part g pc lanes pkt).cur.words = [loneWord slot i] := by
    show withMods none (rawAt pc pkt) = _
    rw [hraw, withMods_of_lone hmod hi]
  have hlast : (recorded s core part g pc lanes pkt).cur.last = slot := by
    show ((rawAt pc pkt).map (fun e => e.1)).foldl max 0 = _
    rw [hraw]
    exact Nat.zero_max _
  refine ⟨fun hok hroom => ?_, fun f hflt => ?_⟩
  · obtain ⟨t, ht⟩ := exec_next i { s2 with cur := { s2.cur with checked := true } }
    exact ⟨t, ht, step_of_runBundle h hkind hchain hgaps (runBundle_loneWord hws hc hok hroom ht)⟩
  · exact step_of_runBundle h hkind hchain hgaps (runBundle_loneWord_of_fault hws hlast hc hflt)

end

/-! ## The other turns -/

theorem step_of_event {s u : State} {i : Instr} (hturn : nextTurn s = .event i) (hon : halted s = false ∨ ∃ f, i = .powerOnReset f)
    (hexec : exec i { s with agenda := s.agenda.drop 1, clock := s.clock + 1 } = .next u) :
    step s = .next (if queuesHold { s with agenda := s.agenda.drop 1, clock := s.clock + 1 } u = true then u
      else { s with agenda := s.agenda.drop 1, clock := s.clock + 1 }) := by
  have hruns : (halted s && !startsUp (.event i)) = false := by
    rcases hon with h | ⟨f, rfl⟩
    · rw [h, Bool.false_and]
    · exact Bool.and_false _
  simp only [step, turn, hturn, hruns, Bool.false_eq_true, if_false, runTurn, hexec, roomed]

/-- A turn that is no issue and no event, in a package that runs. -/
theorem step_of_running {s : State} {x : Turn} (hturn : nextTurn s = x) (hon : halted s = false) :
    step s = runTurn x { s with agenda := s.agenda.drop 1, clock := s.clock + 1 } := by
  simp only [step, turn, hon, hturn, Bool.false_and, Bool.false_eq_true, if_false]

theorem step_of_halted {s : State} (hoff : halted s = true) (hturn : ∀ f, nextTurn s ≠ .event (.powerOnReset f)) : step s = .fault .stopped := by
  have hnot : startsUp (nextTurn s) = false := by
    unfold startsUp
    split
    · rename_i f hf
      exact absurd hf (hturn f)
    · rfl
  simp only [step, turn, hoff, hnot, Bool.not_false, Bool.and_self, if_true]

theorem setL1_kept (s : State) (r : L1Line) : (setL1 s r).mem = s.mem ∧ (setL1 s r).vrf = s.vrf ∧ (setL1 s r).scr = s.scr :=
  ⟨setL1_mem s r, setL1_vrf s r, setL1_scr s r⟩

/-- An upset changes no byte of memory, of a scratchpad, and no register. -/
theorem upsetEvent_kept (u : Upset) (s : State) :
    (upsetEvent u s).mem = s.mem ∧ (upsetEvent u s).vrf = s.vrf ∧ (upsetEvent u s).scr = s.scr := by
  have hcount : ∀ c, (countEcc c s).mem = s.mem ∧ (countEcc c s).vrf = s.vrf ∧ (countEcc c s).scr = s.scr := by
    intro c
    cases c <;> exact ⟨rfl, rfl, rfl⟩
  unfold upsetEvent
  split
  · unfold poisonGranule
    dsimp only
    split
    case h_7 =>
      split
      · exact setL1_kept ..
      · exact ⟨rfl, rfl, rfl⟩
    case h_8 =>
      split
      · exact ⟨setL2_mem .., setL2_vrf .., setL2_scr ..⟩
      · exact ⟨rfl, rfl, rfl⟩
    all_goals exact ⟨rfl, rfl, rfl⟩
  · split
    case h_4 => exact hcount _
    all_goals exact ⟨rfl, rfl, rfl⟩

theorem upsetEvent_hard_mem {u : Upset} (hh : u.hard = true) (hm : u.at_ = .mem) (s : State) :
    u.g ∈ (upsetEvent u s).memPsn ∧ (upsetEvent u s).upsets = s.upsets := by
  simp only [upsetEvent, hh, if_true, poisonGranule, hm, List.mem_cons, true_or, and_self]

theorem upsetEvent_soft_mem {u : Upset} (hh : u.hard = false) (hm : u.at_ = .mem) (s : State) :
    (upsetEvent u s).memPsn = s.memPsn ∧ (upsetEvent u s).upsets = s.upsets ++ [u] := by
  simp only [upsetEvent, hh, Bool.false_eq_true, if_false, hm, and_self]

/-- The image kept of one that another package stored: without what it holds for CXL. -/
def outsideImage (m : Image) : Image := { m with places := m.places.filter (fun p => match p.1 with
  | .cxl _ _ => false
  | _ => true) }

theorem imageStored_new {s : State} {m : Image} (hnew : ∀ y ∈ s.images, y.group = m.group → y.id = m.id → y.lid ≠ m.lid) :
    imageStored m s = { s with images := s.images ++ [outsideImage m] } := by
  have hany : s.images.any (fun x => x.group == m.group && x.id == m.id && x.lid == m.lid) = false := by
    rw [List.any_eq_false]
    intro y hy hc
    simp only [Bool.and_eq_true, beq_iff_eq] at hc
    exact hnew y hy hc.1.1 hc.1.2 hc.2
  exact if_neg (ne_true_of_eq_false hany)

theorem mem_outsideImage {m : Image} {y} (hy : y ∈ m.places) (hne : ∀ base len, y.1 ≠ .cxl base len) : y ∈ (outsideImage m).places := by
  refine List.mem_filter.mpr ⟨hy, ?_⟩
  split
  · rename_i base len h
    exact absurd h (hne base len)
  · rfl

theorem ctxRow_paced (s : State) (ctx d : Nat) : ctxRow (modCtx s ctx (fun x => { x with recent := false })) d =
    if d = ctx then (ctxRow s ctx).map (fun x => { x with recent := false }) else ctxRow s d :=
  ctxRow_modCtx s ctx d _ (fun _ hr => hr)

/-- Where no turn is given, the gang that issued least recently issues. -/
theorem nextTurn_of_idle {s : State} (hnil : s.agenda = []) (hsome : ∃ g ∈ s.gangs, canIssue g = true) :
    ∃ g ∈ s.gangs, canIssue g = true ∧ nextTurn s = .issue g.core g.part ∧ ∀ h ∈ s.gangs, canIssue h = true → g.lastIssue ≤ h.lastIssue := by
  have hmem : ∀ x, x ∈ sortBy (fun g => g.core) (s.gangs.filter canIssue) ↔ x ∈ s.gangs ∧ canIssue x = true := fun x =>
    (mem_sortBy _ _ _).trans List.mem_filter
  cases hc : chooseGang (sortBy (fun g => g.core) (s.gangs.filter canIssue)) with
  | none =>
    obtain ⟨g, hg, hcan⟩ := hsome
    have := (hmem g).mpr ⟨hg, hcan⟩
    rw [chooseGang_eq_none hc] at this
    cases this
  | some g =>
    obtain ⟨hg, hle⟩ := chooseGang_eq_some hc
    obtain ⟨hgs, hcan⟩ := (hmem g).mp hg
    exact ⟨g, hgs, hcan, by simp only [nextTurn, hnil, defaultTurn, hc], fun h hh hch => hle h ((hmem h).mpr ⟨hh, hch⟩)⟩

/-- Settles O56: the turn's one gang runs its bundle's words, all of which end in a state; the other turns are one event each. -/
theorem stepRunsBundle : Obligations.StepRunsBundle := by
  refine ⟨fun s core part g pc lanes pkt h => ?_, fun s i hturn hon => ?_, fun s u hturn hon => ?_, fun s ctx hturn hon => ?_,
    fun s m hturn hon hnew => ?_, fun s hoff hturn => step_of_halted hoff hturn, fun s x rest hag => ?_, fun s hnil hsome => nextTurn_of_idle hnil hsome⟩
  · intro slot ctl s1 held hslot hkind hgaps
    refine ⟨fun hchain hf hc h8 hroom => ?_, fun i hbit hi hnot => ?_⟩
    · obtain ⟨t, ht⟩ := runWords_next _ _
      exact ⟨t, ht, step_of_runBundle h hkind hchain hgaps (runBundle_of_passes rfl hf hc h8 hroom ht)⟩
    · intro e bw s2
      have hs2 : s2 = atWord (recorded s core part g pc lanes pkt) (loneWord slot i) :=
        atWord_recorded_lone (rawAt_of_lone hslot hbit) (isModWord_of_decode hi hnot) hi
      rw [hs2]
      exact step_of_loneWord h hslot hkind hgaps hbit hi hnot
  · obtain ⟨u, hu⟩ := exec_next i { s with agenda := s.agenda.drop 1, clock := s.clock + 1 }
    exact ⟨u, hu, step_of_event hturn hon hu⟩
  · obtain ⟨hmem, hvrf, hscr⟩ := upsetEvent_kept u { s with agenda := s.agenda.drop 1, clock := s.clock + 1 }
    exact ⟨_, step_of_running hturn hon, hmem, hvrf, hscr, fun hh hm => upsetEvent_hard_mem hh hm _, fun hh hm => upsetEvent_soft_mem hh hm _⟩
  · refine ⟨_, step_of_running hturn hon, rfl, fun d hd => ?_, fun x hx => ?_⟩
    · exact (ctxRow_paced _ ctx d).trans (if_neg hd)
    · exact (ctxRow_paced _ ctx ctx).trans ((if_pos rfl).trans (congrArg (Option.map _) hx))
  · refine ⟨_, (step_of_running hturn hon).trans (congrArg Outcome.next (imageStored_new hnew)), rfl, outsideImage m, rfl, rfl,
      fun y hy => (List.mem_filter.mp hy).1, fun y hy hne => mem_outsideImage hy hne⟩
  · simp only [nextTurn, hag]

end Sys2Proof.Machine
end

section
/-! PROOFS. Why the residency statement fails (02_execution R39, 06_registers R113): a claim's victim may itself still have its registers to load. -/

namespace Sys2Proof.Machine

open Host (Outcome)

/-! ## A victim that waits to load its registers -/

/-- The continuation record of the gang's lane 0: its v0 is 7. -/
def waitingRecord : PoolRec :=
  { pc := programEntry, gkey := 0, lane := 0, num := 0, pred := 0, gang := 0, bx := 0, by_ := 0, bz := 0, x := [], v := [7] }

/-- A pool gang pre-empted before it has loaded its registers. -/
def waitingVictim : Gang := { newGang programLaunch programBlock 3 0 0 (0, [0]) true with away := true, load := true }

/-- Its one slice, of zeros, is claimed by gang 9; nothing that it has claimed itself is outstanding. -/
def waitingState : State :=
  { programLoaded State.reset with
    gangs := [waitingVictim]
    blocks := [{ programBlock with away := true }]
    launches := [{ programLaunch with pool := true, recs := [[waitingRecord]] }]
    slices := [{ core := 0, part := 0, idx := 0, st := .claimed 3 9 }] }

theorem waitingState_claimed :
    sliceRow waitingState 0 0 0 = some { core := 0, part := 0, idx := 0, st := .claimed 3 9 } ∧ gangOf waitingState 3 = some waitingVictim ∧
      sliceHolder waitingState 0 0 0 = some (waitingVictim, 0, 0) ∧ sliceTargeted waitingState waitingVictim 0 0 = false ∧
      Sparse.wf 0#32 waitingState.vrf = true := by
  decide +kernel

/-- The claim ends by starting the gangs that are ready, the victim among them: its records are loaded over the slice just saved. -/
theorem saved_of_waitingState : ∀ x ∈ (claimEvent (.slice 0 0 0) waitingState).saved, Sparse.get 0#32 x.words 0 = 7 := by decide +kernel

theorem get_vrf_waitingState : Sparse.get 0#32 waitingState.vrf (sliceKey 0 0 0 + 0) = 0 := by decide +kernel

/-- Refutes O51: the clause on SLICE_CLAIM says that the save area keeps the slice's words, in every state. Where the victim is a pool gang that is still
parked with its registers to load and has nothing outstanding, the same event starts it, and the load overwrites the entry. -/
theorem not_residencyChanges : ¬ Obligations.ResidencyChanges := by
  unfold Obligations.ResidencyChanges
  rintro ⟨-, -, hclaim, -⟩
  obtain ⟨hrow, hgang, hholder, htarget, hwf⟩ := waitingState_claimed
  obtain ⟨-, t, he, -, -, -, -, x, hx, -, hwords⟩ := hclaim waitingState 0 0 0 3 9 0 0 _ waitingVictim waitingVictim hrow rfl hgang hholder htarget hwf
  obtain rfl : claimEvent (.slice 0 0 0) waitingState = t := Outcome.next.inj he
  have hseven : (7 : Word) = 0 := (saved_of_waitingState x hx).symm.trans ((hwords 0 (by decide)).trans get_vrf_waitingState)
  exact absurd hseven (by decide)

end Sys2Proof.Machine
end

section
/-! PROOFS. Decode and encode are inverse (04_encoding R76, R79, R84, R86, 05_opcode_map R95 to R110): each format is taken apart once and put together
once, and each row of the opcode map names its format. -/

namespace Sys2Proof

/-! ## A word as C, major opcode and bits [23:0] -/

/-- The word whose bit [31] is `c`. -/
def wordWithC (c : BitVec 1) (major : BitVec 7) (rest : BitVec 24) : BitVec 32 := (c ++ major) ++ rest

theorem fieldOf_wordWithC (c : BitVec 1) (m : BitVec 7) (r : BitVec 24) {lo n : Nat} (h : lo + n ≤ 24) :
    fieldOf (wordWithC c m r) lo n = r.extractLsb' lo n := BitVec.extractLsb'_append_eq_of_add_le h

theorem major_wordWithC (c : BitVec 1) (m : BitVec 7) (r : BitVec 24) : fieldOf (wordWithC c m r) 24 7 = m := by
  unfold fieldOf wordWithC
  rw [BitVec.extractLsb'_append_eq_of_le (by decide), BitVec.extractLsb'_append_eq_of_add_le (by decide)]
  exact BitVec.extractLsb'_eq_self

theorem getLsbD_wordWithC (c : BitVec 1) (m : BitVec 7) (r : BitVec 24) {i : Nat} (h : i < 24) :
    (wordWithC c m r).getLsbD i = r.getLsbD i := by
  unfold wordWithC
  rw [BitVec.getLsbD_append, if_pos h]

theorem mkWord_getLsbD_31 (m : BitVec 7) (r : BitVec 24) : (mkWord m r).getLsbD 31 = false := by
  simp only [mkWord, BitVec.getLsbD_append, Nat.reduceLT, Nat.reduceSub, ↓reduceIte]
  rfl

theorem mkWord_or_C (m : BitVec 7) (r : BitVec 24) : mkWord m r ||| 0x80000000#32 = wordWithC 1#1 m r := by
  unfold mkWord wordWithC
  rw [show 0x80000000#32 = (1#1 ++ 0#7) ++ 0#24 from rfl, BitVec.or_append, BitVec.or_append, BitVec.or_zero, BitVec.or_zero]
  rfl

theorem fieldOf_append {w : BitVec 32} {hi lo k n : Nat} (h : hi = lo + n) : fieldOf w hi k ++ fieldOf w lo n = fieldOf w lo (k + n) :=
  BitVec.extractLsb'_append_extractLsb'_eq_extractLsb' h

theorem wordWithC_fields (w : BitVec 32) : wordWithC (fieldOf w 31 1) (fieldOf w 24 7) (fieldOf w 0 24) = w := by
  unfold wordWithC
  rw [fieldOf_append (hi := 31) (lo := 24) rfl, fieldOf_append (hi := 24) (lo := 0) rfl]
  exact BitVec.extractLsb'_eq_self

theorem withoutC_eq_mkWord (w : BitVec 32) : w &&& 0x7FFFFFFF#32 = mkWord (fieldOf w 24 7) (fieldOf w 0 24) := by
  conv_lhs => rw [← wordWithC_fields w]
  unfold mkWord wordWithC
  rw [show 0x7FFFFFFF#32 = (0#1 ++ BitVec.allOnes 7) ++ BitVec.allOnes 24 from rfl, BitVec.and_append, BitVec.and_append, BitVec.and_zero,
    BitVec.and_allOnes, BitVec.and_allOnes]

/-! ## Source fields -/

/-- A source is the one that its field stands for (R79). -/
theorem decodeSrc_encodeSrc (a : Src) : decodeSrc (encodeSrc a) = a := by
  cases a with
  | vec p n => revert p n; decide +kernel
  | uni n => revert n; decide +kernel
  | imm i => revert i; decide +kernel
  | spec n => revert n; decide +kernel
  | ind x u => revert x u; decide +kernel
  | rsvd n => revert n; decide +kernel

/-- Each of the 512 source fields is the field of its source. -/
theorem encodeSrc_decodeSrc : ∀ f : BitVec 9, encodeSrc (decodeSrc f) = f := by decide +kernel

/-! ## Formats taken apart -/

section
variable (c : BitVec 1) (m : BitVec 7)

theorem vvWord_wordWithC (d : BitVec 6) (a b : Src) (k : BitVec 6 → Src → Src → Instr) :
    vvWord (wordWithC c m (d ++ encodeSrc a ++ encodeSrc b)) k = k d a b := by
  simp (disch := decide) only [vvWord, fieldOf_wordWithC, BitVec.extractLsb'_append_eq_of_add_le, BitVec.extractLsb'_append_eq_of_le,
    BitVec.extractLsb'_eq_self, Nat.reduceSub, decodeSrc_encodeSrc]

theorem v1Word_wordWithC (d : BitVec 6) (a : Src) (f : BitVec 9) (k : BitVec 6 → Src → Instr) :
    v1Word (wordWithC c m (d ++ encodeSrc a ++ f)) k = k d a := by
  simp (disch := decide) only [v1Word, fieldOf_wordWithC, BitVec.extractLsb'_append_eq_of_add_le, BitVec.extractLsb'_append_eq_of_le,
    BitVec.extractLsb'_eq_self, Nat.reduceSub, decodeSrc_encodeSrc]

theorem cmpWord_wordWithC (p q : BitVec 3) (a b : Src) (k : BitVec 3 → BitVec 3 → Src → Src → Instr) :
    cmpWord (wordWithC c m (p ++ q ++ encodeSrc a ++ encodeSrc b)) k = k p q a b := by
  simp (disch := decide) only [cmpWord, fieldOf_wordWithC, BitVec.extractLsb'_append_eq_of_add_le, BitVec.extractLsb'_append_eq_of_le,
    BitVec.extractLsb'_eq_self, Nat.reduceSub, decodeSrc_encodeSrc]

theorem kkWord_wordWithC (d a : BitVec 9) (f : BitVec 6) (k : BitVec 9 → BitVec 9 → Instr) : kkWord (wordWithC c m (d ++ a ++ f)) k = k d a := by
  simp (disch := decide) only [kkWord, fieldOf_wordWithC, BitVec.extractLsb'_append_eq_of_add_le, BitVec.extractLsb'_append_eq_of_le,
    BitVec.extractLsb'_eq_self, Nat.reduceSub]

theorem decodeMod_wordWithC (f : ModFields) : decodeMod (wordWithC c m (encodeMod f)) = f := by
  simp (disch := decide) only [decodeMod, encodeMod, fieldOf_wordWithC, getLsbD_wordWithC, BitVec.extractLsb'_append_eq_of_add_le,
    BitVec.extractLsb'_append_eq_of_le, BitVec.extractLsb'_eq_self, BitVec.getLsbD_append, BitVec.getLsbD_ofBool, Nat.reduceSub, Nat.reduceLT, ↓reduceIte,
    decide_true, Bool.true_and]

theorem decodeMem_wordWithC (f : MemFields) : decodeMem (wordWithC c m (encodeMem f)) = f := by
  simp (disch := decide) only [decodeMem, encodeMem, fieldOf_wordWithC, getLsbD_wordWithC, BitVec.extractLsb'_append_eq_of_add_le,
    BitVec.extractLsb'_append_eq_of_le, BitVec.extractLsb'_eq_self, BitVec.getLsbD_append, BitVec.getLsbD_ofBool, Nat.reduceSub, Nat.reduceLT, ↓reduceIte,
    decide_true, Bool.true_and, decodeSrc_encodeSrc]

theorem decodeAtom_wordWithC (op : BitVec 4) (f : AtomFields) : decodeAtom (wordWithC c m (encodeAtom op f)) = f := by
  simp (disch := decide) only [decodeAtom, encodeAtom, fieldOf_wordWithC, getLsbD_wordWithC, BitVec.extractLsb'_append_eq_of_add_le,
    BitVec.extractLsb'_append_eq_of_le, BitVec.extractLsb'_eq_self, BitVec.getLsbD_append, BitVec.getLsbD_ofBool, Nat.reduceSub, Nat.reduceLT, ↓reduceIte,
    decide_true, Bool.true_and, decodeSrc_encodeSrc]

theorem atomOp_wordWithC (op : BitVec 4) (f : AtomFields) : fieldOf (wordWithC c m (encodeAtom op f)) 5 4 = op := by
  simp (disch := decide) only [encodeAtom, fieldOf_wordWithC, BitVec.extractLsb'_append_eq_of_add_le, BitVec.extractLsb'_append_eq_of_le,
    BitVec.extractLsb'_eq_self, Nat.reduceSub]

theorem decodeCpy_wordWithC (f : CpyFields) : decodeCpy (wordWithC c m (encodeCpy f)) = f := by
  simp (disch := decide) only [decodeCpy, encodeCpy, fieldOf_wordWithC, BitVec.extractLsb'_append_eq_of_add_le,
    BitVec.extractLsb'_append_eq_of_le, BitVec.extractLsb'_eq_self, Nat.reduceSub, decodeSrc_encodeSrc]

theorem function_wordWithC (x : BitVec 15) (f : BitVec 9) : fieldOf (wordWithC c m (x ++ f)) 0 9 = f := by
  simp (disch := decide) only [fieldOf_wordWithC, BitVec.extractLsb'_append_eq_of_add_le, BitVec.extractLsb'_eq_self]

theorem csrFunction_wordWithC (x : BitVec 21) (f : BitVec 3) : fieldOf (wordWithC c m (x ++ f)) 0 3 = f := by
  simp (disch := decide) only [fieldOf_wordWithC, BitVec.extractLsb'_append_eq_of_add_le, BitVec.extractLsb'_eq_self]

theorem kFunction_wordWithC (x : BitVec 18) (f : BitVec 6) : fieldOf (wordWithC c m (x ++ f)) 0 6 = f := by
  simp (disch := decide) only [fieldOf_wordWithC, BitVec.extractLsb'_append_eq_of_add_le, BitVec.extractLsb'_eq_self]

end

/-! ## Words with a reserved field that is zero (R97) -/

theorem whenZero_of_eq {n : Nat} {f : BitVec n} (h : f = 0#n) (i : Instr) : whenZero f i = .ok i := if_pos h

section
variable (c : BitVec 1) (m : BitVec 7)

theorem uniformWord_wordWithC (k : BitVec 9) (i : BitVec 9 → Instr) :
    whenZero (fieldOf (wordWithC c m (k ++ 0#15)) 0 15) (i (fieldOf (wordWithC c m (k ++ 0#15)) 15 9)) = .ok (i k) := by
  simp (disch := decide) only [whenZero, fieldOf_wordWithC, BitVec.extractLsb'_append_eq_of_add_le, BitVec.extractLsb'_append_eq_of_le,
    BitVec.extractLsb'_eq_self, Nat.reduceSub, ↓reduceIte]

theorem lowWord_wordWithC (n : BitVec 6) (i : BitVec 6 → Instr) :
    whenZero (fieldOf (wordWithC c m (0#18 ++ n)) 6 18) (i (fieldOf (wordWithC c m (0#18 ++ n)) 0 6)) = .ok (i n) := by
  simp (disch := decide) only [whenZero, fieldOf_wordWithC, BitVec.extractLsb'_append_eq_of_add_le, BitVec.extractLsb'_append_eq_of_le,
    BitVec.extractLsb'_eq_self, Nat.reduceSub, ↓reduceIte]

theorem bareWord_wordWithC (i : Instr) : whenZero (fieldOf (wordWithC c m 0#24) 0 24) i = .ok i := by
  rw [fieldOf_wordWithC c m _ (by decide)]
  rfl

theorem foldWord_wordWithC (op : BitVec 4) (t : BitVec 3) (d : BitVec 6) (a : Src) (i : BitVec 4 → BitVec 3 → BitVec 6 → Src → Instr) :
    let w := wordWithC c m (d ++ encodeSrc a ++ (0#2 ++ t ++ op))
    whenZero (fieldOf w 7 2) (i (fieldOf w 0 4) (fieldOf w 4 3) (fieldOf w 18 6) (decodeSrc (fieldOf w 9 9))) = .ok (i op t d a) := by
  simp (disch := decide) only [whenZero, fieldOf_wordWithC, BitVec.extractLsb'_append_eq_of_add_le, BitVec.extractLsb'_append_eq_of_le,
    BitVec.extractLsb'_eq_self, Nat.reduceSub, ↓reduceIte]
  simp only [Nat.reduceAdd, Nat.reduceSub, BitVec.extractLsb'_eq_self, decodeSrc_encodeSrc]

theorem indexWord_wordWithC (x : BitVec 3) (a : Src) (i : BitVec 3 → Src → Instr) :
    let w := wordWithC c m (x ++ 0#3 ++ encodeSrc a ++ 0#9)
    whenZero (fieldOf w 18 3 ++ fieldOf w 0 9) (i (fieldOf w 21 3) (decodeSrc (fieldOf w 9 9))) = .ok (i x a) := by
  simp (disch := decide) only [whenZero, fieldOf_wordWithC, BitVec.extractLsb'_append_eq_of_add_le, BitVec.extractLsb'_append_eq_of_le,
    BitVec.extractLsb'_eq_self, Nat.reduceSub, BitVec.zero_append_zero, ↓reduceIte, decodeSrc_encodeSrc]

theorem spillWord_wordWithC (d : BitVec 6) (n : BitVec 3) (i : BitVec 6 → BitVec 3 → Instr) :
    let w := wordWithC c m (d ++ 0#9 ++ n ++ 0#6)
    whenZero (fieldOf w 9 9 ++ fieldOf w 0 6) (i (fieldOf w 18 6) (fieldOf w 6 3)) = .ok (i d n) := by
  simp (disch := decide) only [whenZero, fieldOf_wordWithC, BitVec.extractLsb'_append_eq_of_add_le, BitVec.extractLsb'_append_eq_of_le,
    BitVec.extractLsb'_eq_self, Nat.reduceSub, BitVec.zero_append_zero, ↓reduceIte]

theorem flagWord_wordWithC (k : BitVec 9) (b : Bool) (i : BitVec 9 → Bool → Instr) :
    let w := wordWithC c m (k ++ 0#14 ++ BitVec.ofBool b)
    whenZero (fieldOf w 1 14) (i (fieldOf w 15 9) (w.getLsbD 0)) = .ok (i k b) := by
  simp (disch := decide) only [whenZero, fieldOf_wordWithC, getLsbD_wordWithC, BitVec.extractLsb'_append_eq_of_add_le,
    BitVec.extractLsb'_append_eq_of_le, BitVec.extractLsb'_eq_self, BitVec.getLsbD_append, BitVec.getLsbD_ofBool, Nat.reduceSub, Nat.reduceLT,
    decide_true, Bool.true_and, ↓reduceIte]

theorem branchWord_wordWithC (p : BitVec 3) (n : Bool) (o : BitVec 20) (i : BitVec 3 → Bool → BitVec 20 → Instr) :
    let w := wordWithC c m (p ++ BitVec.ofBool n ++ o)
    i (fieldOf w 21 3) (w.getLsbD 20) (fieldOf w 0 20) = i p n o := by
  simp (disch := decide) only [fieldOf_wordWithC, getLsbD_wordWithC, BitVec.extractLsb'_append_eq_of_add_le,
    BitVec.extractLsb'_append_eq_of_le, BitVec.extractLsb'_eq_self, BitVec.getLsbD_append, BitVec.getLsbD_ofBool, Nat.reduceSub, Nat.reduceLT,
    decide_true, Bool.true_and, ↓reduceIte]

theorem predWord_wordWithC (k q : BitVec 9) (p : BitVec 3) (i : BitVec 9 → BitVec 9 → BitVec 3 → Instr) :
    let w := wordWithC c m (k ++ q ++ 0#3 ++ p)
    whenZero (fieldOf w 3 3) (i (fieldOf w 15 9) (fieldOf w 6 9) (fieldOf w 0 3)) = .ok (i k q p) := by
  simp (disch := decide) only [whenZero, fieldOf_wordWithC, BitVec.extractLsb'_append_eq_of_add_le, BitVec.extractLsb'_append_eq_of_le,
    BitVec.extractLsb'_eq_self, Nat.reduceSub, ↓reduceIte]

theorem cvtWord_wordWithC (s t : BitVec 4) (d : BitVec 6) (a : Src) :
    let w := wordWithC c m (d ++ encodeSrc a ++ (s ++ t ++ 0#1))
    (if w.getLsbD 0 then .error .reservedCode
      else .ok (.cvt (fieldOf w 5 4) (fieldOf w 1 4) (fieldOf w 18 6) (decodeSrc (fieldOf w 9 9))) : Except DecodeErr Instr) = .ok (.cvt s t d a) := by
  simp (disch := decide) only [fieldOf_wordWithC, getLsbD_wordWithC, BitVec.extractLsb'_append_eq_of_add_le,
    BitVec.extractLsb'_append_eq_of_le, BitVec.extractLsb'_eq_self, BitVec.getLsbD_append, Nat.reduceSub, Nat.reduceLT, ↓reduceIte]
  simp only [Nat.reduceAdd, Nat.reduceSub, Nat.reduceLT, ↓reduceIte, BitVec.extractLsb'_eq_self, decodeSrc_encodeSrc]
  rfl

theorem plogOk_append (p : BitVec 3) : plogOk (0#6 ++ p) = true := by revert p; decide

theorem plogWord_wordWithC (d o a b : BitVec 3) :
    let w := wordWithC c m (d ++ o ++ (0#6 ++ a) ++ (0#6 ++ b))
    (if plogOk (fieldOf w 9 9) && plogOk (fieldOf w 0 9)
      then .ok (.plog (fieldOf w 21 3) (fieldOf w 18 3) (fieldOf w 9 3) (fieldOf w 0 3)) else .error .badField : Except DecodeErr Instr) =
      .ok (.plog d o a b) := by
  simp (disch := decide) only [fieldOf_wordWithC, BitVec.extractLsb'_append_eq_of_add_le, BitVec.extractLsb'_append_eq_of_le,
    BitVec.extractLsb'_eq_self]
  simp only [Nat.reduceAdd, Nat.reduceSub, BitVec.extractLsb'_eq_self, plogOk_append, Bool.and_self, ↓reduceIte]

theorem fenceWord_wordWithC (p s : BitVec 3) :
    let w := wordWithC c m (0#9 ++ (0#6 ++ p) ++ 0#3 ++ s)
    (if 8 ≤ (fieldOf w 6 9).toNat then .error .badField
      else whenZero (fieldOf w 15 9 ++ fieldOf w 3 3) (.fence (fieldOf w 6 3) (fieldOf w 0 3)) : Except DecodeErr Instr) = .ok (.fence p s) := by
  have hp : ¬8 ≤ (0#6 ++ p).toNat := by revert p; decide
  simp (disch := decide) only [whenZero, fieldOf_wordWithC, BitVec.extractLsb'_append_eq_of_add_le, BitVec.extractLsb'_append_eq_of_le,
    BitVec.extractLsb'_eq_self, Nat.reduceSub, hp, ↓reduceIte]
  rfl

end

/-! ## From an instruction to its word and back -/

/-- Whatever C is, the fields of a word that encodes a well-formed instruction are taken apart into it again. -/
theorem decodeFields_of_encode {i : Instr} {w : BitVec 32} (c : BitVec 1) (he : encode i = some w) (hok : wordOk i = true) :
    ∃ m r, w = mkWord m r ∧ decodeFields (wordWithC c m r) = .ok i := by
  have row := fun m r => decodeFields.eq_1 (wordWithC c m r)
  conv at row => intro m r; rw [major_wordWithC]
  cases i
  all_goals try exact absurd (show none = some w from he) nofun
  all_goals refine ⟨_, _, (Option.some.inj he).symm, (row _ _).trans ?_⟩
  case reservedMajor m r =>
    simp only [wordOk, majorReserved, List.contains_iff_mem, List.mem_cons, List.not_mem_nil, or_false] at hok
    rcases hok with h | h | h | h | h | h | h | h | h | h | h | h | h | h | h <;> rw [h] <;>
      exact congrArg (Except.ok ∘ Instr.reservedMajor m) ((fieldOf_wordWithC c _ r (by decide)).trans BitVec.extractLsb'_eq_self)
  case nop r =>
    exact congrArg (Except.ok ∘ Instr.nop) ((fieldOf_wordWithC c _ r (by decide)).trans BitVec.extractLsb'_eq_self)
  case iadd | isub | imul | imulhs | imulhn | imad | imins | iminn | imaxs | imaxn | and | or | xor | andn | shl | shr | sar | rot | bfe | bfi |
      fadd | fsub | fmul | ffma | fmin | fmax | hadd | hmul | hfma | badd | bmul | bfma | padd | psub | pmul | pmac | pshr | pmin | pmax | ppack |
      lmul | slided | slideu | shfl | rand =>
    exact congrArg Except.ok (vvWord_wordWithC ..)
  case icmp | fcmp | hcmp =>
    exact congrArg Except.ok (cmpWord_wordWithC ..)
  case vunMov | vunNot | vunIneg | vunIabs | vunPopc | vunClz | vunCtz | vunBrev | vunBswap | vunFrint | vunFfloor | vunFceil | vunFtrunc =>
    change decodeVun _ = _
    unfold decodeVun
    rw [function_wordWithC]
    exact congrArg Except.ok (v1Word_wordWithC ..)
  case xfnRcp | xfnRsq | xfnSqrt | xfnExp2 | xfnLog2 | xfnSin | xfnCos | xfnTanh =>
    change decodeXfn _ = _
    unfold decodeXfn
    rw [function_wordWithC]
    exact congrArg Except.ok (v1Word_wordWithC ..)
  case voteAny | voteAll | voteBallot | voteCount =>
    change decodeVote _ = _
    unfold decodeVote
    rw [function_wordWithC]
    exact congrArg Except.ok (v1Word_wordWithC ..)
  case kopMov | kopAdd | kopSub | kopMul | kopAnd | kopOr | kopXor | kopShl | kopShr | kopSar | kopMins | kopMinn | kopMaxs | kopMaxn | kopAdd64 | kopMov64 =>
    change decodeKop _ = _
    unfold decodeKop
    rw [kFunction_wordWithC]
    exact congrArg Except.ok (kkWord_wordWithC ..)
  case atomAdd | atomMins | atomMinn | atomMaxs | atomMaxn | atomAnd | atomOr | atomXor | atomExch | atomCas | atomFadd | atomFmin | atomFmax =>
    change decodeAtomWord _ = _
    unfold decodeAtomWord
    rw [atomOp_wordWithC]
    refine congrArg Except.ok ?_
    exact congrArg _ (decodeAtom_wordWithC ..)
  case redm =>
    refine congrArg Except.ok ?_
    exact congrArg₂ _ (atomOp_wordWithC ..) (decodeAtom_wordWithC ..)
  case ld | st | ldl =>
    refine congrArg Except.ok ?_
    exact congrArg _ (decodeMem_wordWithC ..)
  case cpy =>
    refine congrArg Except.ok ?_
    exact congrArg _ (decodeCpy_wordWithC ..)
  case mod =>
    refine congrArg Except.ok ?_
    exact congrArg _ (decodeMod_wordWithC ..)
  case brx | obrel | acfree | tldw | bfree | rrel => exact uniformWord_wordWithC ..
  case ret | join | leave | waitm | tlnch | tcapt => exact lowWord_wordWithC ..
  case yieldW | serb | sere | exitW | tret => exact bareWord_wordWithC ..
  case red | scan => exact foldWord_wordWithC ..
  case xset | xadd => exact indexWord_wordWithC ..
  case psh | pop => exact spillWord_wordWithC ..
  case mma | twset => exact flagWord_wordWithC ..
  case bra | call => exact congrArg Except.ok (branchWord_wordWithC ..)
  case bwait | snap => exact predWord_wordWithC ..
  case elect | trap | zfill | obres | obld | wbld | acalloc | rawait | csrr | snapq =>
    refine (whenZero_of_eq ?_ _).trans (congrArg Except.ok ?_)
    all_goals
      simp (disch := decide) only [fieldOf_wordWithC, getLsbD_wordWithC, BitVec.extractLsb'_append_eq_of_add_le,
        BitVec.extractLsb'_append_eq_of_le, BitVec.extractLsb'_eq_self, BitVec.getLsbD_append, BitVec.getLsbD_ofBool, Nat.reduceSub, Nat.reduceLT,
        ↓reduceIte, decide_true, Bool.true_and, decodeSrc_encodeSrc, BitVec.zero_append_zero]
  case sel | wait | balloc =>
    refine congrArg Except.ok ?_
    simp (disch := decide) only [fieldOf_wordWithC, BitVec.extractLsb'_append_eq_of_add_le, BitVec.extractLsb'_append_eq_of_le,
      BitVec.extractLsb'_eq_self, Nat.reduceSub, decodeSrc_encodeSrc]
  case kmovK | kmovV =>
    rw [kFunction_wordWithC]
    refine congrArg Except.ok ?_
    simp (disch := decide) only [fieldOf_wordWithC, BitVec.extractLsb'_append_eq_of_add_le, BitVec.extractLsb'_append_eq_of_le,
      BitVec.extractLsb'_eq_self, Nat.reduceSub, decodeSrc_encodeSrc]
  case csrwWrite | csrwSet | csrwClr | csrwSwap =>
    rw [csrFunction_wordWithC]
    refine congrArg Except.ok ?_
    simp (disch := decide) only [fieldOf_wordWithC, BitVec.extractLsb'_append_eq_of_add_le, BitVec.extractLsb'_append_eq_of_le,
      BitVec.extractLsb'_eq_self, Nat.reduceSub]
  case cvt => exact cvtWord_wordWithC ..
  case plog => exact plogWord_wordWithC ..
  case fence => exact fenceWord_wordWithC ..
  case kliShort | kliPimm | clineWb | clineWbi | clineMem | acmovTogl | acmovTosp | acmovFromsp | acmovToreg | trst | trstRel | barvArrive | barvNoarr |
      barvDrop | ringCreate | ringRel =>
    change ite _ _ _ = _
    simp (disch := decide) only [fieldOf_wordWithC, getLsbD_wordWithC, BitVec.extractLsb'_append_eq_of_add_le,
      BitVec.extractLsb'_append_eq_of_le, BitVec.extractLsb'_eq_self, BitVec.getLsbD_append, BitVec.getLsbD_ofBool, Nat.reduceSub, Nat.reduceLT,
      ↓reduceIte, decide_true, Bool.true_and, decodeSrc_encodeSrc, BitVec.zero_append_zero, whenZero, BitVec.reduceToNat]
    rfl

/-! ## From a word to its instruction and back -/

theorem eq_of_whenZero_ok {n : Nat} {f : BitVec n} {i j : Instr} (h : whenZero f i = .ok j) : f = 0#n ∧ i = j := by
  unfold whenZero at h
  split at h
  · exact ⟨‹_›, Except.ok.inj h⟩
  · cases h

theorem append_eq_zero {m n : Nat} {x : BitVec m} {y : BitVec n} (h : x ++ y = 0#(m + n)) : x = 0#m ∧ y = 0#n := by
  have hx : (x ++ y).extractLsb' n m = x := by rw [BitVec.extractLsb'_append_eq_of_le le_rfl, Nat.sub_self, BitVec.extractLsb'_eq_self]
  have hy : (x ++ y).extractLsb' 0 n = y := by rw [BitVec.extractLsb'_append_eq_of_add_le (by omega), BitVec.extractLsb'_eq_self]
  rw [h] at hx hy
  exact ⟨by simpa using hx.symm, by simpa using hy.symm⟩

section
variable {w : BitVec 32} {i : Instr}

theorem ofBool_getLsbD (w : BitVec 32) (n : Nat) : BitVec.ofBool (w.getLsbD n) = fieldOf w n 1 := by
  apply BitVec.eq_of_getLsbD_eq
  intro k hk
  obtain rfl : k = 0 := by omega
  simp [fieldOf]

theorem fieldOf_eq_of_getLsbD {n : Nat} {b : Bool} (h : w.getLsbD n = b) : fieldOf w n 1 = BitVec.ofBool b := by rw [← h, ofBool_getLsbD]

/-- A 9-bit field below 8 is its low three bits (R99, 11_isa_memory R224). -/
theorem zero_append_low {lo : Nat} (h : (fieldOf w lo 9).toNat < 8) : 0#6 ++ fieldOf w lo 3 = fieldOf w lo 9 := by
  have hsplit : fieldOf w (lo + 3) 6 ++ fieldOf w lo 3 = fieldOf w lo 9 := fieldOf_append rfl
  have hhigh : fieldOf w (lo + 3) 6 = 0#6 := by
    apply BitVec.eq_of_toNat_eq
    have := congrArg BitVec.toNat hsplit
    rw [BitVec.toNat_append, Nat.shiftLeft_eq] at this
    have hge := Nat.left_le_or (n := (fieldOf w (lo + 3) 6).toNat * 2 ^ 3) (m := (fieldOf w lo 3).toNat)
    simp only [BitVec.toNat_zero]
    omega
  rw [← hhigh, hsplit]

/-- A word's instruction encodes it where its format puts bits [23:0] together. -/
theorem encode_of_rest {m : BitVec 7} {r : BitVec 24} (hi : encode i = some (mkWord m r)) (hm : (fieldOf w 24 7).toNat = m.toNat)
    (hr : r = fieldOf w 0 24) : encode i = some (mkWord (fieldOf w 24 7) (fieldOf w 0 24)) := by
  rw [hi, hr, BitVec.eq_of_toNat_eq hm]

theorem vv_rest : fieldOf w 18 6 ++ encodeSrc (decodeSrc (fieldOf w 9 9)) ++ encodeSrc (decodeSrc (fieldOf w 0 9)) = fieldOf w 0 24 := by
  simp (disch := decide) only [encodeSrc_decodeSrc, fieldOf_append]

theorem v1_rest {f : BitVec 9} (hf : fieldOf w 0 9 = f) : fieldOf w 18 6 ++ encodeSrc (decodeSrc (fieldOf w 9 9)) ++ f = fieldOf w 0 24 := by
  simp (disch := decide) only [← hf, encodeSrc_decodeSrc, fieldOf_append]

theorem cmp_rest : fieldOf w 21 3 ++ fieldOf w 18 3 ++ encodeSrc (decodeSrc (fieldOf w 9 9)) ++ encodeSrc (decodeSrc (fieldOf w 0 9)) =
    fieldOf w 0 24 := by
  simp (disch := decide) only [encodeSrc_decodeSrc, fieldOf_append]

theorem kk_rest {f : BitVec 6} (hf : fieldOf w 0 6 = f) : fieldOf w 15 9 ++ fieldOf w 6 9 ++ f = fieldOf w 0 24 := by
  simp (disch := decide) only [← hf, fieldOf_append]

theorem encodeMod_decodeMod : encodeMod (decodeMod w) = fieldOf w 0 24 := by
  simp (disch := decide) only [encodeMod, decodeMod, ofBool_getLsbD, fieldOf_append]

theorem encodeMem_decodeMem : encodeMem (decodeMem w) = fieldOf w 0 24 := by
  simp (disch := decide) only [encodeMem, decodeMem, encodeSrc_decodeSrc, ofBool_getLsbD, fieldOf_append]

theorem encodeAtom_decodeAtom {op : BitVec 4} (hop : fieldOf w 5 4 = op) : encodeAtom op (decodeAtom w) = fieldOf w 0 24 := by
  simp (disch := decide) only [← hop, encodeAtom, decodeAtom, encodeSrc_decodeSrc, ofBool_getLsbD, fieldOf_append]

theorem encodeCpy_decodeCpy : encodeCpy (decodeCpy w) = fieldOf w 0 24 := by
  simp (disch := decide) only [encodeCpy, decodeCpy, encodeSrc_decodeSrc, fieldOf_append]

theorem kmov_rest {f : BitVec 6} (hf : fieldOf w 0 6 = f) : fieldOf w 15 9 ++ encodeSrc (decodeSrc (fieldOf w 6 9)) ++ f = fieldOf w 0 24 := by
  simp (disch := decide) only [← hf, encodeSrc_decodeSrc, fieldOf_append]

theorem csr_rest {f : BitVec 3} (hf : fieldOf w 0 3 = f) : fieldOf w 15 9 ++ fieldOf w 3 12 ++ f = fieldOf w 0 24 := by
  simp (disch := decide) only [← hf, fieldOf_append]

theorem cline_rest {f : BitVec 3} (hf : fieldOf w 6 3 = f) (hhigh : fieldOf w 18 6 = 0#6) (hlow : fieldOf w 1 5 = 0#5) :
    0#6 ++ encodeSrc (decodeSrc (fieldOf w 9 9)) ++ f ++ 0#5 ++ BitVec.ofBool (w.getLsbD 0) = fieldOf w 0 24 := by
  simp (disch := decide) only [← hf, ← hhigh, ← hlow, encodeSrc_decodeSrc, ofBool_getLsbD, fieldOf_append]

theorem eq_three {f : BitVec 2} (h0 : f.toNat ≠ 0) (h1 : f.toNat ≠ 1) (h2 : f.toNat ≠ 2) : f = 3#2 := by
  revert f
  decide

theorem bit2_rest {b : Bool} {f : BitVec 2} (hz : fieldOf w 3 3 = 0#3) (hb : w.getLsbD 2 = b) (hf : fieldOf w 0 2 = f) :
    fieldOf w 15 9 ++ fieldOf w 6 9 ++ 0#3 ++ BitVec.ofBool b ++ f = fieldOf w 0 24 := by
  simp (disch := decide) only [← hz, ← hb, ← hf, ofBool_getLsbD, fieldOf_append]

theorem encode_of_decodeVun (hm : (fieldOf w 24 7).toNat = 0x36) (h : decodeVun w = .ok i) :
    encode i = some (mkWord (fieldOf w 24 7) (fieldOf w 0 24)) := by
  unfold decodeVun at h
  split at h <;> cases h
  all_goals exact encode_of_rest rfl hm (v1_rest (BitVec.eq_of_toNat_eq (by assumption)))

theorem encode_of_decodeXfn (hm : (fieldOf w 24 7).toNat = 0x38) (h : decodeXfn w = .ok i) :
    encode i = some (mkWord (fieldOf w 24 7) (fieldOf w 0 24)) := by
  unfold decodeXfn at h
  split at h <;> cases h
  all_goals exact encode_of_rest rfl hm (v1_rest (BitVec.eq_of_toNat_eq (by assumption)))

theorem encode_of_decodeVote (hm : (fieldOf w 24 7).toNat = 0x3F) (h : decodeVote w = .ok i) :
    encode i = some (mkWord (fieldOf w 24 7) (fieldOf w 0 24)) := by
  unfold decodeVote at h
  split at h <;> cases h
  all_goals exact encode_of_rest rfl hm (v1_rest (BitVec.eq_of_toNat_eq (by assumption)))

theorem encode_of_decodeKop (hm : (fieldOf w 24 7).toNat = 0x40) (h : decodeKop w = .ok i) :
    encode i = some (mkWord (fieldOf w 24 7) (fieldOf w 0 24)) := by
  unfold decodeKop at h
  split at h <;> cases h
  all_goals exact encode_of_rest rfl hm (kk_rest (BitVec.eq_of_toNat_eq (by assumption)))

theorem encode_of_decodeAtomWord (hm : (fieldOf w 24 7).toNat = 0x5D) (h : decodeAtomWord w = .ok i) :
    encode i = some (mkWord (fieldOf w 24 7) (fieldOf w 0 24)) := by
  unfold decodeAtomWord at h
  split at h <;> cases h
  all_goals exact encode_of_rest rfl hm (encodeAtom_decodeAtom (BitVec.eq_of_toNat_eq (by assumption)))

/-- The fields of a word put together again give the word without C. A case `h_n` is the n-th row of the opcode map as `decodeFields` has it: rows of
one format go together, and a row with a reserved field also says that the field is zero. -/
theorem encode_of_decodeFields (h : decodeFields w = .ok i) : encode i = some (mkWord (fieldOf w 24 7) (fieldOf w 0 24)) := by
  unfold decodeFields at h
  split at h
  case h_2 | h_3 | h_4 | h_5 | h_6 | h_7 | h_8 | h_9 | h_10 | h_11 | h_12 | h_13 | h_14 | h_15 | h_16 | h_17 | h_18 | h_19 | h_20 | h_21 |
      h_22 | h_23 | h_24 | h_25 | h_26 | h_27 | h_28 | h_29 | h_30 | h_31 | h_32 | h_33 | h_34 | h_35 | h_36 | h_37 | h_38 | h_39 | h_40 | h_41 |
      h_42 | h_51 | h_52 | h_53 | h_62 =>
    cases h
    exact encode_of_rest rfl (by assumption) vv_rest
  case h_43 | h_44 | h_45 =>
    cases h
    exact encode_of_rest rfl (by assumption) cmp_rest
  case h_114 =>
    cases h
    rfl
  case h_48 => exact encode_of_decodeVun (by assumption) h
  case h_50 => exact encode_of_decodeXfn (by assumption) h
  case h_56 => exact encode_of_decodeVote (by assumption) h
  case h_57 => exact encode_of_decodeKop (by assumption) h
  case h_83 => exact encode_of_decodeAtomWord (by assumption) h
  case h_1 =>
    cases h
    exact encode_of_rest rfl (by assumption) rfl
  case h_78 | h_79 | h_80 =>
    cases h
    exact encode_of_rest rfl (by assumption) encodeMem_decodeMem
  case h_84 =>
    cases h
    exact encode_of_rest rfl (by assumption) (encodeAtom_decodeAtom rfl)
  case h_87 =>
    cases h
    exact encode_of_rest rfl (by assumption) encodeCpy_decodeCpy
  case h_113 =>
    cases h
    exact encode_of_rest rfl (by assumption) encodeMod_decodeMod
  case h_46 | h_63 | h_65 | h_77 | h_102 =>
    cases h
    refine encode_of_rest rfl (by assumption) ?_
    simp (disch := decide) only [encodeSrc_decodeSrc, ofBool_getLsbD, fieldOf_append]
  case h_54 | h_55 | h_64 | h_66 | h_67 | h_68 | h_69 | h_70 | h_71 | h_72 | h_73 | h_74 | h_75 | h_76 | h_89 | h_90 | h_91 | h_92 | h_93 | h_94 | h_95 |
      h_97 | h_98 | h_99 | h_100 | h_103 | h_105 | h_107 | h_108 | h_109 | h_111 | h_112 =>
    obtain ⟨hz, rfl⟩ := eq_of_whenZero_ok h
    refine encode_of_rest rfl (by assumption) ?_
    simp (disch := decide) only [← hz, encodeSrc_decodeSrc, ofBool_getLsbD, fieldOf_append]
  case h_60 | h_61 | h_81 | h_82 | h_88 =>
    obtain ⟨hz, rfl⟩ := eq_of_whenZero_ok h
    obtain ⟨hhigh, hlow⟩ := append_eq_zero hz
    refine encode_of_rest rfl (by assumption) ?_
    simp (disch := decide) only [← hhigh, ← hlow, encodeSrc_decodeSrc, ofBool_getLsbD, fieldOf_append]
  case h_47 =>
    split at h
    case isTrue hok =>
      cases h
      simp only [plogOk, Bool.and_eq_true, decide_eq_true_eq] at hok
      obtain ⟨ha, hb⟩ := hok
      refine encode_of_rest rfl (by assumption) ?_
      rw [zero_append_low (by omega), zero_append_low (by omega)]
      simp (disch := decide) only [fieldOf_append]
    case isFalse => cases h
  case h_49 =>
    split at h
    case isTrue => cases h
    case isFalse hbit =>
      cases h
      have hlow : fieldOf w 0 1 = 0#1 := fieldOf_eq_of_getLsbD (Bool.eq_false_of_not_eq_true hbit)
      refine encode_of_rest rfl (by assumption) ?_
      simp (disch := decide) only [← hlow, encodeSrc_decodeSrc, fieldOf_append]
  case h_58 =>
    split at h <;> cases h
    all_goals exact encode_of_rest rfl (by assumption) (kmov_rest (BitVec.eq_of_toNat_eq (by assumption)))
  case h_59 =>
    split at h
    case isTrue hbit =>
      cases h
      have hmark : fieldOf w 14 1 = 1#1 := fieldOf_eq_of_getLsbD hbit
      refine encode_of_rest rfl (by assumption) ?_
      simp (disch := decide) only [← hmark, fieldOf_append]
    case isFalse hbit =>
      obtain ⟨hz, rfl⟩ := eq_of_whenZero_ok h
      have hmark : fieldOf w 14 1 = 0#1 := fieldOf_eq_of_getLsbD (Bool.eq_false_of_not_eq_true hbit)
      refine encode_of_rest rfl (by assumption) ?_
      change fieldOf w 15 9 ++ (0#1 ++ 0#12) ++ fieldOf w 0 2 = _
      simp (disch := decide) only [← hmark, ← hz, fieldOf_append]
  case h_85 =>
    split at h
    case isTrue => cases h
    case isFalse hlt =>
      obtain ⟨hz, rfl⟩ := eq_of_whenZero_ok h
      obtain ⟨hhigh, hlow⟩ := append_eq_zero hz
      refine encode_of_rest rfl (by assumption) ?_
      rw [zero_append_low (by omega)]
      simp (disch := decide) only [← hhigh, ← hlow, fieldOf_append]
  case h_86 =>
    split at h
    case isTrue => cases h
    case isFalse hz =>
      obtain ⟨hhigh, hlow⟩ := append_eq_zero (not_not.mp hz)
      split at h <;> cases h
      all_goals exact encode_of_rest rfl (by assumption) (cline_rest (BitVec.eq_of_toNat_eq (by assumption)) hhigh hlow)
  case h_96 =>
    split at h
    case isTrue => cases h
    case isFalse hz =>
      have hz := not_not.mp hz
      split at h
      case h_3 hop =>
        split at h
        case isTrue => cases h
        case isFalse hbit =>
          cases h
          have hmark : fieldOf w 2 1 = 0#1 := fieldOf_eq_of_getLsbD (Bool.eq_false_of_not_eq_true hbit)
          have hf : fieldOf w 0 2 = 2#2 := BitVec.eq_of_toNat_eq hop
          refine encode_of_rest rfl (by assumption) ?_
          change fieldOf w 15 9 ++ fieldOf w 6 9 ++ (0#3 ++ 0#1) ++ 2#2 = _
          simp (disch := decide) only [← hz, ← hmark, ← hf, fieldOf_append]
      case h_1 hop =>
        cases h
        exact encode_of_rest rfl (by assumption) (bit2_rest (f := 0#2) hz rfl (BitVec.eq_of_toNat_eq hop))
      case h_2 hop =>
        cases h
        exact encode_of_rest rfl (by assumption) (bit2_rest (f := 1#2) hz rfl (BitVec.eq_of_toNat_eq hop))
      case h_4 h0 h1 h2 =>
        cases h
        exact encode_of_rest rfl (by assumption) (bit2_rest hz rfl (eq_three h0 h1 h2))
  case h_101 =>
    split at h
    all_goals
      obtain ⟨hz, rfl⟩ := eq_of_whenZero_ok h
    case isTrue hbit =>
      have hlow : fieldOf w 0 1 = 1#1 := fieldOf_eq_of_getLsbD hbit
      refine encode_of_rest rfl (by assumption) ?_
      change 0#23 ++ 1#1 = _
      simp (disch := decide) only [← hz, ← hlow, fieldOf_append]
    case isFalse hbit =>
      have hlow : fieldOf w 0 1 = 0#1 := fieldOf_eq_of_getLsbD (Bool.eq_false_of_not_eq_true hbit)
      refine encode_of_rest rfl (by assumption) ?_
      change 0#23 ++ 0#1 = _
      simp (disch := decide) only [← hz, ← hlow, fieldOf_append]
  case h_106 =>
    split at h
    case isTrue => cases h
    case isFalse hz =>
      have hz := not_not.mp hz
      split at h
      case isTrue hbit =>
        obtain ⟨hmid, rfl⟩ := eq_of_whenZero_ok h
        have hlow : fieldOf w 0 1 = 1#1 := fieldOf_eq_of_getLsbD hbit
        refine encode_of_rest rfl (by assumption) ?_
        change fieldOf w 15 9 ++ 0#9 ++ (0#5 ++ 1#1) = _
        simp (disch := decide) only [← hz, ← hmid, ← hlow, fieldOf_append]
      case isFalse hbit =>
        cases h
        have hlow : fieldOf w 0 1 = 0#1 := fieldOf_eq_of_getLsbD (Bool.eq_false_of_not_eq_true hbit)
        refine encode_of_rest rfl (by assumption) ?_
        change fieldOf w 15 9 ++ fieldOf w 6 9 ++ (0#5 ++ 0#1) = _
        simp (disch := decide) only [← hz, ← hlow, fieldOf_append]
  case h_110 =>
    split at h <;> cases h
    all_goals exact encode_of_rest rfl (by assumption) (csr_rest (BitVec.eq_of_toNat_eq (by assumption)))
  case h_104 =>
    split at h
    case isTrue => cases h
    case isFalse hz =>
      have hz := not_not.mp hz
      split at h
      case h_2 hop =>
        split at h
        case isTrue hbit =>
          cases h
          exact encode_of_rest rfl (by assumption) (bit2_rest (b := true) (f := 1#2) hz hbit (BitVec.eq_of_toNat_eq hop))
        case isFalse => cases h
      case h_1 hop =>
        cases h
        exact encode_of_rest rfl (by assumption) (bit2_rest (f := 0#2) hz rfl (BitVec.eq_of_toNat_eq hop))
      case h_3 hop =>
        cases h
        exact encode_of_rest rfl (by assumption) (bit2_rest (f := 2#2) hz rfl (BitVec.eq_of_toNat_eq hop))
      case h_4 => cases h

end

/-! ## Well-formed words -/

/-- What an event carries is no part of a word. -/
theorem eventOk_of_encode {i : Instr} {w : BitVec 32} (h : encode i = some w) : eventOk i = true := by
  cases i
  case createContext | removeContext | createQueue | removeQueue | enableQueue | disableQueue | writePodMap | writeGroupDescriptor |
      setSnapshotGroup | setFirmwarePolicy | loadSparImage | mastheadHandover | readAttestationReport | kill | hostSnapshotRequest |
      invalidateTranslation | invalidationComplete | walkComplete | queueScan | recordAccept | spliceDecide | placeBlock | scratchpadShrink |
      sliceClaim | resumeBlock | ownerChangeZero | readRequest | readData | ownershipRequest | ownershipGrant | storeData | invalidation |
      acknowledgement | atomicRequest | multicastStore | multicastLoad | promotionRequest | telltale | collectiveStep | reservedClassPacket |
      halyardSweep | captureQueueRoom | freeAck | linkDetectionTimeout | markPackageFailed | startRestoration | hbmScrub | hbmCalibration |
      portRetrain | hostPcieWrite | groupStateQuery | rootDigestReport =>
    exact absurd (show none = some w from h) nofun
  all_goals rfl

theorem decode_of_decodeFields {i : Instr} {w : BitVec 32} (hok : wordOk i = true) (h : decodeFields w = .ok i) : decode w = .ok i := by
  unfold decode
  rw [h]
  exact if_pos hok

theorem decodeFields_of_decode {w : BitVec 32} {i : Instr} (h : decode w = .ok i) : decodeFields w = .ok i ∧ wordOk i = true := by
  unfold decode at h
  split at h
  · cases h
  · split at h
    · cases h
      exact ⟨‹_›, ‹_›⟩
    · cases h

/-- Settles O58: a word's encoding is taken apart into it whatever C is, and a word that decodes is put together again from its instruction. -/
theorem decodeAndEncodeAgree : Obligations.DecodeAndEncodeAgree := by
  unfold Obligations.DecodeAndEncodeAgree
  refine ⟨fun i w hwf he => ?_, fun w i h => ?_⟩
  · have hok : wordOk i = true := (Bool.and_eq_true_iff.mp hwf).1
    obtain ⟨m, r, rfl, hplain⟩ := decodeFields_of_encode 0#1 he hok
    obtain ⟨m', r', hw, hmarked⟩ := decodeFields_of_encode 1#1 he hok
    refine ⟨mkWord_getLsbD_31 m r, decode_of_decodeFields hok hplain, ?_⟩
    rw [hw, mkWord_or_C]
    exact decode_of_decodeFields hok hmarked
  · obtain ⟨hfields, hok⟩ := decodeFields_of_decode h
    have he := encode_of_decodeFields hfields
    exact ⟨Bool.and_eq_true_iff.mpr ⟨hok, eventOk_of_encode he⟩, by rw [he, withoutC_eq_mkWord]⟩

end Sys2Proof
end

section
/-! PROOFS. Control words and the traps they enter (04_encoding R86, R88, 08_isa_control R150, R153, R157, R164, R167). -/

namespace Sys2Proof.Machine

/-! ## Words that a check stops -/

section
variable {s : State} {g : Gang} {i : Instr}

/-- A word with a lane to check whose checks are still to be done. -/
theorem runWord_of_unchecked (perf : Gang → ModFields → LaneMask → State → State) (hg : curGang s = some g)
    (hl : checkLanes s g s.cur.lanes (some i) s.cur.mod ≠ 0) (hc : s.cur.checked = false ∨ alwaysTraps i = true) :
    (∀ f, fullChk s g i = .fault f → runWord i perf s = raiseFault s g i f) ∧
    (∀ ps, fullChk s g i = .hold ps → runWord i perf s = blockOn s g.gid (.xlate (sortAsc ps))) := by
  have hnot : (s.cur.checked && !alwaysTraps i) = false := by rcases hc with h | h <;> simp [h]
  refine ⟨fun f hf => ?_, fun ps hps => ?_⟩
  · simp only [runWord, hg, if_neg hl, hnot, Bool.false_eq_true, ↓reduceIte, hf]
  · simp only [runWord, hg, if_neg hl, hnot, Bool.false_eq_true, ↓reduceIte, hps]

/-- The PC for TRETPC turns on the fault's code alone: the codes from 0x80 on are TRAP's. -/
theorem raiseFault_of_fullChk {f : Flt} (h : fullChk s g i = .fault f) :
    raiseFault s g i f = trapEntry s g.gid f.code f.mask f.addr s.cur.pc
      (if 0x80 ≤ f.code then fallPc s.cur.pc s.cur.last else s.cur.pc) s.cur.lanes := by
  unfold fullChk at h
  split at h
  case h_1 f' hearly =>
    cases h
    have hlow := earlyFault_lt hearly
    simp only [raiseFault, if_neg (not_le.mpr hlow)]
  case h_2 =>
    have hret := retPcOf_of_fault h
    unfold raiseFault
    split
    case isTrue hcode => rw [hret, if_pos hcode]
    case isFalse => rfl

end

/-- Settles O25: a checked word runs through its checks, and a fault or a wait that they find is the whole of its effect. -/
theorem faultingWordsEnterTheTrap : Obligations.FaultingWordsEnterTheTrap := by
  unfold Obligations.FaultingWordsEnterTheTrap
  intro s g i hword hg hchecked hl
  obtain ⟨perf, hexec⟩ := exec_checkedWord_eq_runWord hword
  obtain ⟨hfault, hhold⟩ := runWord_of_unchecked perf hg hl (.inl hchecked)
  refine ⟨fun f hf => ?_, fun ps hps => ?_⟩
  · rw [hexec, hfault f hf, raiseFault_of_fullChk hf]
  · refine ⟨_, (hexec s).trans (congrArg _ (hhold ps hps)), onlyGang_blockOn .., gangOf_blockOn _ _ _ _ (curGang_gangOf hg)⟩

/-! ## Lane masks -/

/-- A word with one six-bit operand stands at its major opcode with that operand in its low bits. -/
theorem mkWord_low (major : BitVec 7) (m : BitVec 6) : mkWord major (0#18 ++ m) = (mkWord major 0#24 ||| m.setWidth 32) := by
  unfold mkWord
  have hlow : m.setWidth 32 = (0#1 ++ 0#7) ++ (0#18 ++ m) := by revert m; decide
  rw [hlow, BitVec.or_append, BitVec.or_append, BitVec.or_zero, BitVec.or_zero, BitVec.zero_or]

theorem getD_modMask (g : Gang) {m : Nat} (f : LaneMask → LaneMask) (hm : m < g.m.length) (n : Nat) :
    (modMask g m f).m.getD n 0 = if n = m then f (g.m.getD n 0) else g.m.getD n 0 := by
  simp only [modMask, List.getD_eq_getElem?_getD, List.getElem?_modify]
  by_cases h : n = m
  · subst h
    simp [hm]
  · simp [h, Ne.symm h]

/-- The lanes of a mask change and the pipes drain: nothing but results moves besides. -/
theorem gangOf_drain_modLanes {s : State} {g : Gang} (act : LaneMask) (f : Lane → Lane) (hg : gangOf s g.gid = some g) :
    ∃ h, gangOf (drain (modGang s g.gid (fun x => modLanes x act f)) g.gid) g.gid = some h ∧ h.pend = [] ∧ h.m = g.m ∧ h.blocked = g.blocked ∧
      ∀ l, l < g.lanes.length →
        let x := if act.getLsbD l then f (laneAt g l) else laneAt g l
        (laneAt h l).pc = x.pc ∧ (laneAt h l).st = x.st ∧ (laneAt h l).yield = x.yield := by
  obtain ⟨h, hh, heq, -, hlane⟩ := gangOf_drain (gangOf_modGang_self s g.gid (fun x => modLanes x act f) g (fun _ hx => hx) hg)
  refine ⟨h, hh, by rw [heq], by rw [heq]; rfl, by rw [heq]; rfl, fun l hl => ?_⟩
  have hx : laneAt { modLanes g act f with pend := [] } l = if act.getLsbD l then f (laneAt g l) else laneAt g l := laneAt_modLanes act f hl
  have hl' := hlane l
  rw [hx] at hl'
  rw [hl']
  exact ⟨rfl, rfl, rfl⟩

section
variable {s : State} {g : Gang} {md : ModFields} {act : LaneMask} {m : BitVec 6}

/-- A word that changes one mask of the gang. -/
theorem changes_mask {i : Instr} (f : LaneMask → LaneMask) (hr : Runs s g i md act) (hm : m.toNat < g.m.length)
    (he : exec i s = .next (modGang s g.gid (fun g => modMask g m.toNat f))) :
    ∃ (t : State) (h : Gang), exec i s = .next t ∧ OnlyGang s t g.gid ∧ gangOf t g.gid = some h ∧ h = { g with m := h.m } ∧
      ∀ n, h.m.getD n 0 = if n = m.toNat then f (g.m.getD n 0) else g.m.getD n 0 := by
  obtain ⟨hg, -⟩ := hr
  exact ⟨_, _, he, onlyGang_modGang s g.gid _ (fun _ hx => hx), gangOf_modGang_self s g.gid _ g (fun _ hx => hx) (curGang_gangOf hg), rfl,
    getD_modMask g f hm⟩

theorem exec_join (hr : Runs s g (.join m) md act) :
    exec (.join m) s = .next (modGang s g.gid (fun g => modMask g m.toNat (fun x => x ||| act))) := congrArg _ (runWord_of_runs _ hr rfl)

theorem exec_leave (hr : Runs s g (.leave m) md act) :
    exec (.leave m) s = .next (modGang s g.gid (fun g => modMask g m.toNat (fun x => x &&& ~~~act))) := congrArg _ (runWord_of_runs _ hr rfl)

theorem exec_waitm (hr : Runs s g (.waitm m) md act) :
    exec (.waitm m) s =
      .next (drain (modGang s g.gid (fun g => modLanes g act (fun x => if x.st = .exited then x else { x with st := .waiting m.toNat }))) g.gid) :=
  congrArg _ (runWord_of_runs _ hr rfl)

theorem exec_yieldW (hr : Runs s g .yieldW md act) :
    exec .yieldW s = .next (drain (modGang s g.gid (fun g => modLanes g act (fun x => if x.st = .exited then x else { x with yield := true }))) g.gid) :=
  congrArg _ (runWord_of_runs _ hr rfl)

theorem waitm_leaves_waiting (hr : Runs s g (.waitm m) md act) :
    ∃ (t : State) (h : Gang), exec (.waitm m) s = .next t ∧ gangOf t g.gid = some h ∧ h.pend = [] ∧ h.m = g.m ∧ h.blocked = g.blocked ∧
      ∀ l, l < g.lanes.length → (laneAt h l).pc = (laneAt g l).pc ∧ (laneAt h l).yield = (laneAt g l).yield ∧
        (laneAt h l).st = if act.getLsbD l = true ∧ (laneAt g l).st ≠ .exited then .waiting m.toNat else (laneAt g l).st := by
  obtain ⟨h, hh, hpend, hm, hblocked, hlane⟩ := gangOf_drain_modLanes act _ (curGang_gangOf hr.1)
  refine ⟨_, h, exec_waitm hr, hh, hpend, hm, hblocked, fun l hl => ?_⟩
  obtain ⟨hpc, hst, hy⟩ := hlane l hl
  rw [hpc, hst, hy]
  by_cases ha : act.getLsbD l = true <;> by_cases hx : (laneAt g l).st = .exited <;> simp [ha, hx]

theorem yieldW_sets_yield (hr : Runs s g .yieldW md act) :
    ∃ (t : State) (h : Gang), exec .yieldW s = .next t ∧ gangOf t g.gid = some h ∧ h.pend = [] ∧ h.m = g.m ∧
      ∀ l, l < g.lanes.length → (laneAt h l).pc = (laneAt g l).pc ∧ (laneAt h l).st = (laneAt g l).st ∧
        (laneAt h l).yield = ((act.getLsbD l && decide ((laneAt g l).st ≠ .exited)) || (laneAt g l).yield) := by
  obtain ⟨h, hh, hpend, hm, -, hlane⟩ := gangOf_drain_modLanes act _ (curGang_gangOf hr.1)
  refine ⟨_, h, exec_yieldW hr, hh, hpend, hm, fun l hl => ?_⟩
  obtain ⟨hpc, hst, hy⟩ := hlane l hl
  rw [hpc, hst, hy]
  by_cases ha : act.getLsbD l = true <;> by_cases hx : (laneAt g l).st = .exited <;> simp [ha, hx]

end

/-- Settles O18: JOIN and LEAVE change one mask at issue; WAITM and YIELD change their lanes and drain. -/
theorem laneMaskWords : Obligations.LaneMaskWords := by
  unfold Obligations.LaneMaskWords
  refine ⟨fun m _ => ⟨congrArg some (mkWord_low _ m), congrArg some (mkWord_low _ m), congrArg some (mkWord_low _ m)⟩, rfl, rfl,
    fun s g md act m hm hlen => ?_⟩
  have hm' : m.toNat < g.m.length := hlen ▸ hm
  exact ⟨fun hr => changes_mask _ hr hm' (exec_join hr), fun hr => changes_mask _ hr hm' (exec_leave hr), waitm_leaves_waiting, yieldW_sets_yield⟩

/-! ## WAIT -/

theorem waitHolds_iff (c : Counts) (nl ns nc nt : Nat) :
    waitHolds c nl ns nc nt = true ↔ c.ld ≤ nl ∧ c.st ≤ ns ∧ c.cp ≤ nc ∧ c.tl ≤ nt := by
  simp only [waitHolds, Bool.and_eq_true, decide_eq_true_eq, and_assoc]

theorem ResultsOnly.map_pc {g h : Gang} (hgh : ResultsOnly g h) : h.lanes.map (fun x => x.pc) = g.lanes.map (fun x => x.pc) := by
  obtain ⟨-, hlen, hlane⟩ := hgh
  refine List.ext_getElem (by simpa using hlen) fun l hl hl' => ?_
  rw [List.length_map] at hl hl'
  have hpc := congrArg Lane.pc (hlane l)
  simpa only [laneAt, List.getD_eq_getElem?_getD, List.getElem?_eq_getElem hl, List.getElem?_eq_getElem hl', Option.getD_some, List.getElem_map] using hpc

theorem exec_wait {s : State} {g : Gang} {md : ModFields} {act : LaneMask} {nl ns nc nt : BitVec 6} (hr : Runs s g (.wait nl ns nc nt) md act) :
    ∃ (t : State) (h : Gang), exec (.wait nl ns nc nt) s = .next t ∧ gangOf t g.gid = some h ∧ h.pend = [] ∧
      h.lanes.map (fun x => x.pc) = g.lanes.map (fun x => x.pc) ∧ h.cnt = g.cnt ∧
      h.blocked = if g.cnt.ld ≤ nl.toNat ∧ g.cnt.st ≤ ns.toNat ∧ g.cnt.cp ≤ nc.toNat ∧ g.cnt.tl ≤ nt.toNat then g.blocked
        else some (.wait nl.toNat ns.toNat nc.toNat nt.toNat) := by
  obtain ⟨x, hx, hres⟩ := gangOf_drain (curGang_gangOf hr.1)
  have hpcs := hres.map_pc
  obtain ⟨heq, -, -⟩ := hres
  have hpend : x.pend = [] := by rw [heq]
  have hcnt : x.cnt = g.cnt := by rw [heq]
  have hblocked : x.blocked = g.blocked := by rw [heq]
  have hexec : exec (.wait nl ns nc nt) s = .next (if waitHolds x.cnt nl.toNat ns.toNat nc.toNat nt.toNat then drain s g.gid
      else blockOn (drain s g.gid) g.gid (.wait nl.toNat ns.toNat nc.toNat nt.toNat)) :=
    congrArg _ ((runWord_of_runs _ hr rfl).trans (by simp only [hx]))
  rw [hcnt] at hexec
  by_cases hw : waitHolds g.cnt nl.toNat ns.toNat nc.toNat nt.toNat = true
  · rw [if_pos hw] at hexec
    exact ⟨_, x, hexec, hx, hpend, hpcs, hcnt, by rw [if_pos ((waitHolds_iff ..).mp hw), hblocked]⟩
  · rw [if_neg hw] at hexec
    exact ⟨_, _, hexec, gangOf_blockOn _ _ _ _ hx, hpend, hpcs, hcnt, by rw [if_neg (mt (waitHolds_iff ..).mpr hw)]⟩

/-! ## Words whose meaning is a trap -/

section
variable {s : State} {g : Gang}

/-- TRAP takes no MOD field but the guard, so no clamp names further registers. -/
theorem clamp_of_legal_trap {k : BitVec 9} {n : BitVec 4} (hok : illegalWord g s.cur.solo (some (.trap k n)) s.cur.mod = false) :
    (s.cur.mod.getD plainMod).clamp = 0#2 := by
  cases hm : s.cur.mod with
  | none => rfl
  | some m =>
    rw [hm] at hok
    simp only [illegalWord, Bool.or_eq_false_iff, Bool.not_eq_eq_eq_not, Bool.not_false] at hok
    obtain ⟨hmod, -⟩ := hok
    have hmem : modMemOk (.trap k n) m = none := rfl
    have hnone : modAccepts (.trap k n) = modNone := rfl
    simp only [modOk, isBr, hmem, hnone, modNone, Bool.and_eq_true, Bool.or_false, Bool.false_eq_true, ↓reduceIte, decide_eq_true_eq] at hmod
    simp only [Option.getD_some, hmod]

/-- The checks of TRAP before its own find nothing where its pair is aligned and no operation is to write it. -/
theorem earlyFault_trap {k : BitVec 9} {n : BitVec 4} (hok : illegalWord g s.cur.solo (some (.trap k n)) s.cur.mod = false)
    (hguard : guardLocked s g (some (.trap k n)) s.cur.mod = false) (hk : k.toNat % 2 = 0) (hlo : locked s g.gid (.k k.toNat) = false)
    (hhi : locked s g.gid (.k (k.toNat + 1)) = false) :
    earlyFault s g { slot := s.cur.slot, word := some (.trap k n), mod := s.cur.mod } = none := by
  have hshape : shapeOf g s.cur.cons (.trap k n) = kShape [k.toNat, k.toNat + 1] [] [(k.toNat, 2)] := rfl
  have hsource : sourceBad g s.cur.cons (.trap k n) = false := by simp [sourceBad, hshape, kShape, noShape, hk]
  have hbank : bankBad g s.cur.cons (.trap k n) = false := rfl
  have hindex : ∀ l, indexBadLane s g (.trap k n) (s.cur.mod.getD plainMod) l = false := fun _ => rfl
  have hunwaited : ∀ low l, unwaitedLane s g (.trap k n) (s.cur.mod.getD plainMod) low l = false := fun low l => by
    have hregs : laneRegs s g (.trap k n) (s.cur.mod.getD plainMod) low l = [.k k.toNat, .k (k.toNat + 1)] := by
      simp only [laneRegs, hshape, clamp_of_legal_trap hok]
      rfl
    simp only [unwaitedLane, hregs, List.any_cons, List.any_nil, hlo, hhi, Bool.or_self]
  simp [earlyFault, firstSome, stepFault, hok, hguard, hsource, csrBad, hbank, hindex, hunwaited, laneFault]

/-- A reserved major is ILLEGAL at the first check. -/
theorem fullChk_reservedMajor {mj : BitVec 7} {rest : BitVec 24} (h : checkLanes s g s.cur.lanes (some (.reservedMajor mj rest)) s.cur.mod ≠ 0) :
    fullChk s g (.reservedMajor mj rest) =
      .fault { code := fcIllegal, mask := checkLanes s g s.cur.lanes (some (.reservedMajor mj rest)) s.cur.mod, addr := 0 } := by
  simp only [fullChk, earlyFault, firstSome, stepFault, if_neg h, illegalWord, ↓reduceIte]

theorem fullChk_trap {k : BitVec 9} {n : BitVec 4} (hact : activeOf g s.cur.lanes (some (.trap k n)) s.cur.mod ≠ 0)
    (hearly : earlyFault s g { slot := s.cur.slot, word := some (.trap k n), mod := s.cur.mod } = none) :
    fullChk s g (.trap k n) =
      .fault { code := 0x80 + n.toNat, mask := activeOf g s.cur.lanes (some (.trap k n)) s.cur.mod, addr := rdK64 g k.toNat } := by
  have hword : ∀ m act, wordChk s g (.trap k n) m act = if act = 0 then .ok else trapFault g k n act := fun _ _ => rfl
  simp only [fullChk, hearly, hword, if_neg hact, trapFault]

end

/-- Settles O21: WAIT drains and blocks by its counters, NOP and MOD by their meanings, and TRAP and a reserved major by the one fault that their checks
give. -/
theorem waitNopModAndTrap : Obligations.WaitNopModAndTrap := by
  unfold Obligations.WaitNopModAndTrap
  refine ⟨fun s g md act nl ns nc nt hr => exec_wait hr, fun s rest => rfl, fun s m hbusy => congrArg _ (if_pos hbusy), fun s g hg => ⟨?_, ?_⟩⟩
  · intro k n i act hact hok hguard hk hlo hhi
    have hchk := fullChk_trap hact (earlyFault_trap hok hguard hk hlo hhi)
    have hrun := (runWord_of_unchecked (fun _ _ _ s => s) hg (checkLanes_ne_zero s g _ _ _ hact) (.inr rfl)).1 _ hchk
    exact congrArg _ (hrun.trans ((raiseFault_of_fullChk hchk).trans (by simp only [Nat.le_add_right, ↓reduceIte]; rfl)))
  · intro mj rest i act hact
    have hchk := fullChk_reservedMajor hact
    have hrun := (runWord_of_unchecked (fun _ _ _ s => s) hg hact (.inr rfl)).1 _ hchk
    exact congrArg _ (hrun.trans (raiseFault_of_fullChk hchk))

end Sys2Proof.Machine
end

section
/-! PROOFS. Source fields and scratchpad addresses (04_encoding R79 to R83, 09_memories R169, R170, 11_isa_memory R215). -/

namespace Sys2Proof.Machine

/-! ## Crossbar patterns and index registers -/

theorem xbarLane_zero (g : Gang) (l : Nat) : xbarLane g 0 l = l := rfl

theorem xbarLane_one (g : Gang) (l : Nat) : xbarLane g 1 l = g.csr.xbar.toNat % 64 % g.width := rfl

theorem xbarLane_two (g : Gang) (l : Nat) : xbarLane g 2 l = (l + g.csr.xbar.toNat / 64 % 64) % g.width := by
  simp only [xbarLane, bitsN_eq, Nat.reducePow]

theorem xbarLane_three (g : Gang) (l : Nat) :
    xbarLane g 3 l = if g.csr.xbar.getLsbD 18 then g.width - 1 - l else l ^^^ (g.csr.xbar.toNat / 4096 % 64 % g.width) := by
  have hbit : bitN g.csr.xbar.toNat 18 = g.csr.xbar.getLsbD 18 := by
    rw [BitVec.getLsbD, Nat.testBit_eq_decide_div_mod_eq, bitN, Nat.shiftRight_eq_div_pow]
    rfl
  simp only [xbarLane, bitsN_eq, hbit, Nat.reducePow]
  rfl

theorem xbarLane_eq (g : Gang) (pp : BitVec 2) (l : Nat) :
    xbarLane g pp.toNat l =
      if pp = 0 then l else if pp = 1 then g.csr.xbar.toNat % 64 % g.width else if pp = 2 then (l + g.csr.xbar.toNat / 64 % 64) % g.width
      else if g.csr.xbar.getLsbD 18 then g.width - 1 - l else l ^^^ (g.csr.xbar.toNat / 4096 % 64 % g.width) := by
  have hpp : pp = 0 ∨ pp = 1 ∨ pp = 2 ∨ pp = 3 := by revert pp; decide
  rcases hpp with rfl | rfl | rfl | rfl
  · exact xbarLane_zero g l
  · exact xbarLane_one g l
  · exact xbarLane_two g l
  · exact xbarLane_three g l

section
variable {g : Gang} {l x : Nat} (hx : xCur (xReg g l x) < xLen (xReg g l x))
include hx

theorem indIndex_uniform : indIndex g false l x true = some (xBase (xReg g l x) + xCur (xReg g l x)) := by
  simp [indIndex, not_le.mpr hx]

theorem indIndex_lane (hb : xBase (xReg g l x) + xCur (xReg g l x) < 16 * g.banks) :
    indIndex g false l x false = some (xBase (xReg g l x) + xCur (xReg g l x)) := by
  simp [indIndex, not_le.mpr hx, not_le.mpr hb]

end

/-! ## Immediates -/

/-- A 6-bit immediate is exact in each float format, in every rounding mode. -/
theorem roundVal_immVal : ∀ (i : BitVec 6), ∀ mode < 4,
    roundVal fmtF32 mode (.num i.toInt 0 false) = { bits := (immVal .f32 i).toNat, flags := 0 } ∧
    ∀ j < 2, roundVal fmtF16 mode (.num i.toInt 0 false) = { bits := halfOf (immVal .f16x2 i) j, flags := 0 } ∧
      roundVal fmtBf16 mode (.num i.toInt 0 false) = { bits := halfOf (immVal .bf16x2 i) j, flags := 0 } := by
  decide +kernel

/-- Both halves of a packed operand hold the immediate. -/
theorem s16Half_immVal : ∀ (i : BitVec 6), ∀ j < 2, s16Half (immVal .s16x2 i) j = i.toInt := by decide +kernel

theorem l6Elem_immVal : ∀ (i : BitVec 6), ∀ j < 4, l6Elem (immVal .l6 i) j = i.toNat := by decide +kernel

/-! ## The packet immediate -/

/-- Widening a value with its sign in two steps. -/
theorem signExtend_word (p : BitVec 30) : (p.signExtend 32).signExtend 64 = BitVec.ofInt 64 p.toInt := by
  rw [BitVec.signExtend, BitVec.toInt_signExtend_of_le (by decide)]

theorem setWidth_shift (p : BitVec 30) : p.setWidth 32 <<< 2 = BitVec.ofNat 32 (4 * p.toNat) := by
  refine BitVec.eq_of_toNat_eq ?_
  have := p.isLt
  simp only [BitVec.toNat_shiftLeft, BitVec.toNat_setWidth, BitVec.toNat_ofNat, Nat.shiftLeft_eq]
  omega

/-! ## Addresses -/

section
variable (s : State) (g : Gang) (l : Nat) (off : Bool)

theorem memAddr_eq (src : Src) (hsrc : ∀ x u, src ≠ .ind x u) :
    memAddr s g src off l = op64 s g src l + if off then BitVec.ofInt 64 s.cur.pimm.toInt else 0 := by
  cases src
  case ind x u => exact absurd rfl (hsrc x u)
  all_goals
    cases off
    · exact (BitVec.add_zero _).symm
    · rfl

theorem memAddr_ind {x : BitVec 3} {i : Nat} (hi : indIndex g s.cur.cons l x.toNat false = some i) :
    memAddr s g (.ind x false) off l = (rdV s g l i).setWidth 64 + if off then BitVec.ofInt 64 s.cur.pimm.toInt else 0 := by
  cases off
  · simp only [memAddr, hi, Bool.false_eq_true, ↓reduceIte]
    exact (BitVec.add_zero _).symm
  · simp only [memAddr, hi, ↓reduceIte]
    rfl

theorem op64_vec (pp : BitVec 2) (n : BitVec 6) :
    op64 s g (.vec pp n) l = rdV s g (xbarLane g pp.toNat l) (n.toNat + 1) ++ rdV s g (xbarLane g pp.toNat l) n.toNat := rfl

theorem opA_ind {ty : ITy} {x : BitVec 3} {u : Bool} {i : Nat} (hi : indIndex g s.cur.cons l x.toNat u = some i) :
    opA s g ty (.ind x u) l = if u then rdK g i else rdV s g l i := by
  simp only [opA, refOf, hi]
  cases u <;> rfl

/-- What the special sources of a block give. -/
theorem specVal_block {b : Block} (hb : blockOf s g.blk = some b) :
    specVal s g l 3 = BitVec.ofNat 32 b.bx ∧ specVal s g l 4 = BitVec.ofNat 32 b.by_ ∧ specVal s g l 5 = BitVec.ofNat 32 b.bz ∧
      specVal s g l 6 = BitVec.ofNat 32 b.cluster := by
  simp only [specVal, hb, and_self]

end

/-! ## Scratchpad accesses -/

/-- The bytes of an access of each width but `l6`. -/
theorem widthBytes_eq_getD (g : Gang) {w : BitVec 3} (hw : w ≠ 7#3) :
    widthBytes g w.toNat = [1, 1, 2, 2, 4, 8, 16].getD w.toNat 0 := by
  have h : w = 0 ∨ w = 1 ∨ w = 2 ∨ w = 3 ∨ w = 4 ∨ w = 5 ∨ w = 6 ∨ w = 7 := by revert w; decide
  rcases h with rfl | rfl | rfl | rfl | rfl | rfl | rfl | rfl
  case inr.inr.inr.inr.inr.inr.inr => exact absurd rfl hw
  all_goals rfl

/-- An access of the core scratchpad: its block's bytes, then its alignment; it then stands at its offset (R169, R170). -/
theorem laneAccess_scratch {s : State} {g : Gang} {b : Block} (hb : blockOf s g.blk = some b) (va n : Nat) (acc : Acc) (u : McUse) (l : Nat) :
    laneAccess s g 1 va n n false acc u l =
      if 4096 * b.banks.length < va + n then .bad fcSpace va else if va % n ≠ 0 then .bad fcAlign va
      else .ok (piecesOf l 0 (.scr g.blk va) n (granule n false)) := by
  have hspace : spaceOk s g 1 va n = decide (va + n ≤ 4096 * b.banks.length) := by
    simp only [spaceOk, hb, blockBytes]
    rfl
  have hparts : partsOf va n false = [(va, n)] := rfl
  unfold laneAccess
  rw [hparts]
  by_cases hin : 4096 * b.banks.length < va + n
  · simp [hspace, hin]
  · simp [hspace, hin, placePart, partFaults, firstRanked]

/-- Its pieces: two of eight bytes for a 16-byte access, else one. -/
theorem map_piecesOf_scratch {n : Nat} (hn : n ∈ [1, 2, 4, 8, 16]) (l blk va : Nat) :
    (piecesOf l 0 (.scr blk va) n (granule n false)).map (fun p => (p.lane, p.off, p.place, p.len)) =
      if n = 16 then [(l, 0, .scr blk va, 8), (l, 8, .scr blk (va + 8), 8)] else [(l, 0, .scr blk va, n)] := by
  simp only [List.mem_cons, List.not_mem_nil, or_false] at hn
  rcases hn with rfl | rfl | rfl | rfl | rfl <;> rfl

theorem mem_widths {w : BitVec 3} (hw : w ≠ 7#3) : [1, 1, 2, 2, 4, 8, 16].getD w.toNat 0 ∈ [1, 2, 4, 8, 16] := by
  revert w; decide

theorem memLane_scratch {s : State} {g : Gang} {f : MemFields} {b : Block} (hspace : f.space = 1#2) (hw : f.width ≠ 7#3)
    (hb : blockOf s g.blk = some b) (acc : Acc) (u : McUse) (l : Nat) :
    let va := (memAddr s g f.addr f.off l).toNat
    let n := [1, 1, 2, 2, 4, 8, 16].getD f.width.toNat 0
    memLane s g f acc u l =
      if 4096 * b.banks.length < va + n then .bad fcSpace va else if va % n ≠ 0 then .bad fcAlign va
      else .ok (piecesOf l 0 (.scr g.blk va) n (granule n false)) := by
  rw [← widthBytes_eq_getD g hw]
  simp only [memLane, hspace, hw, decide_false, Bool.false_eq_true, ↓reduceIte]
  exact laneAccess_scratch hb ..

/-! ## The forms of the two families -/

/-- Settles O11: each source form by its own rule, and a scratchpad access by its block's bytes and its alignment. -/
theorem operandAndAddressForms : Obligations.OperandAndAddressForms := by
  unfold Obligations.OperandAndAddressForms
  refine ⟨fun s g ty l n k i x => ?_, fun s g f acc u l b hspace hw hb => ?_⟩
  · refine ⟨rfl, rfl, congrArg (rdV s g · n.toNat) (xbarLane_two g l), congrArg (rdV s g · n.toNat) (xbarLane_three g l), rfl, rfl,
      fun mode hm => ?_, fun j hj => l6Elem_immVal i j hj, rfl, rfl, rfl, fun b hb => specVal_block s g l hb, rfl, rfl, rfl, rfl, rfl, rfl, rfl,
      signExtend_word s.cur.pimm, rfl, fun off => ⟨fun pp => ?_, fun hcons hx hbank => ?_⟩, rfl,
      (BitVec.ofNat_toNat 32 s.cur.pimm).symm, setWidth_shift s.cur.pimm, rfl, fun hcons hx => ⟨?_, fun hbank => ?_⟩⟩
    · obtain ⟨hf32, hpacked⟩ := roundVal_immVal i mode hm
      refine ⟨hf32, fun j hj => ?_⟩
      obtain ⟨hf16, hbf16⟩ := hpacked j hj
      exact ⟨hf16, hbf16, s16Half_immVal i j hj⟩
    · rw [memAddr_eq s g l off _ (fun _ _ => Src.noConfusion), op64_vec, ← xbarLane_eq]
      exact ⟨rfl, rfl⟩
    · exact memAddr_ind s g l off (hcons ▸ indIndex_lane hx hbank)
    · exact opA_ind s g l (hcons ▸ indIndex_uniform hx)
    · exact opA_ind s g l (hcons ▸ indIndex_lane hx hbank)
  · have hlane := memLane_scratch hspace hw hb acc u l
    refine ⟨fun k hk => ?_, fun hout => ?_, fun hin hal => ?_, fun hin hal => ?_⟩
    · rw [hk, memAddr_eq s g l f.off _ (fun _ _ => Src.noConfusion)]
      rfl
    · exact hlane.trans (if_pos hout)
    · exact hlane.trans ((if_neg (not_lt.mpr hin)).trans (if_pos hal))
    · exact ⟨_, hlane.trans ((if_neg (not_lt.mpr hin)).trans (if_neg (not_not.mpr hal))), map_piecesOf_scratch (mem_widths hw) l g.blk _⟩

end Sys2Proof.Machine
end

section
/-! PROOFS. The state after reset holds no entry in any table (R189, 09_memories; R114, 06_registers; R363, 19_host_firmware). -/

namespace Sys2Proof.Machine

theorem tables_reset : TablesCanonical State.reset := ⟨rfl, rfl, rfl, rfl, rfl, rfl, rfl⟩

/-- Settles O59: every table of the reset state is the empty one. -/
theorem resetIsCanonical : Obligations.ResetIsCanonical :=
  ⟨tables_reset, fun _ => ⟨rfl, rfl, rfl, rfl, rfl, rfl⟩, fun _ => rfl, rfl, rfl⟩

end Sys2Proof.Machine
end

section
/-! PROOFS. Every step keeps the tables canonical (R189, R114).
What writes no table, and what a word of the lanes does (07_isa_lane, R9, R88). -/

namespace Sys2Proof.Machine

theorem tables_ite {c : Prop} [Decidable c] {a b : State} (ha : TablesCanonical a) (hb : TablesCanonical b) :
    TablesCanonical (if c then a else b) := by
  split
  · exact ha
  · exact hb

theorem tables_foldl {α : Type} {f : State → α → State} {xs : List α} {s : State} (hf : ∀ s x, TablesCanonical s → TablesCanonical (f s x))
    (hs : TablesCanonical s) : TablesCanonical (xs.foldl f s) := foldl_keeps TablesCanonical f hf xs s hs

/-- The state that a read of a place leaves, whatever it answers. -/
def rdState : Rd → State
  | .got _ _ t => t
  | .sent t => t
  | .wait t => t

/-- The state that a write of a place leaves, whatever it answers. -/
def wtState : Wt → State
  | .done t => t
  | .sent t => t
  | .wait t => t

theorem tables_modGang {s gid f} (hs : TablesCanonical s) : TablesCanonical (modGang s gid f) := hs

theorem tables_blockOn {s gid b} (hs : TablesCanonical s) : TablesCanonical (blockOn s gid b) := tables_modGang hs

theorem tables_sendPkt {s p} (hs : TablesCanonical s) : TablesCanonical (sendPkt s p) := hs

theorem tables_setDir {s d} (hs : TablesCanonical s) : TablesCanonical (setDir s d) := hs

theorem tables_invalidateHolders {s line keep} (hs : TablesCanonical s) : TablesCanonical (invalidateHolders s line keep) :=
  tables_setDir (tables_foldl (fun _ _ h1 => tables_sendPkt h1) hs)

theorem tables_homeAsk {s line} (hs : TablesCanonical s) : TablesCanonical (homeAsk s line) := tables_invalidateHolders hs

theorem tables_askRead {s line tag rem core} (hs : TablesCanonical s) : TablesCanonical (askRead s line tag rem core) := tables_ite hs (tables_sendPkt hs)

theorem tables_askHeld {s core pages} (hs : TablesCanonical s) : TablesCanonical (askHeld s core pages) :=
  tables_foldl (fun _ _ h1 => tables_ite (tables_homeAsk h1) (tables_askRead h1)) hs

theorem tables_holdBundle {s g pages} (hs : TablesCanonical s) : TablesCanonical (holdBundle s g pages) := tables_blockOn (tables_askHeld hs)

theorem tables_enterTrap {s g code pc f} (hs : TablesCanonical s) (hff : ∀ y0, TablesCanonical y0 → TablesCanonical (f y0)) :
    TablesCanonical (enterTrap s g code pc f) := by
  unfold enterTrap
  split
  · exact hff _ hs
  · exact tables_holdBundle hs

theorem tables_countZero {gid v s} (hs : TablesCanonical s) : TablesCanonical (countZero gid v s) := tables_ite (tables_modGang hs) hs

theorem tables_modCtx {s ctx f} (hs : TablesCanonical s) : TablesCanonical (modCtx s ctx f) := hs

theorem tables_modCol {s c f} (hs : TablesCanonical s) : TablesCanonical (modCol s c f) := tables_setCol _ _ _ hs

theorem tables_putV {s g l n v mark} (hs : TablesCanonical s) : TablesCanonical (putV s g l n v mark) := tables_countZero (tables_wrV _ _ _ _ _ _ hs)

theorem tables_applyPend {gid s p} (hs : TablesCanonical s) : TablesCanonical (applyPend gid s p) := by
  unfold applyPend
  split
  · split
    · exact tables_putV hs
    · exact hs
  · exact tables_modGang hs
  · exact tables_modGang hs
  · exact tables_modGang hs
  · exact tables_modGang hs
  · exact tables_modGang hs
  · exact tables_modGang hs

theorem tables_drain {s gid} (hs : TablesCanonical s) : TablesCanonical (drain s gid) := by
  unfold drain
  split
  · exact tables_foldl (fun _ _ h1 => tables_applyPend h1) (tables_modGang hs)
  · exact hs

theorem tables_stopLaunch {s g status code pc} (hs : TablesCanonical s) : TablesCanonical (stopLaunch s g status code pc) := hs

theorem tables_trapEntry {s0 gid code bad addr flpc ret lanes} (hs : TablesCanonical s0) :
    TablesCanonical (trapEntry s0 gid code bad addr flpc ret lanes) := by
  unfold trapEntry
  extract_lets s
  have h1 : TablesCanonical s := tables_drain hs
  clear_value s
  split
  · exact h1
  · dsimp only
    split
    · exact h1
    · split
      · exact h1
      · exact tables_ite h1 (tables_ite h1 h1)

theorem tables_takeWeight {s g w pc lanes} (hs : TablesCanonical s) : TablesCanonical (takeWeight s g w pc lanes) := tables_trapEntry hs

theorem tables_packetFault {s g code pc lanes addr} (hs : TablesCanonical s) : TablesCanonical (packetFault s g code pc lanes addr) :=
  tables_enterTrap hs (fun _ h1 => tables_trapEntry h1)

theorem tables_eccCorrect {ctx hit s} (hs : TablesCanonical s) : TablesCanonical (eccCorrect ctx hit s) := tables_ite hs (tables_modCtx hs)

theorem tables_eccAt {ctx p n s} (hs : TablesCanonical s) : TablesCanonical (eccAt ctx p n s) := tables_eccCorrect hs

theorem tables_firstOwner {s ctx base n} (hs : TablesCanonical s) : TablesCanonical (firstOwner s ctx base n) := tables_ite hs hs

theorem tables_takeFrame {f ctx s} (hs : TablesCanonical s) : TablesCanonical (takeFrame f ctx s) := by
  unfold takeFrame
  split
  · exact tables_firstOwner hs
  · exact hs

theorem tables_walkEvent {core ctx page s} (hs : TablesCanonical s) : TablesCanonical (walkEvent core ctx page s) := by
  unfold walkEvent
  split
  · exact hs
  · extract_lets frame t
    have h1 : TablesCanonical t := by
      dsimp only [t]
      split
      · exact hs
      · exact hs
      · exact tables_modCtx (tables_takeFrame hs)
    clear_value t
    exact tables_ite hs h1

theorem tables_fetched {g va s} (hs : TablesCanonical s) : TablesCanonical (fetched g va s) := by
  unfold fetched
  extract_lets t
  have h1 : TablesCanonical t := by
    dsimp only [t]
    split
    · exact tables_eccAt hs
    · exact hs
  exact tables_ite (tables_walkEvent h1) h1

theorem tables_faultBundle {s g f ret} (hs : TablesCanonical s) : TablesCanonical (faultBundle s g f ret) :=
  tables_enterTrap hs (fun _ h1 => tables_trapEntry h1)

theorem tables_takeSlice {core part gid s idx} (hs : TablesCanonical s) : TablesCanonical (takeSlice core part gid s idx) := tables_zeroSlice _ _ _ _ hs

theorem tables_claimEntry {gid s e} (hs : TablesCanonical s) : TablesCanonical (claimEntry gid s e) := by
  unfold claimEntry
  split
  · exact hs
  · dsimp only
    split
    · exact tables_modGang (tables_takeSlice hs)
    · split
      · split
        · exact tables_modGang hs
        · exact hs
      · exact hs
    · exact hs

theorem tables_claimEntries {gid es s} (hs : TablesCanonical s) : TablesCanonical (claimEntries gid es s) :=
  tables_ite (tables_modGang (tables_foldl (fun _ _ h1 => tables_claimEntry h1) hs)) (tables_foldl (fun _ _ h1 => tables_claimEntry h1) hs)

theorem tables_claimBundle {s g es} (hs : TablesCanonical s) : TablesCanonical (claimBundle s g es) := tables_claimEntries hs

theorem tables_barRef {s h} (hs : TablesCanonical s) : TablesCanonical (barRef s h) := by
  unfold barRef
  split
  · exact hs
  · exact hs

theorem tables_raiseFault {s g i f} (hs : TablesCanonical s) : TablesCanonical (raiseFault s g i f) := tables_trapEntry hs

theorem tables_runWord {i perf s} (hs : TablesCanonical s) (hfperf : ∀ y0 y1 y2 y3, TablesCanonical y3 → TablesCanonical (perf y0 y1 y2 y3)) :
    TablesCanonical (runWord i perf s) := by
  unfold runWord
  split
  · exact hs
  · split
    · exact hs
    · split
      · exact hfperf _ _ _ _ hs
      · split
        · exact hfperf _ _ _ _ hs
        · exact tables_raiseFault hs
        · exact tables_blockOn hs

theorem tables_pushPend {s g lat acts} (hs : TablesCanonical s) : TablesCanonical (pushPend s g lat acts) := tables_modGang hs

theorem tables_laneResults {s g lat d act f} (hs : TablesCanonical s) : TablesCanonical (laneResults s g lat d act f) := tables_pushPend hs

theorem tables_finishedInt {i lat d a b y s} (hs : TablesCanonical s) : TablesCanonical (finishedInt i lat d a b y s) :=
  tables_runWord hs (fun _ _ _ _ h1 => tables_laneResults h1)

theorem tables_plainInt {i lat d a b y s} (hs : TablesCanonical s) : TablesCanonical (plainInt i lat d a b y s) :=
  tables_runWord hs (fun _ _ _ _ h1 => tables_laneResults h1)

theorem tables_fp32Word {i op d a b s} (hs : TablesCanonical s) : TablesCanonical (fp32Word i op d a b s) :=
  tables_runWord hs (fun _ _ _ _ h1 => tables_laneResults h1)

theorem tables_minMaxWord {i mx d a b s} (hs : TablesCanonical s) : TablesCanonical (minMaxWord i mx d a b s) :=
  tables_runWord hs (fun _ _ _ _ h1 => tables_laneResults h1)

theorem tables_packedFloat {i op f ty d a b s} (hs : TablesCanonical s) : TablesCanonical (packedFloat i op f ty d a b s) :=
  tables_runWord hs (fun _ _ _ _ h1 => tables_laneResults h1)

theorem tables_finishedPacked {i d a b y s} (hs : TablesCanonical s) : TablesCanonical (finishedPacked i d a b y s) :=
  tables_runWord hs (fun _ _ _ _ h1 => tables_laneResults h1)

theorem tables_plainPacked {i d a b y s} (hs : TablesCanonical s) : TablesCanonical (plainPacked i d a b y s) :=
  tables_runWord hs (fun _ _ _ _ h1 => tables_laneResults h1)

theorem tables_predResults {s g lat p act f} (hs : TablesCanonical s) : TablesCanonical (predResults s g lat p act f) := tables_pushPend hs

theorem tables_unaryWord {i ty d a f s} (hs : TablesCanonical s) : TablesCanonical (unaryWord i ty d a f s) :=
  tables_runWord hs (fun _ _ _ _ h1 => tables_laneResults h1)

theorem tables_xfnWord {i code d a s} (hs : TablesCanonical s) : TablesCanonical (xfnWord i code d a s) :=
  tables_runWord hs (fun _ _ _ _ h1 => tables_laneResults h1)

theorem tables_crossWord {i d f s} (hs : TablesCanonical s) : TablesCanonical (crossWord i d f s) :=
  tables_runWord hs (fun _ _ _ _ h1 => tables_laneResults h1)

theorem tables_voteWord {i d a f s} (hs : TablesCanonical s) : TablesCanonical (voteWord i d a f s) :=
  tables_runWord hs (fun _ _ _ _ h1 => tables_laneResults h1)

theorem tables_lanePairs {s g lat d act f} (hs : TablesCanonical s) : TablesCanonical (lanePairs s g lat d act f) := tables_pushPend hs

theorem tables_uniResult {s g lat k v} (hs : TablesCanonical s) : TablesCanonical (uniResult s g lat k v) := tables_pushPend hs

theorem tables_kopWord {i kd ka f s} (hs : TablesCanonical s) : TablesCanonical (kopWord i kd ka f s) :=
  tables_runWord hs (fun _ _ _ _ h1 => tables_uniResult h1)

theorem tables_kopPair {i kd ka f s} (hs : TablesCanonical s) : TablesCanonical (kopPair i kd ka f s) :=
  tables_runWord hs (fun _ _ _ _ h1 => tables_pushPend h1)

theorem tables_kmovWord {i lat kd a s} (hs : TablesCanonical s) : TablesCanonical (kmovWord i lat kd a s) :=
  tables_runWord hs (fun _ _ _ _ h1 => tables_uniResult h1)

theorem tables_indexWord {i f a s} (hs : TablesCanonical s) : TablesCanonical (indexWord i f a s) :=
  tables_runWord hs (fun _ _ _ _ h1 => tables_pushPend h1)

end Sys2Proof.Machine
end

section
/-! PROOFS. Every step keeps the tables canonical (R189, R114).
The words that start an operation, and the lines that a program's access settles (08_isa_memory_tensor, R219, R226). -/

namespace Sys2Proof.Machine

theorem tables_startOp {s g cls kind lanes pieces} (hs : TablesCanonical s) : TablesCanonical (startOp s g cls kind lanes pieces) := tables_modGang hs

theorem tables_startMem {s g i cls kind act} (hs : TablesCanonical s) : TablesCanonical (startMem s g i cls kind act) := tables_startOp hs

theorem tables_fwdStore {s g act bytes} (hs : TablesCanonical s) : TablesCanonical (fwdStore s g act bytes) := tables_modGang hs

theorem tables_atomWord {i f aop ret s} (hs : TablesCanonical s) : TablesCanonical (atomWord i f aop ret s) :=
  tables_runWord hs (fun _ _ _ _ h1 => tables_startOp h1)

theorem tables_clineWord {i which s} (hs : TablesCanonical s) : TablesCanonical (clineWord i which s) :=
  tables_runWord hs (fun _ _ _ _ h1 => tables_startOp h1)

theorem tables_captureL1 {c r s} (hs : TablesCanonical s) : TablesCanonical (captureL1 c r s) :=
  tables_ite (tables_sendCapture s (r.core / 40) r.ctx c _ hs) hs

theorem tables_captureL2 {c r s} (hs : TablesCanonical s) : TablesCanonical (captureL2 c r s) :=
  tables_ite (tables_sendCapture s 0 r.ctx c _ hs) hs

theorem tables_lateL2 {w c tagged va line mask data s} (hs : TablesCanonical s) : TablesCanonical (lateL2 w c tagged va line mask data s) :=
  tables_ite (tables_patchFor _ _ _ _ _ _ _ _ hs) hs

theorem tables_askOwn {s line core} (hs : TablesCanonical s) : TablesCanonical (askOwn s line core) := tables_ite hs (tables_sendPkt hs)

theorem tables_writePeerLine {w line va mask data s} (hs : TablesCanonical s) : TablesCanonical (writePeerLine w line va mask data s) := by
  unfold writePeerLine
  extract_lets r0 sa sb r1 whole merged full sc sd
  have ha : TablesCanonical sa := tables_ite hs (tables_captureL2 hs)
  have hb : TablesCanonical sb := tables_ite ha (tables_captureL2 ha)
  have hc : TablesCanonical sc := tables_setL2 _ _ hb
  have hd : TablesCanonical sd := tables_lateL2 (tables_lateL2 hc)
  clear_value sd
  exact tables_ite hd (tables_askOwn hd)

theorem tables_writeBackClass {r s e} (hs : TablesCanonical s) : TablesCanonical (writeBackClass r s e) :=
  tables_ite (tables_writePeerLine hs) (tables_writeLine _ _ _ _ _ _ hs)

theorem tables_shareOut {line who s} (hs : TablesCanonical s) : TablesCanonical (shareOut line who s) :=
  tables_ite hs (tables_setDir (tables_invalidateHolders hs))

theorem tables_poisonBack {r s} (hs : TablesCanonical s) : TablesCanonical (poisonBack r s) := by
  unfold poisonBack
  refine tables_foldl (fun s x h1 => ?_) hs
  split
  · split
    · exact tables_setL2 _ _ h1
    · exact h1
  · exact h1

theorem tables_writeBackL1 {r s} (hs : TablesCanonical s) : TablesCanonical (writeBackL1 r s) := by
  unfold writeBackL1
  extract_lets sa sb sc sd
  have ha : TablesCanonical sa := tables_captureL1 (tables_captureL1 hs)
  have hb : TablesCanonical sb := tables_foldl (fun _ _ h1 => tables_writeBackClass h1) ha
  have hc : TablesCanonical sc := tables_ite hb (tables_shareOut hb)
  have hd : TablesCanonical sd := tables_poisonBack hc
  clear_value sd
  exact tables_ite hs hd

theorem tables_flushL1 {s core peer line} (hs : TablesCanonical s) : TablesCanonical (flushL1 s core peer line) := by
  unfold flushL1
  split
  · exact tables_writeBackL1 hs
  · exact hs

theorem tables_settleL1 {core drop s e} (hs : TablesCanonical s) : TablesCanonical (settleL1 core drop s e) := by
  unfold settleL1
  dsimp only
  refine tables_foldl (fun s x h1 => ?_) ?_
  · split
    · exact tables_flushL1 h1
    · split
      · exact tables_writeBackL1 h1
      · exact h1
  · refine tables_foldl (fun s x h1 => ?_) hs
    split
    · exact tables_flushL1 h1
    · split
      · exact tables_writeBackL1 h1
      · exact h1

theorem tables_askBoth {s line core} (hs : TablesCanonical s) : TablesCanonical (askBoth s line core) := tables_askOwn (tables_ite hs (tables_askRead hs))

theorem tables_askDests {core ds s} (hs : TablesCanonical s) : TablesCanonical (askDests core ds s) :=
  tables_foldl (fun _ _ h1 => tables_homeAsk h1) (tables_foldl (fun _ _ h1 => tables_askBoth h1) hs)

theorem tables_setRing {s r} (hs : TablesCanonical s) : TablesCanonical (setRing s r) := hs

theorem tables_setRec {s r} (hs : TablesCanonical s) : TablesCanonical (setRec s r) := hs

theorem tables_startEngine {s g kind act ps} (hs : TablesCanonical s) : TablesCanonical (startEngine s g kind act ps) :=
  tables_startOp (tables_foldl (fun _ _ h1 => tables_settleL1 h1) hs)

theorem tables_eccPlaces {ctx ps s} (hs : TablesCanonical s) : TablesCanonical (eccPlaces ctx ps s) := tables_foldl (fun _ _ h1 => tables_eccAt h1) hs

theorem tables_startWriter {s g kind act ps} (hs : TablesCanonical s) : TablesCanonical (startWriter s g kind act ps) :=
  tables_startEngine (tables_askDests hs)

theorem tables_acmovWord {i aop kt kq clr s} (hs : TablesCanonical s) : TablesCanonical (acmovWord i aop kt kq clr s) := by
  unfold acmovWord
  refine tables_runWord ?_ ?_
  · exact hs
  · intro _ _ _ _ h1
    dsimp only
    split
    · exact tables_startWriter h1
    · exact tables_startEngine h1

theorem tables_setPreds {s gid p lanes v} (hs : TablesCanonical s) : TablesCanonical (setPreds s gid p lanes v) := tables_ite hs (tables_modGang hs)

theorem tables_writeBackBelow {core sc s} (hs : TablesCanonical s) : TablesCanonical (writeBackBelow core sc s) :=
  tables_foldl (fun _ _ h1 => tables_writeBackL1 h1) hs

theorem tables_acquireL1 {core sc s} (hs : TablesCanonical s) : TablesCanonical (acquireL1 core sc s) := tables_ite hs (tables_writeBackBelow hs)

theorem tables_bwaitEnd {s g h pd lanes ok} (hs : TablesCanonical s) : TablesCanonical (bwaitEnd s g h pd lanes ok) :=
  tables_setPreds (tables_ite (tables_acquireL1 hs) hs)

theorem tables_csrLatch {s g n} (hs : TablesCanonical s) : TablesCanonical (csrLatch s g n) := tables_ite (tables_modGang hs) hs

theorem tables_sendCoord {s member kind c digest flag st id} (hs : TablesCanonical s) : TablesCanonical (sendCoord s member kind c digest flag st id) :=
  tables_sendPkt hs

theorem tables_askState {c op s} (hs : TablesCanonical s) : TablesCanonical (askState c op s) := tables_ite (tables_sendCoord hs) hs

end Sys2Proof.Machine
end

section
/-! PROOFS. Every step keeps the tables canonical (R189, R114).
What completes in memory: loads, stores, atomics, fences, lines and copies (R217 to R229). -/

namespace Sys2Proof.Machine

theorem tables_unblock {s gid} (hs : TablesCanonical s) : TablesCanonical (unblock s gid) := tables_modGang hs

theorem tables_waitEvent {gid s} (hs : TablesCanonical s) : TablesCanonical (waitEvent gid s) := by
  unfold waitEvent
  split
  · split
    · exact tables_ite (tables_unblock hs) hs
    · exact hs
  · exact hs

theorem tables_stallEvent {gid s} (hs : TablesCanonical s) : TablesCanonical (stallEvent gid s) := by
  unfold stallEvent
  split
  · split
    · exact tables_ite (tables_unblock hs) hs
    · exact hs
  · exact hs

theorem tables_writeLoadLane {d width bytes psn va l g s} (hs : TablesCanonical s) : TablesCanonical (writeLoadLane d width bytes psn va l g s) :=
  tables_foldl (fun _ _ h1 => tables_putV h1) hs

theorem tables_endOp {s o} (hs : TablesCanonical s) : TablesCanonical (endOp s o) := tables_modGang hs

theorem tables_finishLoad {id s} (hs : TablesCanonical s) : TablesCanonical (finishLoad id s) := by
  unfold finishLoad
  split
  · exact hs
  · split
    · exact tables_ite (tables_endOp (tables_foldl (fun _ _ h1 => tables_writeLoadLane h1) hs)) hs
    · exact tables_endOp (tables_foldl (fun _ _ h1 => tables_writeLoadLane h1) hs)
    · exact tables_endOp hs
    · exact tables_endOp hs
    · exact hs

theorem tables_countL1 {s o i p t} (hs : TablesCanonical t) : TablesCanonical (countL1 s o i p t) := by
  unfold countL1
  split
  · exact hs
  · split
    · exact tables_ite (tables_modGang hs) (tables_modGang hs)
    · exact hs

theorem tables_settleOwn {s core peer line} (hs : TablesCanonical s) : TablesCanonical (settleOwn s core peer line) := by
  unfold settleOwn
  split
  · exact tables_writeBackL1 hs
  · exact hs

theorem tables_modOp {s id f} (hs : TablesCanonical s) : TablesCanonical (modOp s id f) := hs

theorem tables_setPiece {s id i p} (hs : TablesCanonical s) : TablesCanonical (setPiece s id i p) := tables_modOp hs

theorem tables_askPromotion {s o i p} (hs : TablesCanonical s) : TablesCanonical (askPromotion s o i p) := by
  unfold askPromotion
  split
  · exact tables_setPiece (tables_setDir (tables_settleOwn hs))
  · exact tables_setPiece (tables_askRead (tables_settleOwn hs))
  · exact hs

theorem tables_setL1 {s r} (hs : TablesCanonical s) : TablesCanonical (setL1 s r) := tables_ite hs hs

theorem tables_fillL2 {s line ctx va} (hs : TablesCanonical s) : TablesCanonical (fillL2 s line ctx va) := by
  unfold fillL2
  split
  · exact hs
  · exact tables_setL2 _ _ hs

theorem tables_l1Filled {s core ctx peer line va x} (hs : TablesCanonical s) (hx : l1Filled s core ctx peer line va = some x) :
    TablesCanonical x.2 := by
  unfold l1Filled at hx
  split at hx
  · cases hx; exact hs
  · dsimp only at hx
    split at hx
    · split at hx
      · split at hx
        · cases hx; exact tables_setL1 hs
        · cases hx
      · cases hx
    · cases hx; exact tables_setL1 (tables_fillL2 hs)

theorem tables_freshenL1 {core peer line s} (hs : TablesCanonical s) : TablesCanonical (freshenL1 core peer line s) := by
  unfold freshenL1
  dsimp only
  split
  · exact hs
  · exact hs

theorem tables_acquireRead {id l s} (hs : TablesCanonical s) : TablesCanonical (acquireRead id l s) := by
  unfold acquireRead
  split
  · split
    · exact tables_ite (tables_acquireL1 hs) hs
    · exact tables_ite (tables_acquireL1 hs) hs
    · exact hs
  · exact hs

theorem tables_pieceRead {id i p bytes psn s} (hs : TablesCanonical s) : TablesCanonical (pieceRead id i p bytes psn s) :=
  tables_acquireRead (tables_setPiece hs)

theorem tables_eccAccess {o p n s} (hs : TablesCanonical s) : TablesCanonical (eccAccess o p n s) := tables_eccAt hs

theorem tables_readPlace {s core ctx tag scope acq p n r} (hs : TablesCanonical s) (hr : readPlace s core ctx tag scope acq p n = r) :
    TablesCanonical (rdState r) := by
  subst hr
  unfold readPlace
  split
  · split
    · exact hs
    · exact hs
  · exact hs
  · dsimp only
    split
    · exact tables_homeAsk hs
    · split
      · split
        · rename_i hx; exact tables_l1Filled hs hx
        · exact hs
      · dsimp only [rdState]
        exact tables_freshenL1 (tables_fillL2 (tables_settleOwn hs))
  · dsimp only
    split
    · split
      · rename_i hx; exact tables_l1Filled hs hx
      · exact tables_askRead hs
    · split
      · exact hs
      · split
        · split
          · dsimp only [rdState]
            exact tables_freshenL1 (tables_settleOwn hs)
          · exact tables_askRead (tables_settleOwn hs)
        · exact tables_askRead (tables_settleOwn hs)
  · split
    · exact hs
    · exact hs

theorem tables_readPiece {id s i} (hs : TablesCanonical s) : TablesCanonical (readPiece id s i) := by
  unfold readPiece
  split
  · exact hs
  · split
    · split
      · exact hs
      · split
        · exact tables_countL1 (tables_askPromotion hs)
        · split
          · rename_i hr; exact tables_pieceRead (tables_eccAccess (tables_countL1 (tables_readPlace hs hr)))
          · rename_i hr; exact tables_setPiece (tables_ite (tables_countL1 (tables_readPlace hs hr)) (tables_readPlace hs hr))
          · rename_i hr; exact tables_readPlace hs hr
    · exact hs

theorem tables_loadEvent {id ps s} (hs : TablesCanonical s) : TablesCanonical (loadEvent id ps s) := by
  unfold loadEvent
  split
  · exact tables_finishLoad (tables_foldl (fun _ _ h1 => tables_readPiece h1) hs)
  · exact hs

theorem tables_recordLateFor {o c s} (hs : TablesCanonical s) : TablesCanonical (recordLateFor o c s) := by
  unfold recordLateFor
  split
  · split
    · exact tables_emitRec _ _ _ hs
    · exact hs
  · exact hs

theorem tables_recordLate {s o} (hs : TablesCanonical s) : TablesCanonical (recordLate s o) := tables_recordLateFor (tables_recordLateFor hs)

theorem tables_endIfDone {id s} (hs : TablesCanonical s) : TablesCanonical (endIfDone id s) := by
  unfold endIfDone
  split
  · exact tables_ite (tables_endOp (tables_recordLate hs)) hs
  · exact hs

theorem tables_releaseReady {s o ls sc} (hs : TablesCanonical s) : TablesCanonical (releaseReady s o ls sc).2 := by
  unfold releaseReady
  split
  · exact hs
  · exact tables_writeBackBelow hs

theorem tables_writeScr {w b off bytes s} (hs : TablesCanonical s) : TablesCanonical (writeScr w b off bytes s) := by
  unfold writeScr
  split
  · exact hs
  · refine tables_foldl (fun s x h1 => ?_) hs
    dsimp only
    split
    · exact tables_writeBank _ _ _ _ _ _ h1
    · exact h1

theorem tables_writeDie {w ctx die off bytes s} (hs : TablesCanonical s) : TablesCanonical (writeDie w ctx die off bytes s) := by
  unfold writeDie
  split
  · exact hs
  · refine tables_foldl (fun s x h1 => ?_) hs
    dsimp only
    split
    · exact tables_writeRange _ _ _ _ _ _ h1
    · exact h1

theorem tables_lateL1 {w c tagged core peer va line mask data s} (hs : TablesCanonical s) :
    TablesCanonical (lateL1 w c tagged core peer va line mask data s) :=
  tables_ite (tables_patchFor _ _ _ _ _ _ _ _ hs) hs

theorem tables_writeL1 {s w core r off scope bytes} (hs : TablesCanonical s) : TablesCanonical (writeL1 s w core r off scope bytes) := by
  unfold writeL1
  extract_lets sa sb r1 mask data pre sc
  have ha : TablesCanonical sa := tables_ite hs (tables_captureL1 hs)
  have hb : TablesCanonical sb := tables_ite ha (tables_captureL1 ha)
  have hc : TablesCanonical sc := tables_setL1 hb
  exact tables_lateL1 (tables_lateL1 hc)

theorem tables_dropL2 {s peer line} (hs : TablesCanonical s) : TablesCanonical (dropL2 s peer line) := hs

theorem tables_passBy {core line s} (hs : TablesCanonical s) : TablesCanonical (passBy core line s) := by
  unfold passBy
  extract_lets t
  have h1 : TablesCanonical t := tables_flushL1 hs
  clear_value t
  split
  · exact tables_ite (tables_dropL2 h1) (tables_setL2 _ _ h1)
  · exact h1

theorem tables_releaseNote {s core p} (hs : TablesCanonical s) : TablesCanonical (releaseNote s core p) := by
  unfold releaseNote
  split
  · exact tables_setDir hs
  · exact tables_sendPkt hs
  · exact hs

theorem tables_writePlace {s w core tag scope p bytes r} (hs : TablesCanonical s) (hr : writePlace s w core tag scope p bytes = r) :
    TablesCanonical (wtState r) := by
  subst hr
  unfold writePlace
  split
  · split
    · exact tables_writeScr hs
    · exact hs
  · exact tables_writeDie hs
  · dsimp only
    split
    · exact tables_homeAsk hs
    · split
      · split
        · rename_i hx; exact tables_writeL1 (tables_l1Filled hs hx)
        · exact hs
      · split
        · exact hs
        · dsimp only [wtState]
          exact tables_freshenL1 (tables_writeLine _ _ _ _ _ _ (tables_settleOwn hs))
  · extract_lets line mask data s1 owned s2
    have h1 : TablesCanonical s1 := tables_settleOwn hs
    have h2 : TablesCanonical s2 := tables_lateL2 (tables_lateL2 (tables_passBy h1))
    clear_value s1 s2 owned
    split
    · split
      · rename_i hx; exact tables_writeL1 (tables_l1Filled hs hx)
      · exact tables_askRead hs
    · split
      · exact hs
      · split
        · dsimp only [wtState]
          refine tables_freshenL1 (tables_writePeerLine ?_)
          exact h1
        · split
          · exact h1
          · exact h2
  · split
    · exact hs
    · exact hs

theorem tables_readyIf {c : Prop} [Decidable c] {s o ls sc} (hs : TablesCanonical s) :
    TablesCanonical (if c then releaseReady s o ls sc else (true, s)).2 := by
  split
  · exact tables_releaseReady hs
  · exact hs

theorem tables_writePiece {id scope rel s i} (hs : TablesCanonical s) : TablesCanonical (writePiece id scope rel s i) := by
  unfold writePiece
  split
  · exact hs
  · split
    · exact hs
    · extract_lets ls r
      have h1 : TablesCanonical r.2 := tables_readyIf hs
      refine tables_ite hs (tables_ite h1 ?_)
      split
      · rename_i t hw
        have h2 : TablesCanonical t := tables_writePlace h1 hw
        exact tables_setPiece (tables_ite (tables_releaseNote (tables_eccAccess (tables_countL1 h2))) (tables_eccAccess (tables_countL1 h2)))
      · rename_i t hw
        have h2 : TablesCanonical t := tables_writePlace h1 hw
        exact tables_setPiece (tables_ite (tables_countL1 h2) h2)
      · rename_i hw; exact tables_writePlace h1 hw

theorem tables_storeEvent {id ps s} (hs : TablesCanonical s) : TablesCanonical (storeEvent id ps s) := by
  unfold storeEvent
  split
  · split
    · exact tables_endIfDone (tables_foldl (fun _ _ h1 => tables_writePiece h1) hs)
    · exact tables_endIfDone (tables_foldl (fun _ _ h1 => tables_writePiece h1) hs)
    · exact hs
  · exact hs

theorem tables_writeOlds {g d wide x s} (hs : TablesCanonical s) : TablesCanonical (writeOlds g d wide x s) :=
  tables_foldl (fun _ _ h1 => tables_ite (tables_putV (tables_putV h1)) (tables_putV h1)) hs

theorem tables_finishAtom {id s} (hs : TablesCanonical s) : TablesCanonical (finishAtom id s) := by
  unfold finishAtom
  split
  · exact hs
  · split
    · refine tables_ite ?_ hs
      extract_lets s1
      have h1 : TablesCanonical s1 := by
        dsimp only [s1]
        split
        · exact tables_foldl (fun _ _ h => tables_writeOlds h) hs
        · exact hs
      exact tables_endOp (tables_recordLate h1)
    · exact hs

theorem tables_setGroup {s id i x} (hs : TablesCanonical s) : TablesCanonical (setGroup s id i x) := tables_modOp hs

theorem tables_sendOpnds {s dst ga tag aop wide opnds} (hs : TablesCanonical s) : TablesCanonical (sendOpnds s dst ga tag aop wide opnds) :=
  tables_foldl (fun _ _ h1 => tables_sendPkt h1) hs

theorem tables_sendAtomic {s o i aop wide ga x} (hs : TablesCanonical s) : TablesCanonical (sendAtomic s o i aop wide ga x) :=
  tables_ite (tables_settleOwn hs) (tables_setGroup (tables_sendOpnds (tables_passBy (tables_settleOwn hs))))

theorem tables_askLine {s line core} (hs : TablesCanonical s) : TablesCanonical (askLine s line core) := tables_ite (tables_askOwn hs) (tables_askRead hs)

theorem tables_awaitLines {s ls} (hs : TablesCanonical s) : TablesCanonical (awaitLines s ls) :=
  tables_foldl (fun _ _ h1 => tables_ite (tables_askLine h1) (tables_homeAsk h1)) hs

theorem tables_groupRead {id ls s} (hs : TablesCanonical s) : TablesCanonical (groupRead id ls s) := tables_foldl (fun _ _ h1 => tables_acquireRead h1) hs

theorem tables_performGroup {id s i} (hs : TablesCanonical s) : TablesCanonical (performGroup id s i) := by
  unfold performGroup
  split
  · exact hs
  · split
    · split
      · exact hs
      · extract_lets n promoted r
        have h1 : TablesCanonical r.2 := tables_readyIf hs
        refine tables_ite hs (tables_ite ?_ (tables_ite h1 ?_))
        · split
          · exact tables_ite (tables_askPromotion hs) hs
          · exact hs
        · split
          · exact h1
          · refine tables_ite ?_ ?_
            · split
              · exact tables_ite (tables_countL1 (tables_sendAtomic h1)) (tables_awaitLines h1)
              · exact h1
            · split
              · rename_i t hr
                have h2 : TablesCanonical t := tables_readPlace h1 hr
                dsimp only
                split
                · rename_i u hw
                  have h3 : TablesCanonical u := tables_writePlace h2 hw
                  refine tables_groupRead (tables_setGroup (tables_ite (tables_releaseNote ?_) ?_))
                  · exact tables_eccAccess (tables_countL1 h3)
                  · exact tables_eccAccess (tables_countL1 h3)
                · rename_i hw; exact tables_writePlace h2 hw
                · rename_i hw; exact tables_writePlace h2 hw
              · rename_i t hr
                have h2 : TablesCanonical t := tables_readPlace h1 hr
                exact tables_setGroup h2
              · rename_i hr; exact tables_readPlace h1 hr
    · exact hs

theorem tables_atomEvent {id ps s} (hs : TablesCanonical s) : TablesCanonical (atomEvent id ps s) := by
  unfold atomEvent
  split
  · split
    · exact tables_finishAtom (tables_foldl (fun _ _ h1 => tables_performGroup h1) hs)
    · exact hs
  · exact hs

theorem tables_fenceDone {s o scope pd lost} (hs : TablesCanonical s) : TablesCanonical (fenceDone s o scope pd lost) := by
  unfold fenceDone
  extract_lets s1 s2
  have h1 : TablesCanonical s1 := tables_ite hs (tables_foldl (fun _ _ h => tables_modGang h) hs)
  exact tables_endOp (tables_ite (tables_modGang h1) h1)

theorem tables_fenceEvent {id s} (hs : TablesCanonical s) : TablesCanonical (fenceEvent id s) := by
  unfold fenceEvent
  split
  · exact hs
  · split
    · refine tables_ite hs (tables_ite (tables_fenceDone hs) ?_)
      exact tables_ite (tables_fenceDone (tables_acquireL1 (tables_releaseReady hs))) (tables_releaseReady hs)
    · exact hs

theorem tables_postLost {o s} (hs : TablesCanonical s) : TablesCanonical (postLost o s) := by
  unfold postLost
  split
  · refine tables_foldl (fun s x h1 => ?_) hs
    split
    · exact tables_ite (tables_writePeerLine h1) h1
    · exact h1
  · exact hs

theorem tables_dropLost {s0 o} (hs : TablesCanonical s0) : TablesCanonical (dropLost s0 o) := tables_groupRead (tables_modOp (tables_postLost hs))

theorem tables_boundRelease {scope ord o s} (hs : TablesCanonical s) : TablesCanonical (boundRelease scope ord o s) :=
  tables_ite hs (tables_ite (tables_writeBackBelow hs) (tables_modOp (tables_writeBackBelow hs)))

theorem tables_askLines {s core missing held} (hs : TablesCanonical s) : TablesCanonical (askLines s core missing held) :=
  tables_foldl (fun _ _ h1 => tables_homeAsk h1) (tables_foldl (fun _ _ h1 => tables_askLine h1) hs)

theorem tables_barUnref {s h} (hs : TablesCanonical s) : TablesCanonical (barUnref s h) := by
  unfold barUnref
  split
  · exact tables_ite hs hs
  · exact hs

theorem tables_barStore {s b} (hs : TablesCanonical s) : TablesCanonical (barStore s b) :=
  tables_ite (tables_ite (tables_modCtx hs) hs) (tables_ite (tables_modCtx hs) hs)

theorem tables_barBytes {s h n} (hs : TablesCanonical s) : TablesCanonical (barBytes s h n) := by
  unfold barBytes
  split
  · exact tables_barStore hs
  · exact hs

theorem tables_cpyTell {o size h slot n s} (hs : TablesCanonical s) : TablesCanonical (cpyTell o size h slot n s) := by
  unfold cpyTell
  split
  · exact tables_setRing hs
  · split
    · exact hs
    · split
      · exact tables_barUnref (tables_barBytes (tables_writeBackBelow hs))
      · exact hs

theorem tables_writePeerBytes {w ga va bytes s} (hs : TablesCanonical s) : TablesCanonical (writePeerBytes w ga va bytes s) :=
  tables_ite hs (tables_foldl (fun _ _ h1 => tables_writePeerLine h1) hs)

theorem tables_poisonByte {p s i} (hs : TablesCanonical s) : TablesCanonical (poisonByte p s i) := by
  unfold poisonByte
  dsimp only
  split
  · exact hs
  · split
    · exact tables_setL2 _ _ hs
    · exact hs
  · split
    · split
      · exact hs
      · exact hs
    · exact hs
  · split
    · exact hs
    · exact hs
  · exact hs

theorem tables_engineWrite {w core p bytes psn s} (hs : TablesCanonical s) : TablesCanonical (engineWrite w core p bytes psn s) := by
  unfold engineWrite
  extract_lets s1 s2
  have h1 : TablesCanonical s1 := tables_settleL1 hs
  clear_value s1
  have h2 : TablesCanonical s2 := by
    dsimp only [s2]
    split
    · exact tables_writePhys _ _ _ _ _ h1
    · exact tables_writePeerBytes h1
    · split
      · exact tables_writeScr h1
      · exact h1
    · exact tables_writeDie h1
    · exact h1
  exact tables_foldl (fun _ _ h3 => tables_poisonByte h3) h2

theorem tables_cpyMove {o size lanes s} (hs : TablesCanonical s) : TablesCanonical (cpyMove o size lanes s) :=
  tables_foldl (fun _ _ h1 => tables_engineWrite h1) hs

theorem tables_cpyEvent {id s} (hs : TablesCanonical s) : TablesCanonical (cpyEvent id s) := by
  unfold cpyEvent
  split
  · exact hs
  · split
    · exact tables_ite (tables_endOp hs) (tables_ite hs (tables_ite (tables_askLines hs) (tables_ite hs (tables_endOp (tables_cpyTell (tables_cpyMove
          (tables_eccPlaces hs)))))))
    · exact hs

theorem tables_lostBound {id s} (hs : TablesCanonical s) : TablesCanonical (lostBound id s) := by
  unfold lostBound
  split
  · exact hs
  · split
    · exact tables_fenceEvent (tables_modOp (tables_ite hs (tables_writeBackBelow hs)))
    · exact tables_finishLoad (tables_dropLost hs)
    · exact tables_endIfDone (tables_boundRelease (tables_dropLost hs))
    · exact tables_finishAtom (tables_boundRelease (tables_dropLost hs))
    · exact tables_endIfDone (tables_dropLost hs)
    · exact tables_endIfDone (tables_dropLost hs)
    · exact tables_cpyEvent (tables_modOp hs)
    · exact tables_modOp hs
    · exact tables_modOp hs
    · exact tables_modOp hs
    · exact tables_modOp hs
    · exact hs

theorem tables_writeBackPeer {tag r s} (hs : TablesCanonical s) : TablesCanonical (writeBackPeer tag r s) := by
  unfold writeBackPeer
  extract_lets s1 s2
  have h1 : TablesCanonical s1 := tables_captureL2 (tables_captureL2 hs)
  clear_value s1
  refine tables_setL2 _ _ ?_
  exact h1

theorem tables_clinePiece {id which s i} (hs : TablesCanonical s) : TablesCanonical (clinePiece id which s i) := by
  unfold clinePiece
  split
  · exact hs
  · split
    · exact hs
    · split
      · exact hs
      · extract_lets s1
        have h1 : TablesCanonical s1 := tables_settleL1 hs
        clear_value s1
        split
        · exact tables_setPiece (tables_l2ToMem _ _ h1)
        · split
          · exact tables_ite (tables_setPiece h1) (tables_ite h1 (tables_setPiece (tables_writeBackPeer h1)))
          · exact tables_setPiece h1
        · exact tables_setPiece h1

theorem tables_clineEvent {id s} (hs : TablesCanonical s) : TablesCanonical (clineEvent id s) := by
  unfold clineEvent
  split
  · split
    · exact tables_endIfDone (tables_foldl (fun _ _ h1 => tables_clinePiece h1) hs)
    · exact hs
  · exact hs

end Sys2Proof.Machine
end

section
/-! PROOFS. Every step keeps the tables canonical (R189, R114).
Buffers, banks, arrays, barriers and rings (R235 to R249, R265 to R267, R294 to R296). -/

namespace Sys2Proof.Machine

theorem tables_grantK {s gid k v} (hs : TablesCanonical s) : TablesCanonical (grantK s gid k v) := tables_modGang hs

theorem tables_grantObres {s g kd q0 q1 wb} (hs : TablesCanonical s) : TablesCanonical (grantObres s g kd q0 q1 wb) := by
  unfold grantObres
  dsimp only
  split
  · exact tables_grantK (tables_foldl (fun _ _ h1 => tables_zeroUnit _ _ _ _ h1) hs)
  · exact hs

theorem tables_obresGrantEvent {gid s} (hs : TablesCanonical s) : TablesCanonical (obresGrantEvent gid s) := by
  unfold obresGrantEvent
  split
  · split
    · exact tables_ite (tables_grantObres hs) hs
    · exact hs
  · exact hs

theorem tables_engineAsk {s o write} (hs : TablesCanonical s) : TablesCanonical (engineAsk s o write) := tables_askLines hs

theorem tables_runEngine {s o write f} (hs : TablesCanonical s) (hff : ∀ y0, TablesCanonical y0 → TablesCanonical (f y0)) :
    TablesCanonical (runEngine s o write f) :=
  tables_ite hs (tables_ite (hff _ (tables_eccPlaces hs)) (tables_engineAsk hs))

theorem tables_setFlagsNow {s gid f} (hs : TablesCanonical s) : TablesCanonical (setFlagsNow s gid f) := tables_modGang hs

theorem tables_performObld {o s} (hs : TablesCanonical s) : TablesCanonical (performObld o s) := by
  unfold performObld
  split
  · split
    · exact tables_endOp (tables_writeRec _ _ _ _ _ hs)
    · exact tables_endOp hs
  · split
    · exact tables_endOp (tables_writeRec _ _ _ _ _ hs)
    · exact tables_endOp hs
  · split
    · exact tables_ite (tables_endOp (tables_setFlagsNow (tables_writeRec _ _ _ _ _ hs))) (tables_endOp (tables_writeRec _ _ _ _ _ hs))
    · exact tables_endOp hs
  · exact hs

theorem tables_obldEvent {id s} (hs : TablesCanonical s) : TablesCanonical (obldEvent id s) := by
  unfold obldEvent
  split
  · exact tables_ite (tables_runEngine hs (fun _ h1 => tables_performObld h1)) hs
  · exact hs

theorem tables_raiseWeight {s o off} (hs : TablesCanonical s) : TablesCanonical (raiseWeight s o off) := by
  unfold raiseWeight
  split
  · exact hs
  · exact tables_ite (tables_stopLaunch hs) (tables_ite (tables_stopLaunch hs) hs)

theorem tables_performWbld {o h count hdr s} (hs : TablesCanonical s) : TablesCanonical (performWbld o h count hdr s) := by
  unfold performWbld
  split
  · exact tables_endOp hs
  · rename_i r _
    extract_lets e bs bad s1 s2 s3
    have h1 : TablesCanonical s1 := tables_writeRec s r 0 bs _ hs
    have h3 : TablesCanonical s3 := tables_endOp (s := s2) h1
    clear_value s3 bad
    split
    · exact tables_raiseWeight h3
    · exact h3

theorem tables_wbldEvent {id s} (hs : TablesCanonical s) : TablesCanonical (wbldEvent id s) := by
  unfold wbldEvent
  split
  · split
    · split
      · exact tables_runEngine hs (fun _ h1 => tables_performWbld h1)
      · exact tables_awaitLines hs
    · exact hs
  · exact hs

theorem tables_weightEvent {gid s} (hs : TablesCanonical s) : TablesCanonical (weightEvent gid s) := by
  unfold weightEvent
  split
  · split
    · exact hs
    · split
      · split
        · exact tables_takeWeight hs
        · exact tables_awaitLines hs
      · exact hs
  · exact hs

theorem tables_claimBank {g s b} (hs : TablesCanonical s) : TablesCanonical (claimBank g s b) :=
  (tables_zeroTile _ g.core b 1 (tables_zeroTile s g.core b 0 hs)).congr rfl rfl rfl rfl rfl rfl rfl

theorem tables_acallocEvent {gid s} (hs : TablesCanonical s) : TablesCanonical (acallocEvent gid s) := by
  unfold acallocEvent
  split
  · split
    · exact tables_ite (tables_grantK (tables_foldl (fun _ _ h1 => tables_claimBank h1) hs)) hs
    · exact hs
  · exact hs

theorem tables_acfreeEvent {gid s} (hs : TablesCanonical s) : TablesCanonical (acfreeEvent gid s) := by
  unfold acfreeEvent
  split
  · split
    · exact tables_ite hs (tables_unblock hs)
    · exact hs
  · exact hs

theorem tables_mmaWaitEvent {id s} (hs : TablesCanonical s) : TablesCanonical (mmaWaitEvent id s) := by
  unfold mmaWaitEvent
  split
  · split
    · refine tables_ite ?_ hs
      extract_lets s1
      have h1 : TablesCanonical s1 := by
        dsimp only [s1]
        split
        · exact tables_acquireL1 hs
        · exact hs
      exact tables_modOp h1
    · exact hs
  · exact hs

theorem tables_barArrive {s h n} (hs : TablesCanonical s) : TablesCanonical (barArrive s h n) := by
  unfold barArrive
  split
  · exact tables_barStore hs
  · exact hs

theorem tables_mmaArrive {o b s} (hs : TablesCanonical s) : TablesCanonical (mmaArrive o b s) := by
  unfold mmaArrive
  extract_lets s1
  have h1 : TablesCanonical s1 := by
    refine tables_ite ?_ hs
    split
    · rename_i r _
      have h2 : TablesCanonical (writeBackBelow o.core r.scope s) := tables_writeBackBelow hs
      exact tables_barUnref (tables_ite (tables_barBytes h2) (tables_barArrive h2))
    · exact hs
  exact tables_ite (tables_barUnref h1) h1

theorem tables_performMma {s o b} (hs : TablesCanonical s) : TablesCanonical (performMma s o b) := by
  unfold performMma
  split
  · split
    · exact tables_modGang (tables_setFlagsNow (tables_writeTile _ _ _ _ _ _ hs))
    · exact hs
  · exact hs

theorem tables_mmaEvent {id s} (hs : TablesCanonical s) : TablesCanonical (mmaEvent id s) := by
  unfold mmaEvent
  split
  · split
    · exact tables_ite (tables_endOp (tables_mmaArrive (tables_performMma hs))) hs
    · exact hs
  · exact hs

theorem tables_tileToRegs {o g bank half d rowa c cola s} (hs : TablesCanonical s) : TablesCanonical (tileToRegs o g bank half d rowa c cola s) :=
  tables_foldl (fun _ _ h1 => tables_foldl (fun _ _ h2 => tables_putV h2) h1) hs

theorem tables_tileToMem {o img psn s} (hs : TablesCanonical s) : TablesCanonical (tileToMem o img psn s) :=
  tables_foldl (fun _ _ h1 => tables_engineWrite h1) hs

theorem tables_performAcmov {o aop bank half clr d rowa c cola s} (hs : TablesCanonical s) :
    TablesCanonical (performAcmov o aop bank half clr d rowa c cola s) := by
  unfold performAcmov
  dsimp only
  split
  · exact tables_endOp (tables_writeTile _ _ _ _ _ _ hs)
  · split
    · exact tables_endOp (tables_ite (tables_zeroTile _ _ _ _ (tables_tileToRegs hs)) (tables_tileToRegs hs))
    · exact tables_endOp (tables_ite (tables_zeroTile _ _ _ _ hs) hs)
  · exact tables_endOp (tables_ite (tables_zeroTile _ _ _ _ (tables_tileToMem hs)) (tables_tileToMem hs))

theorem tables_acmovEvent {id s} (hs : TablesCanonical s) : TablesCanonical (acmovEvent id s) := by
  unfold acmovEvent
  split
  · split
    · exact tables_runEngine hs (fun _ h1 => tables_performAcmov h1)
    · exact hs
  · exact hs

theorem tables_setTwin {s gid win} (hs : TablesCanonical s) : TablesCanonical (setTwin s gid win) := tables_modGang hs

theorem tables_twsetEvent {gid s} (hs : TablesCanonical s) : TablesCanonical (twsetEvent gid s) := by
  unfold twsetEvent
  split
  · split
    · exact tables_ite (tables_setTwin (tables_unblock hs)) hs
    · exact hs
  · exact hs

theorem tables_performTldw {o s} (hs : TablesCanonical s) : TablesCanonical (performTldw o s) := tables_endOp hs

theorem tables_tldwEvent {id s} (hs : TablesCanonical s) : TablesCanonical (tldwEvent id s) := by
  unfold tldwEvent
  split
  · split
    · exact tables_runEngine hs (fun _ h1 => tables_performTldw h1)
    · exact hs
  · exact hs

theorem tables_tlnchEvent {id s} (hs : TablesCanonical s) : TablesCanonical (tlnchEvent id s) := by
  unfold tlnchEvent
  split
  · split
    · exact tables_ite (tables_endOp hs) hs
    · exact hs
  · exact hs

theorem tables_tcaptEvent {id s} (hs : TablesCanonical s) : TablesCanonical (tcaptEvent id s) := by
  unfold tcaptEvent
  split
  · split
    · split
      · split
        · exact tables_endOp (tables_foldl (fun _ _ h1 => tables_putV h1) hs)
        · exact tables_endOp hs
      · exact hs
    · exact hs
  · exact hs

theorem tables_trstEvent {id s} (hs : TablesCanonical s) : TablesCanonical (trstEvent id s) := by
  unfold trstEvent
  split
  · split
    · exact tables_ite (tables_endOp hs) hs
    · exact hs
  · exact hs

theorem tables_ballocEvent {id s} (hs : TablesCanonical s) : TablesCanonical (ballocEvent id s) := by
  unfold ballocEvent
  split
  · split
    · dsimp only
      split
      · exact tables_endOp (tables_setPreds (tables_modGang hs))
      · exact tables_endOp (tables_setPreds (tables_modGang hs))
    · exact hs
  · exact hs

theorem tables_bfreeEvent {id s} (hs : TablesCanonical s) : TablesCanonical (bfreeEvent id s) := by
  unfold bfreeEvent
  split
  · split
    · exact tables_ite (tables_endOp (tables_barUnref hs)) hs
    · exact hs
  · exact hs

theorem tables_barvChange {s b mode tx kb} (hs : TablesCanonical s) : TablesCanonical (barvChange s b mode tx kb) := by
  unfold barvChange
  dsimp only
  split
  · exact tables_barStore hs
  · exact tables_barStore hs
  · exact tables_ite (tables_modCtx hs) (tables_barStore hs)

theorem tables_barvEvent {id s} (hs : TablesCanonical s) : TablesCanonical (barvEvent id s) := by
  unfold barvEvent
  split
  · split
    · split
      · exact tables_ite (tables_endOp (tables_barvChange (tables_releaseReady hs))) (tables_releaseReady hs)
      · exact tables_endOp hs
    · exact hs
  · exact hs

theorem tables_bwaitEvent {gid s} (hs : TablesCanonical s) : TablesCanonical (bwaitEvent gid s) := by
  unfold bwaitEvent
  split
  · split
    · exact tables_bwaitEnd (tables_unblock hs)
    · exact hs
  · exact hs

theorem tables_ringGrantEvent {gid s} (hs : TablesCanonical s) : TablesCanonical (ringGrantEvent gid s) := by
  unfold ringGrantEvent
  split
  · split
    · split
      · exact tables_ite (tables_modGang (tables_setRing hs)) hs
      · exact hs
    · exact hs
  · exact hs

theorem tables_dropRing {s r} (hs : TablesCanonical s) : TablesCanonical (dropRing s r) := tables_setRing hs

theorem tables_ringRelEvent {gid s} (hs : TablesCanonical s) : TablesCanonical (ringRelEvent gid s) := by
  unfold ringRelEvent
  split
  · split
    · split
      · exact tables_ite hs (tables_unblock (tables_dropRing hs))
      · exact tables_unblock hs
    · exact hs
  · exact hs

theorem tables_rawaitEvent {gid s} (hs : TablesCanonical s) : TablesCanonical (rawaitEvent gid s) := by
  unfold rawaitEvent
  split
  · split
    · split
      · exact tables_ite (tables_acquireL1 (tables_modGang (tables_setRing hs))) hs
      · exact hs
    · exact hs
  · exact hs

theorem tables_rrelEvent {id s} (hs : TablesCanonical s) : TablesCanonical (rrelEvent id s) := by
  unfold rrelEvent
  split
  · split
    · extract_lets t
      have h1 : TablesCanonical t.2 := tables_releaseReady hs
      refine tables_ite h1 ?_
      split
      · exact tables_endOp (tables_setRing h1)
      · exact tables_endOp h1
    · exact hs
  · exact hs

end Sys2Proof.Machine
end

section
/-! PROOFS. Every step keeps the tables canonical (R189, R114).
Snapshot words, start-up, contexts and queues (R338 to R340, R354 to R363). -/

namespace Sys2Proof.Machine

theorem tables_snapDone {s o kd pd ans} (hs : TablesCanonical s) : TablesCanonical (snapDone s o kd pd ans) :=
  tables_endOp (tables_setPreds (tables_modGang hs))

theorem tables_snapEvent {id s} (hs : TablesCanonical s) : TablesCanonical (snapEvent id s) := by
  unfold snapEvent
  split
  · split
    · exact tables_snapDone hs
    · exact hs
  · exact hs

theorem tables_snapqEvent {id s} (hs : TablesCanonical s) : TablesCanonical (snapqEvent id s) := by
  unfold snapqEvent
  split
  · split
    · exact tables_endOp (tables_setPreds (tables_modGang hs))
    · exact tables_endOp hs
    · exact hs
  · exact hs

theorem tables_afterSupply {s on} (hs : TablesCanonical s) : TablesCanonical (afterSupply s on) :=
  tables_reset.withMem _ (Sparse.okFrom_filter _ _ _ _ hs.1)

theorem tables_tellHost {s m} (hs : TablesCanonical s) : TablesCanonical (tellHost s m) := hs

theorem tables_bootUp {f s0} (hs : TablesCanonical s0) : TablesCanonical (bootUp f s0) := by
  have h1 : TablesCanonical (afterSupply s0 true) := tables_afterSupply hs
  exact tables_ite h1 h1

theorem tables_askedBy {may fn what f s} (hs : TablesCanonical s) (hff : ∀ y0, TablesCanonical y0 → TablesCanonical (f y0)) :
    TablesCanonical (askedBy may fn what f s) :=
  tables_ite hs (tables_ite (hff _ hs) (tables_tellHost hs))

theorem tables_withLines {gs f s} (hs : TablesCanonical s) (hff : ∀ y0, TablesCanonical y0 → TablesCanonical (f y0)) :
    TablesCanonical (withLines gs f s) :=
  tables_ite (hff _ hs) (tables_awaitLines hs)

theorem tables_zeroPage {s ctx va frame size} (hs : TablesCanonical s) : TablesCanonical (zeroPage s ctx va frame size) :=
  tables_foldl (fun _ _ h1 => tables_putPteBit _ _ _ _ h1) hs

theorem tables_capturePage {s frame size} (hs : TablesCanonical s) : TablesCanonical (capturePage s frame size) :=
  tables_foldl (fun _ _ h1 => tables_captureL1 (tables_captureL1 h1)) (tables_foldl (fun _ _ h1 => tables_captureLineFor _ _ _ _ (tables_captureLineFor _ _
    _ _ h1)) hs)

theorem tables_changePage {ctx va frame size s} (hs : TablesCanonical s) : TablesCanonical (changePage ctx va frame size s) := by
  refine tables_ite hs (tables_withLines hs (fun s1 h1 => ?_))
  have h2 : TablesCanonical (zeroPage (capturePage s1 frame size) ctx va frame size) := tables_zeroPage (tables_capturePage h1)
  exact h2

theorem tables_captureAll {u s} (hs : TablesCanonical s) : TablesCanonical (captureAll u s) := tables_captureUnit _ _ _ hs

theorem tables_setWindow {s ctx die w} (hs : TablesCanonical s) : TablesCanonical (setWindow s ctx die w) := tables_modCtx hs

theorem tables_joinWindow {die idx ctx s} (hs : TablesCanonical s) : TablesCanonical (joinWindow die idx ctx s) :=
  tables_ite hs (tables_ite hs (tables_setWindow hs))

theorem tables_leaveWindow {die idx s} (hs : TablesCanonical s) : TablesCanonical (leaveWindow die idx s) := by
  unfold leaveWindow
  split
  · exact tables_setWindow hs
  · exact hs

theorem tables_changeRange {die idx ctx s} (hs : TablesCanonical s) : TablesCanonical (changeRange die idx ctx s) := by
  unfold changeRange
  refine tables_ite hs ?_
  have h1 := tables_joinWindow (die := die) (idx := idx) (ctx := ctx) (tables_leaveWindow (die := die) (idx := idx)
    (tables_captureAll (u := .range die idx) hs))
  exact h1.withDsc _ (Sparse.wf_clear _ _ _ _ h1.2.2.1)

theorem tables_ownerChange {u ctx s} (hs : TablesCanonical s) : TablesCanonical (ownerChange u ctx s) := by
  unfold ownerChange
  split
  · exact tables_changePage hs
  · exact tables_ite (tables_zeroBank _ _ _ (tables_captureAll hs)) hs
  · exact tables_changeRange hs
  · exact tables_ite (tables_zeroSlice _ _ _ _ (tables_captureAll hs)) hs
  · exact tables_ite (tables_zeroUnit _ _ _ _ hs) hs
  · exact tables_ite (tables_zeroUnit _ _ _ _ hs) hs
  · exact tables_ite (hs.withAcc _ (Sparse.wf_clear _ _ _ _ hs.2.2.2.2.2.1)) hs

theorem tables_createCtx {fn c s0} (hs : TablesCanonical s0) : TablesCanonical (createCtx fn c s0) :=
  tables_askedBy hs (fun _ h1 => tables_foldl (fun _ _ h2 => tables_ownerChange h2) h1)

theorem tables_dropSaves {s0 p} (hs : TablesCanonical s0) : TablesCanonical (dropSaves s0 p) :=
  tables_foldl (fun _ _ h1 => tables_foldl (fun _ _ h2 => tables_captureAll h2) h1) hs

theorem tables_removeCtx {fn ctx s0} (hs : TablesCanonical s0) : TablesCanonical (removeCtx fn ctx s0) :=
  tables_askedBy hs (fun _ h1 => tables_dropSaves (tables_foldl (fun _ _ h2 => h2) (tables_foldl (fun _ _ h2 => tables_captureAll h2) h1)))

theorem tables_ctxWrite {s ctx va bytes t} (hs : TablesCanonical s) (ht : ctxWrite s ctx va bytes = some t) : TablesCanonical t := by
  unfold ctxWrite at ht
  dsimp only at ht
  split at ht
  · cases ht
  · refine foldl_keeps (fun r : Option State => ∀ u, r = some u → TablesCanonical u) _ (fun r e hr u hu => ?_) _ _ (fun u hu => ?_) t ht
    · split at hu
      · cases hu
      · have h1 := hr _ rfl
        split at hu
        · cases hu; exact tables_writePhys _ _ _ _ _ (tables_firstOwner h1)
        · cases hu; exact tables_writePeerBytes h1
        · cases hu
    · cases hu; exact hs

theorem tables_clearHeader {s ctx base} (hs : TablesCanonical s) : TablesCanonical (clearHeader s ctx base) := by
  unfold clearHeader
  split
  · rename_i ht
    have h1 := tables_ctxWrite hs ht
    split
    · rename_i hu; exact tables_ctxWrite h1 hu
    · exact h1
  · exact hs

theorem tables_createQueueEvent {fn q s} (hs : TablesCanonical s) : TablesCanonical (createQueueEvent fn q s) :=
  tables_ite (tables_withLines hs (fun _ h1 => tables_ite (tables_clearHeader h1) h1)) (tables_tellHost hs)

theorem tables_setQueue {s q} (hs : TablesCanonical s) : TablesCanonical (setQueue s q) := hs

theorem tables_switchQueue {fn vf num on s} (hs : TablesCanonical s) : TablesCanonical (switchQueue fn vf num on s) := by
  unfold switchQueue
  split
  · exact tables_tellHost hs
  · split
    · exact tables_setQueue hs
    · exact tables_tellHost hs

end Sys2Proof.Machine
end

section
/-! PROOFS. Every step keeps the tables canonical (R189, R114).
Colours that end, packages that are lost, and the host's functions (R208, R301, R354 to R357). -/

namespace Sys2Proof.Machine

theorem tables_clearColour {c s} (hs : TablesCanonical s) : TablesCanonical (clearColour c s) :=
  tables_foldl (fun _ _ h1 => tables_putPteBit _ _ _ _ h1) hs

theorem tables_abortLocal {c s} (hs : TablesCanonical s) : TablesCanonical (abortLocal c s) := tables_ite (tables_modCol (tables_clearColour hs)) hs

theorem tables_tellAbort {c s} (hs : TablesCanonical s) : TablesCanonical (tellAbort c s) :=
  tables_foldl (fun _ _ h1 => tables_sendCoord h1) (tables_abortLocal hs)

theorem tables_sendFree {c s} (hs : TablesCanonical s) : TablesCanonical (sendFree c s) := tables_foldl (fun _ _ h1 => tables_sendCoord h1) hs

theorem tables_freeAborted {c s} (hs : TablesCanonical s) : TablesCanonical (freeAborted c s) := tables_ite (tables_sendFree hs) hs

theorem tables_abortGroup {c s} (hs : TablesCanonical s) : TablesCanonical (abortGroup c s) :=
  tables_ite hs (tables_ite (tables_freeAborted (tables_tellAbort hs)) (tables_sendCoord (tables_tellAbort hs)))

theorem tables_freeCheck {c s} (hs : TablesCanonical s) : TablesCanonical (freeCheck c s) :=
  tables_ite hs (tables_ite (tables_ite (tables_sendFree (tables_modCol hs)) (tables_ite (tables_freeAborted (tables_tellAbort hs)) hs))
    (tables_freeAborted hs))

theorem tables_abortHere {c s} (hs : TablesCanonical s) : TablesCanonical (abortHere c s) :=
  tables_ite (tables_ite (tables_freeCheck (tables_abortLocal hs)) (tables_sendCoord (tables_abortLocal hs))) (tables_abortLocal hs)

theorem tables_memberFailed {lid led c s} (hs : TablesCanonical s) : TablesCanonical (memberFailed lid led c s) :=
  tables_ite hs (tables_ite (tables_ite (tables_abortGroup hs) hs) (tables_abortHere hs))

theorem tables_lineCome {page s} (hs : TablesCanonical s) : TablesCanonical (lineCome page s) := hs

theorem tables_wakeLines {ls s} (hs : TablesCanonical s) : TablesCanonical (wakeLines ls s) := tables_foldl (fun _ _ h1 => tables_lineCome h1) hs

theorem tables_commitCheck {c s} (hs : TablesCanonical s) : TablesCanonical (commitCheck c s) :=
  tables_ite (tables_foldl (fun _ _ h1 => tables_sendCoord h1) hs) hs

theorem tables_ackFrom {c m s} (hs : TablesCanonical s) : TablesCanonical (ackFrom c m s) := tables_commitCheck (tables_modCol hs)

theorem tables_ackFree {c s} (hs : TablesCanonical s) : TablesCanonical (ackFree c s) := tables_ite (tables_ackFrom hs) (tables_sendCoord hs)

theorem tables_reportFrom {c m digest durable s} (hs : TablesCanonical s) : TablesCanonical (reportFrom c m digest durable s) :=
  tables_freeCheck (tables_modCol hs)

theorem tables_reportHere {c durable s} (hs : TablesCanonical s) : TablesCanonical (reportHere c durable s) :=
  tables_ite (tables_reportFrom hs) (tables_sendCoord hs)

theorem tables_memberLost {lid led c s} (hs : TablesCanonical s) : TablesCanonical (memberLost lid led c s) := by
  unfold memberLost
  dsimp only
  split
  · exact hs
  · split
    · exact tables_ite (tables_ackFree (tables_sendFree hs)) (tables_ite (tables_reportHere hs) (tables_commitCheck (tables_freeCheck hs)))
    · split
      · exact hs
      · split
        · exact tables_reportHere hs
        · exact tables_sendCoord hs
        · exact tables_sendCoord hs
        · exact hs

theorem tables_askSuccessor {c s} (hs : TablesCanonical s) : TablesCanonical (askSuccessor c s) :=
  tables_foldl (fun _ _ h1 => tables_ite h1 (tables_askState h1)) hs

theorem tables_nowLost {lid s t} (ht : TablesCanonical t) : TablesCanonical (nowLost lid s t) := by
  unfold nowLost
  extract_lets _ s1 heard
  have h1 : TablesCanonical s1 := tables_wakeLines (tables_foldl (fun _ _ h => tables_setDir h) ht)
  have hheard : ∀ c s2, TablesCanonical s2 → TablesCanonical (heard c s2) := by
    intro c s2 h2
    unfold heard
    exact tables_ite (tables_askSuccessor (tables_memberLost h2)) (tables_memberLost h2)
  clear_value s1 heard
  exact tables_ite ht (hheard _ _ (hheard _ _ (tables_tellHost h1)))

theorem tables_nowFailed {lid s t} (hs : TablesCanonical t) : TablesCanonical (nowFailed lid s t) :=
  tables_nowLost (tables_memberFailed (tables_memberFailed hs))

theorem tables_podEvent {fn entries self a} (hs : TablesCanonical a) : TablesCanonical (podEvent fn entries self a) := by
  unfold podEvent
  refine tables_askedBy hs (fun s h => ?_)
  extract_lets s0 me s1 s2
  have h0 : TablesCanonical s0 := tables_foldl (fun _ _ h1 => h1) h
  have h1 : TablesCanonical s1 := tables_ite h0 h0
  exact tables_foldl (fun _ _ h2 => tables_nowFailed h2) h1

theorem tables_firmwareWrite {pa bytes s} (hs : TablesCanonical s) : TablesCanonical (firmwareWrite pa bytes s) := by
  unfold firmwareWrite
  extract_lets inR t
  have h1 : TablesCanonical t := tables_foldl (fun _ _ h => tables_l2ToMem _ _ h) hs
  exact h1.withMem _ (Sparse.wf_write _ _ _ _ h1.1)

theorem tables_groupEvent {fn idx w s0} (hs : TablesCanonical s0) : TablesCanonical (groupEvent fn idx w s0) :=
  tables_askedBy hs (fun _ h1 => tables_firmwareWrite h1)

theorem tables_setGroupEvent {fn ctx group right a} (hs : TablesCanonical a) : TablesCanonical (setGroupEvent fn ctx group right a) :=
  tables_askedBy hs (fun _ h1 => tables_modCtx h1)

theorem tables_policyEvent {fn p vf value a} (hs : TablesCanonical a) : TablesCanonical (policyEvent fn p vf value a) := tables_askedBy hs (fun _ h1 => h1)

theorem tables_sparEvent {fn vf img s0} (hs : TablesCanonical s0) : TablesCanonical (sparEvent fn vf img s0) := tables_askedBy hs (fun _ h1 => h1)

theorem tables_handoverEvent {fn img s0} (hs : TablesCanonical s0) : TablesCanonical (handoverEvent fn img s0) := tables_askedBy hs (fun _ h1 => h1)

theorem tables_reportEvent {fn nonce a} (hs : TablesCanonical a) : TablesCanonical (reportEvent fn nonce a) :=
  tables_askedBy hs (fun _ h1 => tables_ite (tables_tellHost h1) (tables_tellHost h1))

theorem tables_killGang {s0 g0} (hs : TablesCanonical s0) : TablesCanonical (killGang s0 g0) := by
  unfold killGang
  extract_lets gid s s1
  have h1 : TablesCanonical s1 := tables_drain (s := s) hs
  refine tables_ite hs (tables_ite hs ?_)
  split
  · split
    · exact h1
    · exact h1
  · exact h1

theorem tables_killEvent {fn gid s} (hs : TablesCanonical s) : TablesCanonical (killEvent fn gid s) := by
  unfold killEvent
  split
  · exact tables_tellHost hs
  · split
    · exact tables_withLines hs (fun _ h1 => tables_killGang h1)
    · exact hs

theorem tables_killTimeout {gid s} (hs : TablesCanonical s) : TablesCanonical (killTimeout gid s) := tables_modGang hs

theorem tables_watchdogEvent {gid s} (hs : TablesCanonical s) : TablesCanonical (watchdogEvent gid s) := by
  unfold watchdogEvent
  split
  · exact tables_ite (tables_tellHost hs) hs
  · exact hs

theorem tables_hostSnapEvent {fn ctx group id s0} (hs : TablesCanonical s0) : TablesCanonical (hostSnapEvent fn ctx group id s0) :=
  tables_askedBy hs (fun _ h1 => h1)

theorem tables_invalidateEvent {fn ctx page s0} (hs : TablesCanonical s0) : TablesCanonical (invalidateEvent fn ctx page s0) :=
  tables_askedBy hs (fun _ h1 => h1)

theorem tables_invalidated {ctx page s} (hs : TablesCanonical s) : TablesCanonical (invalidated ctx page s) := tables_ite hs hs

end Sys2Proof.Machine
end

section
/-! PROOFS. Every step keeps the tables canonical (R189, R114).
Scans, accepted records, splices and placement (R254 to R262, R275 to R284). -/

namespace Sys2Proof.Machine

theorem tables_stopQueue {s q err} (hs : TablesCanonical s) : TablesCanonical (stopQueue s q err) := by
  unfold stopQueue
  extract_lets s1
  have h1 : TablesCanonical s1 := hs
  refine tables_ite ?_ h1
  cases hw : ctxWrite s1 q.ctx (q.base + 68) (leBytes err 4) with
  | none => exact h1
  | some t => exact tables_ctxWrite h1 hw

theorem tables_noteSeen {s q} (hs : TablesCanonical s) : TablesCanonical (noteSeen s q) := by
  unfold noteSeen
  split
  · exact hs
  · split
    · exact tables_ite (tables_setQueue hs) hs
    · exact hs

theorem tables_scanTail {q t s} (hs : TablesCanonical s) : TablesCanonical (scanTail q t s) := by
  unfold scanTail
  extract_lets q1 stop
  have hstop : ∀ e, TablesCanonical (stop e) :=
    fun _ => tables_withLines hs (fun _ h1 => tables_ite (tables_stopQueue (tables_setQueue h1)) h1)
  clear_value stop
  exact tables_ite (hstop 1) (tables_ite (hstop 2) (tables_ite (tables_setQueue hs)
    (tables_withLines hs (fun _ h1 => tables_noteSeen (tables_setQueue h1)))))

theorem tables_scanEvent {vf num s} (hs : TablesCanonical s) : TablesCanonical (scanEvent vf num s) := by
  unfold scanEvent
  split
  · split
    · exact hs
    · split
      · exact tables_stopQueue hs
      · refine tables_withLines ?_ ?_
        · exact hs
        · intro _ h1
          split
          · exact tables_stopQueue h1
          · exact tables_scanTail h1
  · exact hs

theorem tables_advanceHead {s q asis} (hs : TablesCanonical s) : TablesCanonical (advanceHead s q asis) := by
  unfold advanceHead
  extract_lets h s1
  have h1 : TablesCanonical s1 := hs
  split
  · rename_i ht; exact tables_ctxWrite h1 ht
  · exact h1

theorem tables_writeCompletion {s ctx launch cpla status code block pc} (hs : TablesCanonical s) :
    TablesCanonical (writeCompletion s ctx launch cpla status code block pc) := by
  unfold writeCompletion
  refine tables_ite hs ?_
  split
  · rename_i ht; exact tables_ctxWrite hs ht
  · exact hs

theorem tables_refBarriers {s wv wh av ahb} (hs : TablesCanonical s) : TablesCanonical (refBarriers s wv wh av ahb) :=
  tables_ite (tables_barRef (tables_ite (tables_barRef hs) hs)) (tables_ite (tables_barRef hs) hs)

theorem tables_acceptRecord {s q r asisNext} (hs : TablesCanonical s) : TablesCanonical (acceptRecord s q r asisNext) :=
  tables_advanceHead (tables_refBarriers hs)

theorem tables_takeRecord {s q r asisNext} (hs : TablesCanonical s) : TablesCanonical (takeRecord s q r asisNext) := by
  unfold takeRecord
  split
  · exact tables_advanceHead (tables_writeCompletion hs)
  · exact tables_acceptRecord hs

theorem tables_countRefusal {s ctx i} (hs : TablesCanonical s) : TablesCanonical (countRefusal s ctx i) := tables_modCtx hs

theorem tables_decideHead {q0 r s0} (hs : TablesCanonical s0) : TablesCanonical (decideHead q0 r s0) := by
  have h1 : TablesCanonical (noteSeen s0 q0) := tables_noteSeen hs
  exact tables_ite h1 (tables_ite (tables_advanceHead h1) (tables_ite h1 (tables_ite h1
    (tables_takeRecord (tables_ite (tables_countRefusal h1) h1)))))

theorem tables_acceptEvent {vf num s} (hs : TablesCanonical s) : TablesCanonical (acceptEvent vf num s) := by
  unfold acceptEvent
  split
  · exact hs
  · split
    · exact hs
    · refine tables_withLines ?_ ?_
      · exact hs
      · intro _ h1
        split
        · exact h1
        · exact tables_withLines h1 (fun _ h2 => tables_ite (tables_decideHead h2) h2)

theorem tables_refusePair {s q qc p reason} (hs : TablesCanonical s) : TablesCanonical (refusePair s q qc p reason) := by
  unfold refusePair
  extract_lets s1 s2
  have h1 : TablesCanonical s1 := tables_countRefusal hs
  have h2 : TablesCanonical s2 := tables_takeRecord h1
  refine tables_ite (tables_takeRecord h1) ?_
  split
  · exact tables_setQueue h2
  · exact h2

theorem tables_refuseEvent {q qc p reason s} (hs : TablesCanonical s) : TablesCanonical (refuseEvent q qc p reason s) :=
  tables_withLines hs (fun _ h1 => tables_ite (tables_refusePair h1) h1)

theorem tables_writeArena {s ctx a us} (hs : TablesCanonical s) : TablesCanonical (writeArena s ctx a us) := by
  refine tables_foldl (fun s e h1 => ?_) hs
  split
  · rename_i ht; exact tables_ctxWrite h1 ht
  · exact h1

theorem tables_refLaunch {s l} (hs : TablesCanonical s) : TablesCanonical (refLaunch s l) := by
  unfold refLaunch
  extract_lets s1
  have h1 : TablesCanonical s1 := tables_refBarriers hs
  clear_value s1
  split
  · exact tables_refBarriers h1
  · exact h1

theorem tables_advancePair {s q qc} (hs : TablesCanonical s) : TablesCanonical (advancePair s q qc) := by
  unfold advancePair
  extract_lets s1
  have h1 : TablesCanonical s1 := tables_advanceHead hs
  clear_value s1
  split
  · exact tables_advanceHead h1
  · exact h1

theorem tables_fuse {q p x s} (hs : TablesCanonical s) : TablesCanonical (fuse q p x s) := by
  unfold fuse
  split
  · exact hs
  · exact tables_ite (tables_refuseEvent hs) (tables_withLines hs (fun _ h1 => tables_ite h1 (tables_advancePair (tables_modCtx (tables_refLaunch
        (tables_ite h1 (tables_writeArena h1)))))))

theorem tables_decidePair {q p qc c s} (hs : TablesCanonical s) : TablesCanonical (decidePair q p qc c s) := by
  unfold decidePair
  split
  · exact tables_refuseEvent hs
  · exact tables_fuse (tables_setQueue hs)

def splicePairWith (q : QueueRow) (p : LaunchRec) (s : State) (o : Option (QueueRow × LaunchRec)) : State :=
  match q.plan with
  | some x => fuse q p x s
  | none =>
    if headHeld s q || !isProducer s q p || ((rejectStatus s q.ctx p).isNone && recordWaits s q p) then s
    else match o with
      | none => s
      | some (qc, c) => withLines (firstGaps [descGaps s qc.ctx c ++ recordGaps s qc.ctx c, kernGaps s q.ctx p ++ kernGaps s qc.ctx c])
          (decidePair q p qc c) s

def seenRow (q : QueueRow) (s : State) : QueueRow := (queueOf s q.vf q.num).getD q

def splicePairOn (q : QueueRow) (p : LaunchRec) (s : State) : State := splicePairWith (seenRow q s) p s (partnerOf s (seenRow q s) p)

theorem tables_splicePairWith {q p s o} (hs : TablesCanonical s) : TablesCanonical (splicePairWith q p s o) := by
  unfold splicePairWith
  split
  · exact tables_fuse hs
  · refine tables_ite hs ?_
    split
    · exact hs
    · exact tables_withLines hs (fun _ h2 => tables_decidePair h2)

theorem splicePairWith_some {q p s o x} (h : q.plan = some x) : splicePairWith q p s o = fuse q p x s := by
  unfold splicePairWith
  rw [h]

theorem splicePairWith_none {q p s o} (h : q.plan = none) : splicePairWith q p s o =
    if headHeld s q || !isProducer s q p || ((rejectStatus s q.ctx p).isNone && recordWaits s q p) then s
    else match o with
      | none => s
      | some (qc, c) => withLines (firstGaps [descGaps s qc.ctx c ++ recordGaps s qc.ctx c, kernGaps s q.ctx p ++ kernGaps s qc.ctx c])
          (decidePair q p qc c) s := by
  unfold splicePairWith
  rw [h]

theorem splicePair_eq (q : QueueRow) (p : LaunchRec) (s : State) : splicePair q p s = splicePairOn q p (noteSeen s q) := by
  have key : ∀ F, F = splicePair → F q p s = splicePairOn q p (noteSeen s q) := by
    intro F hF
    delta splicePair at hF
    subst hF
    beta_reduce
    generalize noteSeen s q = s'
    dsimp only
    delta splicePairOn seenRow
    generalize (queueOf s' q.vf q.num).getD q = q
    generalize partnerOf s' q p = o
    generalize hx : q.plan = x
    cases x with
    | some x => exact (splicePairWith_some hx).symm
    | none =>
      refine Eq.trans ?_ (splicePairWith_none hx).symm
      cases o with
      | none => rfl
      | some c => rfl
  exact key _ rfl

theorem tables_splicePair {q p s} (hs : TablesCanonical s) : TablesCanonical (splicePair q p s) := by
  rw [splicePair_eq]
  exact tables_splicePairWith (tables_noteSeen hs)

theorem tables_spliceEvent {vf num s} (hs : TablesCanonical s) : TablesCanonical (spliceEvent vf num s) := by
  unfold spliceEvent
  split
  · exact hs
  · refine tables_withLines ?_ ?_
    · exact hs
    · intro _ h1
      split
      · exact h1
      · exact tables_withLines h1 (fun _ h2 => tables_splicePair h2)

theorem tables_growSplit {s core steps} (hs : TablesCanonical s) : TablesCanonical (growSplit s core steps) := tables_ite (tables_acquireL1 hs) hs

theorem tables_modBlock {s id f} (hs : TablesCanonical s) : TablesCanonical (modBlock s id f) := hs

theorem tables_takeBank {s b i bank} (hs : TablesCanonical s) : TablesCanonical (takeBank s b i bank) := tables_modBlock (tables_zeroBank _ _ _ hs)

theorem tables_fillOpen {core s} (hs : TablesCanonical s) : TablesCanonical (fillOpen core s) := by
  unfold fillOpen
  refine tables_foldl (fun s x h1 => ?_) hs
  refine tables_foldl (fun s x h2 => ?_) h1
  split
  · exact tables_takeBank h2
  · exact h2

theorem tables_loadPoolRegs {s g rs} (hs : TablesCanonical s) : TablesCanonical (loadPoolRegs s g rs) :=
  tables_foldl (fun _ _ h1 => tables_foldl (fun _ _ h2 => tables_wrV _ _ _ _ _ _ h2) h1) hs

theorem tables_startGang {s gid} (hs : TablesCanonical s) : TablesCanonical (startGang s gid) := by
  unfold startGang
  split
  · exact hs
  · extract_lets s1
    have h1 : TablesCanonical s1 := tables_modGang hs
    clear_value s1
    split
    · exact tables_ite (tables_loadPoolRegs h1) h1
    · exact h1

theorem tables_unparkReady {s core} (hs : TablesCanonical s) : TablesCanonical (unparkReady s core) :=
  tables_ite hs (tables_foldl (fun _ _ h1 => tables_startGang h1) hs)

theorem tables_enterGang {l b s e} (hs : TablesCanonical s) : TablesCanonical (enterGang l b s e) :=
  tables_ite (tables_claimEntries (tables_foldl (fun _ _ h1 => tables_takeSlice h1) hs)) (tables_foldl (fun _ _ h1 => tables_takeSlice h1) hs)

theorem tables_placeOn {l s0 e} (hs : TablesCanonical s0) : TablesCanonical (placeOn l s0 e) := by
  unfold placeOn
  extract_lets core i s need c b s2 k
  have h1 : TablesCanonical s := tables_growSplit (tables_acquireL1 hs)
  clear_value s
  have h2 : TablesCanonical s2 := tables_fillOpen h1
  clear_value s2
  split
  · exact tables_unparkReady (tables_foldl (fun _ _ h3 => tables_enterGang h3) h2)
  · exact h2

theorem tables_placeEvent {id p s} (hs : TablesCanonical s) : TablesCanonical (placeEvent id p s) := by
  unfold placeEvent
  split
  · exact tables_ite (tables_foldl (fun _ _ h1 => tables_placeOn h1) hs) hs
  · exact hs

theorem tables_shrinkEvent {core steps s} (hs : TablesCanonical s) : TablesCanonical (shrinkEvent core steps s) := tables_ite hs hs

end Sys2Proof.Machine
end

section
/-! PROOFS. Every step keeps the tables canonical (R189, R114).
Residency and the end of a launch (R30, R31, R39, R114, R262). -/

namespace Sys2Proof.Machine

theorem tables_preempt {s blk} (hs : TablesCanonical s) : TablesCanonical (preempt s blk) := by
  unfold preempt
  split
  · exact tables_ite hs (tables_modBlock hs)
  · exact hs

theorem tables_claimSlice {s core part idx} (hs : TablesCanonical s) : TablesCanonical (claimSlice s core part idx) := by
  unfold claimSlice
  split
  · split
    · split
      · extract_lets s1 s2 s3
        have h1 : TablesCanonical s1 := tables_captureAll hs
        have h3 : TablesCanonical s3 := by
          clear_value s1
          exact h1
        clear_value s3
        refine tables_ite hs (tables_unparkReady ?_)
        exact tables_zeroSlice s3 core part idx h3
      · exact hs
    · exact hs
  · exact hs

theorem tables_claimBankOf {s core idx} (hs : TablesCanonical s) : TablesCanonical (claimBankOf s core idx) := by
  unfold claimBankOf
  split
  · extract_lets s1 k s2 s3
    have h1 : TablesCanonical s1 := tables_captureAll hs
    have h3 : TablesCanonical s3 := by
      clear_value s1
      exact h1
    exact tables_ite hs (tables_unparkReady (tables_takeBank h3))
  · exact hs

theorem tables_spillUnit {r0 s i} (hs : TablesCanonical s) : TablesCanonical (spillUnit r0 s i) := by
  unfold spillUnit
  split
  · refine tables_zeroUnit _ _ _ _ ?_
    exact hs
  · exact hs

theorem tables_claimUnit {s wb core unit} (hs : TablesCanonical s) : TablesCanonical (claimUnit s wb core unit) := by
  unfold claimUnit
  split
  · exact tables_ite hs (tables_spillUnit hs)
  · exact hs

theorem tables_claimAcc {s core bank} (hs : TablesCanonical s) : TablesCanonical (claimAcc s core bank) := by
  unfold claimAcc
  split
  · refine tables_ite hs ?_
    exact hs
  · exact hs

theorem tables_claimArrayOf {s core} (hs : TablesCanonical s) : TablesCanonical (claimArrayOf s core) := by
  unfold claimArrayOf
  extract_lets a
  split
  · refine tables_ite hs ?_
    exact hs
  · exact hs

theorem tables_claimRec {s core rcd} (hs : TablesCanonical s) : TablesCanonical (claimRec s core rcd) := by
  unfold claimRec
  split
  · extract_lets s1 s2
    have h1 : TablesCanonical s1 := tables_foldl (fun _ _ h => tables_spillUnit h) hs
    clear_value s1
    refine tables_ite hs ?_
    exact h1
  · exact hs

theorem tables_claimEvent {u s} (hs : TablesCanonical s) : TablesCanonical (claimEvent u s) := by
  unfold claimEvent
  split
  · exact tables_claimSlice hs
  · exact tables_claimBankOf hs
  · exact tables_claimUnit hs
  · exact tables_claimUnit hs
  · exact tables_claimAcc hs
  · exact tables_claimArrayOf hs
  · exact tables_claimRec hs

theorem tables_regrow {s b} (hs : TablesCanonical s) : TablesCanonical (regrow s b) := by
  unfold regrow
  split
  · exact tables_growSplit hs
  · exact hs

theorem tables_dropSave {s0 key} (hs : TablesCanonical s0) : TablesCanonical (dropSave s0 key) := tables_foldl (fun _ _ h1 => tables_captureAll h1) hs

theorem tables_reloadBank {blk s i} (hs : TablesCanonical s) : TablesCanonical (reloadBank blk s i) := by
  unfold reloadBank
  split
  · split
    · extract_lets s1 k
      have h1 : TablesCanonical s1 := tables_takeBank hs
      clear_value s1
      refine tables_dropSave ?_
      exact h1.withScr _ (wf_loadBytes _ _ _ h1.2.1)
    · exact hs
  · exact hs

theorem tables_reloadSlice {gid s e} (hs : TablesCanonical s) : TablesCanonical (reloadSlice gid s e) := by
  unfold reloadSlice
  split
  · rename_i g _
    extract_lets key
    split
    · rename_i idx _ x _ _
      extract_lets k s1 s2
      have h1 : TablesCanonical s1 := tables_zeroSlice s g.core g.part idx hs
      clear_value s1
      have h2 : TablesCanonical s2 := h1.withVrf _ (foldl_keeps (fun m => Sparse.wf 0#32 m = true) _ (fun m _ hm => Sparse.wf_set _ m _ _ hm) _ _
          h1.2.2.2.2.2.2)
      clear_value s2
      exact tables_modGang (tables_dropSave h2)
    · exact hs
  · exact hs

theorem tables_reloadRec {s x} (hs : TablesCanonical s) : TablesCanonical (reloadRec s x) := by
  unfold reloadRec
  split
  · exact tables_dropSave hs
  · exact hs

theorem tables_reloadUnit {s e} (hs : TablesCanonical s) : TablesCanonical (reloadUnit s e) := by
  unfold reloadUnit
  extract_lets r key
  split
  · extract_lets s1 p
    have h1 : TablesCanonical s1 := tables_setRec (tables_dropSave (tables_zeroUnit s _ _ _ hs))
    clear_value s1
    exact tables_ite (h1.withWbuf _ (wf_loadBytes _ _ _ h1.2.2.2.2.1)) (h1.withObuf _ (wf_loadBytes _ _ _ h1.2.2.2.1))
  · exact hs

theorem tables_resumeGang {s e} (hs : TablesCanonical s) : TablesCanonical (resumeGang s e) := by
  unfold resumeGang
  extract_lets gid s1 s2 s2r s3
  have h1 : TablesCanonical s1 := hs
  have h2 : TablesCanonical s2 := tables_foldl (fun _ _ h => tables_reloadSlice h) h1
  have h3 : TablesCanonical s3 := tables_foldl (fun _ _ h => tables_reloadUnit h) (tables_foldl (fun _ _ h => tables_reloadRec h) h2)
  clear_value s3
  split
  · split
    · exact tables_dropSave h3
    · exact h3
  · exact h3

theorem tables_reloadAcc {core s x} (hs : TablesCanonical s) : TablesCanonical (reloadAcc core s x) := by
  unfold reloadAcc
  split
  · extract_lets k row s1
    have h1 : TablesCanonical s1 := tables_dropSave hs
    clear_value s1
    exact h1.withAcc _ (wf_loadBytes _ _ _ (Sparse.wf_clear _ _ _ _ h1.2.2.2.2.2.1))
  · exact hs

theorem tables_resumeEvent {blk s0} (hs : TablesCanonical s0) : TablesCanonical (resumeEvent blk s0) := by
  unfold resumeEvent
  split
  · extract_lets s gs s1 s2
    have h1 : TablesCanonical s1 := tables_foldl (fun _ _ h => tables_reloadBank h) (tables_modBlock (tables_regrow hs))
    have h2 : TablesCanonical s2 := tables_foldl (fun _ _ h => tables_resumeGang h) h1
    exact tables_ite (tables_foldl (fun _ _ h => tables_reloadAcc h) h2) hs
  · exact hs

theorem tables_freeSlice {gid core part s idx} (hs : TablesCanonical s) : TablesCanonical (freeSlice gid core part s idx) := by
  unfold freeSlice
  extract_lets s1
  have h1 : TablesCanonical s1 := tables_captureAll hs
  clear_value s1
  split
  · split
    · exact h1
    · exact tables_ite hs (tables_zeroSlice _ _ _ _ h1)
  · exact hs

theorem tables_endGang {s g} (hs : TablesCanonical s) : TablesCanonical (endGang s g) :=
  tables_unparkReady (tables_dropSaves (tables_foldl (fun _ _ h1 => tables_freeSlice h1) hs))

theorem tables_freeBank {core s idx} (hs : TablesCanonical s) : TablesCanonical (freeBank core s idx) := tables_captureAll hs

theorem tables_endBlock {s b} (hs : TablesCanonical s) : TablesCanonical (endBlock s b) := by
  unfold endBlock
  extract_lets s1 s1' s2 s3 s4
  have h1 : TablesCanonical s1' := tables_dropSaves (tables_foldl (fun _ _ h => tables_freeBank h) hs)
  clear_value s1'
  have h2 : TablesCanonical s2 := h1
  have h3 : TablesCanonical s3 := tables_foldl (fun s r h => (h : TablesCanonical (dropRing s r))) h2
  have h4 : TablesCanonical s4 := tables_unparkReady (tables_fillOpen h3)
  clear_value s4
  split
  · exact tables_ite h4 h4
  · exact h4

theorem tables_gangEndEvent {gid s} (hs : TablesCanonical s) : TablesCanonical (gangEndEvent gid s) := by
  unfold gangEndEvent
  split
  · split
    · exact hs
    · extract_lets s1
      have h1 : TablesCanonical s1 := tables_endGang (tables_ite hs hs)
      clear_value s1
      split
      · exact h1
      · split
        · exact tables_endBlock h1
        · exact h1
  · exact hs

theorem tables_writeBackCtx {s ctx} (hs : TablesCanonical s) : TablesCanonical (writeBackCtx s ctx) :=
  tables_foldl (fun _ _ h1 => tables_writeBackL1 h1) hs

theorem tables_arriveEnds {s l} (hs : TablesCanonical s) : TablesCanonical (arriveEnds s l) := by
  unfold arriveEnds
  extract_lets arr drop
  have harr : ∀ {v h u}, TablesCanonical u → TablesCanonical (arr u v h) := fun hu => tables_ite (tables_barArrive hu) hu
  have hdrop : ∀ {v h u}, TablesCanonical u → TablesCanonical (drop u v h) := fun hu => tables_ite (tables_barUnref hu) hu
  clear_value arr drop
  split
  · exact hdrop (hdrop (hdrop (hdrop (harr (harr hs)))))
  · exact hdrop (hdrop (harr hs))

theorem tables_writeEnds {s l} (hs : TablesCanonical s) : TablesCanonical (writeEnds s l) := by
  unfold writeEnds
  extract_lets f s1
  have h1 : TablesCanonical s1 := tables_writeCompletion hs
  clear_value s1
  split
  · exact tables_writeCompletion h1
  · exact h1

theorem tables_launchEndEvent {id s} (hs : TablesCanonical s) : TablesCanonical (launchEndEvent id s) := by
  unfold launchEndEvent
  split
  · exact tables_ite hs (tables_ite (tables_writeBackCtx hs) (tables_withLines (tables_writeBackCtx hs) (fun _ h1 => tables_ite h1 (tables_arriveEnds
        (tables_writeEnds h1)))))
  · exact hs

end Sys2Proof.Machine
end

section
/-! PROOFS. Every step keeps the tables canonical (R189, R114).
Chunk steps (R350 to R352). -/

namespace Sys2Proof.Machine

theorem tables_setChunk {s x} (hs : TablesCanonical s) : TablesCanonical (setChunk s x) := hs

theorem tables_chunkFault {s x code} (hs : TablesCanonical s) : TablesCanonical (chunkFault s x code) := hs

theorem tables_fireChunk {l b x a} (hs : TablesCanonical a) : TablesCanonical (fireChunk l b x a) := by
  unfold fireChunk
  refine tables_withLines ?_ ?_
  · exact hs
  · intro _ h1
    split
    · exact tables_setChunk h1
    · exact tables_chunkFault h1

theorem tables_fired {launch chunk s} (hs : TablesCanonical s) : TablesCanonical (fired launch chunk s) := by
  unfold fired
  split
  · split
    · exact tables_fireChunk hs
    · exact hs
  · exact hs

theorem tables_currentStep {s launch chunk kind t} (hs : TablesCanonical s) (ht : currentStep s launch chunk kind = .error t) :
    TablesCanonical t := by
  unfold currentStep at ht
  split at ht
  · split at ht
    · split at ht
      · split at ht
        · cases ht
        · split at ht
          · cases ht
          · cases ht; exact tables_chunkFault hs
      · cases ht
    · cases ht
  · cases ht

theorem tables_onStep {launch chunk kind f s0} (hs : TablesCanonical s0) (hff : ∀ k s, TablesCanonical s → TablesCanonical (f k s)) :
    TablesCanonical (onStep launch chunk kind f s0) := by
  unfold onStep
  extract_lets s
  have h1 : TablesCanonical s := tables_fired hs
  split
  · exact hff _ _ h1
  · exact h1
  · rename_i ht; exact tables_currentStep h1 ht

theorem tables_chunkNext {s x lost} (hs : TablesCanonical s) : TablesCanonical (chunkNext s x lost) := by
  unfold chunkNext
  extract_lets s1 n
  have h1 : TablesCanonical s1 := by
    dsimp only [s1]
    split
    · exact hs
    · exact hs
  exact tables_ite (tables_setChunk h1) h1

theorem tables_pushDone {k s} (hs : TablesCanonical s) : TablesCanonical (pushDone k s) := tables_ite (tables_chunkNext hs) hs

theorem tables_settleStep {x ps s} (hs : TablesCanonical s) : TablesCanonical (settleStep x ps s) := tables_foldl (fun _ _ h1 => tables_settleL1 h1) hs

theorem tables_chunkAsk {s w ps t} (hs : TablesCanonical s) (ht : chunkAsk s w ps = some t) : TablesCanonical t := by
  unfold chunkAsk at ht
  dsimp only at ht
  split at ht
  · cases ht
  · cases ht; exact tables_askLines hs

theorem tables_sendPush {k off bytes psn s} (hs : TablesCanonical s) : TablesCanonical (sendPush k off bytes psn s) :=
  tables_setChunk (tables_foldl (fun _ _ h1 => tables_sendPkt h1) hs)

theorem tables_pushStep {k s} (hs : TablesCanonical s) : TablesCanonical (pushStep k s) := by
  unfold pushStep
  refine tables_ite (tables_pushDone hs) (tables_ite (tables_chunkFault hs) ?_)
  split
  · exact tables_chunkFault hs
  · extract_lets s1
    have h1 : TablesCanonical s1 := tables_settleStep hs
    refine tables_ite h1 ?_
    split
    · rename_i ht; exact tables_chunkAsk h1 ht
    · exact tables_sendPush (tables_eccPlaces h1)

theorem tables_sendPull {k s} (hs : TablesCanonical s) : TablesCanonical (sendPull k s) :=
  tables_setChunk (tables_foldl (fun _ _ h1 => tables_sendPkt h1) hs)

theorem tables_putPull {ctx ps off bytes psn s} (hs : TablesCanonical s) : TablesCanonical (putPull ctx ps off bytes psn s) :=
  foldl_keeps (fun a : State × Nat => TablesCanonical a.1) _ (fun _ _ h => tables_ite (tables_engineWrite h) h) ps (s, 0) hs

theorem tables_takePull {parts k ps s} (hs : TablesCanonical s) : TablesCanonical (takePull parts k ps s) := by
  unfold takePull
  extract_lets now rest _ t
  have ht : TablesCanonical t := tables_setChunk (tables_foldl (fun _ _ h1 => tables_putPull h1) hs)
  clear_value t
  exact tables_ite (tables_chunkNext ht) ht

theorem tables_pullStep {parts k s} (hs : TablesCanonical s) : TablesCanonical (pullStep parts k s) := by
  unfold pullStep
  extract_lets d n
  refine tables_ite (tables_chunkFault hs) (tables_ite (tables_chunkFault hs) ?_)
  split
  · exact tables_chunkFault hs
  · refine tables_ite (tables_ite hs (tables_sendPull (tables_askDests (tables_settleStep hs)))) ?_
    extract_lets s1
    have h1 : TablesCanonical s1 := tables_settleStep hs
    split
    · rename_i ht; exact tables_chunkAsk h1 ht
    · refine tables_ite h1 ?_
      split
      · exact tables_takePull h1
      · exact tables_chunkNext (tables_putPull h1)

theorem tables_flagStep {k s} (hs : TablesCanonical s) : TablesCanonical (flagStep k s) := by
  unfold flagStep
  split
  · exact tables_pushDone hs
  · split
    · exact tables_chunkFault hs
    · exact tables_ite (tables_chunkFault hs) (tables_ite (tables_writeBackBelow hs) (tables_sendPush (tables_writeBackBelow hs)))

theorem tables_waitStep {k s} (hs : TablesCanonical s) : TablesCanonical (waitStep k s) := by
  unfold waitStep
  extract_lets d a s1
  have h1 : TablesCanonical s1 := tables_settleStep hs
  refine tables_ite (tables_chunkFault hs) (tables_ite h1 ?_)
  split
  · rename_i ht; exact tables_chunkAsk h1 ht
  · exact tables_ite (tables_chunkNext h1) h1

end Sys2Proof.Machine
end

section
/-! PROOFS. Every step keeps the tables canonical (R189, R114).
Packets, cuts and captures (R301 to R322, R342 to R348). -/

namespace Sys2Proof.Machine

theorem tables_commitHere {c s} (hs : TablesCanonical s) : TablesCanonical (commitHere c s) := tables_ite (tables_modCol (tables_clearColour hs)) hs

theorem tables_cutGateway {c grp s} (hs : TablesCanonical s) : TablesCanonical (cutGateway c grp s) := tables_foldl (fun _ _ h1 => h1) hs

theorem tables_sendTelltale {c grp init s m} (hs : TablesCanonical s) : TablesCanonical (sendTelltale c grp init s m) := tables_sendPkt hs

theorem tables_tagPage {c ctx s e} (hs : TablesCanonical s) : TablesCanonical (tagPage c ctx s e) := tables_ite hs (tables_putPteBit _ _ _ _ hs)

theorem tables_tagLarge {c grp s} (hs : TablesCanonical s) : TablesCanonical (tagLarge c grp s) :=
  tables_foldl (fun _ _ h1 => tables_foldl (fun _ _ h2 => tables_tagPage h2) h1) hs

theorem tables_takeCut {c grp id init s0} (hs : TablesCanonical s0) : TablesCanonical (takeCut c grp id init s0) :=
  tables_foldl (fun _ _ h1 => tables_sendTelltale h1) (tables_tagLarge (tables_setCol _ _ _ (tables_modCol (tables_cutGateway hs))))

theorem tables_answerSnap {src ans s} (hs : TablesCanonical s) : TablesCanonical (answerSnap src ans s) := by
  unfold answerSnap
  split
  · exact tables_modOp hs
  · exact tables_tellHost hs
  · exact tables_tellHost hs

theorem tables_cutServed {c r s0} (hs : TablesCanonical s0) : TablesCanonical (cutServed c r s0) := by
  unfold cutServed
  extract_lets s ans
  have h1 : TablesCanonical s := hs
  clear_value s
  refine tables_takeCut ?_
  split
  · split
    · split
      · exact tables_snapDone h1
      · exact h1
    · exact h1
  · exact tables_answerSnap h1

theorem tables_inducedCut {c id s0} (hs : TablesCanonical s0) : TablesCanonical (inducedCut c id s0) := by
  unfold inducedCut
  extract_lets s
  have h1 : TablesCanonical s := tables_commitHere hs
  clear_value s
  split
  · exact tables_ite (tables_cutServed h1) (tables_takeCut h1)
  · exact tables_takeCut h1

theorem tables_stampStep {p c s} (hs : TablesCanonical s) : TablesCanonical (stampStep p c s) := tables_ite (tables_inducedCut hs) hs

theorem tables_chanDone {src c s} (hs : TablesCanonical s) : TablesCanonical (chanDone src c s) := by
  unfold chanDone
  dsimp only
  split
  · exact tables_ite hs hs
  · exact hs

theorem tables_counted {p s} (hs : TablesCanonical s) : TablesCanonical (counted p s) := tables_chanDone (tables_chanDone hs)

theorem tables_logStep {p c s} (hs : TablesCanonical s) : TablesCanonical (logStep p c s) := tables_ite (tables_emitRec _ _ _ hs) hs

theorem tables_arrived {p s} (hs : TablesCanonical s) : TablesCanonical (arrived p s) := tables_counted (tables_logStep (tables_logStep hs))

theorem tables_deliver {cls act p s} (hs : TablesCanonical s) (hact : ∀ s, TablesCanonical s → TablesCanonical (act p s).1) :
    TablesCanonical (deliver cls act p s) := by
  have h1 := hact _ (tables_stampStep (p := p) (c := .c1) (tables_stampStep (p := p) (c := .c0) hs))
  exact tables_ite hs (tables_ite (tables_arrived h1) h1)

theorem tables_sendLine {s line src tag} (hs : TablesCanonical s) : TablesCanonical (sendLine s line src tag) := hs

theorem tables_readRequestAct {p s} (hs : TablesCanonical s) : TablesCanonical (readRequestAct p s).1 := by
  unfold readRequestAct
  split
  · dsimp only
    split
    · exact hs
    · split
      · exact tables_setDir hs
      · split
        · exact hs
        · split
          · exact tables_sendLine hs
          · exact tables_invalidateHolders hs
  · exact hs

theorem tables_installLine {s line tag bytes psn} (hs : TablesCanonical s) : TablesCanonical (installLine s line tag bytes psn) := by
  unfold installLine
  split
  · exact tables_ite hs (tables_setL2 _ _ hs)
  · exact tables_setL2 _ _ hs

theorem tables_linesRead {line o s} (hs : TablesCanonical s) : TablesCanonical (linesRead line o s) := tables_groupRead hs

theorem tables_lineGot {line tag bytes psn s} (hs : TablesCanonical s) : TablesCanonical (lineGot line tag bytes psn s) := by
  unfold lineGot
  split
  · exact hs
  · exact tables_lineCome (tables_foldl (fun _ _ h1 => tables_linesRead h1) (tables_ite (tables_freshenL1 (tables_installLine hs)) hs))

theorem tables_wholeGroup {p s r} (hs : TablesCanonical s) (hr : wholeGroup p s = r) : TablesCanonical r.2 := by
  subst hr
  unfold wholeGroup
  extract_lets ps come total
  split
  · exact hs
  · exact hs

theorem tables_oldsGot {s tag olds psn} (hs : TablesCanonical s) : TablesCanonical (oldsGot s tag olds psn) := by
  unfold oldsGot
  split
  · split
    · split
      · split
        · extract_lets t
          have h1 : TablesCanonical t := by
            dsimp only [t]
            split
            · exact tables_passBy hs
            · exact hs
          exact tables_groupRead (tables_setGroup h1)
        · exact hs
      · exact hs
    · exact hs
  · exact hs

theorem tables_mcastGot {s tag vals psn} (hs : TablesCanonical s) : TablesCanonical (mcastGot s tag vals psn) := by
  unfold mcastGot
  split
  · split
    · split
      · split
        · exact tables_ite (tables_pieceRead hs) hs
        · exact hs
      · exact hs
    · exact hs
  · exact hs

theorem tables_readDataAct {p s} (hs : TablesCanonical s) : TablesCanonical (readDataAct p s).1 := by
  unfold readDataAct
  split
  · exact tables_lineGot hs
  · split
    · exact hs
    · split
      · rename_i hr; exact tables_wholeGroup hs hr
      · rename_i hr; exact tables_oldsGot (tables_wholeGroup hs hr)
  · rename_i tag vals psn _
    exact (tables_mcastGot (tag := tag) (vals := vals) (psn := psn) hs).congr rfl rfl rfl rfl rfl rfl rfl
  · exact hs

theorem tables_ownershipRequestAct {p s} (hs : TablesCanonical s) : TablesCanonical (ownershipRequestAct p s).1 := by
  unfold ownershipRequestAct
  dsimp only
  split
  · exact hs
  · split
    · exact hs
    · split
      · exact hs
      · exact tables_invalidateHolders hs

theorem tables_ownershipGrantAct {p s} (hs : TablesCanonical s) : TablesCanonical (ownershipGrantAct p s).1 := by
  unfold ownershipGrantAct
  dsimp only
  split
  · exact hs
  · split
    · exact tables_lineCome (tables_setL2 _ _ hs)
    · exact hs

theorem tables_homeWrite {s line mask bytes psn} (hs : TablesCanonical s) : TablesCanonical (homeWrite s line mask bytes psn) :=
  tables_writeLine _ _ _ _ _ _ hs

theorem tables_answered {d s} (hs : TablesCanonical s) : TablesCanonical (answered d s) :=
  tables_ite (tables_lineCome (tables_setDir hs)) (tables_setDir hs)

theorem tables_sendAck {s dst addr tag} (hs : TablesCanonical s) : TablesCanonical (sendAck s dst addr tag) := tables_sendPkt hs

theorem tables_storeDataAct {p s} (hs : TablesCanonical s) : TablesCanonical (storeDataAct p s).1 := by
  unfold storeDataAct
  dsimp only
  split
  · exact hs
  · split
    · exact tables_setDir hs
    · split
      · exact hs
      · split
        · exact tables_answered (tables_homeWrite hs)
        · split
          · exact tables_sendAck (tables_homeWrite hs)
          · split
            · exact hs
            · split
              · exact tables_sendAck (tables_homeWrite hs)
              · exact tables_invalidateHolders hs
    · exact hs

theorem tables_invalidationAct {p s} (hs : TablesCanonical s) : TablesCanonical (invalidationAct p s).1 := by
  unfold invalidationAct
  extract_lets line f s0
  have h1 : TablesCanonical s0 := hs
  clear_value s0
  split
  · exact hs
  · split
    · exact h1
    · split
      · exact h1
      · split
        · exact tables_sendAck (tables_setL2 _ _ h1)
        · exact tables_sendAck (tables_dropL2 (tables_sendPkt (tables_captureL2 (tables_captureL2 h1))))

theorem tables_modHalyard {s c f} (hs : TablesCanonical s) : TablesCanonical (modHalyard s c f) := hs

theorem tables_modHalDie {s die c f} (hs : TablesCanonical s) : TablesCanonical (modHalDie s die c f) := tables_modHalyard hs

theorem tables_tagAck {s src tag line} (hs : TablesCanonical s) : TablesCanonical (tagAck s src tag line) := by
  unfold tagAck
  dsimp only
  split
  · split
    · split
      · split
        · exact tables_setPiece (tables_ite hs hs)
        · exact tables_setPiece (tables_passBy (tables_ite hs hs))
        · exact tables_setPiece (tables_ite hs hs)
      · exact tables_ite hs hs
    · exact tables_ite hs hs
  · exact tables_ite hs hs

theorem tables_ackAct {p s} (hs : TablesCanonical s) : TablesCanonical (ackAct p s).1 := by
  unfold ackAct
  split
  · dsimp only
    split
    · exact tables_answered hs
    · split
      · exact tables_ite (tables_setDir hs) hs
      · split
        · exact tables_answered hs
        · split
          · exact tables_modHalDie hs
          · exact tables_tagAck hs
  · exact hs

theorem tables_sendOlds {s dst addr tag n olds psn} (hs : TablesCanonical s) : TablesCanonical (sendOlds s dst addr tag n olds psn) :=
  tables_foldl (fun _ _ h1 => tables_sendPkt h1) hs

theorem tables_atomicRequestAct {p s} (hs : TablesCanonical s) : TablesCanonical (atomicRequestAct p s).1 := by
  unfold atomicRequestAct
  split
  · dsimp only
    split
    · exact hs
    · split
      · exact hs
      · split
        · exact tables_homeAsk hs
        · split
          · exact hs
          · split
            · rename_i hr; exact tables_wholeGroup hs hr
            · rename_i hr; exact tables_sendOlds (tables_homeWrite (tables_wholeGroup hs hr))
  · exact hs

theorem tables_mcastStoreAct {p s} (hs : TablesCanonical s) : TablesCanonical (mcastStoreAct p s).1 := by
  unfold mcastStoreAct
  split
  · dsimp only
    split
    · exact hs
    · split
      · exact tables_homeAsk hs
      · split
        · exact hs
        · exact tables_sendAck (tables_homeWrite hs)
  · exact hs

theorem tables_mcastLoadAct {p s} (hs : TablesCanonical s) : TablesCanonical (mcastLoadAct p s).1 := by
  unfold mcastLoadAct
  split
  · split
    · exact hs
    · dsimp only
      split
      · exact tables_ite hs (tables_homeAsk hs)
      · exact hs
  · exact hs

theorem tables_promotionAct {p s} (hs : TablesCanonical s) : TablesCanonical (promotionAct p s).1 := by
  unfold promotionAct
  split
  · dsimp only
    split
    · exact tables_sendAck (tables_writeBackBelow hs)
    · exact tables_writeBackBelow hs
  · exact hs

theorem tables_promoted {s line r} (hs : TablesCanonical s) : TablesCanonical (promoted s line r).1 := by
  unfold promoted
  dsimp only
  split
  · exact hs
  · split
    · exact hs
    · split
      · exact tables_writeBackBelow hs
      · split
        · exact hs
        · split
          · exact hs
          · exact hs

theorem tables_answerAcquire {s line r} (hs : TablesCanonical s) : TablesCanonical (answerAcquire s line r) := by
  unfold answerAcquire
  refine tables_ite ?_ (tables_sendLine hs)
  split
  · split
    · split
      · split
        · rename_i hr; exact tables_pieceRead (tables_readPlace hs hr)
        · rename_i hr; exact tables_readPlace hs hr
        · rename_i hr; exact tables_readPlace hs hr
      · exact tables_setPiece hs
    · exact hs
  · exact hs

theorem tables_remoteAnswer {line s} (hs : TablesCanonical s) : TablesCanonical (remoteAnswer line s) := by
  unfold remoteAnswer
  split
  · exact hs
  · extract_lets a d
    have h1 : TablesCanonical a.1 := tables_promoted hs
    exact tables_ite h1 (tables_ite (tables_invalidateHolders h1) (tables_answerAcquire (tables_setDir h1)))

theorem tables_recordTell {c src count id init s} (hs : TablesCanonical s) : TablesCanonical (recordTell c src count id init s) :=
  tables_ite hs (tables_ite (tables_modCol hs) (tables_askSuccessor (tables_modCol hs)))

theorem tables_holdTell {p s} (hs : TablesCanonical s) : TablesCanonical (holdTell p s) := tables_ite hs hs

theorem tables_unholdTell {p s} (hs : TablesCanonical s) : TablesCanonical (unholdTell p s) := hs

theorem tables_telltaleEvent {p s0} (hs : TablesCanonical s0) : TablesCanonical (telltaleEvent p s0) := by
  unfold telltaleEvent
  refine tables_ite hs ?_
  split
  · refine tables_ite (tables_counted hs) ?_
    extract_lets s record s1 row
    have h1 : TablesCanonical s := tables_stampStep hs
    have h2 : TablesCanonical s1 := tables_unholdTell h1
    have hrecord : ∀ u, TablesCanonical u → TablesCanonical (record u) := fun _ h => tables_recordTell h
    clear_value s s1 record
    exact tables_ite (tables_ite (tables_counted (hrecord _ (tables_unholdTell (tables_inducedCut h1)))) (tables_holdTell h1))
      (tables_ite (tables_counted (hrecord _ h2)) (tables_counted h2))
  · exact tables_counted hs

theorem tables_freeHere {c s0} (hs : TablesCanonical s0) : TablesCanonical (freeHere c s0) := by
  unfold freeHere
  extract_lets s r
  have h1 : TablesCanonical s := tables_ite hs (tables_abortLocal hs)
  have h2 : TablesCanonical (markImage c true s) := h1
  exact tables_ite (tables_ackFree (tables_modCol (tables_ite h2 h1))) (tables_ite (tables_ackFree h1) h1)

theorem tables_abortedAt {c m s0} (hs : TablesCanonical s0) : TablesCanonical (abortedAt c m s0) :=
  tables_ite (tables_freeAborted (tables_tellAbort (tables_modCol hs))) (tables_freeCheck (tables_modCol hs))

theorem tables_coordAct {src kind c digest flag st id old s} (hs : TablesCanonical s) : TablesCanonical (coordAct src kind c digest flag st id old s) := by
  unfold coordAct
  split
  · exact hs
  · split
    · exact tables_sendCoord hs
    · exact tables_ite hs hs
    · split
      · exact hs
      · split
        · exact tables_freeHere hs
        · exact tables_ackFrom hs
        · exact tables_commitHere hs
        · exact tables_reportFrom hs
        · exact tables_abortHere hs
        · exact tables_abortedAt hs
        · exact hs

theorem tables_collectiveAct {p s} (hs : TablesCanonical s) : TablesCanonical (collectiveAct p s).1 := by
  unfold collectiveAct
  split
  · exact tables_mcastStoreAct hs
  · exact tables_coordAct hs
  · exact hs

theorem tables_reservedPacket {p s} (hs : TablesCanonical s) : TablesCanonical (reservedPacket p s) := tables_ite hs hs

theorem tables_noteRate {s r} (hs : TablesCanonical s) : TablesCanonical (noteRate s r) := by
  unfold noteRate
  split
  · exact tables_modCtx hs
  · exact hs

theorem tables_serveRequest {s0} (hs : TablesCanonical s0) : TablesCanonical (serveRequest s0) := by
  unfold serveRequest
  split
  · exact tables_cutServed hs
  · split
    · exact hs
    · rename_i r _ _
      extract_lets s
      have h1 : TablesCanonical s := hs
      clear_value s
      refine tables_ite (tables_answerSnap h1) (tables_ite (tables_answerSnap h1) ?_)
      split
      · exact tables_answerSnap h1
      · have h2 : TablesCanonical (noteRate s r) := tables_noteRate h1
        exact h2

theorem tables_sweptOne {s ctx} (hs : TablesCanonical s) : TablesCanonical (sweptOne s ctx) := tables_modCtx hs

theorem tables_sweepUnit {c u s} (hs : TablesCanonical s) : TablesCanonical (sweepUnit c u s) := by
  unfold sweepUnit
  split
  · exact hs
  · split
    · split
      · exact tables_sweptOne (tables_pageLineDone _ _ _ (tables_emitRec _ _ _ hs))
      · exact hs
    · exact tables_foldl (fun _ _ h1 => tables_sweptOne (tables_emitRec _ _ _ h1)) hs
    · split
      · exact tables_ite (tables_sweptOne (tables_setL2 _ _ (tables_emitRec _ _ _ hs))) hs
      · exact hs
    · split
      · exact hs
      · split
        · exact tables_sweptOne (tables_emitRec _ _ _ hs)
        · exact hs

theorem tables_captureRoom {die c s} (hs : TablesCanonical s) : TablesCanonical (captureRoom die c s) := tables_ite (tables_modHalDie hs) hs

theorem tables_writeWindow {pa bytes s} (hs : TablesCanonical s) : TablesCanonical (writeWindow pa bytes s) :=
  tables_foldl (fun _ _ h1 => tables_l2ToMem _ _ h1) (tables_writePhys _ _ _ _ _ hs)

theorem tables_sendTarget {c ga bytes s} (hs : TablesCanonical s) : TablesCanonical (sendTarget c ga bytes s) :=
  tables_foldl (fun _ _ h1 => tables_sendPkt h1) hs

theorem tables_putTarget {c d off bytes s t} (hs : TablesCanonical s) (ht : putTarget c d off bytes s = some t) : TablesCanonical t := by
  unfold putTarget at ht
  split at ht
  · split at ht
    · cases ht; exact tables_writeWindow hs
    · cases ht
  · dsimp only at ht
    split at ht
    · cases ht; exact tables_modHalDie (tables_sendTarget hs)
    · cases ht
  · cases ht; exact hs

theorem tables_localDoneEvent {c s} (hs : TablesCanonical s) : TablesCanonical (localDoneEvent c s) := by
  unfold localDoneEvent
  refine tables_ite hs ?_
  split
  · exact hs
  · extract_lets d recs bytes ds off
    split
    · exact hs
    · rename_i t ht
      have h1 : TablesCanonical t := tables_putTarget (tables_modHalyard hs) ht
      exact tables_reportHere (tables_modCol (s := { t with images := _ }) h1)

theorem tables_completeQueues {c d s} (hs : TablesCanonical s) : TablesCanonical (completeQueues c d s) := tables_ite (tables_modHalyard hs) hs

theorem tables_targetAcked {c s} (hs : TablesCanonical s) : TablesCanonical (targetAcked c s) := by
  unfold targetAcked
  split
  · exact tables_ite (tables_ite (tables_modCol (tables_completeQueues hs)) (tables_reportHere (tables_modCol (tables_completeQueues hs)))) hs
  · exact hs

theorem tables_copyImage {c d s} (hs : TablesCanonical s) : TablesCanonical (copyImage c d s) := by
  unfold copyImage
  extract_lets r
  split
  · refine tables_ite hs ?_
    extract_lets
    split
    · rename_i t ht
      have h1 : TablesCanonical t := tables_putTarget (tables_modHalyard hs) ht
      exact h1
    · exact hs
  · exact hs

theorem tables_durableEvent {c copy s} (hs : TablesCanonical s) : TablesCanonical (durableEvent c copy s) := by
  unfold durableEvent
  dsimp only
  split
  · exact tables_ite (tables_targetAcked hs) hs
  · exact tables_ite (tables_targetAcked (tables_copyImage hs)) hs

end Sys2Proof.Machine
end

section
/-! PROOFS. Every step keeps the tables canonical (R189, R114).
Loss of a package, and a restoration's phases (R323 to R325, R339). -/

namespace Sys2Proof.Machine

theorem tables_linksDown {lid s} (hs : TablesCanonical s) : TablesCanonical (linksDown lid s) := tables_ite (tables_nowLost hs) hs

theorem tables_losePackage {lid s} (hs : TablesCanonical s) : TablesCanonical (losePackage lid s) := tables_ite (tables_nowFailed hs) hs

theorem tables_bindTargets {r s} (hs : TablesCanonical s) : TablesCanonical (bindTargets r s) := tables_foldl (fun _ _ h1 => h1) hs

theorem tables_stopColour {c s} (hs : TablesCanonical s) : TablesCanonical (stopColour c s) := tables_modCol (tables_clearColour hs)

theorem tables_passSlice {gone s r} (hs : TablesCanonical s) : TablesCanonical (passSlice gone s r) := by
  unfold passSlice
  extract_lets free
  have h1 : TablesCanonical free := hs
  clear_value free
  split
  · exact tables_ite h1 hs
  · exact tables_ite h1 (tables_ite (tables_zeroSlice _ _ _ _ hs) (tables_ite hs hs))

theorem tables_settleCores {s} (hs : TablesCanonical s) : TablesCanonical (settleCores s) :=
  tables_foldl (fun _ _ h1 => tables_unparkReady (tables_fillOpen h1)) hs

theorem tables_discardCtxs {m s0} (hs : TablesCanonical s0) : TablesCanonical (discardCtxs m s0) :=
  tables_settleCores (tables_foldl (fun _ _ h1 => tables_passSlice h1) (tables_foldl (fun _ _ h1 => h1) (tables_foldl (fun _ _ h1 => tables_dropRing h1)
    (tables_stopColour (tables_stopColour hs)))))

theorem tables_startRestore {fn r a} (hs : TablesCanonical a) : TablesCanonical (startRestore fn r a) := by
  unfold startRestore
  refine tables_askedBy ?_ ?_
  · exact hs
  · intro _ h1
    split
    · exact tables_tellHost h1
    · split
      · exact tables_tellHost h1
      · extract_lets s1
        have h2 : TablesCanonical s1 := tables_bindTargets (tables_discardCtxs h1)
        clear_value s1
        split
        · exact tables_tellHost h2
        · exact h2
        · exact h2

theorem tables_phaseStep {n f s} (hs : TablesCanonical s) (hff : ∀ y0 y1, TablesCanonical y1 → TablesCanonical (f y0 y1)) :
    TablesCanonical (phaseStep n f s) := by
  unfold phaseStep
  split
  · exact tables_ite (hff _ _ hs) hs
  · exact hs

theorem tables_insertLeaf {va leaf level} : ∀ {l base a}, TablesCanonical a.1 → TablesCanonical (insertLeaf va leaf level l base a).1
  | 0, _, _, h => h
  | l + 1, base, (s, next), h => by
    unfold insertLeaf
    dsimp only
    split
    · exact tables_rawWrite _ _ _ h
    · split
      · exact tables_insertLeaf h
      · exact tables_insertLeaf (a := (_, _)) (tables_rawWrite _ _ _ (tables_rawClear _ _ _ h))

theorem tables_buildTables {m acc r} (hs : TablesCanonical acc.1) : TablesCanonical (buildTables m acc r).1 :=
  foldl_keeps (fun a : State × Nat => TablesCanonical a.1) _ (fun _ _ h => tables_insertLeaf h) _ _ (tables_rawClear _ _ _ hs)

theorem tables_loadZeroMap {pend s e} (hs : TablesCanonical s) : TablesCanonical (loadZeroMap pend s e) := tables_ite hs (tables_ite hs hs)

theorem tables_loadSliceRow {m s r} (hs : TablesCanonical s) : TablesCanonical (loadSliceRow m s r) := tables_zeroSlice _ _ _ _ hs

theorem tables_overLine {pa bs psn s0} (hs : TablesCanonical s0) : TablesCanonical (overLine pa bs psn s0) := by
  have h1 := tables_zeroMapWrite s0 pa hs
  exact h1.withMem _ (wf_putBytes _ _ _ h1.1)

theorem tables_loadL1 {m s r} (hs : TablesCanonical s) : TablesCanonical (loadL1 m s r) := by
  unfold loadL1
  split
  · split
    · exact tables_overLine hs
    · exact hs
  · split
    · exact tables_overLine hs
    · exact hs
  · exact hs

theorem tables_addSaved {v s} (hs : TablesCanonical s) : TablesCanonical (addSaved v s) := by
  unfold addSaved
  split
  · exact hs
  · exact hs

theorem tables_loadRec {m s r} (hs : TablesCanonical s) : TablesCanonical (loadRec m s r) := by
  unfold loadRec
  split
  · split
    · exact hs.withMem _ (wf_putWords _ _ _ hs.1)
    · exact hs
  · split
    · exact tables_overLine hs
    · exact hs
  · split
    · split
      · exact hs.withScr _ (wf_putWords _ _ _ (Sparse.wf_clear _ _ _ _ hs.2.1))
      · exact hs
    · exact hs
  · exact hs.withScr _ (wf_putBytes _ _ _ hs.2.1)
  · exact hs.withDsc _ (wf_putWords _ _ _ (Sparse.wf_clear _ _ _ _ hs.2.2.1))
  · exact hs.withDsc _ (wf_putBytes _ _ _ hs.2.2.1)
  · split
    · exact hs.withVrf _ (foldl_keeps (fun m => Sparse.wf 0#32 m = true) _ (fun m _ hm => Sparse.wf_set _ m _ _ hm) _ _ hs.2.2.2.2.2.2)
    · exact hs
  · exact tables_addSaved hs
  · exact hs

theorem tables_memoryPhase {m s} (hs : TablesCanonical s) : TablesCanonical (memoryPhase m s) := by
  unfold memoryPhase
  extract_lets s1 s2 s3 rows s4
  have h1 : TablesCanonical s1 := tables_foldl (fun _ _ h => tables_rawClear _ _ _ h) hs
  have h2 : TablesCanonical s2 := foldl_keeps (fun a : State × Nat => TablesCanonical a.1) _ (fun _ _ h => tables_buildTables h) _ _ h1
  have h3 : TablesCanonical s3 := tables_foldl (fun _ _ h => tables_loadZeroMap h) h2
  have h4 : TablesCanonical s4 := tables_foldl (fun _ _ h => tables_loadSliceRow h) h3
  exact tables_foldl (fun _ _ h => tables_loadL1 h) (tables_foldl (fun _ _ h => tables_loadRec h) h4)

theorem tables_replayPacket {s p} (hs : TablesCanonical s) : TablesCanonical (replayPacket s p) := by
  unfold replayPacket
  extract_lets line pa
  split
  · exact tables_ite (tables_setDir hs) hs
  · refine tables_ite (tables_homeWrite hs) ?_
    split
    · exact tables_homeWrite hs
    · exact hs
  · split
    · rename_i hr; exact tables_wholeGroup hs hr
    · rename_i hr; exact tables_homeWrite (tables_wholeGroup hs hr)
  · exact hs

theorem tables_channelPhase {m s} (hs : TablesCanonical s) : TablesCanonical (channelPhase m s) := tables_foldl (fun _ _ h1 => tables_replayPacket h1) hs

theorem tables_sendPeerLine {s ga bs psn} (hs : TablesCanonical s) : TablesCanonical (sendPeerLine s ga bs psn) := tables_sendPkt hs

theorem tables_peerLinePhase {m s} (hs : TablesCanonical s) : TablesCanonical (peerLinePhase m s) := by
  unfold peerLinePhase
  extract_lets s1
  have h1 : TablesCanonical s1 := by
    dsimp only [s1]
    refine tables_foldl (fun s x h1 => ?_) hs
    split
    · exact tables_sendPeerLine h1
    · exact tables_sendPeerLine h1
    · exact h1
  refine tables_foldl (fun s x h2 => ?_) h1
  split
  · split
    · exact tables_sendPeerLine h2
    · exact h2
  · split
    · exact tables_sendPeerLine h2
    · exact h2
  · exact h2

theorem tables_loadObject {s e} (hs : TablesCanonical s) : TablesCanonical (loadObject s e) := by
  unfold loadObject
  split
  case h_4 => exact tables_reloadUnitBytes _ _ _ _ _ _ hs
  case h_5 => exact hs.withAcc _ (wf_putBytes _ _ _ (Sparse.wf_clear _ _ _ _ hs.2.2.2.2.2.1))
  case h_10 => exact tables_growSplit hs
  all_goals exact hs

theorem tables_objectPhase {m s} (hs : TablesCanonical s) : TablesCanonical (objectPhase m s) := tables_foldl (fun _ _ h1 => tables_loadObject h1) hs

theorem tables_startPhase {m s} (hs : TablesCanonical s) : TablesCanonical (startPhase m s) := by
  unfold startPhase
  extract_lets s1
  have h1 : TablesCanonical s1 := hs
  exact tables_tellHost (tables_foldl (fun _ _ h => tables_unparkReady h) h1)

end Sys2Proof.Machine
end

section
/-! PROOFS. Every step keeps the tables canonical (R189, R114).
Device events (R354 to R363). -/

namespace Sys2Proof.Machine

theorem tables_holdLow {s} (hs : TablesCanonical s) : TablesCanonical (holdLow s) := tables_tellHost hs

theorem tables_hotJunction {j s} (hs : TablesCanonical s) : TablesCanonical (hotJunction j s) :=
  tables_ite (tables_holdLow hs) (tables_ite (tables_holdLow hs) (tables_ite hs hs))

theorem tables_windowEvent {watts j s} (hs : TablesCanonical s) : TablesCanonical (windowEvent watts j s) :=
  tables_ite (tables_hotJunction hs) (tables_ite hs (tables_ite (tables_ite hs hs) hs))

theorem tables_healthEvent {h s} (hs : TablesCanonical s) : TablesCanonical (healthEvent h s) := tables_ite hs hs

theorem tables_countEcc {ctx s} (hs : TablesCanonical s) : TablesCanonical (countEcc ctx s) := by
  unfold countEcc
  dsimp only
  split
  · exact tables_modCtx hs
  · exact hs

theorem tables_scrubEvent {stack s} (hs : TablesCanonical s) : TablesCanonical (scrubEvent stack s) := tables_foldl (fun _ _ h1 => tables_countEcc h1) hs

theorem tables_retrainEvent {port s} (hs : TablesCanonical s) : TablesCanonical (retrainEvent port s) := tables_ite hs (tables_ite hs hs)

theorem tables_expanderLost {base size s} (hs : TablesCanonical s) : TablesCanonical (expanderLost base size s) := tables_ite hs hs

theorem tables_hostData {fn ctx va bytes s} (hs : TablesCanonical s) : TablesCanonical (hostData fn ctx va bytes s) := by
  refine tables_withLines hs (fun s h1 => tables_ite h1 ?_)
  split
  · rename_i ht; exact tables_ctxWrite h1 ht
  · exact h1

theorem tables_hostVector {fn ctx bytes s} (hs : TablesCanonical s) : TablesCanonical (hostVector fn ctx bytes s) :=
  tables_ite (tables_modCtx hs) (tables_tellHost hs)

theorem tables_hostEntry {fn ctx a bytes s} (hs : TablesCanonical s) : TablesCanonical (hostEntry fn ctx a bytes s) :=
  tables_ite (tables_withLines hs (fun _ h1 => tables_ite (tables_writePhys _ _ _ _ _ h1) h1)) (tables_tellHost hs)

theorem tables_hostWrite {fn ctx va bytes s0} (hs : TablesCanonical s0) : TablesCanonical (hostWrite fn ctx va bytes s0) :=
  tables_askedBy hs (fun _ h1 => tables_ite h1 (tables_ite (tables_hostData h1) (tables_ite (tables_hostVector h1) (tables_hostEntry h1))))

theorem tables_evictL2 {line s} (hs : TablesCanonical s) : TablesCanonical (evictL2 line s) := by
  unfold evictL2
  extract_lets s1
  have h1 : TablesCanonical s1 := by
    dsimp only [s1]
    split
    · exact tables_dropL2 (tables_l2ToMem _ _ hs)
    · exact hs
  split
  · exact tables_ite h1 (tables_ite (tables_dropL2 h1) (tables_ite h1 (tables_writeBackPeer h1)))
  · exact h1

theorem tables_evictEvent {c line s} (hs : TablesCanonical s) : TablesCanonical (evictEvent c line s) := by
  unfold evictEvent
  split
  · exact tables_flushL1 (tables_flushL1 hs)
  · exact tables_evictL2 hs

theorem tables_recoveryEvent {img s} (hs : TablesCanonical s) : TablesCanonical (recoveryEvent img s) := tables_ite hs (tables_ite hs (tables_tellHost hs))

end Sys2Proof.Machine
end

section
/-! PROOFS. Every step keeps the tables canonical (R189, R114).
The end of a bundle, and what comes from outside (R40, R147). -/

namespace Sys2Proof.Machine

theorem tables_retire {s gid tick} (hs : TablesCanonical s) : TablesCanonical (retire s gid tick) := by
  unfold retire
  split
  · exact tables_foldl (fun _ _ h1 => tables_applyPend h1) (tables_modGang hs)
  · exact hs

theorem tables_finishBundle {packed zw s} (hs : TablesCanonical s) : TablesCanonical (finishBundle packed zw s) := by
  unfold finishBundle
  dsimp only
  split
  · exact hs
  · exact tables_modGang (tables_retire hs)

theorem tables_poisonGranule {u s} (hs : TablesCanonical s) : TablesCanonical (poisonGranule u s) := by
  unfold poisonGranule
  dsimp only
  split
  · exact hs
  · exact hs
  · exact hs
  · exact hs
  · exact hs
  · exact hs
  · split
    · exact tables_setL1 hs
    · exact hs
  · split
    · exact tables_setL2 _ _ hs
    · exact hs
  · exact hs
  · exact hs

theorem tables_upsetEvent {u s} (hs : TablesCanonical s) : TablesCanonical (upsetEvent u s) := by
  unfold upsetEvent
  split
  · exact tables_poisonGranule hs
  · split
    · exact hs
    · exact hs
    · exact hs
    · exact tables_countEcc hs

theorem tables_imageStored {m s} (hs : TablesCanonical s) : TablesCanonical (imageStored m s) := tables_ite hs hs

theorem tables_countIdle {s} (hs : TablesCanonical s) : TablesCanonical (countIdle s) := tables_foldl (fun _ _ h1 => tables_ite h1 h1) hs

end Sys2Proof.Machine
end

section
/-! PROOFS. Every step keeps the tables canonical (R189, R114).
Words and events. -/

namespace Sys2Proof.Machine

/-- No instruction faults or is refused at this level, and each leaves every table canonical. -/
theorem tables_exec {i s} (hs : TablesCanonical s) : ∃ t, exec i s = .next t ∧ TablesCanonical t := by
  cases i
  case nop | hbmCalibration => exact ⟨_, rfl, hs⟩
  case mod => exact ⟨_, rfl, tables_ite hs hs⟩
  case iadd | isub | imul | imad => exact ⟨_, rfl, tables_finishedInt hs⟩
  case imulhs | imulhn | imins | iminn | imaxs | imaxn | and | or | xor | andn | shl | shr | sar | rot | bfe | bfi => exact ⟨_, rfl, tables_plainInt hs⟩
  case fadd | fsub | fmul | ffma => exact ⟨_, rfl, tables_fp32Word hs⟩
  case fmin | fmax => exact ⟨_, rfl, tables_minMaxWord hs⟩
  case hadd | hmul | hfma | badd | bmul | bfma => exact ⟨_, rfl, tables_packedFloat hs⟩
  case padd | psub | pmul => exact ⟨_, rfl, tables_finishedPacked hs⟩
  case pmac | ppack | lmul | sel | cvt => exact ⟨_, rfl, tables_runWord hs (fun _ _ _ _ h1 => tables_laneResults h1)⟩
  case pshr | pmin | pmax => exact ⟨_, rfl, tables_plainPacked hs⟩
  case icmp | fcmp | hcmp | plog => exact ⟨_, rfl, tables_runWord hs (fun _ _ _ _ h1 => tables_predResults h1)⟩
  case vunMov | vunNot | vunIneg | vunIabs | vunPopc | vunClz | vunCtz | vunBrev | vunBswap | vunFrint | vunFfloor | vunFceil | vunFtrunc =>
    exact ⟨_, rfl, tables_unaryWord hs⟩
  case xfnRcp | xfnRsq | xfnSqrt | xfnExp2 | xfnLog2 | xfnSin | xfnCos | xfnTanh => exact ⟨_, rfl, tables_xfnWord hs⟩
  case slided | slideu | shfl => exact ⟨_, rfl, tables_crossWord hs⟩
  case red | scan | call | csrwWrite | csrwSet | csrwClr | csrwSwap => exact ⟨_, rfl, tables_runWord hs (fun _ _ _ _ h1 => tables_pushPend h1)⟩
  case voteAny | voteAll | voteCount => exact ⟨_, rfl, tables_voteWord hs⟩
  case voteBallot | rand => exact ⟨_, rfl, tables_runWord hs (fun _ _ _ _ h1 => tables_lanePairs h1)⟩
  case kopMov | kopAdd | kopSub | kopMul | kopAnd | kopOr | kopXor | kopShl | kopShr | kopSar | kopMins | kopMinn | kopMaxs | kopMaxn =>
    exact ⟨_, rfl, tables_kopWord hs⟩
  case kopAdd64 | kopMov64 => exact ⟨_, rfl, tables_kopPair hs⟩
  case kmovK | kmovV => exact ⟨_, rfl, tables_kmovWord hs⟩
  case kliShort | kliPimm => exact ⟨_, rfl, tables_runWord hs (fun _ _ _ _ h1 => tables_uniResult h1)⟩
  case xset | xadd => exact ⟨_, rfl, tables_indexWord hs⟩
  case bra | brx | ret | trap | reservedMajor => exact ⟨_, rfl, tables_runWord hs (fun _ _ _ _ h1 => h1)⟩
  case join | leave | serb | sere | exitW | tret => exact ⟨_, rfl, tables_runWord hs (fun _ _ _ _ h1 => tables_modGang h1)⟩
  case waitm | yieldW => exact ⟨_, rfl, tables_runWord hs (fun _ _ _ _ h1 => tables_drain (tables_modGang h1))⟩
  case elect => exact ⟨_, rfl, tables_runWord hs (fun _ _ _ _ h1 => tables_uniResult (tables_predResults h1))⟩
  case wait =>
    refine ⟨_, rfl, ?_⟩
    refine tables_runWord hs (fun g m act y h1 => ?_)
    extract_lets s1
    have h2 : TablesCanonical s1 := tables_drain h1
    clear_value s1
    split
    · exact tables_ite h2 (tables_blockOn h2)
    · exact h2
  case ld => exact ⟨_, rfl, tables_runWord hs (fun _ _ _ _ h1 => tables_ite (tables_startOp h1) (tables_startMem h1))⟩
  case st => exact ⟨_, rfl, tables_runWord hs (fun _ _ _ _ h1 => tables_startOp (tables_ite (tables_fwdStore h1) h1))⟩
  case ldl => exact ⟨_, rfl, tables_runWord hs (fun _ _ _ _ h1 => tables_startMem h1)⟩
  case psh => exact ⟨_, rfl, tables_runWord hs (fun _ _ _ _ h1 => tables_modGang (tables_startOp h1))⟩
  case pop => exact ⟨_, rfl, tables_runWord hs (fun _ _ _ _ h1 => tables_modGang (tables_startMem h1))⟩
  case atomAdd | atomMins | atomMinn | atomMaxs | atomMaxn | atomAnd | atomOr | atomXor | atomExch | atomCas | atomFadd | atomFmin | atomFmax
      | redm =>
    exact ⟨_, rfl, tables_atomWord hs⟩
  case fence => exact ⟨_, rfl, tables_runWord hs (fun _ _ _ _ h1 => tables_ite (tables_ite h1 (tables_predResults h1)) (tables_startOp h1))⟩
  case clineWb | clineWbi | clineMem => exact ⟨_, rfl, tables_clineWord hs⟩
  case zfill | acmovToreg | tlnch | tcapt | trst | balloc | bfree | barvArrive | barvNoarr | barvDrop =>
    exact ⟨_, rfl, tables_runWord hs (fun _ _ _ _ h1 => tables_startOp h1)⟩
  case cpy =>
    refine ⟨_, rfl, ?_⟩
    refine tables_runWord hs (fun g m act y h1 => ?_)
    extract_lets n h cl s0 s1
    have h2 : TablesCanonical s0 := tables_foldl (fun _ _ h2 => tables_settleL1 (tables_settleL1 h2)) h1
    clear_value s0
    have h3 : TablesCanonical s1 := tables_askDests h2
    clear_value s1
    split
    · exact tables_startOp (tables_setRing h3)
    · exact tables_startOp (tables_ite h3 (tables_barRef h3))
  case obres | acalloc | ringCreate | ringRel => exact ⟨_, rfl, tables_runWord hs (fun _ _ _ _ h1 => tables_blockOn h1)⟩
  case obrel =>
    refine ⟨_, rfl, ?_⟩
    refine tables_runWord hs (fun g m act y h1 => ?_)
    split
    · exact tables_setRec h1
    · exact h1
  case obld =>
    exact ⟨_, rfl, tables_runWord hs (fun _ _ _ _ h1 => tables_ite (tables_startEngine h1) (tables_ite (tables_startEngine h1) (tables_startEngine h1)))⟩
  case wbld =>
    refine ⟨_, rfl, ?_⟩
    refine tables_runWord hs (fun g m act y h1 => ?_)
    extract_lets h n ps hd gn sc s1
    have h2 : TablesCanonical s1 := by
      unfold s1
      split
      · exact tables_setRec h1
      · exact h1
    exact tables_startEngine h2
  case acfree => exact ⟨_, rfl, tables_runWord hs (fun _ _ _ _ h1 => tables_ite (tables_drain h1) (tables_blockOn (tables_drain h1)))⟩
  case mma =>
    exact ⟨_, rfl, tables_runWord hs (fun _ _ _ _ h1 => tables_startOp (tables_eccPlaces (tables_ite (tables_barRef (tables_ite (tables_barRef h1) h1))
        (tables_ite (tables_barRef h1) h1))))⟩
  case acmovTogl | acmovTosp | acmovFromsp => exact ⟨_, rfl, tables_acmovWord hs⟩
  case twset =>
    exact ⟨_, rfl, tables_runWord hs (fun _ _ _ _ h1 => tables_ite (tables_pushPend h1) (tables_ite (tables_pushPend h1) (tables_blockOn h1)))⟩
  case tldw => exact ⟨_, rfl, tables_runWord hs (fun _ _ _ _ h1 => tables_startEngine h1)⟩
  case trstRel => exact ⟨_, rfl, tables_runWord hs (fun _ _ _ _ h1 => tables_pushPend (tables_startOp h1))⟩
  case bwait =>
    refine ⟨_, rfl, ?_⟩
    refine tables_runWord hs (fun g m act y h1 => ?_)
    extract_lets h par s1
    have h2 : TablesCanonical s1 := tables_drain h1
    clear_value s1
    split
    · exact tables_ite (tables_blockOn h2) (tables_bwaitEnd h2)
    · exact tables_bwaitEnd h2
  case rawait => exact ⟨_, rfl, tables_runWord hs (fun _ _ _ _ h1 => tables_blockOn (tables_drain h1))⟩
  case rrel =>
    refine ⟨_, rfl, ?_⟩
    refine tables_runWord hs (fun g m act y h1 => ?_)
    extract_lets h s1
    have h2 : TablesCanonical s1 := by
      unfold s1
      split
      · exact tables_setRing h1
      · exact h1
    exact tables_startOp h2
  case csrr => exact ⟨_, rfl, tables_runWord hs (fun _ _ _ _ h1 => tables_pushPend (tables_csrLatch h1))⟩
  case snap =>
    refine ⟨_, rfl, ?_⟩
    refine tables_runWord hs (fun g m act y h1 => ?_)
    extract_lets id grp s1
    have h2 : TablesCanonical s1 := tables_startOp h1
    clear_value s1
    exact h2
  case snapq => exact ⟨_, rfl, tables_runWord hs (fun _ _ _ _ h1 => tables_ite (tables_askState (tables_startOp h1)) (tables_startOp h1))⟩
  case waitRelease => exact ⟨_, rfl, tables_waitEvent hs⟩
  case stallRelease => exact ⟨_, rfl, tables_stallEvent hs⟩
  case walkComplete => exact ⟨_, rfl, tables_walkEvent hs⟩
  case loadComplete => exact ⟨_, rfl, tables_loadEvent hs⟩
  case storePerformed => exact ⟨_, rfl, tables_storeEvent hs⟩
  case atomComplete => exact ⟨_, rfl, tables_atomEvent hs⟩
  case fenceComplete => exact ⟨_, rfl, tables_fenceEvent hs⟩
  case lostPeerBound => exact ⟨_, rfl, tables_lostBound hs⟩
  case clineComplete => exact ⟨_, rfl, tables_clineEvent hs⟩
  case cpyComplete => exact ⟨_, rfl, tables_cpyEvent hs⟩
  case engineRecall => exact ⟨_, rfl, tables_atomEvent (tables_storeEvent (tables_loadEvent hs))⟩
  case obresGrant => exact ⟨_, rfl, tables_obresGrantEvent hs⟩
  case obrelFree =>
    refine ⟨_, rfl, ?_⟩
    split
    · exact tables_ite hs hs
    · exact hs
  case obldComplete => exact ⟨_, rfl, tables_obldEvent hs⟩
  case wbldComplete => exact ⟨_, rfl, tables_wbldEvent hs⟩
  case weightFault => exact ⟨_, rfl, tables_weightEvent hs⟩
  case acallocGrant => exact ⟨_, rfl, tables_acallocEvent hs⟩
  case acfreeDone => exact ⟨_, rfl, tables_acfreeEvent hs⟩
  case mmaBarrierWaitEnd => exact ⟨_, rfl, tables_mmaWaitEvent hs⟩
  case mmaComplete => exact ⟨_, rfl, tables_mmaEvent hs⟩
  case acmovComplete => exact ⟨_, rfl, tables_acmovEvent hs⟩
  case twsetClaim => exact ⟨_, rfl, tables_twsetEvent hs⟩
  case tldwComplete => exact ⟨_, rfl, tables_tldwEvent hs⟩
  case tlnchComplete => exact ⟨_, rfl, tables_tlnchEvent hs⟩
  case tcaptComplete => exact ⟨_, rfl, tables_tcaptEvent hs⟩
  case trstApply => exact ⟨_, rfl, tables_trstEvent hs⟩
  case ballocComplete => exact ⟨_, rfl, tables_ballocEvent hs⟩
  case bfreeApply => exact ⟨_, rfl, tables_bfreeEvent hs⟩
  case barvApply => exact ⟨_, rfl, tables_barvEvent hs⟩
  case bwaitDone => exact ⟨_, rfl, tables_bwaitEvent hs⟩
  case ringGrant => exact ⟨_, rfl, tables_ringGrantEvent hs⟩
  case ringRelDone => exact ⟨_, rfl, tables_ringRelEvent hs⟩
  case rawaitTake => exact ⟨_, rfl, tables_rawaitEvent hs⟩
  case rrelApply => exact ⟨_, rfl, tables_rrelEvent hs⟩
  case snapComplete => exact ⟨_, rfl, tables_snapEvent hs⟩
  case snapqComplete => exact ⟨_, rfl, tables_snapqEvent hs⟩
  case powerOnReset => exact ⟨_, rfl, tables_bootUp hs⟩
  case createContext => exact ⟨_, rfl, tables_createCtx hs⟩
  case removeContext => exact ⟨_, rfl, tables_removeCtx hs⟩
  case createQueue => exact ⟨_, rfl, tables_createQueueEvent hs⟩
  case removeQueue => exact ⟨_, rfl, tables_ite hs (tables_tellHost hs)⟩
  case enableQueue | disableQueue => exact ⟨_, rfl, tables_switchQueue hs⟩
  case writePodMap => exact ⟨_, rfl, tables_podEvent hs⟩
  case writeGroupDescriptor => exact ⟨_, rfl, tables_groupEvent hs⟩
  case setSnapshotGroup => exact ⟨_, rfl, tables_setGroupEvent hs⟩
  case setFirmwarePolicy => exact ⟨_, rfl, tables_policyEvent hs⟩
  case loadSparImage => exact ⟨_, rfl, tables_sparEvent hs⟩
  case mastheadHandover => exact ⟨_, rfl, tables_handoverEvent hs⟩
  case readAttestationReport => exact ⟨_, rfl, tables_reportEvent hs⟩
  case kill => exact ⟨_, rfl, tables_killEvent hs⟩
  case killHandlerTimeout => exact ⟨_, rfl, tables_killTimeout hs⟩
  case stallWatchdog => exact ⟨_, rfl, tables_watchdogEvent hs⟩
  case hostSnapshotRequest => exact ⟨_, rfl, tables_hostSnapEvent hs⟩
  case invalidateTranslation => exact ⟨_, rfl, tables_invalidateEvent hs⟩
  case invalidationComplete => exact ⟨_, rfl, tables_invalidated hs⟩
  case queueScan => exact ⟨_, rfl, tables_scanEvent hs⟩
  case recordAccept => exact ⟨_, rfl, tables_acceptEvent hs⟩
  case spliceDecide => exact ⟨_, rfl, tables_spliceEvent hs⟩
  case placeBlock => exact ⟨_, rfl, tables_placeEvent hs⟩
  case scratchpadShrink => exact ⟨_, rfl, tables_shrinkEvent hs⟩
  case timeSliceEnd => exact ⟨_, rfl, tables_foldl (fun _ _ h1 => tables_preempt h1) hs⟩
  case sliceClaim => exact ⟨_, rfl, tables_claimEvent hs⟩
  case resumeBlock => exact ⟨_, rfl, tables_resumeEvent hs⟩
  case ownerChangeZero => exact ⟨_, rfl, tables_ownerChange hs⟩
  case gangEnd => exact ⟨_, rfl, tables_gangEndEvent hs⟩
  case launchEnd => exact ⟨_, rfl, tables_launchEndEvent hs⟩
  case collectivePush => exact ⟨_, rfl, tables_onStep hs (fun _ _ h1 => tables_pushStep h1)⟩
  case collectivePull => exact ⟨_, rfl, tables_onStep hs (fun _ _ h1 => tables_pullStep h1)⟩
  case collectiveFlag => exact ⟨_, rfl, tables_onStep hs (fun _ _ h1 => tables_flagStep h1)⟩
  case collectiveWaitf => exact ⟨_, rfl, tables_onStep hs (fun _ _ h1 => tables_waitStep h1)⟩
  case readRequest => exact ⟨_, rfl, tables_deliver hs (fun _ h1 => tables_readRequestAct h1)⟩
  case readData => exact ⟨_, rfl, tables_deliver hs (fun _ h1 => tables_readDataAct h1)⟩
  case ownershipRequest => exact ⟨_, rfl, tables_deliver hs (fun _ h1 => tables_ownershipRequestAct h1)⟩
  case ownershipGrant => exact ⟨_, rfl, tables_deliver hs (fun _ h1 => tables_ownershipGrantAct h1)⟩
  case storeData => exact ⟨_, rfl, tables_deliver hs (fun _ h1 => tables_storeDataAct h1)⟩
  case invalidation => exact ⟨_, rfl, tables_deliver hs (fun _ h1 => tables_invalidationAct h1)⟩
  case acknowledgement => exact ⟨_, rfl, tables_deliver hs (fun _ h1 => tables_ackAct h1)⟩
  case atomicRequest => exact ⟨_, rfl, tables_deliver hs (fun _ h1 => tables_atomicRequestAct h1)⟩
  case multicastStore => exact ⟨_, rfl, tables_deliver hs (fun _ h1 => tables_mcastStoreAct h1)⟩
  case multicastLoad => exact ⟨_, rfl, tables_deliver hs (fun _ h1 => tables_mcastLoadAct h1)⟩
  case promotionRequest => exact ⟨_, rfl, tables_deliver hs (fun _ h1 => tables_promotionAct h1)⟩
  case remoteAcquireAnswer => exact ⟨_, rfl, tables_remoteAnswer hs⟩
  case telltale => exact ⟨_, rfl, tables_telltaleEvent hs⟩
  case collectiveStep => exact ⟨_, rfl, tables_deliver hs (fun _ h1 => tables_collectiveAct h1)⟩
  case reservedClassPacket => exact ⟨_, rfl, tables_reservedPacket hs⟩
  case snapshotRequest => exact ⟨_, rfl, tables_serveRequest hs⟩
  case halyardSweep => exact ⟨_, rfl, tables_sweepUnit hs⟩
  case captureQueueRoom => exact ⟨_, rfl, tables_captureRoom hs⟩
  case localDone => exact ⟨_, rfl, tables_localDoneEvent hs⟩
  case durableAck => exact ⟨_, rfl, tables_durableEvent hs⟩
  case free => exact ⟨_, rfl, tables_ite (tables_ite (tables_freeHere hs) hs) (tables_freeHere hs)⟩
  case freeAck => exact ⟨_, rfl, tables_ite (tables_ackFrom hs) hs⟩
  case commit => exact ⟨_, rfl, tables_ite (tables_ite (tables_commitHere hs) hs) (tables_commitHere hs)⟩
  case durabilityBoundExpiry | targetWriteFailure => exact ⟨_, rfl, tables_ite (tables_abortGroup hs) hs⟩
  case linkDetectionTimeout => exact ⟨_, rfl, tables_linksDown hs⟩
  case markPackageFailed => exact ⟨_, rfl, tables_losePackage hs⟩
  case startRestoration => exact ⟨_, rfl, tables_startRestore hs⟩
  case restoreMemory => exact ⟨_, rfl, tables_phaseStep hs (fun _ _ h1 => tables_memoryPhase h1)⟩
  case restoreChannels => exact ⟨_, rfl, tables_phaseStep hs (fun _ _ h1 => tables_channelPhase h1)⟩
  case restorePeerLines => exact ⟨_, rfl, tables_phaseStep hs (fun _ _ h1 => tables_peerLinePhase h1)⟩
  case restoreObjects => exact ⟨_, rfl, tables_phaseStep hs (fun _ _ h1 => tables_objectPhase h1)⟩
  case restoreGangs => exact ⟨_, rfl, tables_phaseStep hs (fun _ _ h1 => h1)⟩
  case restoreStart => exact ⟨_, rfl, tables_ite hs (tables_phaseStep hs (fun _ _ h1 => tables_startPhase h1))⟩
  case powerWindow => exact ⟨_, rfl, tables_windowEvent hs⟩
  case junctionHot => exact ⟨_, rfl, tables_hotJunction hs⟩
  case thermalAlarm | thermalShutdown => exact ⟨_, rfl, tables_ite (tables_hotJunction hs) hs⟩
  case healthMonitorTick => exact ⟨_, rfl, tables_healthEvent hs⟩
  case hbmScrub => exact ⟨_, rfl, tables_scrubEvent hs⟩
  case portRetrain => exact ⟨_, rfl, tables_retrainEvent hs⟩
  case cxlExpanderLost => exact ⟨_, rfl, tables_expanderLost hs⟩
  case hostPcieWrite => exact ⟨_, rfl, tables_hostWrite hs⟩
  case lineEviction => exact ⟨_, rfl, tables_evictEvent hs⟩
  case powerLoss => exact ⟨_, rfl, tables_afterSupply hs⟩
  case recoveryImageLoad => exact ⟨_, rfl, tables_recoveryEvent hs⟩
  case groupStateQuery => exact ⟨_, rfl, tables_ite (tables_sendCoord hs) hs⟩
  case rootDigestReport => exact ⟨_, rfl, tables_ite (tables_reportFrom hs) hs⟩

end Sys2Proof.Machine
end

section
/-! PROOFS. Every step keeps the tables canonical (R189, R114).
A turn of the machine. -/

namespace Sys2Proof.Machine

theorem tables_roomed {s t : State} {o : Host.Outcome State Fault Refusal} (hs : TablesCanonical s) (ho : ∀ t, o = .next t → TablesCanonical t)
    (h : roomed s o = .next t) : TablesCanonical t := by
  unfold roomed at h
  split at h
  case h_1 u =>
    obtain rfl := Host.Outcome.next.inj h
    exact tables_ite (ho _ rfl) hs
  case h_2 | h_3 => exact nomatch h

theorem tables_runWords {ws : List BundleWord} {s t : State} (hs : TablesCanonical s) (h : runWords ws s = .next t) : TablesCanonical t := by
  induction ws generalizing s with
  | nil => exact Host.Outcome.next.inj h ▸ hs
  | cons w ws ih =>
    unfold runWords at h
    split at h
    · exact ih hs h
    · rename_i i _
      obtain ⟨u, hu, hcanon⟩ := tables_exec (i := i) (s := atWord s w) hs
      rw [hu] at h
      exact ih hcanon h

theorem tables_runBundle {packed : Bool} {g : Gang} {s t : State} (hs : TablesCanonical s) (h : runBundle packed g s = .next t) :
    TablesCanonical t := by
  unfold runBundle at h
  dsimp only at h
  split at h
  · exact Host.Outcome.next.inj h ▸ tables_faultBundle hs
  · split at h
    · exact Host.Outcome.next.inj h ▸ tables_claimBundle hs
    · split at h
      · exact Host.Outcome.next.inj h ▸ tables_faultBundle hs
      · exact Host.Outcome.next.inj h ▸ tables_holdBundle hs
      · split at h
        · exact Host.Outcome.next.inj h ▸ tables_blockOn hs
        · split at h
          · rename_i u hu
            exact Host.Outcome.next.inj h ▸ tables_finishBundle (tables_runWords (by exact hs) hu)
          · exact nomatch h
          · exact nomatch h

theorem tables_issueGang {packed : Bool} {gid : Nat} {s t : State} (hs : TablesCanonical s) (h : issueGang packed gid s = .next t) :
    TablesCanonical t := by
  unfold issueGang at h
  split at h
  · exact Host.Outcome.next.inj h ▸ hs
  · split at h
    · exact Host.Outcome.next.inj h ▸ hs
    · split at h
      · exact Host.Outcome.next.inj h ▸ hs
      · rename_i g pc lanes _
        have h1 : TablesCanonical (setGang s g) := hs
        generalize setGang s g = s1 at h h1
        dsimp only at h
        split at h
        · exact Host.Outcome.next.inj h ▸ tables_enterTrap h1 (fun _ h2 => tables_takeWeight h2)
        · split at h
          · split at h
            · exact Host.Outcome.next.inj h ▸ tables_holdBundle h1
            · exact Host.Outcome.next.inj h ▸ tables_packetFault h1
          · have h2 : TablesCanonical (fetched g (pc &&& ~~~0xF#64).toNat s1) := tables_fetched h1
            generalize fetched g (pc &&& ~~~0xF#64).toNat s1 = s2 at h h2
            split at h
            · exact Host.Outcome.next.inj h ▸ tables_packetFault h2
            · split at h
              · exact Host.Outcome.next.inj h ▸ tables_packetFault h2
              · split at h
                · exact Host.Outcome.next.inj h ▸ tables_packetFault h2
                · split at h
                  · exact Host.Outcome.next.inj h ▸ tables_holdBundle h2
                  · exact tables_runBundle (by exact h2) h

theorem tables_issueAll {packed : Bool} {gids : List Nat} {s t : State} (hs : TablesCanonical s) (h : issueAll packed gids s = .next t) :
    TablesCanonical t := by
  induction gids generalizing s with
  | nil => exact Host.Outcome.next.inj h ▸ hs
  | cons gid gids ih =>
    unfold issueAll at h
    split at h
    · rename_i u hu
      exact ih (tables_roomed hs (fun _ => tables_issueGang hs) hu) h
    · exact nomatch h
    · exact nomatch h

theorem tables_issueTurn {core part : Nat} {s t : State} (hs : TablesCanonical s) (h : issueTurn core part s = .next t) : TablesCanonical t := by
  unfold issueTurn at h
  have h1 : TablesCanonical (countBlocked core part s) := hs
  generalize countBlocked core part s = s1 at h h1
  dsimp only at h
  split at h
  · exact Host.Outcome.next.inj h ▸ h1
  · exact tables_issueAll h1 h

theorem tables_runTurn {tn : Turn} {s t : State} (hs : TablesCanonical s) (h : runTurn tn s = .next t) : TablesCanonical t := by
  unfold runTurn at h
  cases tn with
  | issue c p => exact tables_issueTurn hs h
  | event i =>
    obtain ⟨u, hu, hcanon⟩ := tables_exec (i := i) hs
    refine tables_roomed hs (fun v hv => ?_) h
    obtain rfl := Host.Outcome.next.inj (hu.symm.trans hv)
    exact hcanon
  | upset u => exact Host.Outcome.next.inj h ▸ tables_upsetEvent hs
  | paced ctx => exact Host.Outcome.next.inj h ▸ tables_modCtx hs
  | stored m => exact Host.Outcome.next.inj h ▸ tables_imageStored hs
  | idle => exact Host.Outcome.next.inj h ▸ tables_countIdle hs

/-- Settles O60: whatever the turn is, what it runs writes the tables through the operations of Laws/Sparse alone, none of which leaves a zero entry. -/
theorem stepKeepsTablesCanonical : Obligations.StepKeepsTablesCanonical := by
  intro s t hs h
  unfold step turn at h
  split at h
  · exact nomatch h
  · exact tables_runTurn (by exact hs) h

end Sys2Proof.Machine
end

section
/-! PROOFS. What the phases of a restoration leave alone (16_snapshot R323 to R325): captures, lines and tables are memory's side of the state. -/

namespace Sys2Proof.Machine

/-! ## The side of memory -/

/-- `t` is `s` but for memory, its caches and tables, the fabric and the captures; no context has come or gone. -/
def MemSide (s t : State) : Prop :=
  t = { s with mem := t.mem, memPsn := t.memPsn, l1 := t.l1, l2 := t.l2, dir := t.dir, tlb := t.tlb, zmaps := t.zmaps, owners := t.owners, fab := t.fab,
               col0 := t.col0, col1 := t.col1, capQ := t.capQ, tags := t.tags, ptags := t.ptags, ctxs := t.ctxs } ∧
    t.ctxs.map (·.id) = s.ctxs.map (·.id)

theorem MemSide.refl (s : State) : MemSide s s := ⟨rfl, rfl⟩

theorem MemSide.trans {s t u : State} (h : MemSide s t) (h' : MemSide t u) : MemSide s u := by
  obtain ⟨hst, hids⟩ := h
  obtain ⟨htu, hids'⟩ := h'
  refine ⟨?_, hids'.trans hids⟩
  rw [htu, hst]

theorem MemSide.foldl {α : Type} {f : State → α → State} (hf : ∀ s a, MemSide s (f s a)) (xs : List α) (s : State) : MemSide s (xs.foldl f s) := by
  induction xs generalizing s with
  | nil => exact .refl s
  | cons a xs ih => exact (hf s a).trans (ih _)

theorem ids_modCtx (cs : List CtxRow) (ctx : Nat) (f : CtxRow → CtxRow) (hf : ∀ r, (f r).id = r.id) :
    (cs.map (fun r => if r.id = ctx then f r else r)).map (·.id) = cs.map (·.id) := by
  rw [List.map_map]
  refine List.map_congr_left (fun r _ => ?_)
  by_cases h : r.id = ctx
  · simp [h, hf]
  · simp [h]

theorem memSide_sendCapture (s : State) (die ctx : Nat) (c : Colour) (r : SnapRec) : MemSide s (sendCapture s die ctx c r) := by
  cases c
  · exact ⟨rfl, ids_modCtx _ _ _ fun _ => rfl⟩
  · exact ⟨rfl, ids_modCtx _ _ _ fun _ => rfl⟩

theorem memSide_emitRec (s : State) (c : Colour) (r : SnapRec) : MemSide s (emitRec s c r) := by
  cases c
  · exact .refl _
  · exact .refl _

theorem memSide_setL2 (s : State) (r : L2Line) : MemSide s (setL2 s r) := by
  unfold setL2
  split
  · exact ⟨rfl, rfl⟩
  · exact ⟨rfl, rfl⟩

theorem memSide_putPteBit (s : State) (pte bit : Nat) (v : Bool) : MemSide s (putPteBit s pte bit v) := by
  unfold putPteBit
  extract_lets b m put leaf s1
  have h1 : MemSide s s1 := ⟨rfl, rfl⟩
  clear_value s1
  split
  · exact h1.trans (memSide_setL2 _ _)
  · exact h1

theorem memSide_pageLineDone (s : State) (t : PageTag) (i : Nat) : MemSide s (pageLineDone s t i) := by
  unfold pageLineDone
  dsimp only
  split
  · exact MemSide.trans ⟨rfl, rfl⟩ (memSide_putPteBit _ _ _ _)
  · exact ⟨rfl, rfl⟩

theorem memSide_captureLineFor (w : Wr) (c : Colour) (pa : Nat) (s : State) : MemSide s (captureLineFor w c pa s) := by
  unfold captureLineFor
  split
  · exact .refl s
  · exact .foldl (fun _ _ => (memSide_sendCapture ..).trans (memSide_pageLineDone _ _ _)) _ s

theorem memSide_patchFor (w : Wr) (c : Colour) (tagged : Bool) (u : CapUnit) (loc : Nat) (ws : List (Nat × Word)) (bs : List (Nat × Byte)) (s : State) :
    MemSide s (patchFor w c tagged u loc ws bs s) := by
  unfold patchFor
  split
  · exact memSide_emitRec _ _ _
  · exact .refl s

theorem memSide_zeroMapWrite (s : State) (pa : Nat) : MemSide s (zeroMapWrite s pa) := by
  unfold zeroMapWrite
  split
  · dsimp only
    split
    · exact .refl s
    · split
      · exact MemSide.trans ⟨rfl, rfl⟩ (.foldl (fun _ _ => memSide_putPteBit _ _ _ _) _ _)
      · exact ⟨rfl, rfl⟩
  · exact .refl s

theorem memSide_mem (s : State) (m : Memory) (ks : List Nat) : MemSide s { s with mem := m, memPsn := ks } := ⟨rfl, rfl⟩

theorem memSide_writeLine (w : Wr) (line va : Nat) (mask : BitVec 128) (data : List Byte) (s : State) : MemSide s (writeLine w line va mask data s) := by
  unfold writeLine
  extract_lets pa t0 t1 s1 base first s2 merged s3 s4 s5 loc u
  have h1 : MemSide s s1 := (memSide_captureLineFor ..).trans (memSide_captureLineFor ..)
  have h2 : MemSide s s2 := h1.trans (memSide_zeroMapWrite _ _)
  have h3 : MemSide s s3 := by
    unfold s3
    split
    · exact h2.trans (memSide_mem s2 _ _)
    · exact h2
  have h4 : MemSide s s4 := h3.trans (memSide_setL2 _ _)
  have h5 : MemSide s s5 := h4.trans (memSide_mem s4 _ _)
  clear_value s5
  exact h5.trans ((memSide_patchFor ..).trans (memSide_patchFor ..))

theorem memSide_homeWrite (s : State) (line : Nat) (mask : BitVec 128) (bytes : List Byte) (psn : BitVec 4) : MemSide s (homeWrite s line mask bytes psn) :=
  (memSide_writeLine ..).trans (memSide_mem _ _ _)

theorem memSide_wholeGroup (p : Packet) (s : State) : MemSide s (wholeGroup p s).2 := by
  unfold wholeGroup
  extract_lets ps come total
  split
  · exact ⟨rfl, rfl⟩
  · exact ⟨rfl, rfl⟩

theorem memSide_replayPacket (s : State) (p : Packet) : MemSide s (replayPacket s p) := by
  unfold replayPacket
  dsimp only
  split
  · split
    · exact ⟨rfl, rfl⟩
    · exact .refl s
  · split
    · exact memSide_homeWrite ..
    · split
      · exact memSide_homeWrite ..
      · exact .refl s
  · have hg := memSide_wholeGroup p s
    generalize wholeGroup p s = r at hg ⊢
    obtain ⟨_ | ps, t⟩ := r
    · exact hg
    · exact hg.trans (memSide_homeWrite ..)
  · exact .refl s

/-! ## Bytes merged into a line at home -/

/-- A row found by its key, after the row of another key, or of this one, has been put in its place. -/
theorem find?_replace {α κ : Type} [DecidableEq κ] (key : α → κ) (r : α) (k : κ) (xs : List α) (hany : ∃ x ∈ xs, key x = key r) :
    (xs.map (fun x => if key x = key r then r else x)).find? (fun x => decide (key x = k)) =
      if key r = k then some r else xs.find? (fun x => decide (key x = k)) := by
  induction xs with
  | nil => simp at hany
  | cons x xs ih =>
    by_cases hx : key x = key r
    · by_cases hr : key r = k
      · simp [hx, hr]
      · have hrest : (xs.map (fun x => if key x = key r then r else x)).find? (fun x => decide (key x = k)) =
            xs.find? (fun x => decide (key x = k)) := by
          by_cases h : ∃ y ∈ xs, key y = key r
          · rw [ih h, if_neg hr]
          · congr 1
            refine (List.map_congr_left (fun y hy => if_neg (fun hk => h ⟨y, hy, hk⟩))).trans (List.map_id' xs)
        simp [hx, hr, hrest]
    · have h : ∃ y ∈ xs, key y = key r := by simpa [hx] using hany
      by_cases hk : key x = k
      · have hr : key r ≠ k := fun h => hx (hk.trans h.symm)
        simp [hk, hr, Ne.symm hr]
      · simp only [List.map_cons, if_neg hx, List.find?_cons, decide_eq_false hk, ih h]

theorem l2Line_setL2 (s : State) (r : L2Line) (peer : Bool) (line : Nat) :
    l2Line (setL2 s r) peer line = if r.line = line ∧ r.peer = peer then some r else l2Line s peer line := by
  have hkey : ∀ (x : L2Line) (a : Nat) (b : Bool), (x.line == a && x.peer == b) = decide ((x.line, x.peer) = (a, b)) := by
    intro x a b
    rw [Bool.eq_iff_iff]
    simp
  unfold l2Line setL2
  simp only [hkey, ← Prod.mk.injEq]
  split
  · rename_i h
    simp only [decide_eq_true_eq]
    exact find?_replace (fun x : L2Line => (x.line, x.peer)) r (line, peer) s.l2 (by simpa [List.any_eq_true] using h)
  · by_cases h : (r.line, r.peer) = (line, peer)
    · simp only [List.find?_cons, decide_eq_true h, if_pos h]
    · simp only [List.find?_cons, decide_eq_false h, if_neg h]

theorem dirByte_congr {s t : State} (hl : t.l2 = s.l2) (hm : t.mem = s.mem) (hz : t.zmaps = s.zmaps) (a : Nat) : dirByte t a = dirByte s a := by
  unfold dirByte l2Line memByte zeroPending zeroMapOf
  rw [hl, hm, hz]

theorem dirBytes_getD (s : State) (pa n i : Nat) (h : i < n) : (dirBytes s pa n).getD i 0 = dirByte s (pa + i) := by
  simp [dirBytes, h]

theorem mergeBytes_getD (mask : BitVec 128) (new old : List Byte) (i : Nat) (h : i < 128) :
    (mergeBytes mask new old).getD i 0 = if mask.getLsbD i then new.getD i 0 else old.getD i 0 := by
  simp [mergeBytes, h]

theorem patchFor_bytes (w : Wr) (c : Colour) (tagged : Bool) (u : CapUnit) (loc : Nat) (ws : List (Nat × Word)) (bs : List (Nat × Byte)) (s : State)
    (a : Nat) : dirByte (patchFor w c tagged u loc ws bs s) a = dirByte s a := by
  unfold patchFor
  split
  · cases c
    · exact dirByte_congr rfl rfl rfl a
    · exact dirByte_congr rfl rfl rfl a
  · rfl

theorem captureLineFor_of_untagged {s : State} (h : s.ptags = []) (w : Wr) (c : Colour) (pa : Nat) : captureLineFor w c pa s = s := by
  unfold captureLineFor pageTagsOf
  rw [h]
  split
  · rfl
  · rfl

theorem dirByte_setL2 (s : State) (r : L2Line) (hp : r.peer = false) (a : Nat) :
    dirByte (setL2 s r) a = if a / 128 = r.line then r.data.getD (a % 128) 0 else dirByte s a := by
  have hmem : memByte (setL2 s r) a = memByte s a := by
    unfold memByte zeroPending zeroMapOf
    rw [setL2_zmaps, setL2_mem]
  unfold dirByte
  rw [l2Line_setL2, hmem]
  by_cases ha : a / 128 = r.line
  · rw [if_pos ⟨ha.symm, hp⟩, if_pos ha]
  · rw [if_neg (fun h => ha h.1.symm), if_neg ha]

/-- Bytes at home in a line of a page that is neither tagged nor zero-pending. -/
theorem linePut_writeLine {s : State} (hz : s.zmaps = []) (hp : s.ptags = []) (w : Wr) (line va : Nat) (mask : BitVec 128) (bytes : List Byte) :
    LinePut s (writeLine w line va mask bytes s) line mask bytes := by
  intro a
  have hz0 : ∀ pa, zeroMapOf s pa = none := fun pa => by unfold zeroMapOf; rw [hz]; rfl
  have hzw : ∀ pa, zeroMapWrite s pa = s := fun pa => by unfold zeroMapWrite; rw [hz0]
  unfold writeLine
  extract_lets pa t0 t1 s1 base first s2 merged s3 s4 s5 loc u
  have h1 : s1 = s := by
    unfold s1
    rw [captureLineFor_of_untagged hp, captureLineFor_of_untagged hp]
  have hfirst : first = false := by
    unfold first zeroPending
    rw [h1, hz0]
  have hbase : base.line = line ∧ base.peer = false ∧ ∀ i, i < 128 → base.data.getD i 0 = dirByte s (128 * line + i) := by
    unfold base
    rw [h1]
    cases hl : l2Line s false line with
    | some r =>
      have hr := List.find?_some hl
      simp only [Bool.and_eq_true, beq_iff_eq] at hr
      refine ⟨hr.1, hr.2, fun i hi => ?_⟩
      unfold dirByte
      rw [show (128 * line + i) / 128 = line by omega, hl, show (128 * line + i) % 128 = i by omega]
    | none => exact ⟨rfl, rfl, fun i hi => dirBytes_getD s _ _ _ hi⟩
  have h3 : s3 = s := by
    unfold s3 s2
    rw [hfirst, h1, hzw]
    rfl
  obtain ⟨hline, hpeer, hdata⟩ := hbase
  rw [patchFor_bytes, patchFor_bytes, show dirByte s5 a = dirByte s4 a from dirByte_congr rfl rfl rfl a]
  unfold s4
  rw [h3]
  refine (dirByte_setL2 s _ (by exact hpeer) a).trans ?_
  rw [hline]
  by_cases ha : a / 128 = line
  · have hlt : a % 128 < 128 := Nat.mod_lt a (by omega)
    rw [if_pos ha]
    refine (mergeBytes_getD mask bytes base.data _ hlt).trans ?_
    rw [hdata _ hlt, ← ha, Nat.div_add_mod]
    simp
  · rw [if_neg ha, if_neg (fun h => ha h.1)]

theorem linePut_homeWrite {s : State} (hz : s.zmaps = []) (hp : s.ptags = []) (line : Nat) (mask : BitVec 128) (bytes : List Byte) (psn : BitVec 4) :
    LinePut s (homeWrite s line mask bytes psn) line mask bytes := fun a =>
  (dirByte_congr rfl rfl rfl a).trans (linePut_writeLine hz hp (wrPost 0) line 0 mask bytes a)

end Sys2Proof.Machine
end

section
/-! PROOFS. The phases of a restoration, each from the state in which its number stands (16_snapshot R324, R325; 06_registers R121, R122). -/

namespace Sys2Proof.Machine

/-! ## A phase in its turn -/

/-- The state that a phase starts from: its number stands. -/
def inPhase (s : State) (x : Restore) (n : Nat) : State := { s with restore := some { x with phase := n } }

theorem phaseStep_of {s : State} {x : Restore} {n : Nat} (hs : s.restore = some x) (hn : x.phase + 1 = n) (f : Image → State → State) :
    Host.Outcome.next (phaseStep n f s) = (.next (f x.img (inPhase s x n)) : Host.Outcome State Fault Refusal) := by
  unfold phaseStep
  rw [hs]
  exact congrArg _ (if_pos hn)

/-! ## Channels -/

theorem memSide_channelPhase (m : Image) (s : State) : MemSide s (channelPhase m s) :=
  MemSide.trans ⟨rfl, rfl⟩ (.foldl memSide_replayPacket _ _)

theorem channelPhase_nil {m : Image} (h : replayList m = []) (s : State) : channelPhase m s = { s with dir := [] } := by
  unfold channelPhase
  rw [h]
  rfl

theorem linePut_channelPhase {m : Image} {p : Packet} {tag : Nat} {mask : BitVec 128} {bytes : List Byte} {psn : BitVec 4} (h : replayList m = [p])
    (hcls : p.cls = 4) (hbody : p.body = .data tag mask bytes psn) {s : State} (hz : s.zmaps = []) (hp : s.ptags = []) :
    LinePut s (channelPhase m s) (p.addr % 2 ^ 45 / 128) mask bytes := by
  have hrun : channelPhase m s = homeWrite { s with dir := [] } (homeLine p) mask bytes psn := by
    unfold channelPhase
    rw [h]
    show replayPacket _ p = _
    unfold replayPacket
    simp only [hbody, hcls, if_true]
  rw [hrun]
  exact linePut_homeWrite (s := { s with dir := [] }) hz hp (homeLine p) mask bytes psn

theorem restoreChannels_runs {s : State} {x : Restore} (hs : s.restore = some x) (hx : x.phase = 2) :
    ∃ t : State, exec .restoreChannels s = .next t ∧ t.restore = some { x with phase := 3 } ∧ t.gangs = s.gangs ∧ t.vrf = s.vrf ∧
      (replayList x.img = [] → t = { s with dir := [], restore := t.restore }) ∧
      ∀ p tag mask bytes psn, replayList x.img = [p] → p.cls = 4 → p.body = .data tag mask bytes psn → s.zmaps = [] → s.ptags = [] →
        LinePut s t (p.addr % 2 ^ 45 / 128) mask bytes := by
  obtain ⟨hside, -⟩ := memSide_channelPhase x.img (inPhase s x 3)
  refine ⟨_, phaseStep_of hs (n := 3) (by omega) channelPhase, ?_, ?_, ?_, fun h => ?_, fun p tag mask bytes psn h hcls hbody hz hp => ?_⟩
  · rw [hside]
    rfl
  · rw [hside]
    rfl
  · rw [hside]
    rfl
  · rw [channelPhase_nil h]
    rfl
  · exact linePut_channelPhase h hcls hbody (s := inPhase s x 3) hz hp

/-! ## Peer lines -/

/-- `t` is `s` but for the fabric. -/
def FabOnly (s t : State) : Prop := t = { s with fab := t.fab }

theorem FabOnly.trans {s t u : State} (h : FabOnly s t) (h' : FabOnly t u) : FabOnly s u := by
  unfold FabOnly at *
  rw [h', h]

theorem FabOnly.foldl {α : Type} {f : State → α → State} (hf : ∀ s a, FabOnly s (f s a)) (xs : List α) (s : State) : FabOnly s (xs.foldl f s) := by
  induction xs generalizing s with
  | nil => exact rfl
  | cons a xs ih => exact (hf s a).trans (ih _)

theorem fabOnly_peerLinePhase (m : Image) (s : State) : FabOnly s (peerLinePhase m s) := by
  unfold peerLinePhase
  refine FabOnly.trans (.foldl (fun s r => ?_) _ _) (.foldl (fun s r => ?_) _ _)
  · split
    · exact rfl
    · exact rfl
    · exact rfl
  · split
    · split
      · exact rfl
      · exact rfl
    · split
      · exact rfl
      · exact rfl
    · exact rfl

theorem foldl_id {α β : Type} {f : β → α → β} {xs : List α} (h : ∀ a ∈ xs, ∀ b, f b a = b) (b : β) : xs.foldl f b = b := by
  induction xs generalizing b with
  | nil => rfl
  | cons a xs ih =>
    rw [List.foldl_cons, h a (List.mem_cons_self ..)]
    exact ih (fun y hy => h y (List.mem_cons_of_mem _ hy)) b

theorem peerLinePhase_none {m : Image} (h : ∀ r ∈ m.recs, (∀ a b c d e f, r ≠ .l2 a b c d e f) ∧ (∀ a b c d e, r ≠ .l1 a b c d e) ∧
    ∀ a b c d e, r ≠ .patch a b c d e) (s : State) : peerLinePhase m s = s := by
  unfold peerLinePhase
  rw [foldl_id, foldl_id]
  · intro r hr b
    obtain ⟨hl2, -, hpatch⟩ := h r hr
    split
    · exact (hl2 _ _ _ _ _ _ rfl).elim
    · exact (hpatch _ _ _ _ _ rfl).elim
    · rfl
  · intro r hr b
    obtain ⟨-, hl1, hpatch⟩ := h r hr
    split
    · exact (hl1 _ _ _ _ _ rfl).elim
    · exact (hpatch _ _ _ _ _ rfl).elim
    · rfl

theorem getLsbD_foldl_or {α : Type} {n : Nat} (f : α → BitVec n) (xs : List α) (z : BitVec n) (j : Nat) :
    (xs.foldl (fun m a => m ||| f a) z).getLsbD j = (z.getLsbD j || xs.any (fun a => (f a).getLsbD j)) := by
  induction xs generalizing z with
  | nil => simp
  | cons a xs ih => simp [ih, Bool.or_assoc]

theorem mem_maskBytes {mask : BitVec 128} {data : List Byte} {e : Nat × Byte} :
    e ∈ maskBytes mask data ↔ e.1 < 128 ∧ mask.getLsbD e.1 = true ∧ e.2 = data.getD e.1 0 := by
  obtain ⟨i, v⟩ := e
  simp only [maskBytes, List.mem_filterMap, List.mem_range]
  constructor
  · rintro ⟨j, hj, h⟩
    split at h
    · rename_i hm
      obtain ⟨rfl, rfl⟩ := Prod.mk.inj (Option.some.inj h)
      exact ⟨hj, hm, rfl⟩
    · cases h
  · rintro ⟨hi, hm, rfl⟩
    exact ⟨i, hi, by rw [if_pos hm]⟩

theorem pairMask_maskBytes (mask : BitVec 128) (data : List Byte) : pairMask (maskBytes mask data) = mask := by
  refine BitVec.eq_of_getLsbD_eq (fun j hj => ?_)
  unfold pairMask
  rw [getLsbD_foldl_or (fun b : Nat × Byte => 1#128 <<< b.1), Bool.eq_iff_iff]
  have hbit : ∀ i, (1#128 <<< i).getLsbD j = true ↔ i = j := by
    intro i
    simp only [BitVec.getLsbD_shiftLeft, BitVec.getLsbD_one]
    simp
    omega
  rw [show (0 : BitVec 128).getLsbD j = false from BitVec.getLsbD_zero, Bool.false_or]
  simp only [List.any_eq_true, hbit]
  constructor
  · rintro ⟨e, he, rfl⟩
    exact (mem_maskBytes.mp he).2.1
  · intro hm
    exact ⟨(j, data.getD j 0), mem_maskBytes.mpr ⟨hj, hm, rfl⟩, rfl⟩

theorem find?_maskBytes (mask : BitVec 128) (data : List Byte) (i : Nat) (hi : i < 128) :
    (((maskBytes mask data).find? (fun e => e.1 == i)).map (·.2)).getD 0#8 = if mask.getLsbD i then data.getD i 0 else 0#8 := by
  cases hf : (maskBytes mask data).find? (fun e => e.1 == i) with
  | some e =>
    have hk : e.1 = i := by simpa using List.find?_some hf
    obtain ⟨-, hm, hv⟩ := mem_maskBytes.mp (List.mem_of_find?_eq_some hf)
    rw [hk] at hm hv
    simp [hm, hv]
  | none =>
    have hno := List.find?_eq_none.mp hf
    have hm : ¬mask.getLsbD i = true := fun hm => hno (i, data.getD i 0) (mem_maskBytes.mpr ⟨hi, hm, rfl⟩) (by simp)
    simp [hm]

theorem fitLine_getD (bs : List Byte) (i : Nat) (hi : i < 128) : (fitLine bs).getD i 0 = bs.getD i 0 := by
  simp [fitLine, hi]

/-- Poison of a word of a line is its granule's. -/
theorem granule_of_word {ks : List Nat} {w : Nat} (hw : w ∈ ks) (hlt : w < 32) :
    (ks.foldl (fun p k => p ||| (1#4 <<< (k / 8))) 0#4).getLsbD (w / 8) = true := by
  rw [getLsbD_foldl_or (fun k : Nat => 1#4 <<< (k / 8)), Bool.or_eq_true]
  refine .inr (List.any_eq_true.mpr ⟨w, hw, ?_⟩)
  have h4 : w / 8 < 4 := by omega
  simp [h4]

theorem sendPkt_out {s : State} (hm : s.fab.member = true) (p : Packet) :
    (sendPkt s p).fab.out = s.fab.out ++ [{ p with seq := (chanOf s p.dst).send, stamp := stampOf s }] := by
  rw [Laws.sendPkt_eq, if_pos hm]

theorem peerLinePhase_line {m : Image} {ctx va ga : Nat} {mask : BitVec 128} {bs : List Byte} {psn : List Nat} (h : m.recs = [.l2 ctx va ga mask bs psn])
    {s : State} (hm : s.fab.member = true) :
    ∃ (q : Packet) (data : List Byte) (bad : BitVec 4), (peerLinePhase m s).fab.out = s.fab.out ++ [q] ∧ q.dst = ga / 2 ^ 45 ∧ q.cls = 4 ∧
      q.addr = ga / 128 * 128 ∧ q.body = .data 0 mask data bad ∧ data.length = 128 ∧
      (∀ i, i < 128 → data.getD i 0 = if mask.getLsbD i then bs.getD i 0 else 0#8) ∧
      ∀ w, w ∈ psn → w < 32 → mask.extractLsb' (4 * w) 4 ≠ 0#4 → bad.getLsbD (w / 8) = true := by
  have hrun : peerLinePhase m s =
      sendPeerLine s ga (maskBytes mask (fitLine bs)) (psn.filter (fun k => decide (mask.extractLsb' (4 * k) 4 ≠ 0#4))) := by
    unfold peerLinePhase
    rw [h]
    rfl
  rw [hrun]
  refine ⟨_, _, _, sendPkt_out hm _, rfl, rfl, rfl, congrArg (PktBody.data 0 · _ _) (pairMask_maskBytes mask (fitLine bs)), ?_, fun i hi => ?_,
    fun w hw hlt hwhole => granule_of_word (List.mem_filter.mpr ⟨hw, decide_eq_true hwhole⟩) hlt⟩
  · simp
  · rw [List.getD_eq_getElem _ _ (by simpa using hi)]
    simp only [List.getElem_map, List.getElem_range, find?_maskBytes _ _ _ hi, fitLine_getD _ _ hi]

theorem restorePeerLines_runs {s : State} {x : Restore} (hs : s.restore = some x) (hx : x.phase = 3) :
    ∃ t : State, exec .restorePeerLines s = .next t ∧ t = { s with fab := t.fab, restore := some { x with phase := 4 } } ∧
      ((∀ r ∈ x.img.recs, (∀ a b c d e f, r ≠ .l2 a b c d e f) ∧ (∀ a b c d e, r ≠ .l1 a b c d e) ∧ ∀ a b c d e, r ≠ .patch a b c d e) → t.fab = s.fab) ∧
      ∀ ctx va ga mask bs psn, x.img.recs = [.l2 ctx va ga mask bs psn] → s.fab.member = true →
        ∃ (q : Packet) (data : List Byte) (bad : BitVec 4), t.fab.out = s.fab.out ++ [q] ∧ q.dst = ga / 2 ^ 45 ∧ q.cls = 4 ∧
          q.addr = ga / 128 * 128 ∧ q.body = .data 0 mask data bad ∧ data.length = 128 ∧
          (∀ i, i < 128 → data.getD i 0 = if mask.getLsbD i then bs.getD i 0 else 0#8) ∧
          ∀ w, w ∈ psn → w < 32 → mask.extractLsb' (4 * w) 4 ≠ 0#4 → bad.getLsbD (w / 8) = true := by
  refine ⟨_, phaseStep_of hs (n := 4) (by omega) peerLinePhase, fabOnly_peerLinePhase x.img (inPhase s x 4), fun h => ?_,
    fun ctx va ga mask bs psn h hm => peerLinePhase_line (s := inPhase s x 4) h hm⟩
  rw [peerLinePhase_none h]
  rfl

/-! ## Gangs -/

theorem mem_insertAsc {n k : Nat} {xs : List Nat} : k ∈ insertAsc n xs ↔ k = n ∨ k ∈ xs := by
  induction xs with
  | nil => simp [insertAsc]
  | cons x xs ih =>
    unfold insertAsc
    split
    · simp
    · split
      · rename_i h
        simp [h]
      · simp only [List.mem_cons, ih]
        tauto

theorem mem_sortAsc {k : Nat} {xs : List Nat} : k ∈ sortAsc xs ↔ k ∈ xs := by
  induction xs with
  | nil => rfl
  | cons x xs ih => rw [sortAsc, mem_insertAsc, ih, List.mem_cons]

/-- An operation whose descriptors in the image all agree is reissued from that one. -/
theorem mem_reissued {m : Image} {o : Op} (ho : o ∈ imgOps m) (huniq : ∀ y ∈ imgOps m, y.id = o.id → y = o) :
    ∃ again, ∀ r, reissue again o = some r → r ∈ reissued m := by
  have hmine : ∀ y ∈ (imgOps m).filter (fun y => y.id == o.id), y = o := by
    intro y hy
    obtain ⟨hmem, hid⟩ := List.mem_filter.mp hy
    exact huniq y hmem (by simpa using hid)
  have hlast : ((imgOps m).filter (fun y => y.id == o.id)).getLast? = some o := by
    cases hl : ((imgOps m).filter (fun y => y.id == o.id)).getLast? with
    | some y => rw [hmine y (List.mem_of_getLast? hl)]
    | none =>
      have hnil := List.getLast?_eq_none_iff.mp hl
      have : o ∈ (imgOps m).filter (fun y => y.id == o.id) := List.mem_filter.mpr ⟨ho, by simp⟩
      rw [hnil] at this
      cases this
  refine ⟨decide (1 < ((imgOps m).filter (fun y => y.id == o.id)).length), fun r hr => List.mem_filterMap.mpr ⟨o.id, mem_sortAsc.mpr (List.mem_map_of_mem
    ho), ?_⟩⟩
  simp only [hlast]
  exact hr

theorem restoreGangs_runs {s : State} {x : Restore} (hs : s.restore = some x) (hx : x.phase = 5) :
    ∃ t : State, exec .restoreGangs s = .next t ∧ t.restore = some { x with phase := 6 } ∧ t.mem = s.mem ∧ t.vrf = s.vrf ∧
      t.blocks = s.blocks ++ imgBlocks x.img ∧ t.gangs.length = s.gangs.length + (imgGangs x.img).length ∧
      (∀ g ∈ imgGangs x.img, ∃ h ∈ t.gangs, h.gid = g.gid ∧ h.lanes = g.lanes ∧ h.pend = g.pend ∧ h.k = g.k ∧ h.csr = g.csr ∧ h.parked = true) ∧
      ∀ o ∈ imgOps x.img, (∀ y ∈ imgOps x.img, y.id = o.id → y = o) →
        ((∀ kd pd id grp a, o.kind = .snap kd pd id grp a → ∃ y ∈ t.ops, y.id = o.id ∧ y.kind = .snap kd pd id grp (some 3)) ∧
         (∀ d w n scope ord rem, o.kind = .load d w n scope ord rem → ∃ y ∈ t.ops, y.id = o.id ∧ y.kind = o.kind ∧ y.pre0 = false ∧ y.pre1 = false ∧
           ∀ p ∈ y.pieces, p.st = .todo)) := by
  refine ⟨_, phaseStep_of hs (n := 6) (by omega) gangPhase, rfl, rfl, rfl, rfl, ?_, fun g hg => ?_, fun o ho huniq => ?_⟩
  · simp [gangPhase, inPhase]
  · exact ⟨formGang (reissued x.img) g, List.mem_append_right _ (List.mem_map_of_mem hg), rfl, rfl, rfl, rfl, rfl, rfl⟩
  · obtain ⟨again, hre⟩ := mem_reissued ho huniq
    have hops : ∀ r, reissue again o = some r → r ∈ (gangPhase x.img (inPhase s x 6)).ops := fun r hr =>
      (mem_sortBy _ _ _).mpr (List.mem_append_right _ (hre r hr))
    refine ⟨fun kd pd id grp a hk => ⟨_, hops { o with pre0 := false, pre1 := false, kind := .snap kd pd id grp (some 3) } ?_, rfl, rfl⟩,
      fun d w n scope ord rem hk => ⟨_, hops { o with pre0 := false, pre1 := false, pieces := o.pieces.map freshPiece } ?_, rfl, rfl, rfl, rfl, ?_⟩⟩
    · simp only [reissue, hk]
    · simp only [reissue, hk]
    · intro p hp
      obtain ⟨q, -, rfl⟩ := List.mem_map.mp hp
      rfl

/-! ## Objects -/

def itemLaunch (e : Nat × EagerItem) : Option Launch :=
  match e.2 with
  | .launch l => some l
  | _ => none

def itemQueue (e : Nat × EagerItem) : Option QueueRow :=
  match e.2 with
  | .queue q => some q
  | _ => none

def itemRcd (e : Nat × EagerItem) : Option RecRow :=
  match e.2 with
  | .rcd r => some r
  | _ => none

/-- What the objects of an image add, where every L1 line is Clean: launches, queues and records join those there are, in order. -/
structure ObjectsLoaded (es : List (Nat × EagerItem)) (s t : State) : Prop where
  restore : t.restore = s.restore
  gangs : t.gangs = s.gangs
  mem : t.mem = s.mem
  scr : t.scr = s.scr
  vrf : t.vrf = s.vrf
  clean : ∀ r ∈ t.l1, r.dirty = 0
  chans : t.fab.chans = s.fab.chans
  launches : t.launches = s.launches ++ es.filterMap itemLaunch
  queues : t.queues = s.queues ++ es.filterMap itemQueue
  recs : t.recs = s.recs ++ es.filterMap itemRcd

theorem acquireL1_of_clean {s : State} (h : ∀ r ∈ s.l1, r.dirty = 0) (core : Nat) :
    acquireL1 core 5 s = { s with l1 := s.l1.filter (fun r => r.core != core) } := by
  have hnone : s.l1.filter (fun r => r.core == core && decide (r.dirty ≠ 0) && (decide (3 ≤ 8) || decide (r.tag < 8))) = [] := by
    refine List.filter_eq_nil_iff.mpr (fun r hr => ?_)
    simp [h r hr]
  have hback : writeBackBelow core 8 s = s := by
    unfold writeBackBelow
    rw [hnone]
    rfl
  unfold acquireL1
  rw [hback]
  rfl

theorem objectsLoaded_loadObject {s : State} (h : ∀ r ∈ s.l1, r.dirty = 0) (e : Nat × EagerItem) : ObjectsLoaded [e] s (loadObject s e) := by
  obtain ⟨ctx, e⟩ := e
  cases e with
  | launch l => exact ⟨rfl, rfl, rfl, rfl, rfl, h, rfl, rfl, (List.append_nil _).symm, (List.append_nil _).symm⟩
  | queue q => exact ⟨rfl, rfl, rfl, rfl, rfl, h, rfl, (List.append_nil _).symm, rfl, (List.append_nil _).symm⟩
  | rcd r => exact ⟨rfl, rfl, rfl, rfl, rfl, h, rfl, (List.append_nil _).symm, (List.append_nil _).symm, rfl⟩
  | unit wb core idx bytes psn =>
    cases wb
    · exact ⟨rfl, rfl, rfl, rfl, rfl, h, rfl, (List.append_nil _).symm, (List.append_nil _).symm, (List.append_nil _).symm⟩
    · exact ⟨rfl, rfl, rfl, rfl, rfl, h, rfl, (List.append_nil _).symm, (List.append_nil _).symm, (List.append_nil _).symm⟩
  | split core n =>
    show ObjectsLoaded _ s (growSplit s core n)
    unfold growSplit
    split
    · rw [acquireL1_of_clean h]
      exact ⟨rfl, rfl, rfl, rfl, rfl, fun r hr => h r (List.mem_of_mem_filter hr), rfl, (List.append_nil _).symm, (List.append_nil _).symm,
        (List.append_nil _).symm⟩
    · exact ⟨rfl, rfl, rfl, rfl, rfl, h, rfl, (List.append_nil _).symm, (List.append_nil _).symm, (List.append_nil _).symm⟩
  | gang | block | op | acc | array | ring | bar | chan | parity | ctx | snids | cutSeq | sliceRow | page | chunk =>
    exact ⟨rfl, rfl, rfl, rfl, rfl, h, rfl, (List.append_nil _).symm, (List.append_nil _).symm, (List.append_nil _).symm⟩

theorem objectsLoaded_foldl (es : List (Nat × EagerItem)) {s : State} (h : ∀ r ∈ s.l1, r.dirty = 0) : ObjectsLoaded es s (es.foldl loadObject s) := by
  induction es generalizing s with
  | nil => exact ⟨rfl, rfl, rfl, rfl, rfl, h, rfl, (List.append_nil _).symm, (List.append_nil _).symm, (List.append_nil _).symm⟩
  | cons e es ih =>
    have he := objectsLoaded_loadObject h e
    have hes := ih he.clean
    exact ⟨hes.restore.trans he.restore, hes.gangs.trans he.gangs, hes.mem.trans he.mem, hes.scr.trans he.scr, hes.vrf.trans he.vrf, hes.clean,
      hes.chans.trans he.chans, by rw [List.foldl_cons, hes.launches, he.launches, List.append_assoc, ← List.filterMap_append]; rfl,
      by rw [List.foldl_cons, hes.queues, he.queues, List.append_assoc, ← List.filterMap_append]; rfl,
      by rw [List.foldl_cons, hes.recs, he.recs, List.append_assoc, ← List.filterMap_append]; rfl⟩

/-- What is picked of a record: of its item where it is eager, nothing of any other. -/
def eagerPick {α : Type} (f : Nat × EagerItem → Option α) (r : SnapRec) : Option α :=
  match r with
  | .eager ctx e => f (ctx, e)
  | _ => none

theorem filterMap_eagerItems {α : Type} {m : Image} {f : Nat × EagerItem → Option α} {k : SnapRec → Option α} (h : ∀ r, eagerPick f r = k r) :
    (eagerItems m).filterMap f = m.recs.filterMap k := by
  unfold eagerItems
  rw [List.filterMap_filterMap]
  refine congrArg (fun g => m.recs.filterMap g) (funext fun r => ?_)
  rw [← h r]
  cases r with
  | eager ctx e => rfl
  | _ => rfl

theorem restoreObjects_runs {s : State} {x : Restore} (hs : s.restore = some x) (hx : x.phase = 4) (hclean : ∀ r ∈ s.l1, r.dirty = 0) :
    ∃ t : State, exec .restoreObjects s = .next t ∧ t.restore = some { x with phase := 5 } ∧ t.gangs = s.gangs ∧ t.mem = s.mem ∧ t.scr = s.scr ∧
      t.vrf = s.vrf ∧ t.fab.chans = [] ∧ t.launches = s.launches ++ (eagerItems x.img).filterMap itemLaunch ∧
      t.queues = s.queues ++ (eagerItems x.img).filterMap itemQueue ∧ t.recs = s.recs ++ (eagerItems x.img).filterMap itemRcd := by
  have h := objectsLoaded_foldl (eagerItems x.img) (s := { inPhase s x 5 with
    fab := { (inPhase s x 5).fab with chans := [], held := [] }, capQ := [] }) hclean
  exact ⟨_, phaseStep_of hs (n := 5) (by omega) objectPhase, h.restore, h.gangs, h.mem, h.scr, h.vrf, h.chans, h.launches, h.queues, h.recs⟩

/-! ## Memory -/

/-- What loading an image's memory leaves alone: gangs, operations, launches, the restoration's own record, and which contexts there are. -/
structure LoadSide (s t : State) : Prop where
  gangs : t.gangs = s.gangs
  ops : t.ops = s.ops
  launches : t.launches = s.launches
  restore : t.restore = s.restore
  ids : t.ctxs.map (·.id) = s.ctxs.map (·.id)

theorem LoadSide.refl (s : State) : LoadSide s s := ⟨rfl, rfl, rfl, rfl, rfl⟩

theorem LoadSide.trans {s t u : State} (h : LoadSide s t) (h' : LoadSide t u) : LoadSide s u :=
  ⟨h'.gangs.trans h.gangs, h'.ops.trans h.ops, h'.launches.trans h.launches, h'.restore.trans h.restore, h'.ids.trans h.ids⟩

theorem LoadSide.foldl {α : Type} {f : State → α → State} (hf : ∀ s a, LoadSide s (f s a)) (xs : List α) (s : State) : LoadSide s (xs.foldl f s) := by
  induction xs generalizing s with
  | nil => exact .refl s
  | cons a xs ih => exact (hf s a).trans (ih _)

theorem MemSide.loadSide {s t : State} (h : MemSide s t) : LoadSide s t := by
  obtain ⟨hst, hids⟩ := h
  exact ⟨by rw [hst], by rw [hst], by rw [hst], by rw [hst], hids⟩

theorem loadSide_rawClear (s : State) (pa n : Nat) : LoadSide s (rawClear s pa n) := ⟨rfl, rfl, rfl, rfl, rfl⟩

theorem loadSide_rawWrite (s : State) (pa : Nat) (bytes : List Byte) : LoadSide s (rawWrite s pa bytes) := ⟨rfl, rfl, rfl, rfl, rfl⟩

theorem loadSide_insertLeaf (va : Nat) (leaf : BitVec 128) (level l base : Nat) (a : State × Nat) :
    LoadSide a.1 (insertLeaf va leaf level l base a).1 := by
  induction l generalizing base a with
  | zero => exact .refl a.1
  | succ l ih =>
    unfold insertLeaf
    dsimp only
    split
    · exact loadSide_rawWrite _ _ _
    · split
      · exact ih _ a
      · exact ((loadSide_rawClear _ _ _).trans (loadSide_rawWrite _ _ _)).trans (ih _ (_, _))

/-- What is left alone where contexts have been added: they stand behind those there were. -/
structure CtxAdded (rs : List CtxRow) (s t : State) : Prop where
  gangs : t.gangs = s.gangs
  ops : t.ops = s.ops
  launches : t.launches = s.launches
  restore : t.restore = s.restore
  ids : t.ctxs.map (·.id) = s.ctxs.map (·.id) ++ rs.map (·.id)

theorem LoadSide.foldl_fst {α β : Type} {f : State × β → α → State × β} (hf : ∀ a x, LoadSide a.1 (f a x).1) (xs : List α) (a : State × β) :
    LoadSide a.1 (xs.foldl f a).1 := by
  induction xs generalizing a with
  | nil => exact .refl a.1
  | cons x xs ih => exact (hf a x).trans (ih _)

theorem ctxAdded_buildTables (m : Image) (acc : State × Nat) (r : CtxRow) : CtxAdded [r] acc.1 (buildTables m acc r).1 := by
  unfold buildTables
  extract_lets root s0 pages clean a
  have h : LoadSide acc.1 a.1 := (loadSide_rawClear _ _ _).trans
    (LoadSide.foldl_fst (f := fun a e => insertLeaf e.2.1 (clean e.2.2.1) e.2.2.2 4 root a) (fun _ _ => loadSide_insertLeaf ..) pages (s0, _))
  clear_value a
  exact ⟨h.gangs, h.ops, h.launches, h.restore, by simp [h.ids]⟩

theorem ctxAdded_foldl (m : Image) (rs : List CtxRow) (acc : State × Nat) : CtxAdded rs acc.1 (rs.foldl (buildTables m) acc).1 := by
  induction rs generalizing acc with
  | nil => exact ⟨rfl, rfl, rfl, rfl, (List.append_nil _).symm⟩
  | cons r rs ih =>
    have h := ctxAdded_buildTables m acc r
    have h' := ih (buildTables m acc r)
    exact ⟨h'.gangs.trans h.gangs, h'.ops.trans h.ops, h'.launches.trans h.launches, h'.restore.trans h.restore, by
      rw [List.foldl_cons, h'.ids, h.ids, List.append_assoc]; rfl⟩

theorem loadSide_loadZeroMap (pend : List Nat) (s : State) (e : Nat × Nat × BitVec 128 × Nat) : LoadSide s (loadZeroMap pend s e) := by
  unfold loadZeroMap
  dsimp only
  split
  · exact .refl s
  · split
    · exact ⟨rfl, rfl, rfl, rfl, rfl⟩
    · exact ⟨rfl, rfl, rfl, rfl, rfl⟩

theorem loadSide_overLine (pa : Nat) (bs : List (Nat × Byte)) (psn : List Nat) (s : State) : LoadSide s (overLine pa bs psn s) :=
  (memSide_zeroMapWrite s pa).loadSide.trans ⟨rfl, rfl, rfl, rfl, rfl⟩

theorem loadSide_addSaved (v : Saved) (s : State) : LoadSide s (addSaved v s) := by
  unfold addSaved
  split
  · exact ⟨rfl, rfl, rfl, rfl, rfl⟩
  · exact ⟨rfl, rfl, rfl, rfl, rfl⟩

theorem loadSide_loadL1 (m : Image) (s : State) (r : SnapRec) : LoadSide s (loadL1 m s r) := by
  unfold loadL1
  split
  · split
    · exact loadSide_overLine ..
    · exact .refl s
  · split
    · exact loadSide_overLine ..
    · exact .refl s
  · exact .refl s

theorem loadSide_loadRec (m : Image) (s : State) (r : SnapRec) : LoadSide s (loadRec m s r) := by
  unfold loadRec
  split
  · split
    · exact ⟨rfl, rfl, rfl, rfl, rfl⟩
    · exact .refl s
  · split
    · exact loadSide_overLine ..
    · exact .refl s
  · split
    · split
      · exact ⟨rfl, rfl, rfl, rfl, rfl⟩
      · exact .refl s
    · exact .refl s
  · exact ⟨rfl, rfl, rfl, rfl, rfl⟩
  · exact ⟨rfl, rfl, rfl, rfl, rfl⟩
  · exact ⟨rfl, rfl, rfl, rfl, rfl⟩
  · split
    · exact ⟨rfl, rfl, rfl, rfl, rfl⟩
    · exact .refl s
  · exact loadSide_addSaved _ s
  · exact .refl s

theorem ctxAdded_memoryPhase (m : Image) (s : State) : CtxAdded (imgCtxs m) s (memoryPhase m s) := by
  unfold memoryPhase
  extract_lets s1 s2 s3 rows s4
  have h1 : LoadSide s s1 := .foldl (f := fun s (f : Nat × Nat × Nat) => setOwner (rawClear s f.2.1 f.2.2) f.1 f.2.1 f.2.2) (fun _ _ => ⟨rfl, rfl, rfl,
    rfl, rfl⟩) _ s
  have h2 : CtxAdded (imgCtxs m) s1 s2 := ctxAdded_foldl m (imgCtxs m) (s1, freeTables s1)
  have h3 : LoadSide s2 s3 := .foldl (loadSide_loadZeroMap _) _ _
  have h4 : LoadSide s3 s4 := .foldl (f := loadSliceRow m) (fun _ _ => ⟨rfl, rfl, rfl, rfl, rfl⟩) _ _
  have h5 := (h3.trans h4).trans ((LoadSide.foldl (loadSide_loadRec m) m.recs s4).trans (.foldl (loadSide_loadL1 m) m.recs _))
  exact ⟨h5.gangs.trans (h2.gangs.trans h1.gangs), h5.ops.trans (h2.ops.trans h1.ops), h5.launches.trans (h2.launches.trans h1.launches),
    h5.restore.trans (h2.restore.trans h1.restore), h5.ids.trans (h2.ids.trans (congrArg (· ++ _) h1.ids))⟩

/-- Words placed from `k` on: a word that is there shows its bytes, everything else stays. -/
theorem byte_putWords (k : Nat) (ws : List (Nat × Word)) (m : Memory) (b a : Nat) (hws : Sparse.okFrom 0#32 b ws = true) (hm : Memory.wf m = true) :
    Memory.byte (putWords k ws m) a =
      if k + 4 * b ≤ a ∧ Sparse.get 0#32 ws ((a - k) / 4) ≠ 0#32 then (leBytes (Sparse.get 0#32 ws ((a - k) / 4)).toNat 4).getD ((a - k) % 4) 0#8
      else Memory.byte m a := by
  induction ws generalizing m b with
  | nil => simp [putWords, Sparse.get]
  | cons w rest ih =>
    obtain ⟨j, v⟩ := w
    simp only [Sparse.okFrom, Bool.and_eq_true, decide_eq_true_eq] at hws
    obtain ⟨⟨hbj, hv⟩, hrest⟩ := hws
    have hput : putWords k ((j, v) :: rest) m = putWords k rest (Sparse.write 0#8 m (k + 4 * j) (leBytes v.toNat 4)) := rfl
    have hwrite : Memory.byte (Sparse.write 0#8 m (k + 4 * j) (leBytes v.toNat 4)) a =
        if k + 4 * j ≤ a ∧ a < k + 4 * j + 4 then (leBytes v.toNat 4).getD (a - (k + 4 * j)) 0#8 else Memory.byte m a := by
      rw [Memory.byte, Sparse.get_write 0#8 _ m _ _ hm, leBytes_len]
      rfl
    rw [hput, ih _ (j + 1) hrest (Sparse.wf_write 0#8 _ m _ hm), hwrite]
    have hget : Sparse.get 0#32 ((j, v) :: rest) ((a - k) / 4) =
        if j = (a - k) / 4 then v else if (a - k) / 4 < j then 0#32 else Sparse.get 0#32 rest ((a - k) / 4) := rfl
    rcases Nat.lt_or_ge a (k + 4 * j) with hlt | hge
    · have h1 : ¬(k + 4 * (j + 1) ≤ a) := by omega
      have h2 : ¬(k + 4 * j ≤ a) := by omega
      by_cases hka : k + 4 * b ≤ a
      · have hq : (a - k) / 4 < j := by omega
        simp only [if_neg (Nat.ne_of_gt hq), if_pos hq] at hget
        simp [h1, h2, hget]
      · simp [h1, h2, hka]
    · have hka : k + 4 * b ≤ a := by omega
      rcases Nat.lt_or_ge a (k + 4 * j + 4) with hlt | hge'
      · have h1 : ¬(k + 4 * (j + 1) ≤ a) := by omega
        have hr : a - (k + 4 * j) = (a - k) % 4 := by omega
        have hq : j = (a - k) / 4 := by omega
        rw [if_pos hq] at hget
        simp [h1, hge, hlt, hr, hka, hget, hv]
      · have h1 : k + 4 * (j + 1) ≤ a := by omega
        have h2 : ¬(a < k + 4 * j + 4) := by omega
        have hq : j < (a - k) / 4 := by omega
        simp only [if_neg (Nat.ne_of_lt hq), if_neg (Nat.lt_asymm hq)] at hget
        simp only [hget, h1, h2, hka, and_false, true_and, if_false]

theorem wordAt_congr {f g : Nat → Byte} (i : Nat) (h : ∀ q, q < 4 → f (4 * i + q) = g (4 * i + q)) : wordAt f i = wordAt g i := by
  have h0 := h 0 (by omega)
  have h1 := h 1 (by omega)
  have h2 := h 2 (by omega)
  have h3 := h 3 (by omega)
  simp only [Nat.add_zero] at h0
  simp only [wordAt, h0, h1, h2, h3]

theorem word_of_leBytes (w : Word) :
    (leBytes w.toNat 4).getD 3 0#8 ++ (leBytes w.toNat 4).getD 2 0#8 ++ (leBytes w.toNat 4).getD 1 0#8 ++ (leBytes w.toNat 4).getD 0 0#8 = w := by
  have hbytes : leBytes w.toNat 4 = [0, 8, 16, 24].map (fun k => BitVec.ofNat 8 (w.toNat / 2 ^ k)) := by
    simp [leBytes, Nat.div_div_eq_div_mul]
  have hbit : ∀ k i, (BitVec.ofNat 8 (w.toNat / 2 ^ k)).getLsbD i = (decide (i < 8) && w.getLsbD (k + i)) := by
    intro k i
    rw [BitVec.getLsbD_ofNat, Nat.testBit_div_two_pow, BitVec.testBit_toNat, Nat.add_comm]
  rw [hbytes]
  refine BitVec.eq_of_getLsbD_eq (fun i hi => ?_)
  simp only [List.map_cons, List.map_nil, List.getD_cons_zero, List.getD_cons_succ, BitVec.getLsbD_append, hbit]
  by_cases h8 : i < 8
  · simp [h8]
  · by_cases h16 : i - 8 < 8
    · simp [h8, h16, show 8 + (i - 8) = i by omega]
    · by_cases h24 : i - 8 - 8 < 8
      · simp [h8, h16, h24, show 16 + (i - 8 - 8) = i by omega]
      · simp [h8, h16, h24, show i - 8 - 8 - 8 < 8 by omega, show 24 + (i - 8 - 8 - 8) = i by omega]

theorem get_of_keys_lt {ws : List (Nat × Word)} {n k : Nat} (h : ∀ e ∈ ws, e.1 < n) (hk : n ≤ k) : Sparse.get 0#32 ws k = 0#32 := by
  induction ws with
  | nil => rfl
  | cons e rest ih =>
    have he := h e (List.mem_cons_self ..)
    have hrest := ih (fun y hy => h y (List.mem_cons_of_mem _ hy))
    have hne : e.1 ≠ k := by omega
    simp [Sparse.get, hne, hrest]

/-- A scratchpad bank loaded: its words are the record's, and nothing else of the scratchpads has changed. -/
theorem bank_putWords {ws : List (Nat × Word)} {m : Memory} (hws : Sparse.wf 0#32 ws = true) (hm : Memory.wf m = true) (hlt : ∀ e ∈ ws, e.1 < 1024)
    (core bank : Nat) :
    let t := putWords (scrKey core bank 0) ws (Sparse.clear m (scrKey core bank 0) 4096)
    (∀ j, j < 1024 → wordAt (fun n => Memory.byte t (scrKey core bank n)) j = Sparse.get 0#32 ws j) ∧
      ∀ a, (a < scrKey core bank 0 ∨ scrKey core bank 0 + 4096 ≤ a) → Memory.byte t a = Memory.byte m a := by
  have hbyte := fun a => byte_putWords (scrKey core bank 0) ws (Sparse.clear m (scrKey core bank 0) 4096) 0 a hws (Sparse.wf_clear 0#8 m _ _ hm)
  have hclear := fun a => Sparse.get_clear 0#8 m (scrKey core bank 0) 4096 a hm
  refine ⟨fun j hj => ?_, fun a ha => ?_⟩
  · rw [wordAt_congr (g := fun n => (leBytes (Sparse.get 0#32 ws j).toNat 4).getD (n % 4) 0#8)]
    · simp only [wordAt, show (4 * j + 3) % 4 = 3 by omega, show (4 * j + 2) % 4 = 2 by omega, show (4 * j + 1) % 4 = 1 by omega,
        show 4 * j % 4 = 0 by omega]
      exact word_of_leBytes _
    · intro q hq
      have hk : scrKey core bank (4 * j + q) = scrKey core bank 0 + (4 * j + q) := by simp [scrKey]
      have hdiv : (scrKey core bank 0 + (4 * j + q) - scrKey core bank 0) / 4 = j := by omega
      have hmod : (scrKey core bank 0 + (4 * j + q) - scrKey core bank 0) % 4 = (4 * j + q) % 4 := by omega
      rw [hk, hbyte, hdiv, hmod]
      by_cases h0 : Sparse.get 0#32 ws j = 0#32
      · rw [if_neg (fun h => h.2 h0), h0]
        refine (hclear _).trans ((if_pos (by omega)).trans ?_)
        have hq4 : (4 * j + q) % 4 < 4 := Nat.mod_lt _ (by omega)
        interval_cases (4 * j + q) % 4 <;> rfl
      · rw [if_pos ⟨by omega, h0⟩]
  · rw [hbyte, if_neg]
    · exact (hclear a).trans (if_neg (by omega))
    · rintro ⟨hge, hne⟩
      exact hne (get_of_keys_lt hlt (by omega))

theorem scr_memoryPhase {m : Image} {ctx : Nat} {b : Block} {i bank : Nat} {ws : List (Nat × Word)}
    (h : m.recs = [.eager ctx (.block b), .bank ctx b.id i ws []]) (hb : b.banks.getD i none = some bank) (s : State) :
    (memoryPhase m s).scr = putWords (scrKey b.core bank 0) ws (Sparse.clear s.scr (scrKey b.core bank 0) 4096) := by
  have hblocks : imgBlocks m = [b] := by
    unfold imgBlocks pickItems eagerItems
    rw [h]
    rfl
  have hitems : ∀ {α : Type} (f : EagerItem → Option α), f (.block b) = none → pickItems m f = [] := by
    intro α f hf
    unfold pickItems eagerItems
    rw [h]
    simp [hf]
  have hpages : imgPages m = [] := hitems _ rfl
  have hctxs : imgCtxs m = [] := hitems _ rfl
  have hload : ∀ u : State, (loadRec m u (.bank ctx b.id i ws [])).scr =
      putWords (scrKey b.core bank 0) ws (Sparse.clear u.scr (scrKey b.core bank 0) 4096) := by
    intro u
    simp only [loadRec, hblocks, List.find?_cons, beq_self_eq_true, hb]
  unfold memoryPhase imgFrames
  rw [hitems _ rfl, hpages, hctxs, h]
  exact hload s

theorem restoreMemory_runs {s : State} {x : Restore} (hs : s.restore = some x) (hx : x.phase = 1) :
    ∃ t : State, exec .restoreMemory s = .next t ∧ t.restore = some { x with phase := 2 } ∧ t.gangs = s.gangs ∧ t.ops = s.ops ∧ t.launches = s.launches ∧
      t.ctxs.map (fun c => c.id) = s.ctxs.map (fun c => c.id) ++ (imgCtxs x.img).map (fun c => c.id) ∧
      ∀ ctx b i ws bank, x.img.recs = [.eager ctx (.block b), .bank ctx b.id i ws []] → b.banks.getD i none = some bank → Memory.wf s.scr = true →
        Sparse.wf 0#32 ws = true → (∀ e ∈ ws, e.1 < 1024) →
        (∀ j, j < 1024 → wordAt (fun n => Memory.byte t.scr (scrKey b.core bank n)) j = Sparse.get 0#32 ws j) ∧
        ∀ a, (a < scrKey b.core bank 0 ∨ scrKey b.core bank 0 + 4096 ≤ a) → Memory.byte t.scr a = Memory.byte s.scr a := by
  have h := ctxAdded_memoryPhase x.img (inPhase s x 2)
  refine ⟨_, phaseStep_of hs (n := 2) (by omega) memoryPhase, h.restore, h.gangs, h.ops, h.launches, h.ids,
    fun ctx b i ws bank hrecs hb hscr hws hlt => ?_⟩
  rw [scr_memoryPhase hrecs hb]
  exact bank_putWords hws hscr hlt b.core bank

/-! ## The start -/

/-- `t` is `s` but for gangs, registers and save areas, and what their capture changes. -/
def GangSide (s t : State) : Prop :=
  t = { s with gangs := t.gangs, col0 := t.col0, col1 := t.col1, capQ := t.capQ, ctxs := t.ctxs, tags := t.tags, vrf := t.vrf, vmark := t.vmark,
               saved := t.saved }

theorem GangSide.trans {s t u : State} (h : GangSide s t) (h' : GangSide t u) : GangSide s u := by
  unfold GangSide at *
  rw [h', h]

theorem GangSide.foldl {α : Type} {f : State → α → State} (hf : ∀ s a, GangSide s (f s a)) (xs : List α) (s : State) : GangSide s (xs.foldl f s) := by
  induction xs generalizing s with
  | nil => exact rfl
  | cons a xs ih => exact (hf s a).trans (ih _)

theorem GangSide.restore {s t : State} (h : GangSide s t) : t.restore = s.restore := by rw [h]

theorem GangSide.host {s t : State} (h : GangSide s t) : t.host = s.host := by rw [h]

theorem GangSide.ops {s t : State} (h : GangSide s t) : t.ops = s.ops := by rw [h]

theorem Captured.gangSide {s t : State} (h : Captured s t) : GangSide s t := by
  unfold GangSide
  rw [h]

theorem gangSide_wrV (s : State) (g : Gang) (l n : Nat) (v : Word) (mark : Option (Option Addr)) : GangSide s (wrV s g l n v mark) := by
  unfold wrV
  split
  · split
    · exact (captured_captureUnit ..).gangSide.trans rfl
    · split
      · exact rfl
      · exact (captured_captureUnit ..).gangSide.trans rfl
  · exact rfl

theorem gangSide_loadPoolRegs (s : State) (g : Gang) (rs : List PoolRec) : GangSide s (loadPoolRegs s g rs) :=
  .foldl (fun _ _ => .foldl (fun _ _ => gangSide_wrV ..) _ _) _ _

theorem loadPoolRegs_gangs (s : State) (g : Gang) (rs : List PoolRec) : (loadPoolRegs s g rs).gangs = s.gangs := by
  have hfold : ∀ {α : Type} (f : State → α → State), (∀ s a, (f s a).gangs = s.gangs) → ∀ (xs : List α) (s : State), (xs.foldl f s).gangs = s.gangs := by
    intro α f hf xs
    induction xs with
    | nil => exact fun _ => rfl
    | cons a xs ih => exact fun s => (ih _).trans (hf s a)
  exact hfold _ (fun s _ => hfold _ (fun _ _ => wrV_gangs ..) _ s) _ _

def unparked (g : Gang) : Gang := { g with parked := false, load := false }

theorem gangSide_startGang (s : State) (n : Nat) : GangSide s (startGang s n) := by
  unfold startGang
  split
  · exact rfl
  · dsimp only
    split
    · split
      · exact GangSide.trans (t := modGang s n unparked) rfl (gangSide_loadPoolRegs ..)
      · exact rfl
    · exact rfl

theorem startGang_gangs {s : State} {n : Nat} {g : Gang} (h : gangOf s n = some g) : (startGang s n).gangs = (modGang s n unparked).gangs := by
  unfold startGang
  rw [h]
  dsimp only
  split
  · split
    · exact loadPoolRegs_gangs _ _ _
    · rfl
  · rfl

theorem gangOf_startGang {s : State} {n : Nat} {g : Gang} (h : gangOf s n = some g) : gangOf (startGang s n) n = some (unparked g) := by
  rw [gangOf_congr (startGang_gangs h)]
  exact gangOf_modGang_self s n unparked g (fun _ h => h) h

theorem gangOf_startGang_ne (s : State) {n m : Nat} (hm : n ≠ m) : gangOf (startGang s m) n = gangOf s n := by
  cases h : gangOf s m with
  | none =>
    unfold startGang
    rw [h]
  | some g => rw [gangOf_congr (startGang_gangs h), gangOf_modGang_ne s m n unparked (fun _ h => h) hm]

theorem gangSide_unparkReady (s : State) (core : Nat) : GangSide s (unparkReady s core) := by
  unfold unparkReady
  split
  · exact rfl
  · exact .foldl (fun _ _ => gangSide_startGang ..) _ _

theorem gangOf_startAll (gs : List Gang) {s : State} {n : Nat} {g : Gang} (h : gangOf s n = some g) :
    gangOf (gs.foldl (fun s g => startGang s g.gid) s) n = some (if ∃ x ∈ gs, x.gid = n then unparked g else g) := by
  induction gs generalizing s g with
  | nil => simpa using h
  | cons x gs ih =>
    rw [List.foldl_cons]
    by_cases hx : x.gid = n
    · subst hx
      rw [ih (gangOf_startGang h)]
      simp [unparked]
    · rw [ih ((gangOf_startGang_ne s (Ne.symm hx)).trans h)]
      simp [hx]

/-- What makes a parked gang issue again: its block has its banks, and no slice is claimed for it. -/
def MayStart (s : State) (g : Gang) : Prop :=
  s.restore = none ∧ g.parked = true ∧ gangReady s g = true

theorem mayStart_congr {s t : State} (hst : GangSide s t) {g : Gang} (h : MayStart s g) : MayStart t g := by
  obtain ⟨hr, hp, hg⟩ := h
  refine ⟨?_, hp, ?_⟩
  · rw [hst]
    exact hr
  · rw [hst]
    exact hg

theorem gangOf_unparkReady {s : State} {core n : Nat} {g : Gang} (h : gangOf s n = some g) :
    gangOf (unparkReady s core) n = some g ∨ gangOf (unparkReady s core) n = some (unparked g) := by
  unfold unparkReady
  split
  · exact .inl h
  · rw [gangOf_startAll _ h]
    split
    · exact .inr rfl
    · exact .inl rfl

theorem gangOf_unparkReady_own {s : State} {n : Nat} {g : Gang} (h : gangOf s n = some g) (hg : MayStart s g) :
    gangOf (unparkReady s g.core) n = some (unparked g) := by
  obtain ⟨hr, hp, hready⟩ := hg
  unfold unparkReady
  rw [hr]
  refine (gangOf_startAll _ h).trans (congrArg some (if_pos ⟨g, List.mem_filter.mpr ⟨List.mem_of_find?_eq_some h, ?_⟩, gangOf_gid h⟩))
  simp [hp, hready]

theorem gangOf_unparkAll {cores : List Nat} {s : State} {n : Nat} {g : Gang} (h : gangOf s n = some g) (hg : MayStart s g) (hc : g.core ∈ cores) :
    gangOf (cores.foldl unparkReady s) n = some (unparked g) := by
  have hstay : ∀ (cs : List Nat) (u : State), gangOf u n = some (unparked g) → gangOf (cs.foldl unparkReady u) n = some (unparked g) := by
    intro cs
    induction cs with
    | nil => exact fun _ h => h
    | cons c cs ih => exact fun u hu => ih _ ((gangOf_unparkReady hu).elim id id)
  induction cores generalizing s with
  | nil => cases hc
  | cons c cs ih =>
    rw [List.foldl_cons]
    by_cases heq : c = g.core
    · subst heq
      exact hstay cs _ (gangOf_unparkReady_own h hg)
    · have hin : g.core ∈ cs := (List.mem_cons.mp hc).resolve_left (Ne.symm heq)
      rcases gangOf_unparkReady (core := c) h with hu | hu
      · exact ih hu (mayStart_congr (gangSide_unparkReady s c) hg) hin
      · exact hstay cs _ hu

theorem restoreStart_waits {s : State} (h : syncLeft s = true) : exec .restoreStart s = .next s := by
  show Host.Outcome.next (if syncLeft s then s else phaseStep 7 startPhase s) = _
  rw [if_pos h]

theorem restoreStart_runs {s : State} {x : Restore} (hs : s.restore = some x) (hx : x.phase = 6) (hsync : syncLeft s = false) :
    ∃ t : State, exec .restoreStart s = .next t ∧ t.restore = none ∧ t.host = s.host ++ [.restore "complete" x.img.lid 0] ∧ t.ops = s.ops ∧
      ∀ n g b, gangOf s n = some g → g.core < 160 → g.parked = true → blockOf s g.blk = some b → (∀ i ∈ b.banks, i.isSome = true) →
        (∀ r ∈ s.slices, ∀ v, r.st ≠ .claimed v g.gid) → gangOf t n = some { g with parked := false, load := false } := by
  have hrun : exec .restoreStart s = .next (startPhase x.img (inPhase s x 7)) := by
    show Host.Outcome.next (if syncLeft s then s else phaseStep 7 startPhase s) = _
    rw [if_neg (by simp [hsync])]
    exact phaseStep_of hs (by omega) startPhase
  have ht : startPhase x.img (inPhase s x 7) =
      tellHost ((List.range Config.cores).foldl unparkReady { s with restore := none }) (.restore "complete" x.img.lid 0) := rfl
  have hcores : ∀ c, c < 160 → c ∈ List.range Config.cores := fun c hc => List.mem_range.mpr hc
  generalize List.range Config.cores = cores at ht hcores
  have hside : GangSide { s with restore := none } (cores.foldl unparkReady { s with restore := none }) := .foldl gangSide_unparkReady _ _
  refine ⟨_, hrun.trans (congrArg _ ht), hside.restore, congrArg (· ++ _) hside.host, hside.ops,
    fun n g b hg hcore hparked hb hbanks hslices =>
      gangOf_unparkAll (s := { s with restore := none }) hg ⟨rfl, hparked, ?_⟩ (hcores _ hcore)⟩
  have hclaims : claimsOpen s g.gid = false := by
    refine List.any_eq_false.mpr (fun r hr => ?_)
    have hne := hslices r hr
    cases hst : r.st with
    | held v => simp
    | claimed v k =>
      have hk : k ≠ g.gid := fun hk => hne v (hst.trans (congrArg _ hk))
      simpa using hk
  have hall : b.banks.all (·.isSome) = true := List.all_eq_true.mpr hbanks
  show (!claimsOpen s g.gid && (match blockOf s g.blk with
    | some b => b.banks.all (·.isSome)
    | none => true)) = true
  rw [hclaims, hb]
  exact hall

end Sys2Proof.Machine
end

section
/-! PROOFS. The start of a restoration: its refusals, what it discards, and the chunk that differs (16_snapshot R323). -/

namespace Sys2Proof.Machine

/-! ## The start of a restoration: what is discarded -/

/-- What discarding contexts leaves alone whatever there is: the restoration's own record, the host's messages, the names in use. -/
structure Quiet (s t : State) : Prop where
  restore : t.restore = s.restore
  host : t.host = s.host
  fresh : t.fresh = s.fresh

theorem Quiet.trans {s t u : State} (h : Quiet s t) (h' : Quiet t u) : Quiet s u :=
  ⟨h'.restore.trans h.restore, h'.host.trans h.host, h'.fresh.trans h.fresh⟩

/-- What settling the cores leaves alone besides: operations, and of which contexts there are gangs and rows. -/
structure Settles (s t : State) : Prop extends Quiet s t where
  ops : t.ops = s.ops
  gangCtxs : t.gangs.map (·.ctx) = s.gangs.map (·.ctx)
  ids : t.ctxs.map (·.id) = s.ctxs.map (·.id)

theorem Settles.refl (s : State) : Settles s s := ⟨⟨rfl, rfl, rfl⟩, rfl, rfl, rfl⟩

theorem Settles.trans {s t u : State} (h : Settles s t) (h' : Settles t u) : Settles s u :=
  ⟨h.toQuiet.trans h'.toQuiet, h'.ops.trans h.ops, h'.gangCtxs.trans h.gangCtxs, h'.ids.trans h.ids⟩

theorem Settles.foldl {α : Type} {f : State → α → State} (hf : ∀ s a, Settles s (f s a)) (xs : List α) (s : State) : Settles s (xs.foldl f s) := by
  induction xs generalizing s with
  | nil => exact .refl s
  | cons a xs ih => exact (hf s a).trans (ih _)

theorem MemSide.settles {s t : State} (h : MemSide s t) : Settles s t := by
  obtain ⟨hst, hids⟩ := h
  exact ⟨⟨by rw [hst], by rw [hst], by rw [hst]⟩, by rw [hst], by rw [hst], hids⟩

theorem memSide_captureUnitFor (w : Wr) (c : Colour) (u : CapUnit) (s : State) : MemSide s (captureUnitFor w c u s) := by
  unfold captureUnitFor
  split
  · exact .refl s
  · split
    · exact (memSide_sendCapture ..).trans ⟨rfl, rfl⟩
    · exact ⟨rfl, rfl⟩

theorem memSide_captureUnit (w : Wr) (u : CapUnit) (s : State) : MemSide s (captureUnit w u s) :=
  (memSide_captureUnitFor ..).trans (memSide_captureUnitFor ..)

theorem settles_wrV (s : State) (g : Gang) (l n : Nat) (v : Word) (mark : Option (Option Addr)) : Settles s (wrV s g l n v mark) := by
  unfold wrV
  split
  · split
    · exact (memSide_captureUnit ..).settles.trans ⟨⟨rfl, rfl, rfl⟩, rfl, rfl, rfl⟩
    · split
      · exact .refl s
      · exact (memSide_captureUnit ..).settles.trans ⟨⟨rfl, rfl, rfl⟩, rfl, rfl, rfl⟩
  · exact .refl s

theorem settles_startGang (s : State) (n : Nat) : Settles s (startGang s n) := by
  have hmod : Settles s (modGang s n unparked) := by
    refine ⟨⟨rfl, rfl, rfl⟩, rfl, ?_, rfl⟩
    show (s.gangs.map (fun x => if x.gid = n then unparked x else x)).map (·.ctx) = _
    rw [List.map_map]
    refine List.map_congr_left (fun x _ => ?_)
    by_cases h : x.gid = n
    · simp [h, unparked]
    · simp [h]
  unfold startGang
  split
  · exact .refl s
  · dsimp only
    split
    · split
      · exact hmod.trans (.foldl (fun _ _ => .foldl (fun _ _ => settles_wrV ..) _ _) _ _)
      · exact hmod
    · exact hmod

theorem settles_unparkReady (s : State) (core : Nat) : Settles s (unparkReady s core) := by
  unfold unparkReady
  split
  · exact .refl s
  · exact .foldl (fun _ _ => settles_startGang ..) _ _

theorem settles_fillOpen (core : Nat) (s : State) : Settles s (fillOpen core s) := by
  unfold fillOpen
  refine .foldl (fun s b => .foldl (fun s i => ?_) _ s) _ s
  split
  · exact ⟨⟨rfl, rfl, rfl⟩, rfl, rfl, rfl⟩
  · exact .refl s

theorem settles_settleCores (s : State) : Settles s (settleCores s) :=
  .foldl (f := fun s core => unparkReady (fillOpen core s) core) (fun s core => (settles_fillOpen core s).trans (settles_unparkReady _ core)) _ s

/-- Cores with nothing to settle: every block has its banks, and no gang is parked. -/
theorem settleCores_of_settled {s : State} (hb : ∀ b ∈ s.blocks, ∀ i ∈ b.banks, i.isSome = true) (hg : ∀ g ∈ s.gangs, g.parked = false) :
    settleCores s = s := by
  have hfill : ∀ core, fillOpen core s = s := by
    intro core
    refine foldl_id (fun b hmem u => ?_) s
    have hnone : (List.range b.banks.length).filter (fun i => (b.banks.getD i none).isNone) = [] := by
      refine List.filter_eq_nil_iff.mpr (fun i hi => ?_)
      have hlt : i < b.banks.length := List.mem_range.mp hi
      have hsome := hb b (List.mem_of_mem_filter hmem) _ (List.getElem_mem hlt)
      rw [List.getD_eq_getElem _ _ hlt]
      simpa [← Option.isSome_iff_ne_none] using hsome
    rw [hnone]
    rfl
  have hpark : ∀ core, unparkReady s core = s := by
    intro core
    unfold unparkReady
    split
    · rfl
    · rw [List.filter_eq_nil_iff.mpr (fun g hmem => by simp [hg g hmem])]
      rfl
  have hrun : ∀ cores : List Nat, cores.foldl (fun s core => unparkReady (fillOpen core s) core) s = s := by
    intro cores
    induction cores with
    | nil => rfl
    | cons c cs ih => rw [List.foldl_cons, hfill, hpark, ih]
  exact hrun _

/-- What ending colours, rings and barriers leaves alone: registers, scratchpads, slices, blocks, and which gangs are parked. -/
structure Calm (s t : State) : Prop extends Quiet s t where
  vrf : t.vrf = s.vrf
  scr : t.scr = s.scr
  slices : t.slices = s.slices
  blocks : t.blocks = s.blocks
  parked : t.gangs.map (·.parked) = s.gangs.map (·.parked)

theorem Calm.trans {s t u : State} (h : Calm s t) (h' : Calm t u) : Calm s u :=
  ⟨h.toQuiet.trans h'.toQuiet, h'.vrf.trans h.vrf, h'.scr.trans h.scr, h'.slices.trans h.slices, h'.blocks.trans h.blocks, h'.parked.trans h.parked⟩

theorem Calm.foldl {α : Type} {f : State → α → State} (hf : ∀ s a, Calm s (f s a)) (xs : List α) (s : State) : Calm s (xs.foldl f s) := by
  induction xs generalizing s with
  | nil => exact ⟨⟨rfl, rfl, rfl⟩, rfl, rfl, rfl, rfl, rfl⟩
  | cons a xs ih => exact (hf s a).trans (ih _)

theorem MemSide.calm {s t : State} (h : MemSide s t) : Calm s t := by
  obtain ⟨hst, -⟩ := h
  exact ⟨⟨by rw [hst], by rw [hst], by rw [hst]⟩, by rw [hst], by rw [hst], by rw [hst], by rw [hst], by rw [hst]⟩

theorem memSide_stopColour (c : Colour) (s : State) : MemSide s (stopColour c s) := by
  have hclear : MemSide s (clearColour c s) :=
    MemSide.trans (.foldl (fun s (t : PageTag) => memSide_putPteBit s t.pte (ctBit c) false) _ s) ⟨rfl, rfl⟩
  refine hclear.trans ?_
  cases c
  · exact ⟨rfl, rfl⟩
  · exact ⟨rfl, rfl⟩

theorem calm_dropRing (s : State) (r : RingRow) : Calm s (dropRing s r) := ⟨⟨rfl, rfl, rfl⟩, rfl, rfl, rfl, rfl, rfl⟩

theorem calm_barFree (s : State) (b : BarRow) : Calm s (barFree s b) := by
  refine ⟨⟨rfl, rfl, rfl⟩, rfl, rfl, rfl, rfl, ?_⟩
  unfold barFree barTell
  dsimp only
  rw [List.map_map]
  refine List.map_congr_left (fun g _ => ?_)
  dsimp only [Function.comp]
  split
  · split
    · rfl
    · rfl
  · rfl

theorem quiet_passSlice (gone : Nat → Bool) (s : State) (r : SliceRow) : Quiet s (passSlice gone s r) := by
  unfold passSlice
  dsimp only
  split
  · split
    · exact ⟨rfl, rfl, rfl⟩
    · exact ⟨rfl, rfl, rfl⟩
  · split
    · exact ⟨rfl, rfl, rfl⟩
    · split
      · exact ⟨rfl, rfl, rfl⟩
      · split
        · exact ⟨rfl, rfl, rfl⟩
        · exact ⟨rfl, rfl, rfl⟩

/-- A slice that is held, passed on, leaves registers, scratchpads, blocks and gangs alone. -/
theorem passSlice_of_held (gone : Nat → Bool) (s : State) {r : SliceRow} {g : Nat} (h : r.st = .held g) :
    passSlice gone s r = { s with slices := (passSlice gone s r).slices } := by
  unfold passSlice
  rw [h]
  dsimp only
  split
  · rfl
  · rfl

theorem passSlices_of_held (gone : Nat → Bool) {rs : List SliceRow} (h : ∀ r ∈ rs, ∃ g, r.st = .held g) (s : State) :
    rs.foldl (passSlice gone) s = { s with slices := (rs.foldl (passSlice gone) s).slices } := by
  induction rs generalizing s with
  | nil => rfl
  | cons r rs ih =>
    obtain ⟨g, hg⟩ := h r (List.mem_cons_self ..)
    rw [List.foldl_cons, ih (fun y hy => h y (List.mem_cons_of_mem _ hy)), passSlice_of_held gone s hg]

theorem quiet_foldl {α : Type} {f : State → α → State} (hf : ∀ s a, Quiet s (f s a)) (xs : List α) (s : State) : Quiet s (xs.foldl f s) := by
  induction xs generalizing s with
  | nil => exact ⟨rfl, rfl, rfl⟩
  | cons a xs ih => exact (hf s a).trans (ih _)

/-- Every effect of the discard but the filters of the tables. -/
theorem quiet_discardCtxs (m : Image) (s : State) : Quiet s (discardCtxs m s) := by
  unfold discardCtxs
  extract_lets gone blk gid s1 s2 s3 t
  have h1 : Calm s s1 := ((memSide_stopColour .c0 s).trans (memSide_stopColour .c1 _)).calm.trans
    (.foldl calm_dropRing _ _)
  have h2 : Calm s1 s2 := .foldl calm_barFree _ _
  have h3 : Quiet s2 s3 := quiet_foldl (quiet_passSlice gid) _ _
  have ht : Quiet s3 t := ⟨rfl, rfl, rfl⟩
  exact ((h1.toQuiet.trans h2.toQuiet).trans (h3.trans ht)).trans (settles_settleCores t).toQuiet

/-- No gang, no operation and no row is left of the contexts that the image holds. -/
theorem discardCtxs_gone (m : Image) (s : State) : (∀ g ∈ (discardCtxs m s).gangs, inImage m g.ctx = false) ∧
    (∀ o ∈ (discardCtxs m s).ops, inImage m o.ctx = false) ∧ ∀ c ∈ (discardCtxs m s).ctxs, inImage m c.id = false := by
  unfold discardCtxs
  extract_lets gone blk gid s1 s2 s3 t
  have hset := settles_settleCores t
  have hgangs : ∀ c ∈ t.gangs.map (·.ctx), inImage m c = false := by
    intro c hc
    obtain ⟨g, hg, rfl⟩ := List.mem_map.mp hc
    simpa [gone] using List.of_mem_filter hg
  have hids : ∀ c ∈ t.ctxs.map (·.id), inImage m c = false := by
    intro c hc
    obtain ⟨r, hr, rfl⟩ := List.mem_map.mp hc
    simpa [gone] using List.of_mem_filter hr
  refine ⟨fun g hg => hgangs _ (hset.gangCtxs ▸ List.mem_map_of_mem hg), fun o ho => ?_, fun c hc => hids _ (hset.ids ▸ List.mem_map_of_mem hc)⟩
  rw [hset.ops] at ho
  simpa [gone] using List.of_mem_filter ho

/-- Where no slice is claimed, no bank is missing and no gang is parked, the registers and scratchpads stay. -/
theorem discardCtxs_keeps (m : Image) {s : State} (hslices : ∀ y ∈ s.slices, ∃ g, y.st = .held g)
    (hbanks : ∀ b ∈ s.blocks, ∀ i ∈ b.banks, i.isSome = true) (hparked : ∀ g ∈ s.gangs, g.parked = false) :
    (discardCtxs m s).vrf = s.vrf ∧ (discardCtxs m s).scr = s.scr := by
  unfold discardCtxs
  extract_lets gone blk gid s1 s2 s3 t
  have h1 : Calm s s1 := ((memSide_stopColour .c0 s).trans (memSide_stopColour .c1 _)).calm.trans
    (.foldl calm_dropRing _ _)
  have h2 : Calm s s2 := h1.trans (.foldl calm_barFree _ _)
  have h3 : s3 = { s2 with slices := s3.slices } := passSlices_of_held gid (fun r hr => hslices r (h2.slices ▸ hr)) s2
  have hblocks : ∀ b ∈ t.blocks, ∀ i ∈ b.banks, i.isSome = true := by
    intro b hb
    have hb3 : b ∈ s3.blocks := List.mem_of_mem_filter hb
    rw [h3] at hb3
    exact hbanks b (h2.blocks ▸ hb3)
  have hgangs : ∀ g ∈ t.gangs, g.parked = false := by
    intro g hg
    have hg3 : g ∈ s3.gangs := List.mem_of_mem_filter hg
    rw [h3] at hg3
    have hmem : g.parked ∈ s.gangs.map (·.parked) := h2.parked ▸ List.mem_map_of_mem hg3
    obtain ⟨x, hx, hxp⟩ := List.mem_map.mp hmem
    exact hxp ▸ hparked x hx
  rw [settleCores_of_settled hblocks hgangs]
  refine ⟨?_, ?_⟩
  · show s3.vrf = _
    rw [h3]
    exact h2.vrf
  · show s3.scr = _
    rw [h3]
    exact h2.scr

theorem bindTargets_eq (r : RestoreSpec) (s : State) :
    bindTargets r s = { s with pod := (bindTargets r s).pod, fab := (bindTargets r s).fab } ∧ (bindTargets r s).fab.lid = r.lid := by
  have hpods : ∀ (ts : List (Nat × Nat × Nat)) (f : Nat × Nat × Nat → PodEntry) (u : State),
      ts.foldl (fun s t => putPod s (f t)) u = { u with pod := (ts.foldl (fun s t => putPod s (f t)) u).pod } := by
    intro ts f
    induction ts with
    | nil => exact fun _ => rfl
    | cons t ts ih =>
      intro u
      rw [List.foldl_cons, ih]
      rfl
  refine ⟨?_, rfl⟩
  unfold bindTargets
  dsimp only
  rw [hpods]

/-- The image that a restoration names, if this package has it whole. -/
def imageFor (s : State) (r : RestoreSpec) : Option Image :=
  s.images.find? (fun m => m.group == r.group && m.id == r.id && m.lid == r.lid && m.complete)

/-- No target of the image is this package, a target is lost, or the image does not fit here. -/
def badTargets (s : State) (r : RestoreSpec) (m : Image) : Bool :=
  !(r.targets.any (fun t => t.1 == r.lid && t.2.1 == s.fab.phys)) || r.targets.any (fun t => deadTarget s t.2.1) || !fitsImage s m

theorem badTargets_iff (s : State) (r : RestoreSpec) (m : Image) : badTargets s r m = true ↔
    (∀ e ∈ r.targets, e.1 = r.lid → e.2.1 ≠ s.fab.phys) ∨ (∃ e ∈ r.targets, deadTarget s e.2.1 = true) ∨ fitsImage s m = false := by
  simp only [badTargets, Bool.or_eq_true, Bool.not_eq_true', List.any_eq_false, List.any_eq_true, Bool.and_eq_true, beq_iff_eq, not_and]
  exact or_assoc

theorem startRestoration_none {s : State} {r : RestoreSpec} (h : s.boot.step = 8) (hfound : imageFor s r = none) :
    exec (.startRestoration 0 r) s = .next { s with host := s.host ++ [.restore "refused" r.lid 0] } := by
  show Host.Outcome.next (startRestore 0 r s) = _
  unfold imageFor at hfound
  unfold startRestore askedBy ready
  simp only [h, hfound, decide_true, Bool.not_true, Bool.false_eq_true, if_false, beq_self_eq_true, if_true]
  rfl

theorem startRestoration_refused {s : State} {r : RestoreSpec} {m : Image} (h : s.boot.step = 8) (hfound : imageFor s r = some m)
    (hbad : badTargets s r m = true) : exec (.startRestoration 0 r) s = .next { s with host := s.host ++ [.restore "refused" r.lid 0] } := by
  show Host.Outcome.next (startRestore 0 r s) = _
  unfold imageFor at hfound
  unfold badTargets at hbad
  unfold startRestore askedBy ready
  simp only [h, hfound, decide_true, Bool.not_true, Bool.false_eq_true, if_false, beq_self_eq_true, if_true]
  simp only [hbad, if_true]
  rfl

/-- The state after the refusals: what a chunk that differs tells, or phase 1. -/
theorem startRestoration_taken {s : State} {r : RestoreSpec} {m : Image} {v : Moves} (h : s.boot.step = 8) (hfound : imageFor s r = some m)
    (hok : badTargets s r m = false) (hv : imageMoves s m = some v) :
    let s1 := bindTargets r (discardCtxs m s)
    exec (.startRestoration 0 r) s = .next (match badChunk s1 r m with
      | some i => tellHost s1 (.restore "chunk-mismatch" r.lid i)
      | none => { s1 with restore := some { phase := 1, img := moveImage { v with k := s1.fresh } m, spec := r }, fresh := s1.fresh + imageTop m }) := by
  intro s1
  show Host.Outcome.next (startRestore 0 r s) = _
  unfold imageFor at hfound
  unfold badTargets at hok
  unfold startRestore askedBy ready
  simp only [h, hfound, decide_true, Bool.not_true, Bool.false_eq_true, if_false, beq_self_eq_true, if_true]
  simp only [hok, hv]
  unfold s1
  generalize badChunk (bindTargets r (discardCtxs m s)) r m = i
  cases i <;> rfl

theorem startRestoration_runs {s : State} {r : RestoreSpec} {m : Image} (h : s.boot.step = 8) (hfound : imageFor s r = some m)
    (hok : badTargets s r m = false) :
    let s1 := bindTargets r (discardCtxs m s)
    ∃ t : State, exec (.startRestoration 0 r) s = .next t ∧
      (∀ g ∈ t.gangs, inImage m g.ctx = false) ∧ (∀ o ∈ t.ops, inImage m o.ctx = false) ∧ (∀ c ∈ t.ctxs, inImage m c.id = false) ∧ t.fab.lid = r.lid ∧
      ((∀ y ∈ s.slices, ∃ g, y.st = .held g) → (∀ b ∈ s.blocks, ∀ i ∈ b.banks, i.isSome = true) → (∀ g ∈ s.gangs, g.parked = false) →
        t.vrf = s.vrf ∧ t.scr = s.scr) ∧
      (∀ i, badChunk s1 r m = some i → t.restore = s.restore ∧ t.host = s.host ++ [.restore "chunk-mismatch" r.lid i]) ∧
      (badChunk s1 r m = none → t.host = s.host ∧ s.fresh < t.fresh ∧ ∃ v, imageMoves s m = some v ∧
        t.restore = some { phase := 1, img := moveImage { v with k := s.fresh } m, spec := r }) := by
  have hmoves : (imageMoves s m).isSome = true := by
    simp only [badTargets, fitsImage, Bool.or_eq_false_iff, Bool.not_eq_false', Bool.and_eq_true] at hok
    exact hok.2.1.1
  obtain ⟨v, hv⟩ := Option.isSome_iff_exists.mp hmoves
  have hrun := startRestoration_taken h hfound hok hv
  have hgone := discardCtxs_gone m s
  have hquiet := quiet_discardCtxs m s
  have hkeeps := discardCtxs_keeps m (s := s)
  dsimp only at hrun ⊢
  generalize discardCtxs m s = d at hrun hgone hquiet hkeeps ⊢
  obtain ⟨hbind, hlid⟩ := bindTargets_eq r d
  generalize bindTargets r d = s1 at hrun hbind hlid ⊢
  obtain ⟨hrestore, hhost, hfresh⟩ := hquiet
  have hside : s1.gangs = d.gangs ∧ s1.ops = d.ops ∧ s1.ctxs = d.ctxs ∧ s1.vrf = d.vrf ∧ s1.scr = d.scr ∧ s1.restore = d.restore ∧
      s1.host = d.host ∧ s1.fresh = d.fresh := by
    rw [hbind]
    exact ⟨rfl, rfl, rfl, rfl, rfl, rfl, rfl, rfl⟩
  obtain ⟨hgangs, hops, hctxs, hvrf, hscr, hr, hh, hf⟩ := hside
  rw [← hgangs, ← hops, ← hctxs] at hgone
  rw [← hvrf, ← hscr] at hkeeps
  cases hbad : badChunk s1 r m with
  | some i =>
    rw [hbad] at hrun
    refine ⟨_, hrun, hgone.1, hgone.2.1, hgone.2.2, hlid, hkeeps, fun j hj => ?_, fun hno => (nomatch hno)⟩
    obtain rfl := Option.some.inj hj
    exact ⟨hr.trans hrestore, congrArg (· ++ _) (hh.trans hhost)⟩
  | none =>
    rw [hbad] at hrun
    refine ⟨_, hrun, hgone.1, hgone.2.1, hgone.2.2, hlid, hkeeps, fun j hj => (nomatch hj), fun _ => ⟨hh.trans hhost, ?_, v, hv, ?_⟩⟩
    · show s.fresh < s1.fresh + imageTop m
      rw [hf, hfresh]
      exact Nat.lt_add_of_pos_right (Nat.succ_pos _)
    · show some _ = some _
      rw [hf, hfresh]

/-- Settles O55: each clause is the lemma of its phase; what a phase leaves alone rests on footprints of the operations that it runs. -/
theorem restorationRuns : Obligations.RestorationRuns := by
  refine ⟨fun s r h => ⟨fun hfound => startRestoration_none h hfound, fun m hfound hbad => ?_, fun m hfound hhere hlive hfits => ?_⟩, fun s x hs =>
    ⟨fun hx => restoreMemory_runs hs hx, fun hx => restoreChannels_runs hs hx, fun hx => restorePeerLines_runs hs hx, fun hx hclean => ?_,
      fun hx => restoreGangs_runs hs hx, fun _ hsync => restoreStart_waits hsync, fun hx hsync => restoreStart_runs hs hx hsync⟩⟩
  · exact startRestoration_refused h hfound ((badTargets_iff s r m).mpr hbad)
  · refine startRestoration_runs h hfound (Bool.eq_false_iff.mpr (fun hbad => ?_))
    obtain ⟨e, he, hlid, hphys⟩ := hhere
    rcases (badTargets_iff s r m).mp hbad with hno | ⟨y, hy, hdead⟩ | hfit
    · exact hno e he hlid hphys
    · exact absurd hdead (by simp [hlive y hy])
    · exact absurd hfits (by simp [hfit])
  · obtain ⟨t, hrun, hr, hg, hmem, hscr, hvrf, hch, hl, hq, hrec⟩ := restoreObjects_runs hs hx hclean
    refine ⟨t, hrun, hr, hg, hmem, hscr, hvrf, hch, hl.trans (congrArg _ (filterMap_eagerItems fun y => ?_)),
      hq.trans (congrArg _ (filterMap_eagerItems fun y => ?_)), hrec.trans (congrArg _ (filterMap_eagerItems fun y => ?_))⟩
    all_goals
      cases y with
      | eager ctx e => cases e <;> rfl
      | _ => rfl

end Sys2Proof.Machine
end

section
/-! PROOFS. What writing a function's bytes leaves alone (13_queues R253, R258): memory's side of the state changes, and of a context its capture count. -/

namespace Sys2Proof.Machine

/-! ## Bytes that are stored -/

/-- A context's row but for its capture count. -/
def bareCtx (r : CtxRow) : CtxRow := { r with captures := 0 }

/-- Memory's side of the state alone has changed; the contexts' rows differ in their capture counts at most. -/
def Stored (s t : State) : Prop := MemSide s t ∧ t.ctxs.map bareCtx = s.ctxs.map bareCtx

theorem Stored.refl (s : State) : Stored s s := ⟨.refl s, rfl⟩

theorem Stored.trans {s t u : State} (h : Stored s t) (h' : Stored t u) : Stored s u := ⟨h.1.trans h'.1, h'.2.trans h.2⟩

theorem Stored.foldl {α : Type} {f : State → α → State} (hf : ∀ s a, Stored s (f s a)) (xs : List α) (s : State) : Stored s (xs.foldl f s) := by
  induction xs generalizing s with
  | nil => exact .refl s
  | cons a xs ih => exact (hf s a).trans (ih _)

theorem Stored.ite {s a b : State} {c : Prop} [Decidable c] (ha : Stored s a) (hb : Stored s b) : Stored s (if c then a else b) := by
  split
  · exact ha
  · exact hb

theorem stored_sendCapture (s : State) (die ctx : Nat) (c : Colour) (r : SnapRec) : Stored s (sendCapture s die ctx c r) := by
  refine ⟨memSide_sendCapture s die ctx c r, ?_⟩
  have hrows : (sendCapture s die ctx c r).ctxs = s.ctxs.map (fun x => if x.id = ctx then { x with captures := x.captures + 1 } else x) := by
    cases c
    · rfl
    · rfl
  rw [hrows, List.map_map]
  refine List.map_congr_left fun x _ => ?_
  by_cases h : x.id = ctx
  · simp [h, bareCtx]
  · simp [h]

theorem stored_emitRec (s : State) (c : Colour) (r : SnapRec) : Stored s (emitRec s c r) := by
  cases c
  · exact .refl _
  · exact .refl _

theorem stored_setL2 (s : State) (r : L2Line) : Stored s (setL2 s r) := by
  unfold setL2
  exact .ite ⟨⟨rfl, rfl⟩, rfl⟩ ⟨⟨rfl, rfl⟩, rfl⟩

theorem stored_putPteBit (s : State) (pte bit : Nat) (v : Bool) : Stored s (putPteBit s pte bit v) := by
  unfold putPteBit
  extract_lets b m put leaf s1
  have h1 : Stored s s1 := ⟨⟨rfl, rfl⟩, rfl⟩
  clear_value s1
  split
  · exact h1.trans (stored_setL2 _ _)
  · exact h1

theorem stored_pageLineDone (s : State) (t : PageTag) (i : Nat) : Stored s (pageLineDone s t i) := by
  unfold pageLineDone
  exact .ite (Stored.trans ⟨⟨rfl, rfl⟩, rfl⟩ (stored_putPteBit _ _ _ _)) ⟨⟨rfl, rfl⟩, rfl⟩

theorem stored_captureLineFor (w : Wr) (c : Colour) (pa : Nat) (s : State) : Stored s (captureLineFor w c pa s) := by
  unfold captureLineFor
  exact .ite (.refl s) (.foldl (fun _ _ => (stored_sendCapture ..).trans (stored_pageLineDone _ _ _)) _ s)

theorem stored_patchFor (w : Wr) (c : Colour) (tagged : Bool) (u : CapUnit) (loc : Nat) (ws : List (Nat × Word)) (bs : List (Nat × Byte)) (s : State) :
    Stored s (patchFor w c tagged u loc ws bs s) := by
  unfold patchFor
  exact .ite (stored_emitRec _ _ _) (.refl s)

theorem stored_zeroMapWrite (s : State) (pa : Nat) : Stored s (zeroMapWrite s pa) := by
  unfold zeroMapWrite
  split
  · refine .ite (.refl s) ?_
    dsimp only
    exact .ite (Stored.trans ⟨⟨rfl, rfl⟩, rfl⟩ (.foldl (fun _ _ => stored_putPteBit _ _ _ _) _ _)) ⟨⟨rfl, rfl⟩, rfl⟩
  · exact .refl s

theorem stored_mem (s : State) (m : Memory) (ks : List Nat) : Stored s { s with mem := m, memPsn := ks } := ⟨⟨rfl, rfl⟩, rfl⟩

theorem stored_writeLine (w : Wr) (line va : Nat) (mask : BitVec 128) (data : List Byte) (s : State) : Stored s (writeLine w line va mask data s) := by
  unfold writeLine
  extract_lets pa t0 t1 s1 base first s2 merged s3 s4 s5 loc u
  have h1 : Stored s s1 := (stored_captureLineFor ..).trans (stored_captureLineFor ..)
  have h2 : Stored s s2 := h1.trans (stored_zeroMapWrite _ _)
  have h3 : Stored s s3 := .ite (h2.trans (stored_mem s2 _ _)) h2
  have h4 : Stored s s4 := h3.trans (stored_setL2 _ _)
  have h5 : Stored s s5 := h4.trans (stored_mem s4 _ _)
  clear_value s5
  exact h5.trans ((stored_patchFor ..).trans (stored_patchFor ..))

/-! ## Peer lines, holders and owners -/

theorem stored_captureL2 (c : Colour) (r : L2Line) (s : State) : Stored s (captureL2 c r s) := by
  unfold captureL2
  exact .ite ((stored_sendCapture ..).trans ⟨⟨rfl, rfl⟩, rfl⟩) (.refl s)

theorem stored_lateL2 (w : Wr) (c : Colour) (tagged : Bool) (va line : Nat) (mask : BitVec 128) (data : List Byte) (s : State) :
    Stored s (lateL2 w c tagged va line mask data s) := by
  unfold lateL2
  exact .ite (stored_patchFor ..) (.refl s)

theorem stored_sendPkt (s : State) (p : Packet) : Stored s (sendPkt s p) := ⟨⟨rfl, rfl⟩, rfl⟩

theorem stored_askOwn (s : State) (line core : Nat) : Stored s (askOwn s line core) := by
  unfold askOwn
  exact .ite (.refl s) (Stored.trans ⟨⟨rfl, rfl⟩, rfl⟩ (stored_sendPkt _ _))

theorem stored_askRead (s : State) (line tag : Nat) (rem : Bool) (core : Nat) : Stored s (askRead s line tag rem core) := by
  unfold askRead
  exact .ite (.refl s) (Stored.trans ⟨⟨rfl, rfl⟩, rfl⟩ (stored_sendPkt _ _))

theorem stored_setDir (s : State) (d : DirLine) : Stored s (setDir s d) := ⟨⟨rfl, rfl⟩, rfl⟩

theorem stored_invalidateHolders (s : State) (line keep : Nat) : Stored s (invalidateHolders s line keep) := by
  unfold invalidateHolders
  exact (Stored.foldl (fun _ _ => stored_sendPkt _ _) _ s).trans (stored_setDir _ _)

theorem stored_awaitLines (s : State) (ls : List (Bool × Nat)) : Stored s (awaitLines s ls) := by
  refine Stored.foldl (fun s e => .ite ?_ (stored_invalidateHolders _ _ _)) ls s
  unfold askLine
  exact .ite (stored_askOwn ..) (stored_askRead ..)

theorem stored_writePeerLine (w : Wr) (line va : Nat) (mask : BitVec 128) (data : List Byte) (s : State) :
    Stored s (writePeerLine w line va mask data s) := by
  unfold writePeerLine
  extract_lets r0 s1 s2 r1 whole merged full s3 s4
  have h1 : Stored s s1 := .ite (.refl s) (stored_captureL2 ..)
  have h2 : Stored s s2 := .ite h1 (h1.trans (stored_captureL2 ..))
  have h3 : Stored s s3 := h2.trans (stored_setL2 _ _)
  have h4 : Stored s s4 := h3.trans ((stored_lateL2 ..).trans (stored_lateL2 ..))
  clear_value s4
  exact .ite h4 (h4.trans (stored_askOwn _ _ _))

theorem stored_writePhys (w : Wr) (pa va : Nat) (bytes : List Byte) (s : State) : Stored s (writePhys w pa va bytes s) := by
  unfold writePhys
  exact .ite (.refl s) (.foldl (fun _ _ => stored_writeLine ..) _ s)

theorem stored_writePeerBytes (w : Wr) (ga va : Nat) (bytes : List Byte) (s : State) : Stored s (writePeerBytes w ga va bytes s) := by
  unfold writePeerBytes
  exact .ite (.refl s) (.foldl (fun _ _ => stored_writePeerLine ..) _ s)

theorem stored_firstOwner (s : State) (ctx base n : Nat) : Stored s (firstOwner s ctx base n) := by
  unfold firstOwner
  exact .ite (.refl s) ⟨⟨rfl, rfl⟩, rfl⟩

/-- One page's part of a write. -/
def writePart (ctx va : Nat) (bytes : List Byte) (acc : Option State) (e : Nat × Nat) : Option State :=
  match acc with
  | none => none
  | some s => match translateNow s ctx e.1 .wr with
    | .place (.mem pa _) => some (writePhys (wrPost ctx) pa e.1 (slice bytes (e.1 - va) e.2) (firstOwner s ctx pa e.2))
    | .place (.peer ga _) => some (writePeerBytes (wrPost ctx) ga e.1 (slice bytes (e.1 - va) e.2) s)
    | _ => none

theorem ctxWrite_eq (s : State) (ctx va : Nat) (bytes : List Byte) :
    ctxWrite s ctx va bytes = if 2 ^ 56 < va + bytes.length then none else (pageParts va bytes.length).foldl (writePart ctx va bytes) (some s) := rfl

theorem stored_writePart {s t : State} {ctx va : Nat} {bytes : List Byte} {e : Nat × Nat} (h : writePart ctx va bytes (some s) e = some t) : Stored s t := by
  simp only [writePart] at h
  split at h
  · cases h
    exact (stored_firstOwner ..).trans (stored_writePhys ..)
  · cases h
    exact stored_writePeerBytes ..
  · cases h

theorem foldl_writePart_none (ctx va : Nat) (bytes : List Byte) (es : List (Nat × Nat)) : es.foldl (writePart ctx va bytes) none = none := by
  induction es with
  | nil => rfl
  | cons e es ih => exact ih

theorem stored_writeParts {ctx va : Nat} {bytes : List Byte} (es : List (Nat × Nat)) {s t : State}
    (h : es.foldl (writePart ctx va bytes) (some s) = some t) : Stored s t := by
  induction es generalizing s with
  | nil => cases h; exact .refl _
  | cons e es ih =>
    rw [List.foldl_cons] at h
    cases hw : writePart ctx va bytes (some s) e with
    | none => rw [hw, foldl_writePart_none] at h; cases h
    | some u => rw [hw] at h; exact (stored_writePart hw).trans (ih h)

theorem stored_ctxWrite {s t : State} {ctx va : Nat} {bytes : List Byte} (h : ctxWrite s ctx va bytes = some t) : Stored s t := by
  rw [ctxWrite_eq] at h
  split at h
  · cases h
  · exact stored_writeParts _ h

end Sys2Proof.Machine
end

section
/-! PROOFS. A scan of a queue and the end of a launch (13_queues R253, R254, R258). -/

namespace Sys2Proof.Machine

/-! ## The front end's side of the state -/

/-- Beside memory's side, the queues and what the host is told have changed. -/
def FrontSide (s t : State) : Prop := ∃ u, Stored s u ∧ t = { u with queues := t.queues, host := t.host }

theorem Stored.front {s t : State} (h : Stored s t) : FrontSide s t := ⟨t, h, rfl⟩

theorem FrontSide.refl (s : State) : FrontSide s s := (Stored.refl s).front

/-- Storing does not look at what the relation lets differ: queues and messages put back, the rest is as before. -/
theorem Stored.swap {u t : State} (h : Stored u t) (qs : List QueueRow) (hs : List HostMsg) :
    Stored { u with queues := qs, host := hs } { t with queues := qs, host := hs } := by
  obtain ⟨⟨hst, hids⟩, hbare⟩ := h
  refine ⟨⟨?_, hids⟩, hbare⟩
  rw [hst]

theorem FrontSide.trans {s t u : State} (h : FrontSide s t) (h' : FrontSide t u) : FrontSide s u := by
  obtain ⟨t0, hst, ht⟩ := h
  obtain ⟨u0, htu, hu⟩ := h'
  have hback := htu.swap t0.queues t0.host
  have ht0 : { t with queues := t0.queues, host := t0.host } = t0 := by rw [ht]
  rw [ht0] at hback
  refine ⟨_, hst.trans hback, ?_⟩
  rw [hu]

theorem frontSide_setQueue (s : State) (q : QueueRow) : FrontSide s (setQueue s q) := ⟨s, .refl s, rfl⟩

theorem frontSide_tellHost (s : State) (m : HostMsg) : FrontSide s (tellHost s m) := ⟨s, .refl s, rfl⟩

theorem FrontSide.bare {s t : State} (h : FrontSide s t) : t.ctxs.map bareCtx = s.ctxs.map bareCtx := by
  obtain ⟨u, ⟨_, hbare⟩, ht⟩ := h
  rw [ht]
  exact hbare

section
variable {s t : State} (h : Stored s t)
include h

theorem Stored.gangs : t.gangs = s.gangs := by rw [h.1.1]

theorem Stored.vrf : t.vrf = s.vrf := by rw [h.1.1]

theorem Stored.launches : t.launches = s.launches := by rw [h.1.1]

theorem Stored.queues : t.queues = s.queues := by rw [h.1.1]

theorem Stored.host : t.host = s.host := by rw [h.1.1]

theorem Stored.fresh : t.fresh = s.fresh := by rw [h.1.1]

theorem Stored.bars : t.bars = s.bars := by rw [h.1.1]

theorem Stored.queueOf (vf num : Nat) : queueOf t vf num = queueOf s vf num := by rw [Machine.queueOf, Machine.queueOf, h.queues]

end

section
variable {s t : State} (h : FrontSide s t)
include h

theorem FrontSide.gangs : t.gangs = s.gangs := by
  obtain ⟨u, hu, ht⟩ := h
  rw [ht]; exact hu.gangs

theorem FrontSide.vrf : t.vrf = s.vrf := by
  obtain ⟨u, hu, ht⟩ := h
  rw [ht]; exact hu.vrf

theorem FrontSide.launches : t.launches = s.launches := by
  obtain ⟨u, hu, ht⟩ := h
  rw [ht]; exact hu.launches

theorem FrontSide.fresh : t.fresh = s.fresh := by
  obtain ⟨u, hu, ht⟩ := h
  rw [ht]; exact hu.fresh

theorem FrontSide.bars : t.bars = s.bars := by
  obtain ⟨u, hu, ht⟩ := h
  rw [ht]; exact hu.bars

end

/-! ## Queue rows -/

theorem queueOf_name {s : State} {vf num : Nat} {q : QueueRow} (h : queueOf s vf num = some q) : q.vf = vf ∧ q.num = num := by
  have hq := List.find?_some h
  rw [Bool.and_eq_true, beq_iff_eq, beq_iff_eq] at hq
  exact hq

theorem queueOf_setQueue {s : State} {q x : QueueRow} (h : queueOf s x.vf x.num = some q) : queueOf (setQueue s x) x.vf x.num = some x := by
  unfold queueOf at h ⊢
  show (s.queues.map _).find? _ = some x
  generalize s.queues = qs at h ⊢
  induction qs with
  | nil => cases h
  | cons y ys ih =>
    by_cases hy : y.vf = x.vf ∧ y.num = x.num
    · simp [hy]
    · have hno : (y.vf == x.vf && y.num == x.num) = false := by simpa using hy
      rw [List.find?_cons, hno] at h
      rw [List.map_cons, if_neg hy, List.find?_cons, hno]
      exact ih h

/-! ## A queue stops -/

theorem frontSide_stopQueue (s : State) (q : QueueRow) (err : Nat) : FrontSide s (stopQueue s q err) := by
  unfold stopQueue
  extract_lets s1
  have h1 : FrontSide s s1 := (frontSide_setQueue _ _).trans (frontSide_tellHost _ _)
  clear_value s1
  split
  · cases hw : ctxWrite s1 q.ctx (q.base + 68) (leBytes err 4) with
    | none => exact h1
    | some t => exact h1.trans (stored_ctxWrite hw).front
  · exact h1

theorem stopQueue_row {s : State} {q q0 : QueueRow} (h : queueOf s q.vf q.num = some q0) (err : Nat) :
    queueOf (stopQueue s q err) q.vf q.num = some { q with qerr := err } ∧ (stopQueue s q err).host = s.host ++ [.queueStopped q.vf q.num err] := by
  unfold stopQueue
  extract_lets s1
  have h1 : queueOf s1 q.vf q.num = some { q with qerr := err } := queueOf_setQueue (x := { q with qerr := err }) h
  have hhost : s1.host = s.host ++ [.queueStopped q.vf q.num err] := rfl
  clear_value s1
  split
  · cases hw : ctxWrite s1 q.ctx (q.base + 68) (leBytes err 4) with
    | none => exact ⟨h1, hhost⟩
    | some t =>
      have hst := stored_ctxWrite hw
      exact ⟨(hst.queueOf _ _).trans h1, hst.host.trans hhost⟩
  · exact ⟨h1, hhost⟩

/-! ## A record is looked at -/

theorem noteSeen_queues (s : State) (q : QueueRow) : ∃ qs, noteSeen s q = { s with queues := qs } := by
  unfold noteSeen
  split
  · exact ⟨s.queues, rfl⟩
  · split
    · dsimp only
      split
      · exact ⟨_, rfl⟩
      · exact ⟨s.queues, rfl⟩
    · exact ⟨s.queues, rfl⟩

theorem frontSide_noteSeen (s : State) (q : QueueRow) : FrontSide s (noteSeen s q) := by
  obtain ⟨qs, hqs⟩ := noteSeen_queues s q
  exact ⟨s, .refl s, by rw [hqs]⟩

theorem noteSeen_row {s : State} {q : QueueRow} (h : queueOf s q.vf q.num = some q) :
    ∃ seen, queueOf (noteSeen s q) q.vf q.num = some { q with seen := seen } := by
  unfold noteSeen
  split
  · exact ⟨q.seen, h⟩
  · split
    · dsimp only
      split
      · exact ⟨_, queueOf_setQueue (x := { q with seen := some (_, false) }) h⟩
      · exact ⟨q.seen, h⟩
    · exact ⟨q.seen, h⟩

/-! ## The scan -/

theorem withLines_nil (f : State → State) (s : State) : withLines [] f s = f s := rfl

/-- What a step may do only when its lines are there keeps what waiting for lines keeps. -/
theorem frontSide_withLines {gs : List (Bool × Nat)} {f : State → State} {s : State} (hf : FrontSide s (f s)) : FrontSide s (withLines gs f s) := by
  unfold withLines
  split
  · exact hf
  · exact (stored_awaitLines _ _).front

theorem frontSide_scanTail (q : QueueRow) (n : Nat) (s : State) : FrontSide s (scanTail q n s) := by
  unfold scanTail
  extract_lets q1 stop
  have hstop : ∀ err, FrontSide s (stop err) := fun err => by
    refine frontSide_withLines ?_
    split
    · exact (frontSide_setQueue _ _).trans (frontSide_stopQueue _ _ _)
    · exact .refl s
  split
  · exact hstop 1
  · split
    · exact hstop 2
    · split
      · exact frontSide_setQueue _ _
      · exact frontSide_withLines ((frontSide_setQueue _ _).trans (frontSide_noteSeen _ _))

theorem frontSide_scanEvent (vf num : Nat) (s : State) : FrontSide s (scanEvent vf num s) := by
  unfold scanEvent
  split
  · split
    · exact .refl s
    · split
      · exact frontSide_stopQueue _ _ _
      · refine frontSide_withLines ?_
        split
        · exact frontSide_stopQueue _ _ _
        · exact frontSide_scanTail _ _ _
  · exact .refl s

section
variable {s : State} {vf num : Nat} {q : QueueRow} (hq : queueOf s vf num = some q) (he : q.enabled = true) (h0 : q.qerr = 0)
include hq he h0

theorem scanEvent_badHeader (h : headerOk s q = false) : scanEvent vf num s = stopQueue s q 2 := by
  simp [scanEvent, hq, he, h0, h]

theorem scanEvent_tail {n : Nat} (h : headerOk s q = true) (hl : readGaps s q.ctx [(q.base, 4)] = []) (hn : ctxNat s q.ctx q.base 4 .rd = some n) :
    scanEvent vf num s = scanTail q n s := by
  simp [scanEvent, hq, he, h0, h, hl, withLines_nil, hn]

end

section
variable {s : State} {q : QueueRow} {n : Nat}

theorem scanTail_tooMany (hl : ctxGaps s q.ctx true [(q.base, 128)] = []) (hr : ctxRoom s q.ctx [(q.base, 128)] = true)
    (h : q.slots < pendingRecs { q with tail := n }) :
    scanTail q n s = stopQueue (setQueue s { q with tail := n }) { q with tail := n } 1 := by
  simp [scanTail, h, hl, hr, withLines_nil]

theorem scanTail_unreadable (hl : ctxGaps s q.ctx true [(q.base, 128)] = []) (hr : ctxRoom s q.ctx [(q.base, 128)] = true)
    (h : pendingRecs { q with tail := n } ≤ q.slots) (hbad : ¬∀ i, i < pendingRecs { q with tail := n } → pageOk s q.ctx (slotAt q (q.head + i)) .rd = true) :
    scanTail q n s = stopQueue (setQueue s { q with tail := n }) { q with tail := n } 2 := by
  have hany : (List.range (pendingRecs { q with tail := n })).any (fun i => !pageOk s q.ctx (slotAt q (q.head + i)) .rd) = true := by
    simpa using hbad
  have hany' : (List.range (pendingRecs { q with tail := n })).any
      (fun i => !pageOk s { q with tail := n }.ctx (slotAt { q with tail := n } ({ q with tail := n }.head + i)) .rd) = true := hany
  unfold scanTail
  dsimp only at hany' ⊢
  rw [if_neg (Nat.not_lt.mpr h), if_pos hany', hl, withLines_nil, if_pos hr]

theorem scanTail_reads (h : pendingRecs { q with tail := n } ≤ q.slots)
    (hok : ∀ i, i < pendingRecs { q with tail := n } → pageOk s q.ctx (slotAt q (q.head + i)) .rd = true)
    (hl : pendingRecs { q with tail := n } = 0 ∨ readGaps s q.ctx [(slotAt q q.head, 128)] = []) :
    scanTail q n s = setQueue s { q with tail := n } ∨ scanTail q n s = noteSeen (setQueue s { q with tail := n }) { q with tail := n } := by
  have hany : ¬(List.range (pendingRecs { q with tail := n })).any
      (fun i => !pageOk s { q with tail := n }.ctx (slotAt { q with tail := n } ({ q with tail := n }.head + i)) .rd) = true := by
    simpa [slotAt] using hok
  unfold scanTail
  dsimp only at hany hl ⊢
  rw [if_neg (Nat.not_lt.mpr h), if_neg hany]
  by_cases hz : pendingRecs { q with tail := n } = 0
  · rw [if_pos hz]
    exact .inl rfl
  · rw [if_neg hz]
    have hgap : readGaps s q.ctx [(slotAt { q with tail := n } q.head, 128)] = [] := hl.resolve_left hz
    rw [hgap, withLines_nil]
    exact .inr rfl

end

/-- A scan takes TAIL, or stops the queue with its code (R254). -/
theorem queueScan_serves {s : State} {vf num n : Nat} {q : QueueRow} (hq : queueOf s vf num = some q) (he : q.enabled = true) (h0 : q.qerr = 0) :
    let pend := (n + 2 ^ 32 - q.head) % 2 ^ 32
    let readable := ∀ i, i < pend → pageOk s q.ctx (slotAt q (q.head + i)) .rd = true
    let header := headerOk s q = true ∧ readGaps s q.ctx [(q.base, 4)] = [] ∧ ctxNat s q.ctx q.base 4 .rd = some n
    let stops := ctxGaps s q.ctx true [(q.base, 128)] = [] ∧ ctxRoom s q.ctx [(q.base, 128)] = true
    ∃ t : State, exec (.queueScan vf num) s = .next t ∧ t.gangs = s.gangs ∧ t.launches = s.launches ∧
      (headerOk s q = false → queueOf t vf num = some { q with qerr := 2 } ∧ t.host = s.host ++ [.queueStopped vf num 2]) ∧
      (header → q.slots < pend → stops → queueOf t vf num = some { q with tail := n, qerr := 1 } ∧ t.host = s.host ++ [.queueStopped vf num 1]) ∧
      (header → pend ≤ q.slots → ¬readable → stops →
        queueOf t vf num = some { q with tail := n, qerr := 2 } ∧ t.host = s.host ++ [.queueStopped vf num 2]) ∧
      (header → pend ≤ q.slots → readable → (pend = 0 ∨ readGaps s q.ctx [(slotAt q q.head, 128)] = []) →
        t = { s with queues := t.queues } ∧ ∃ x : QueueRow, queueOf t vf num = some x ∧ x.tail = n ∧ x = { q with tail := n, seen := x.seen }) := by
  obtain ⟨rfl, rfl⟩ := queueOf_name hq
  have hset : queueOf (setQueue s { q with tail := n }) q.vf q.num = some { q with tail := n } := queueOf_setQueue (x := { q with tail := n }) hq
  have hfront := frontSide_scanEvent q.vf q.num s
  intro pend readable header stops
  refine ⟨scanEvent q.vf q.num s, rfl, hfront.gangs, hfront.launches, fun hbad => ?_, ?_, ?_, ?_⟩
  · rw [scanEvent_badHeader hq he h0 hbad]
    exact stopQueue_row hq 2
  · rintro ⟨hh, hg, hn⟩ hmany ⟨hl, hr⟩
    rw [scanEvent_tail hq he h0 hh hg hn, scanTail_tooMany hl hr hmany]
    exact stopQueue_row (q := { q with tail := n }) hset 1
  · rintro ⟨hh, hg, hn⟩ hfew hbad ⟨hl, hr⟩
    rw [scanEvent_tail hq he h0 hh hg hn, scanTail_unreadable hl hr hfew hbad]
    exact stopQueue_row (q := { q with tail := n }) hset 2
  · rintro ⟨hh, hg, hn⟩ hfew hok hl
    rw [scanEvent_tail hq he h0 hh hg hn]
    rcases scanTail_reads hfew hok hl with ht | ht
    · rw [ht]
      exact ⟨rfl, _, hset, rfl, rfl⟩
    · rw [ht]
      obtain ⟨qs, hqs⟩ := noteSeen_queues (setQueue s { q with tail := n }) { q with tail := n }
      obtain ⟨seen, hrow⟩ := noteSeen_row (q := { q with tail := n }) hset
      refine ⟨?_, _, hrow, rfl, rfl⟩
      rw [hqs]
      rfl

/-! ## The end of a launch -/

theorem writeBackCtx_clean {s : State} {ctx : Nat} (h : ∀ r ∈ s.l1, r.ctx = ctx → r.dirty = 0) : writeBackCtx s ctx = s := by
  have hnone : s.l1.filter (fun r => r.ctx == ctx && decide (r.dirty ≠ 0)) = [] :=
    List.filter_eq_nil_iff.mpr fun r hr => by
      by_cases hc : r.ctx = ctx
      · simp [h r hr hc]
      · simp [hc]
  rw [writeBackCtx, hnone, List.foldl_nil]

theorem postsOpen_none {s : State} {ctx : Nat} (h : ∀ r ∈ s.l2, r.ctx = ctx → r.peer = true → r.dirty = 0 ∨ r.owned = true) : postsOpen s ctx = false := by
  refine List.any_eq_false.mpr fun r hr => ?_
  by_cases hc : r.ctx = ctx
  · by_cases hp : r.peer = true
    · rcases h r hr hc hp with hd | ho
      · simp [hd]
      · simp [ho]
    · simp [hp]
  · simp [hc]

/-- The launch leaves the dispatcher. -/
def dropLaunch (s : State) (id : Nat) : State := { s with launches := s.launches.filter (fun x => x.id != id) }

theorem launchOf_dropLaunch (s : State) (id : Nat) : launchOf (dropLaunch s id) id = none := by
  refine List.find?_eq_none.mpr fun l hl => ?_
  have hne := (List.mem_filter.mp hl).2
  simpa using hne

theorem arriveEnds_plain {l : Launch} (hf : l.fused = none) (hw : l.wv = false) (ha : l.av = false) (s : State) : arriveEnds s l = s := by
  simp [arriveEnds, hf, hw, ha]

theorem writeEnds_plain {l : Launch} (hf : l.fused = none) (s : State) :
    writeEnds s l = writeCompletion s l.ctx l.id l.cpla (launchFatal l).status (launchFatal l).code (launchFatal l).block (launchFatal l).pc := by
  simp [writeEnds, hf]

theorem launchEndEvent_plain {s : State} {l : Launch} (hl : launchOf s l.id = some l) (hd : launchDone s l = true) (hf : l.fused = none) (hw : l.wv = false)
    (ha : l.av = false) (h1 : ∀ r ∈ s.l1, r.ctx = l.ctx → r.dirty = 0)
    (h2 : ∀ r ∈ s.l2, r.ctx = l.ctx → r.peer = true → r.dirty = 0 ∨ r.owned = true)
    (hg : ctxGaps s l.ctx true (endWrites l) = []) (hr : ctxRoom s l.ctx (endWrites l) = true) :
    launchEndEvent l.id s = dropLaunch (writeEnds s l) l.id := by
  simp [launchEndEvent, hl, hd, writeBackCtx_clean h1, postsOpen_none h2, hg, hr, withLines_nil, arriveEnds_plain hf hw ha, dropLaunch]

theorem writeCompletion_nowhere (s : State) (ctx launch status code block pc : Nat) : writeCompletion s ctx launch 0 status code block pc = s := rfl

theorem writeCompletion_written {s u : State} {ctx launch cpla status code block pc : Nat} (hz : cpla ≠ 0)
    (hu : ctxWrite s ctx cpla (completionBytes status code block pc) = some u) : writeCompletion s ctx launch cpla status code block pc = u := by
  simp [writeCompletion, hz, hu]

theorem writeCompletion_dropped {s : State} {ctx launch cpla status code block pc : Nat} (hz : cpla ≠ 0)
    (hu : ctxWrite s ctx cpla (completionBytes status code block pc) = none) :
    writeCompletion s ctx launch cpla status code block pc = tellHost s (.completionDropped launch status) := by
  simp [writeCompletion, hz, hu]

theorem endWrites_plain {l : Launch} (hf : l.fused = none) : endWrites l = if l.cpla = 0 then [] else [(l.cpla, 16)] := by
  unfold endWrites
  rw [hf]
  by_cases h : l.cpla = 0
  · simp [h]
  · simp [h]

/-- A launch that is done ends with its completion record, or reports that it was dropped (R258). -/
theorem launchEnd_serves {s : State} {l : Launch} (hl : launchOf s l.id = some l) (hd : launchDone s l = true) (hf : l.fused = none) (hw : l.wv = false)
    (ha : l.av = false) (h1 : ∀ r ∈ s.l1, r.ctx = l.ctx → r.dirty = 0)
    (h2 : ∀ r ∈ s.l2, r.ctx = l.ctx → r.peer = true → r.dirty = 0 ∨ r.owned = true) :
    (l.cpla = 0 → ∃ t : State, exec (.launchEnd l.id) s = .next t ∧ t = { s with launches := t.launches } ∧ launchOf t l.id = none) ∧
    (l.cpla ≠ 0 → ctxGaps s l.ctx true [(l.cpla, 16)] = [] → ctxRoom s l.ctx [(l.cpla, 16)] = true →
      let f := launchFatal l
      let bytes := leBytes (256 * f.code + f.status) 4 ++ leBytes f.block 4 ++ leBytes f.pc 8
      ∃ t : State, exec (.launchEnd l.id) s = .next t ∧ launchOf t l.id = none ∧
        (∀ u, ctxWrite s l.ctx l.cpla bytes = some u → t = { u with launches := t.launches }) ∧
        (ctxWrite s l.ctx l.cpla bytes = none → t = { s with launches := t.launches, host := s.host ++ [.completionDropped l.id f.status] })) := by
  have hwrites := endWrites_plain hf
  refine ⟨fun hz => ?_, fun hz hg hr => ?_⟩
  · rw [if_pos hz] at hwrites
    have hgone : launchEndEvent l.id s = dropLaunch s l.id := by
      rw [launchEndEvent_plain hl hd hf hw ha h1 h2 (by rw [hwrites]; rfl) (by rw [hwrites]; rfl), writeEnds_plain hf, hz, writeCompletion_nowhere]
    exact ⟨_, congrArg Host.Outcome.next hgone, rfl, launchOf_dropLaunch _ _⟩
  · rw [if_neg hz] at hwrites
    have hgone := launchEndEvent_plain hl hd hf hw ha h1 h2 (by rw [hwrites]; exact hg) (by rw [hwrites]; exact hr)
    refine ⟨_, congrArg Host.Outcome.next hgone, launchOf_dropLaunch _ _, fun u hu => ?_, fun hu => ?_⟩
    · rw [writeEnds_plain hf, writeCompletion_written hz hu]
      rfl
    · rw [writeEnds_plain hf, writeCompletion_dropped hz hu]
      rfl

end Sys2Proof.Machine
end

section
/-! PROOFS. The fused image and its PC map (14_splicer R282, R283): the order of the packets, each word, each map entry. -/

namespace Sys2Proof.Machine

/-! ## The order of the packets -/

/-- The kernel that a fused packet comes from. -/
def fusedKern (pl : Plan) (e : Bool × Nat) : Kern := if e.1 then pl.c else pl.p

/-- Where a packet's part stands: the producer's before the consumer's, part by part. -/
def fusedRank (pl : Plan) (e : Bool × Nat) : Nat := if e.1 then 2 * pl.c.part e.2 + 1 else 2 * pl.p.part e.2

/-- The packets of one kernel that lie in one part, on their side. -/
def packetsIn (k : Kern) (side : Bool) (part : Nat) : List (Bool × Nat) :=
    ((List.range k.pks.length).filter (fun i => k.part i == part)).map (fun i => (side, i))

theorem fusedOrder_eq (pl : Plan) : fusedOrder pl = (List.range 4).flatMap (fun part => packetsIn pl.p false part ++ packetsIn pl.c true part) := rfl

theorem Kern.part_lt (k : Kern) (i : Nat) : k.part i < 4 := by
  unfold Kern.part
  split
  · decide
  · split
    · decide
    · split
      · decide
      · decide

theorem mem_packetsIn {k : Kern} {side : Bool} {part : Nat} {e : Bool × Nat} : e ∈ packetsIn k side part ↔ e.1 = side ∧ e.2 < k.pks.length ∧
    k.part e.2 = part := by
  obtain ⟨a, i⟩ := e
  simp only [packetsIn, List.mem_map, List.mem_filter, List.mem_range, beq_iff_eq, Prod.mk.injEq]
  constructor
  · rintro ⟨j, ⟨hj, hp⟩, rfl, rfl⟩
    exact ⟨rfl, hj, hp⟩
  · rintro ⟨rfl, hj, hp⟩
    exact ⟨i, ⟨hj, hp⟩, rfl, rfl⟩

theorem pairwise_packetsIn (k : Kern) (side : Bool) (part : Nat) : (packetsIn k side part).Pairwise (fun a b => a.2 < b.2) :=
  List.pairwise_map.mpr (List.pairwise_lt_range.filter _)

theorem mem_fusedOrder {pl : Plan} {e : Bool × Nat} : e ∈ fusedOrder pl ↔ e.2 < (fusedKern pl e).pks.length := by
  obtain ⟨side, i⟩ := e
  rw [fusedOrder_eq, List.mem_flatMap]
  constructor
  · rintro ⟨part, -, h⟩
    rcases List.mem_append.mp h with h | h
    · obtain ⟨rfl, hi, -⟩ := mem_packetsIn.mp h
      exact hi
    · obtain ⟨rfl, hi, -⟩ := mem_packetsIn.mp h
      exact hi
  · intro hi
    refine ⟨(fusedKern pl (side, i)).part i, List.mem_range.mpr (Kern.part_lt _ _), ?_⟩
    cases side with
    | false => exact List.mem_append_left _ (mem_packetsIn.mpr ⟨rfl, hi, rfl⟩)
    | true => exact List.mem_append_right _ (mem_packetsIn.mpr ⟨rfl, hi, rfl⟩)

theorem fusedRank_of_mem {pl : Plan} {part : Nat} {e : Bool × Nat} (h : e ∈ packetsIn pl.p false part ++ packetsIn pl.c true part) :
    fusedRank pl e = 2 * part + (if e.1 then 1 else 0) := by
  rcases List.mem_append.mp h with h | h
  · obtain ⟨hs, -, hp⟩ := mem_packetsIn.mp h
    simp [fusedRank, hs, hp]
  · obtain ⟨hs, -, hp⟩ := mem_packetsIn.mp h
    simp [fusedRank, hs, hp]

/-- The order of R282: by part, the producer's packets first, each kernel's in its own order. -/
theorem pairwise_fusedOrder (pl : Plan) :
    (fusedOrder pl).Pairwise (fun a b => fusedRank pl a < fusedRank pl b ∨ fusedRank pl a = fusedRank pl b ∧ a.2 < b.2) := by
  rw [fusedOrder_eq, List.pairwise_flatMap]
  refine ⟨fun part _ => List.pairwise_append.mpr ⟨?_, ?_, ?_⟩, ?_⟩
  · refine (pairwise_packetsIn pl.p false part).imp_of_mem fun ha hb hlt => .inr ⟨?_, hlt⟩
    rw [fusedRank_of_mem (List.mem_append_left _ ha), fusedRank_of_mem (List.mem_append_left _ hb), (mem_packetsIn.mp ha).1, (mem_packetsIn.mp hb).1]
  · refine (pairwise_packetsIn pl.c true part).imp_of_mem fun ha hb hlt => .inr ⟨?_, hlt⟩
    rw [fusedRank_of_mem (List.mem_append_right _ ha), fusedRank_of_mem (List.mem_append_right _ hb), (mem_packetsIn.mp ha).1, (mem_packetsIn.mp hb).1]
  · intro a ha b hb
    refine .inl ?_
    rw [fusedRank_of_mem (List.mem_append_left _ ha), fusedRank_of_mem (List.mem_append_right _ hb), (mem_packetsIn.mp ha).1, (mem_packetsIn.mp hb).1]
    simp
  · refine List.pairwise_lt_range.imp fun hlt a ha b hb => .inl ?_
    rw [fusedRank_of_mem ha, fusedRank_of_mem hb]
    split <;> split <;> omega

theorem nodup_fusedOrder (pl : Plan) : (fusedOrder pl).Nodup :=
  (pairwise_fusedOrder pl).imp fun {a b} h hab => by
    subst hab
    omega

theorem length_fusedOrder (pl : Plan) : (fusedOrder pl).length = pl.p.pks.length + pl.c.pks.length := by
  let all := (List.range pl.p.pks.length).map (Prod.mk false) ++ (List.range pl.c.pks.length).map (Prod.mk true)
  have hinj : ∀ (side : Bool) (n : Nat), ((List.range n).map (Prod.mk side)).Nodup := fun side n =>
    List.Nodup.map (fun a b h => congrArg Prod.snd h) List.nodup_range
  have hnodup : all.Nodup := by
    refine List.nodup_append.mpr ⟨hinj _ _, hinj _ _, ?_⟩
    intro a ha b hb hab
    obtain ⟨i, -, rfl⟩ := List.mem_map.mp ha
    obtain ⟨j, -, rfl⟩ := List.mem_map.mp hb
    cases hab
  have hmem : ∀ e, e ∈ fusedOrder pl ↔ e ∈ all := by
    rintro ⟨side, i⟩
    rw [mem_fusedOrder]
    cases side with
    | false => simp [all, fusedKern]
    | true => simp [all, fusedKern]
  have hlen := ((List.perm_ext_iff_of_nodup (nodup_fusedOrder pl) hnodup).mpr hmem).length_eq
  simpa [all] using hlen

theorem fusedIndex_of_mem {order : List (Bool × Nat)} {side : Bool} {i : Nat} (h : (side, i) ∈ order) :
    fusedIndex order side i = order.findIdx (fun e => e == (side, i)) ∧ order[order.findIdx (fun e => e == (side, i))]? = some (side, i) := by
  have hex : ∃ x ∈ order, (x == (side, i)) = true := ⟨_, h, beq_self_eq_true _⟩
  have hlt := List.findIdx_lt_length_of_exists hex
  refine ⟨?_, ?_⟩
  · rw [fusedIndex, List.findIdx?_eq_some_of_exists hex, Option.getD_some]
  · rw [List.getElem?_eq_getElem hlt, eq_of_beq (List.findIdx_getElem (w := hlt))]

/-! ## Words of the producer -/

theorem Kern.word_of_back {k : Kern} {w : Nat} (h : k.back = some w) : ∃ p n off, k.word (k.so + k.sl - 1) w = some (.bra p n off) := by
  have hw := List.find?_some h
  split at hw
  · exact ⟨_, _, _, by assumption⟩
  · cases hw

theorem modFalls_of_word {k : Kern} {i j : Nat} (h : ∀ m, k.word i j ≠ some (.mod m)) : modFalls k i j = false := by
  unfold modFalls
  split
  · exact absurd (by assumption) (h _)
  · rfl

theorem not_back_of_word {k : Kern} {i w : Nat} (h : ∀ p n off, k.word i w ≠ some (.bra p n off)) : ¬(i = k.so + k.sl - 1 ∧ k.back = some w) := by
  rintro ⟨rfl, hb⟩
  obtain ⟨p, n, off, hw⟩ := Kern.word_of_back hb
  exact h p n off hw

section
variable {pl : Plan} {order : List (Bool × Nat)} {at_ i w : Nat}

theorem fuseP_none (h : pl.p.word i w = none) : fuseP pl order at_ i w = (pl.p.pks.getD i []).getD w 0 := by
  have hm : modFalls pl.p i w = false := modFalls_of_word fun m => by simp [h]
  have hb : ¬(i = pl.p.so + pl.p.sl - 1 ∧ pl.p.back = some w) := not_back_of_word fun p n off => by simp [h]
  simp [fuseP, hm, hb, h]

theorem fuseP_plain {x : Instr} (h : pl.p.word i w = some x) (hx : x ≠ .exitW) (ht : targetOf i x = none) (hmod : ∀ m, x ≠ .mod m) :
    fuseP pl order at_ i w = (pl.p.pks.getD i []).getD w 0 := by
  have hbra : ∀ p n off, x ≠ .bra p n off := fun p n off he => by subst he; cases ht
  have hcall : ∀ p n off, x ≠ .call p n off := fun p n off he => by subst he; cases ht
  have hm : modFalls pl.p i w = false := modFalls_of_word fun m => by rw [h]; exact fun he => hmod m (Option.some.inj he)
  have hb : ¬(i = pl.p.so + pl.p.sl - 1 ∧ pl.p.back = some w) := not_back_of_word fun p n off => by
    rw [h]; exact fun he => hbra p n off (Option.some.inj he)
  unfold fuseP
  dsimp only
  rw [hm, if_neg Bool.false_ne_true, if_neg hb, h]
  split
  · exact absurd (Option.some.inj (by assumption)) hx
  · exact absurd (Option.some.inj (by assumption)) (hbra _ _ _)
  · exact absurd (Option.some.inj (by assumption)) (hcall _ _ _)
  · rfl

theorem fuseP_bra {g : BitVec 3} {neg : Bool} {off : BitVec 20} (h : pl.p.word i w = some (.bra g neg off)) :
    fuseP pl order at_ i w = if i = pl.p.so + pl.p.sl - 1 ∧ pl.p.back = some w then withC ((pl.p.pks.getD i []).getD w 0) (.nop 0)
      else withC ((pl.p.pks.getD i []).getD w 0) (.bra g neg (offTo at_ (fusedIndex order false (i + off.toInt).toNat))) := by
  have hm : modFalls pl.p i w = false := modFalls_of_word fun m => by simp [h]
  simp [fuseP, hm, h]

theorem fuseP_exit (h : pl.p.word i w = some .exitW) (hp : pl.p.part i = 2) :
    fuseP pl order at_ i w = withC ((pl.p.pks.getD i []).getD w 0)
      (.bra ((modBefore pl.p i w).getD plainMod).pred ((modBefore pl.p i w).getD plainMod).pneg (offTo at_ (fusedIndex order true (pl.c.so + pl.c.sl)))) := by
  have hm : modFalls pl.p i w = false := modFalls_of_word fun m => by simp [h]
  have hb : ¬(i = pl.p.so + pl.p.sl - 1 ∧ pl.p.back = some w) := not_back_of_word fun p n off => by simp [h]
  simp [fuseP, hm, hb, h, hp]

theorem fuseP_modOfExit (h : pl.p.word i w = some .exitW) (hp : pl.p.part i = 2) (hw : w ≠ 0) (hm : modBefore pl.p i w ≠ none) :
    fuseP pl order at_ i (w - 1) = withC ((pl.p.pks.getD i []).getD (w - 1) 0) (.nop 0) := by
  have hnext : w - 1 + 1 = w := Nat.succ_pred_eq_of_ne_zero hw
  have hfalls : modFalls pl.p i (w - 1) = true := by
    unfold modBefore at hm
    rw [if_neg hw] at hm
    split at hm
    · rename_i m hword
      simp [modFalls, hword, hnext, h, hp, isExit]
    · exact absurd rfl hm
  simp [fuseP, hfalls]

/-! ## Words of the consumer -/

theorem fuseC_plain {x : Instr} (h : pl.c.word i w = some x) (ht : targetOf i x = none) :
    fuseC pl order at_ i w = withC ((pl.c.pks.getD i []).getD w 0) (mapRegs (planRenum pl.np pl.up pl.pm pl.xm pl.mm) x) := by
  unfold fuseC
  dsimp only
  rw [h]
  split
  · cases Option.some.inj (by assumption)
    cases ht
  · cases Option.some.inj (by assumption)
    cases ht
  · cases Option.some.inj (by assumption)
    rfl
  · rename_i he
    cases he

theorem fuseC_bra {g : BitVec 3} {neg : Bool} {off : BitVec 20} (h : pl.c.word i w = some (.bra g neg off)) :
    fuseC pl order at_ i w = withC ((pl.c.pks.getD i []).getD w 0) (.bra (BitVec.ofNat 3 (mapped pl.pm g.toNat)) neg (offTo at_
      (if i = pl.c.so + pl.c.sl - 1 ∧ pl.c.back = some w then fusedIndex order false pl.p.so else fusedIndex order true (i + off.toInt).toNat))) := by
  unfold fuseC
  dsimp only
  rw [h]
  rfl

end

/-! ## Packets and map entries -/

theorem getD_fusePacket {pl : Plan} {order : List (Bool × Nat)} {at_ w : Nat} {e : Bool × Nat} (hw : w < 3) :
    (fusePacket pl order at_ e).getD w 0 = if e.1 then fuseC pl order at_ e.2 w else fuseP pl order at_ e.2 w := by
  unfold fusePacket
  dsimp only
  rw [List.getD_append _ _ _ _ (by simpa using hw), List.getD_eq_getElem?_getD, List.getElem?_map, List.getElem?_range hw]
  rfl

theorem getD_fusePacket_last (pl : Plan) (order : List (Bool × Nat)) (at_ : Nat) (e : Bool × Nat) :
    (fusePacket pl order at_ e).getD 3 0 = ((fusedKern pl e).pks.getD e.2 []).getD 3 0 := rfl

theorem fusePacket_words (pl : Plan) (order : List (Bool × Nat)) (at_ : Nat) (e : Bool × Nat) :
    (fusePacket pl order at_ e).flatMap (fun w => leBytes w.toNat 4) =
      (List.range 4).flatMap (fun w => leBytes ((fusePacket pl order at_ e).getD w 0).toNat 4) := rfl

theorem length_arenaUnits (pl : Plan) : (arenaUnits pl).length = 2 * (fusedOrder pl).length := by
  simp [arenaUnits]
  omega

theorem arenaUnits_image {pl : Plan} {j : Nat} {e : Bool × Nat} (h : (fusedOrder pl)[j]? = some e) :
    (arenaUnits pl).getD j [] = (fusePacket pl (fusedOrder pl) j e).flatMap (fun w => leBytes w.toNat 4) := by
  have hj : j < (fusedOrder pl).length := (List.getElem?_eq_some_iff.mp h).1
  unfold arenaUnits
  dsimp only
  rw [List.getD_append _ _ _ _ (by simpa using hj), List.getD_eq_getElem?_getD, List.getElem?_mapIdx, h]
  rfl

theorem arenaUnits_map {pl : Plan} {j : Nat} {e : Bool × Nat} (h : (fusedOrder pl)[j]? = some e) :
    (arenaUnits pl).getD ((fusedOrder pl).length + j) [] = mapBytes pl e := by
  unfold arenaUnits
  dsimp only
  rw [List.getD_append_right _ _ _ _ (by simp), List.length_mapIdx, Nat.add_sub_cancel_left, List.getD_eq_getElem?_getD, List.getElem?_map, h]
  rfl

theorem exists_of_firstSome {α β : Type} {f : α → Option β} {xs : List α} {y : β} (h : firstSome f xs = some y) : ∃ x ∈ xs, f x = some y := by
  induction xs with
  | nil => cases h
  | cons x xs ih =>
    rw [firstSome] at h
    split at h
    · rename_i z hz
      cases h
      exact ⟨x, List.mem_cons_self, hz⟩
    · obtain ⟨z, hz, hf⟩ := ih h
      exact ⟨z, List.mem_cons_of_mem _ hz, hf⟩

theorem tileKind_side {pl : Plan} {e : Bool × Nat} {w k no : Nat} (h : tileKind pl e = some (w, k, no)) : k = 3 ↔ e.1 = true := by
  unfold tileKind at h
  split at h
  · rename_i hs
    obtain ⟨x, -, hx⟩ := exists_of_firstSome h
    split at hx
    · obtain ⟨j, -, hj⟩ := Option.map_eq_some_iff.mp hx
      cases hj
      simp [hs]
    · cases hx
  · rename_i hs
    obtain ⟨j, -, hj⟩ := exists_of_firstSome h
    split at hj
    · split at hj
      · cases hj
        refine iff_of_false ?_ hs
        split
        · decide
        · decide
      · cases hj
    · cases hj

/-- A map entry: the packet's own address, and the kind and pair of its tile word where it has one (R283). -/
theorem mapBytes_eq (pl : Plan) (e : Bool × Nat) : ∃ kinds pair : Nat,
    mapBytes pl e = leBytes (2 ^ 63 + kinds * 2 ^ 57 + (if e.1 then 2 ^ 56 else 0) + ((fusedKern pl e).entry + 16 * e.2) % 2 ^ 56 + pair) 8 ++
        List.replicate 8 0 ∧
      (tileKind pl e = none → kinds = 0 ∧ pair = 0) ∧ (∀ w k no, tileKind pl e = some (w, k, no) → kinds = k * 4 ^ w ∧ pair = no ∧ (k = 3 ↔ e.1 = true)) := by
  have hside := fun w k no => tileKind_side (pl := pl) (e := e) (w := w) (k := k) (no := no)
  unfold mapBytes
  generalize tileKind pl e = t at hside ⊢
  cases t with
  | none => exact ⟨0, 0, rfl, fun _ => ⟨rfl, rfl⟩, fun w k no h => absurd h (by simp)⟩
  | some x =>
    obtain ⟨w, k, no⟩ := x
    refine ⟨k * 4 ^ w, no, rfl, fun h => absurd h (by simp), fun w' k' no' h => ?_⟩
    cases h
    exact ⟨rfl, rfl, hside w k no rfl⟩

/-- The fused image and its PC map are laid out as R282 and R283 have them. -/
theorem fusedImage_laidOut (pl : Plan) :
    let order := fusedOrder pl
    let n := pl.p.pks.length + pl.c.pks.length
    let rank := fun e : Bool × Nat => if e.1 then 2 * pl.c.part e.2 + 1 else 2 * pl.p.part e.2
    let kern := fun e : Bool × Nat => if e.1 then pl.c else pl.p
    let place := fun (side : Bool) (i : Nat) => order.findIdx (fun e => e == (side, i))
    let unit := fun u : Nat => (arenaUnits pl).getD u []
    order.length = n ∧ (arenaUnits pl).length = 2 * n ∧ (∀ side i, (side, i) ∈ order ↔ i < (kern (side, i)).pks.length) ∧
    order.Pairwise (fun a b => rank a < rank b ∨ rank a = rank b ∧ a.2 < b.2) ∧
    ∀ (j : Nat) (e : Bool × Nat), order[j]? = some e →
      let old := fun w : Nat => ((kern e).pks.getD e.2 []).getD w 0
      let new := fun w : Nat => (fusePacket pl order j e).getD w 0
      unit j = (List.range 4).flatMap (fun w => leBytes (new w).toNat 4) ∧ new 3 = old 3 ∧
      (∀ w, w < 3 → e.1 = false → pl.p.word e.2 w = none → new w = old w) ∧
      (∀ w (i : Instr), w < 3 → e.1 = false → pl.p.word e.2 w = some i → i ≠ .exitW → targetOf e.2 i = none → (∀ m, i ≠ .mod m) → new w = old w) ∧
      (∀ w (g : BitVec 3) (neg : Bool) (off : BitVec 20), w < 3 → e.1 = false → pl.p.word e.2 w = some (.bra g neg off) →
        new w = (if e.2 = pl.p.so + pl.p.sl - 1 ∧ pl.p.back = some w then withC (old w) (.nop 0)
          else withC (old w) (.bra g neg (offTo j (fusedIndex order false (e.2 + off.toInt).toNat))))) ∧
      (∀ w, w < 3 → e.1 = false → pl.p.part e.2 = 2 → pl.p.word e.2 w = some .exitW →
        let m := (modBefore pl.p e.2 w).getD plainMod
        new w = withC (old w) (.bra m.pred m.pneg (offTo j (fusedIndex order true (pl.c.so + pl.c.sl)))) ∧ (w ≠ 0 → modBefore pl.p e.2 w ≠ none →
          new (w - 1) = withC (old (w - 1)) (.nop 0))) ∧
      (∀ w (i : Instr), w < 3 → e.1 = true → pl.c.word e.2 w = some i → targetOf e.2 i = none →
        new w = withC (old w) (mapRegs (planRenum pl.np pl.up pl.pm pl.xm pl.mm) i)) ∧
      (∀ w (g : BitVec 3) (neg : Bool) (off : BitVec 20), w < 3 → e.1 = true → pl.c.word e.2 w = some (.bra g neg off) →
        new w = withC (old w) (.bra (BitVec.ofNat 3 (mapped pl.pm g.toNat)) neg (offTo j
          (if e.2 = pl.c.so + pl.c.sl - 1 ∧ pl.c.back = some w then fusedIndex order false pl.p.so else fusedIndex order true (e.2 + off.toInt).toNat)))) ∧
      (∀ side i, i < (kern (side, i)).pks.length → fusedIndex order side i = place side i ∧ order[place side i]? = some (side, i)) ∧
      ∃ kinds pair : Nat, unit (n + j) = leBytes (2 ^ 63 + kinds * 2 ^ 57 + (if e.1 then 2 ^ 56 else 0) + ((kern e).entry + 16 * e.2) % 2 ^ 56 + pair) 8 ++
          List.replicate 8 0 ∧
        (tileKind pl e = none → kinds = 0 ∧ pair = 0) ∧
          (∀ w k no, tileKind pl e = some (w, k, no) → kinds = k * 4 ^ w ∧ pair = no ∧ (k = 3 ↔ e.1 = true)) := by
  intro order n rank kern place unit
  have hlen : order.length = n := length_fusedOrder pl
  refine ⟨hlen, by rw [length_arenaUnits, ← hlen], fun side i => mem_fusedOrder, pairwise_fusedOrder pl, fun j e he => ?_⟩
  intro old new
  have hp : ∀ w, w < 3 → e.1 = false → new w = fuseP pl order j e.2 w := fun w hw hs => by
    rw [show new w = _ from getD_fusePacket hw, hs, if_neg Bool.false_ne_true]
  have hc : ∀ w, w < 3 → e.1 = true → new w = fuseC pl order j e.2 w := fun w hw hs => by
    rw [show new w = _ from getD_fusePacket hw, hs, if_pos rfl]
  have hpOld : ∀ w, e.1 = false → (pl.p.pks.getD e.2 []).getD w 0 = old w := fun w hs => by simp [old, kern, hs]
  have hcOld : ∀ w, e.1 = true → (pl.c.pks.getD e.2 []).getD w 0 = old w := fun w hs => by simp [old, kern, hs]
  refine ⟨(arenaUnits_image he).trans (fusePacket_words ..), getD_fusePacket_last .., ?_, ?_, ?_, ?_, ?_, ?_, fun side i hi => ?_, ?_⟩
  · intro w hw hs h
    rw [hp w hw hs, fuseP_none h, hpOld w hs]
  · intro w i hw hs h hx ht hmod
    rw [hp w hw hs, fuseP_plain h hx ht hmod, hpOld w hs]
  · intro w g neg off hw hs h
    rw [hp w hw hs, fuseP_bra h, hpOld w hs]
  · intro w hw hs hpart h m
    refine ⟨?_, fun h0 hm => ?_⟩
    · rw [hp w hw hs, fuseP_exit h hpart, hpOld w hs]
    · rw [hp (w - 1) (Nat.lt_of_le_of_lt (Nat.sub_le w 1) hw) hs, fuseP_modOfExit h hpart h0 hm, hpOld (w - 1) hs]
  · intro w i hw hs h ht
    rw [hc w hw hs, fuseC_plain h ht, hcOld w hs]
  · intro w g neg off hw hs h
    rw [hc w hw hs, fuseC_bra h, hcOld w hs]
  · exact fusedIndex_of_mem (mem_fusedOrder.mpr hi)
  · obtain ⟨kinds, pair, hbytes, hk⟩ := mapBytes_eq pl e
    refine ⟨kinds, pair, ?_, hk⟩
    rw [← hlen]
    exact (arenaUnits_map he).trans hbytes

end Sys2Proof.Machine
end

section
/-! PROOFS. The blocks of a launch's next cluster enter their cores (13_queues R258, R262; 06_registers R113). -/

namespace Sys2Proof.Machine

/-! ## Writing back a core's L1 -/

theorem stored_captureL1 (c : Colour) (r : L1Line) (s : State) : Stored s (captureL1 c r s) := by
  unfold captureL1
  exact .ite ((stored_sendCapture ..).trans ⟨⟨rfl, rfl⟩, rfl⟩) (.refl s)

theorem stored_writeBackClass (r : L1Line) (s : State) (e : Bool × Bool × BitVec 128) : Stored s (writeBackClass r s e) := by
  unfold writeBackClass
  exact .ite (stored_writePeerLine ..) (stored_writeLine ..)

theorem stored_shareOut (line : Nat) (who : List (Nat × Nat)) (s : State) : Stored s (shareOut line who s) := by
  unfold shareOut
  exact .ite (.refl s) ((stored_invalidateHolders ..).trans (stored_setDir _ _))

theorem stored_poisonBack (r : L1Line) (s : State) : Stored s (poisonBack r s) := by
  refine .foldl (fun s k => ?_) _ s
  refine .ite ?_ (stored_mem s _ _)
  split
  · exact stored_setL2 _ _
  · exact .refl s

theorem stored_writeBackL1 (r : L1Line) (s : State) : Stored s (writeBackL1 r s) := by
  unfold writeBackL1
  extract_lets s1 s2 s3 s4
  have h1 : Stored s s1 := (stored_captureL1 ..).trans (stored_captureL1 ..)
  have h2 : Stored s s2 := h1.trans (.foldl (stored_writeBackClass r) _ s1)
  have h3 : Stored s s3 := .ite h2 (h2.trans (stored_shareOut ..))
  have h4 : Stored s s4 := h3.trans (stored_poisonBack ..)
  clear_value s4
  exact .ite (.refl s) (h4.trans ⟨⟨rfl, rfl⟩, rfl⟩)

theorem stored_acquireL1 (core sc : Nat) (s : State) : Stored s (acquireL1 core sc s) := by
  unfold acquireL1
  exact .ite (.refl s) ((Stored.foldl (fun s r => stored_writeBackL1 r s) _ s).trans ⟨⟨rfl, rfl⟩, rfl⟩)

/-! ## What a placement leaves alone -/

/-- Launch, index and core of a block. -/
def blockPlace (b : Block) : Nat × Nat × Nat := (b.launch, b.index, b.core)

/-- The launches stand, and the blocks are where they were. -/
def SamePlaces (s t : State) : Prop := t.launches = s.launches ∧ t.blocks.map blockPlace = s.blocks.map blockPlace

theorem SamePlaces.refl (s : State) : SamePlaces s s := ⟨rfl, rfl⟩

theorem SamePlaces.trans {s t u : State} (h : SamePlaces s t) (h' : SamePlaces t u) : SamePlaces s u := ⟨h'.1.trans h.1, h'.2.trans h.2⟩

theorem SamePlaces.foldl {α : Type} {f : State → α → State} (hf : ∀ s a, SamePlaces s (f s a)) (xs : List α) (s : State) : SamePlaces s (xs.foldl f s) := by
  induction xs generalizing s with
  | nil => exact .refl s
  | cons a xs ih => exact (hf s a).trans (ih _)

/-- The gangs and their slices stand as well, and no name has been given. -/
structure SameGangs (s t : State) : Prop where
  places : SamePlaces s t
  gangs : t.gangs = s.gangs
  slices : t.slices = s.slices
  fresh : t.fresh = s.fresh

theorem SameGangs.refl (s : State) : SameGangs s s := ⟨.refl s, rfl, rfl, rfl⟩

theorem SameGangs.trans {s t u : State} (h : SameGangs s t) (h' : SameGangs t u) : SameGangs s u :=
  ⟨h.places.trans h'.places, h'.gangs.trans h.gangs, h'.slices.trans h.slices, h'.fresh.trans h.fresh⟩

theorem SameGangs.foldl {α : Type} {f : State → α → State} (hf : ∀ s a, SameGangs s (f s a)) (xs : List α) (s : State) : SameGangs s (xs.foldl f s) := by
  induction xs generalizing s with
  | nil => exact .refl s
  | cons a xs ih => exact (hf s a).trans (ih _)

theorem Stored.sameGangs {s t : State} (h : Stored s t) : SameGangs s t :=
  ⟨⟨h.launches, by rw [h.1.1]⟩, h.gangs, by rw [h.1.1], h.fresh⟩

theorem sameGangs_growSplit (s : State) (core steps : Nat) : SameGangs s (growSplit s core steps) := by
  unfold growSplit
  split
  · exact (stored_acquireL1 ..).sameGangs.trans ⟨⟨rfl, rfl⟩, rfl, rfl, rfl⟩
  · exact .refl s

theorem sameGangs_takeBank (s : State) (b : Block) (i bank : Nat) : SameGangs s (takeBank s b i bank) := by
  refine ⟨⟨rfl, ?_⟩, rfl, rfl, rfl⟩
  show (s.blocks.map _).map blockPlace = _
  rw [List.map_map]
  refine List.map_congr_left fun x _ => ?_
  by_cases h : x.id = b.id
  · simp [h, blockPlace]
  · simp [h]

theorem sameGangs_fillOpen (core : Nat) (s : State) : SameGangs s (fillOpen core s) := by
  refine .foldl (fun s b => .foldl (fun s i => ?_) _ s) _ s
  split
  · exact sameGangs_takeBank ..
  · exact .refl s

theorem samePlaces_takeSlice (core part gid : Nat) (s : State) (idx : Nat) : SamePlaces s (takeSlice core part gid s idx) := ⟨rfl, rfl⟩

theorem samePlaces_claimEntry (gid : Nat) (s : State) (e : Nat × Nat) : SamePlaces s (claimEntry gid s e) := by
  unfold claimEntry
  split
  · exact .refl s
  · dsimp only
    split
    · exact ⟨rfl, rfl⟩
    · split
      · split
        · exact ⟨rfl, rfl⟩
        · exact .refl s
      · exact .refl s
    · exact .refl s

theorem samePlaces_claimEntries (gid : Nat) (es : List (Nat × Nat)) (s : State) : SamePlaces s (claimEntries gid es s) := by
  have h := SamePlaces.foldl (samePlaces_claimEntry gid) es s
  unfold claimEntries
  dsimp only
  split
  · exact h.trans ⟨rfl, rfl⟩
  · exact h

theorem samePlaces_enterGang (l : Launch) (b : Block) (s : State) (e : Nat × Nat × Nat × List Nat) : SamePlaces s (enterGang l b s e) := by
  unfold enterGang
  extract_lets gid g g' s1 s2
  have h : SamePlaces s s2 := SamePlaces.trans (t := s1) ⟨rfl, rfl⟩ (.foldl (samePlaces_takeSlice _ _ _) _ s1)
  clear_value s2
  split
  · exact h.trans (samePlaces_claimEntries ..)
  · exact h

theorem GangSide.samePlaces {s t : State} (h : GangSide s t) : SamePlaces s t := ⟨by rw [h], by rw [h]⟩

/-! ## One block becomes resident -/

/-- The core has been acquired and its portion has grown. -/
def roomMade (l : Launch) (s : State) (core : Nat) : State := growSplit (acquireL1 core 5 s) core l.split

/-- The row of block `i` of the launch on a core. -/
def enteringBlock (l : Launch) (s : State) (core i : Nat) : Block :=
  { id := s.fresh, launch := l.id, index := i, bx := (blockCoord l i).1, by_ := (blockCoord l i).2.1, bz := (blockCoord l i).2.2,
    cluster := clusterIndex l i, core := core, ctx := l.ctx, bytes := l.spbytes, banks := List.replicate (banksNeeded l.spbytes) none, away := false }

/-- The block stands in its table, with the banks that are free. -/
def blockEntered (l : Launch) (s : State) (core i : Nat) : State :=
  fillOpen core { s with fresh := s.fresh + 1, blocks := s.blocks ++ [enteringBlock l s core i] }

/-- Partitions and slices of the block's gangs. -/
def blockSeats (l : Launch) (s : State) (core i : Nat) : Option (List (Nat × List Nat)) :=
  seatGangs l.width (l.banks * l.width / 8) (blockGangs l i) ((List.range 16).map (seatOf s core))

theorem placeOn_seated {l : Launch} {s0 : State} {core i : Nat} {seats : List (Nat × List Nat)} (h : blockSeats l (roomMade l s0 core) core i = some seats) :
    placeOn l s0 (core, i) = unparkReady (((List.range (blockGangs l i)).zip ((freeSlots (roomMade l s0 core) core).zip seats)).foldl
      (fun s x => enterGang l (enteringBlock l (roomMade l s0 core) core i) s x) (blockEntered l (roomMade l s0 core) core i)) core := by
  unfold blockSeats at h
  unfold placeOn
  dsimp only
  rw [show growSplit (acquireL1 core 5 s0) core l.split = roomMade l s0 core from rfl, h]
  rfl

theorem placeOn_unseated {l : Launch} {s0 : State} {core i : Nat} (h : blockSeats l (roomMade l s0 core) core i = none) :
    placeOn l s0 (core, i) = blockEntered l (roomMade l s0 core) core i := by
  unfold blockSeats at h
  unfold placeOn
  dsimp only
  rw [show growSplit (acquireL1 core 5 s0) core l.split = roomMade l s0 core from rfl, h]
  rfl

theorem sameGangs_roomMade (l : Launch) (s : State) (core : Nat) : SameGangs s (roomMade l s core) :=
  (stored_acquireL1 ..).sameGangs.trans (sameGangs_growSplit ..)

theorem blockEntered_places (l : Launch) (s : State) (core i : Nat) :
    (blockEntered l s core i).launches = s.launches ∧ (blockEntered l s core i).blocks.map blockPlace = s.blocks.map blockPlace ++ [(l.id, i, core)] := by
  obtain ⟨hlaunches, hplaces⟩ := (sameGangs_fillOpen core { s with fresh := s.fresh + 1, blocks := s.blocks ++ [enteringBlock l s core i] }).places
  exact ⟨hlaunches, hplaces.trans List.map_append⟩

theorem placeOn_places (l : Launch) (s : State) (core i : Nat) :
    (placeOn l s (core, i)).launches = s.launches ∧ (placeOn l s (core, i)).blocks.map blockPlace = s.blocks.map blockPlace ++ [(l.id, i, core)] := by
  obtain ⟨hlaunches, hplaces⟩ := blockEntered_places l (roomMade l s core) core i
  have hroom := (sameGangs_roomMade l s core).places
  have hentered := And.intro (hlaunches.trans hroom.1) (hplaces.trans (congrArg (· ++ _) hroom.2))
  cases hseats : blockSeats l (roomMade l s core) core i with
  | none => rwa [placeOn_unseated hseats]
  | some seats =>
    rw [placeOn_seated hseats]
    have hgangs := (SamePlaces.foldl (samePlaces_enterGang l (enteringBlock l (roomMade l s core) core i))
      ((List.range (blockGangs l i)).zip ((freeSlots (roomMade l s core) core).zip seats)) (blockEntered l (roomMade l s core) core i)).trans
      (gangSide_unparkReady _ core).samePlaces
    exact ⟨hgangs.1.trans hentered.1, hgangs.2.trans hentered.2⟩

theorem placeAll_places (l : Launch) (es : List (Nat × Nat)) (s : State) :
    (es.foldl (placeOn l) s).launches = s.launches ∧
      (es.foldl (placeOn l) s).blocks.map blockPlace = s.blocks.map blockPlace ++ es.map (fun e => (l.id, e.2, e.1)) := by
  induction es generalizing s with
  | nil => exact ⟨rfl, (List.append_nil _).symm⟩
  | cons e es ih =>
    obtain ⟨hlaunches, hplaces⟩ := placeOn_places l s e.1 e.2
    obtain ⟨hrest, hplaced⟩ := ih (placeOn l s e)
    refine ⟨hrest.trans hlaunches, hplaced.trans ?_⟩
    rw [show (placeOn l s e).blocks.map blockPlace = _ from hplaces, List.append_assoc, List.map_cons]
    rfl

/-! ## The gangs that enter -/

/-- A gang of a grid launch as it enters a core. -/
def Entered (l : Launch) (core : Nat) (g : Gang) : Prop :=
  g.core = core ∧ g.launch = l.id ∧ g.ctx = l.ctx ∧ g.width = l.width ∧ g.banks = l.banks ∧ g.pend = [] ∧ g.blocked = none ∧ g.handler = false ∧
    g.entry = l.entry ∧
    g.lanes = (List.range l.width).map (fun i => { num := i, pc := l.entry, st := .eligible, yield := false, x := List.replicate 8 0, p := 0 })

theorem entered_newGang {l : Launch} (hp : l.pool = false) (b : Block) (gid gi slot : Nat) (seat : Nat × List Nat) (parked load : Bool) :
    Entered l b.core { newGang l b gid gi slot seat parked with load := load } := by
  have hentry : (newGang l b gid gi slot seat parked).entry = l.entry := by simp [newGang, hp]
  have hlanes : (newGang l b gid gi slot seat parked).lanes = gridLanes l.width l.entry := by simp [newGang, hp]
  exact ⟨rfl, rfl, rfl, rfl, rfl, rfl, rfl, rfl, hentry, hlanes⟩

/-- Gangs named from `f` on have entered behind those that there were. -/
def GangsEntered (l : Launch) (core f n : Nat) (old : List Gang) (t : State) : Prop :=
  ∃ gs : List Gang, t.gangs = old ++ gs ∧ gs.length = n ∧ ∀ g ∈ gs, Entered l core g ∧ f ≤ g.gid

theorem foldl_takeSlice_rest (core part gid : Nat) (idxs : List Nat) (s : State) :
    (idxs.foldl (takeSlice core part gid) s).gangs = s.gangs ∧ (idxs.foldl (takeSlice core part gid) s).fresh = s.fresh := by
  induction idxs generalizing s with
  | nil => exact ⟨rfl, rfl⟩
  | cons i idxs ih => exact ih (takeSlice core part gid s i)

theorem enterGang_grid {l : Launch} (hp : l.pool = false) (b : Block) (s : State) (e : Nat × Nat × Nat × List Nat) :
    (enterGang l b s e).gangs = s.gangs ++ [{ newGang l b s.fresh e.1 e.2.1 e.2.2 true with load := l.pool }] ∧ (enterGang l b s e).fresh = s.fresh + 1 := by
  unfold enterGang
  dsimp only
  rw [if_neg (by simp [hp])]
  exact foldl_takeSlice_rest ..

theorem gangsEntered_foldl {l : Launch} (hp : l.pool = false) (b : Block) {f : Nat} {old : List Gang} (rows : List (Nat × Nat × Nat × List Nat)) {n : Nat}
    {s : State}
    (hf : f ≤ s.fresh) (h : GangsEntered l b.core f n old s) :
      GangsEntered l b.core f (n + rows.length) old (rows.foldl (fun s x => enterGang l b s x) s) := by
  induction rows generalizing n s with
  | nil => exact h
  | cons e rows ih =>
    obtain ⟨gs, hgs, hlen, hall⟩ := h
    obtain ⟨hgangs, hfresh⟩ := enterGang_grid hp b s e
    have hnext : GangsEntered l b.core f (n + 1) old (enterGang l b s e) := by
      refine ⟨gs ++ [{ newGang l b s.fresh e.1 e.2.1 e.2.2 true with load := l.pool }], ?_, by simp [hlen], fun g hg => ?_⟩
      · rw [hgangs, hgs, List.append_assoc]
      · rcases List.mem_append.mp hg with hg | hg
        · exact hall g hg
        · rw [List.mem_singleton.mp hg]
          exact ⟨entered_newGang hp b _ _ _ _ _ _, hf⟩
    have hrest := ih (by rw [hfresh]; exact Nat.le_succ_of_le hf) hnext
    rwa [List.length_cons, Nat.add_comm rows.length, ← Nat.add_assoc]

theorem gangsEntered_startGang {l : Launch} {core f n gid : Nat} {old : List Gang} {s : State} (hold : ∀ g ∈ old, g.gid < f) (hgid : f ≤ gid)
    (h : GangsEntered l core f n old s) : GangsEntered l core f n old (startGang s gid) := by
  obtain ⟨gs, hgs, hlen, hall⟩ := h
  cases hg : gangOf s gid with
  | none =>
    have hsame : startGang s gid = s := by unfold startGang; rw [hg]
    rw [hsame]
    exact ⟨gs, hgs, hlen, hall⟩
  | some g0 =>
    refine ⟨gs.map (fun x => if x.gid = gid then unparked x else x), ?_, by simp [hlen], fun g hg' => ?_⟩
    · rw [startGang_gangs hg]
      show s.gangs.map _ = _
      rw [hgs, List.map_append]
      congr 1
      refine (List.map_congr_left fun g hmem => ?_).trans (List.map_id _)
      exact if_neg fun he => absurd (hold g hmem) (by omega)
    · obtain ⟨x, hx, rfl⟩ := List.mem_map.mp hg'
      obtain ⟨hent, hle⟩ := hall x hx
      split
      · exact ⟨hent, hle⟩
      · exact ⟨hent, hle⟩

theorem gangsEntered_startAll {l : Launch} {core f n : Nat} {old : List Gang} (hold : ∀ g ∈ old, g.gid < f) (ws : List Gang) (hws : ∀ g ∈ ws, f ≤ g.gid)
    {s : State}
    (h : GangsEntered l core f n old s) : GangsEntered l core f n old (ws.foldl (fun s g => startGang s g.gid) s) := by
  induction ws generalizing s with
  | nil => exact h
  | cons w ws ih =>
    exact ih (fun g hg => hws g (List.mem_cons_of_mem _ hg)) (gangsEntered_startGang hold (hws w List.mem_cons_self) h)

theorem gangsEntered_unparkReady {l : Launch} {core f n : Nat} {old : List Gang} (hold : ∀ g ∈ old, g.gid < f ∧ (g.core = core → g.parked = false))
    {s : State}
    (h : GangsEntered l core f n old s) : GangsEntered l core f n old (unparkReady s core) := by
  unfold unparkReady
  split
  · exact h
  · refine gangsEntered_startAll (fun g hg => (hold g hg).1) _ (fun g hg => ?_) h
    obtain ⟨gs, hgs, -, hall⟩ := h
    obtain ⟨hmem, hwaits⟩ := List.mem_filter.mp hg
    simp only [Bool.and_eq_true, beq_iff_eq] at hwaits
    obtain ⟨⟨hcore, hparked⟩, -⟩ := hwaits
    rw [hgs] at hmem
    rcases List.mem_append.mp hmem with hmem | hmem
    · exact absurd hparked (by simp [(hold g hmem).2 hcore])
    · exact (hall g hmem).2

/-! ## Seats -/

theorem length_seatGangs {w n k : Nat} {seats : List Seat} {rows : List (Nat × List Nat)} (h : seatGangs w n k seats = some rows) : rows.length = k := by
  induction k generalizing seats rows with
  | zero => cases h; rfl
  | succ k ih =>
    rw [seatGangs] at h
    split at h
    · cases h
    · dsimp only at h
      split at h
      · rename_i r hr
        cases h
        rw [List.length_cons, ih hr]
      · cases h

theorem freeSlots_congr {s t : State} (h : SameGangs s t) (core : Nat) : freeSlots t core = freeSlots s core := by
  unfold freeSlots coreGangs
  rw [h.gangs]

theorem seatOf_congr {s t : State} (h : SameGangs s t) (core part : Nat) : seatOf t core part = seatOf s core part := by
  unfold seatOf freeSlices sliceRow coreGangs
  rw [h.gangs, h.slices]

theorem placeOn_gangs {l : Launch} (hp : l.pool = false) {s : State} {core i : Nat} (hfit : fitsCore s l (blockGangs l i) core = true)
    (hold : ∀ g ∈ s.gangs, g.gid < s.fresh ∧ (g.core = core → g.parked = false)) :
    GangsEntered l core s.fresh (blockGangs l i) s.gangs (placeOn l s (core, i)) := by
  have hroom := sameGangs_roomMade l s core
  unfold fitsCore at hfit
  simp only [Bool.and_eq_true, decide_eq_true_eq] at hfit
  obtain ⟨⟨⟨-, hslots⟩, hseat⟩, -⟩ := hfit
  have hsame : blockSeats l (roomMade l s core) core i = seatGangs l.width (l.banks * l.width / 8) (blockGangs l i)
    ((List.range 16).map (seatOf s core)) := by
    unfold blockSeats
    rw [funext (seatOf_congr hroom core)]
  obtain ⟨seats, hseats⟩ := Option.isSome_iff_exists.mp hseat
  rw [placeOn_seated (hsame.trans hseats)]
  have hentered := sameGangs_fillOpen core { roomMade l s core with
    fresh := (roomMade l s core).fresh + 1, blocks := (roomMade l s core).blocks ++ [enteringBlock l (roomMade l s core) core i] }
  have hbefore : GangsEntered l core s.fresh 0 s.gangs (blockEntered l (roomMade l s core) core i) :=
    ⟨[], (hentered.gangs.trans hroom.gangs).trans (List.append_nil _).symm, rfl, fun g hg => absurd hg List.not_mem_nil⟩
  have hfresh : s.fresh ≤ (blockEntered l (roomMade l s core) core i).fresh := by
    rw [show (blockEntered l (roomMade l s core) core i).fresh = (roomMade l s core).fresh + 1 from hentered.fresh, hroom.fresh]
    exact Nat.le_succ _
  have hrows : ((List.range (blockGangs l i)).zip ((freeSlots (roomMade l s core) core).zip seats)).length = blockGangs l i := by
    rw [List.length_zip, List.length_range, List.length_zip, freeSlots_congr hroom, length_seatGangs hseats]
    omega
  have hall := gangsEntered_foldl hp (enteringBlock l (roomMade l s core) core i)
    ((List.range (blockGangs l i)).zip ((freeSlots (roomMade l s core) core).zip seats)) hfresh hbefore
  rw [hrows, Nat.zero_add] at hall
  exact gangsEntered_unparkReady hold hall

/-! ## The placement -/

/-- A launch's next cluster enters its cores, each gang at the entry PC (R113, R262). -/
theorem placeBlock_serves {s : State} {l : Launch} {p : Placement} (hl : launchOf s l.id = some l) (hturn : dispatchTurn s l.id = true)
    (hok : placementOk s l p = true) :
    ∃ t : State, exec (.placeBlock l.id p) s = .next t ∧ launchOf t l.id = some { l with next := l.next + 1 } ∧
      t.blocks.map (fun b => (b.launch, b.index, b.core)) = s.blocks.map (fun b => (b.launch, b.index, b.core)) ++
        (p.cores.zip (clusterBlocks l l.next)).map (fun e => (l.id, e.2, e.1)) ∧
      (∀ core, p.cores = [core] → l.pool = false → (∀ g ∈ s.gangs, g.gid < s.fresh ∧ (g.core = core → g.parked = false)) →
        ∃ gs : List Gang, t.gangs = s.gangs ++ gs ∧ gs.length = l.gangs ∧ ∀ g ∈ gs, g.core = core ∧ g.launch = l.id ∧
          g.ctx = l.ctx ∧ g.width = l.width ∧ g.banks = l.banks ∧ g.pend = [] ∧ g.blocked = none ∧ g.handler = false ∧ g.entry = l.entry ∧
          g.lanes = (List.range l.width).map (fun i => { num := i, pc := l.entry, st := .eligible, yield := false, x := List.replicate 8 0, p := 0 })) := by
  have hevent : placeEvent l.id p s = (p.cores.zip (clusterBlocks l l.next)).foldl (placeOn l)
    (modLaunch s l.id (fun x => { x with next := x.next + 1 })) := by
    simp [placeEvent, hl, hturn, hok]
  obtain ⟨hlaunches, hplaces⟩ := placeAll_places l (p.cores.zip (clusterBlocks l l.next)) (modLaunch s l.id (fun x => { x with next := x.next + 1 }))
  refine ⟨_, congrArg Host.Outcome.next hevent, ?_, hplaces, fun core hcores hpool hold => ?_⟩
  · rw [launchOf, hlaunches]
    exact (launchOf_modLaunch s l.id l.id (fun x => { x with next := x.next + 1 }) (fun _ h => h)).trans (by rw [if_pos rfl, hl]; rfl)
  · unfold placementOk at hok
    simp only [Bool.and_eq_true, decide_eq_true_eq] at hok
    obtain ⟨⟨⟨⟨-, hlen⟩, -⟩, -⟩, hfits⟩ := hok
    rw [hcores] at hlen hfits ⊢
    obtain ⟨i, hi⟩ := List.length_eq_one_iff.mp hlen.symm
    rw [hi] at hfits ⊢
    have hfit : fitsCore s l (blockGangs l i) core = true := List.all_eq_true.mp hfits (core, i) List.mem_cons_self
    have hgangs : blockGangs l i = l.gangs := by simp [blockGangs, hpool]
    obtain ⟨gs, hgs, hn, hall⟩ := placeOn_gangs hpool (s := modLaunch s l.id (fun x => { x with next := x.next + 1 })) hfit hold
    exact ⟨gs, hgs, hn.trans hgangs, fun g hg => (hall g hg).1⟩

end Sys2Proof.Machine
end

section
/-! PROOFS. A counted refusal changes nothing that a record's check reads (13_queues R257; 15_tables_counters R299). -/

namespace Sys2Proof.Machine

/-- Of the contexts, all that a translation and a record's check read stands; nothing else has changed. -/
structure SameReads (s t : State) : Prop where
  only : t = { s with ctxs := t.ctxs }
  rows : ∀ ctx, ∃ f : CtxRow → CtxRow, (∀ r, (f r).root = r.root ∧ (f r).right = r.right) ∧ ctxRow t ctx = (ctxRow s ctx).map f

theorem SameReads.refl (s : State) : SameReads s s := ⟨rfl, fun _ => ⟨id, fun _ => ⟨rfl, rfl⟩, by rw [Option.map_id]; rfl⟩⟩

/-- A context's row with one more refusal for a reason. -/
def refusedOnce (i : Nat) (c : CtxRow) : CtxRow := { c with refusals := (List.range 6).map (fun k => c.refusals.getD k 0 + (if k = i then 1 else 0)) }

theorem ctxRow_countRefusal (s : State) (ctx i c : Nat) :
    ctxRow (countRefusal s ctx i) c = if c = ctx then (ctxRow s ctx).map (refusedOnce i) else ctxRow s c :=
  ctxRow_modCtx s ctx c (refusedOnce i) fun _ h => h

theorem sameReads_countRefusal (s : State) (ctx i : Nat) : SameReads s (countRefusal s ctx i) := by
  refine ⟨rfl, fun c => ?_⟩
  rw [ctxRow_countRefusal]
  split
  · rename_i h
    exact ⟨refusedOnce i, fun _ => ⟨rfl, rfl⟩, by rw [h]⟩
  · exact ⟨id, fun _ => ⟨rfl, rfl⟩, by rw [Option.map_id]; rfl⟩

section
variable {s t : State} (h : SameReads s t)
include h

theorem SameReads.walkFrom (va level base : Nat) : walkFrom t va level base = walkFrom s va level base := by
  rw [h.only]
  induction level generalizing base with
  | zero => rfl
  | succ level ih =>
    unfold Machine.walkFrom
    simp only [ih]
    rfl

theorem SameReads.walk (ctx va : Nat) : walk t ctx va = walk s ctx va := by
  obtain ⟨f, hf, hrow⟩ := h.rows ctx
  unfold Machine.walk
  rw [hrow]
  cases ctxRow s ctx with
  | none => rfl
  | some r => exact (h.walkFrom ..).trans (congrArg _ (hf r).1)

theorem SameReads.leafPlace (ctx va : Nat) (p : BitVec 128) (acc : Acc) : leafPlace t ctx va p acc = leafPlace s ctx va p acc := by
  rw [h.only]
  rfl

theorem SameReads.translateNow (ctx va : Nat) (acc : Acc) : translateNow t ctx va acc = translateNow s ctx va acc := by
  unfold Machine.translateNow
  rw [h.walk]
  split
  · rfl
  · exact h.leafPlace ..

theorem SameReads.pageOk (ctx va : Nat) (acc : Acc) : pageOk t ctx va acc = pageOk s ctx va acc := by
  unfold Machine.pageOk
  rw [h.translateNow]

theorem SameReads.dirBytes (pa n : Nat) : dirBytes t pa n = dirBytes s pa n := by
  rw [h.only]
  rfl

theorem SameReads.peerBytes (ga n : Nat) : peerBytes t ga n = peerBytes s ga n := by
  rw [h.only]
  rfl

theorem SameReads.ctxBytes (ctx va n : Nat) (acc : Acc) : ctxBytes t ctx va n acc = ctxBytes s ctx va n acc := by
  unfold Machine.ctxBytes
  simp only [h.translateNow, h.dirBytes, h.peerBytes]

theorem SameReads.poolRecs (ctx : Nat) (r : LaunchRec) : poolRecs t ctx r = poolRecs s ctx r := by
  unfold Machine.poolRecs
  simp only [h.ctxBytes]

theorem SameReads.poolRefused (ctx : Nat) (r : LaunchRec) : poolRefused t ctx r = poolRefused s ctx r := by
  unfold Machine.poolRefused codePc
  simp only [h.poolRecs, h.pageOk]

theorem SameReads.recordBlocks (ctx : Nat) (r : LaunchRec) : recordBlocks t ctx r = recordBlocks s ctx r := by
  unfold Machine.recordBlocks
  rw [h.poolRecs]

theorem SameReads.recordBarriers (ctx : Nat) (r : LaunchRec) : recordBarriers t ctx r = recordBarriers s ctx r := by
  rw [h.only]
  rfl

theorem SameReads.recordUnreadable (ctx : Nat) (r : LaunchRec) : recordUnreadable t ctx r = recordUnreadable s ctx r := by
  unfold Machine.recordUnreadable
  simp only [h.pageOk]

theorem SameReads.readBinding (ctx a : Nat) : readBinding t ctx a = readBinding s ctx a := by
  unfold Machine.readBinding
  rw [h.ctxBytes]

theorem SameReads.routeHead (ctx : Nat) (b : CollBind) : routeHead t ctx b = routeHead s ctx b := by
  unfold Machine.routeHead
  rw [h.ctxBytes]

theorem SameReads.routeStep (ctx : Nat) (b : CollBind) (c k : Nat) : routeStep t ctx b c k = routeStep s ctx b c k := by
  unfold Machine.routeStep
  rw [h.routeHead]
  simp only [h.ctxBytes]

theorem SameReads.ownRank (grp : Nat) : ownRank t grp = ownRank s grp := by
  rw [h.only]
  rfl

theorem SameReads.bindingOf (ctx coll blocks : Nat) : bindingOf t ctx coll blocks = bindingOf s ctx coll blocks := by
  unfold Machine.bindingOf
  rw [h.readBinding]
  simp only [h.routeHead, h.routeStep, h.ownRank]

theorem SameReads.rejectStatus (ctx : Nat) (r : LaunchRec) : rejectStatus t ctx r = rejectStatus s ctx r := by
  obtain ⟨f, hf, hrow⟩ := h.rows ctx
  unfold Machine.rejectStatus
  rw [h.recordUnreadable, h.recordBarriers, h.poolRefused, h.recordBlocks, h.bindingOf, hrow]
  cases ctxRow s ctx with
  | none => rfl
  | some c => simp only [Option.map_some, (hf c).2]

end

end Sys2Proof.Machine
end

section
/-! PROOFS. The head record of a queue is skipped, rejected, accepted, or waits (13_queues R253, R255, R257, R258). -/

namespace Sys2Proof.Machine

/-! ## The check of a record -/

/-- What R257's row of status 4 asks of a record and its pages. -/
theorem malformed_iff (s : State) (ctx : Nat) (r : LaunchRec) : (recordMalformed r || recordUnreadable s ctx r) = true ↔
    (r.kind = 2 ∨ r.rsvd = true ∨ 720896 < r.spbytes ∨ r.cpla % 16 ≠ 0 ∨ r.coll % 16 ≠ 0 ∨ 65536 * r.split < r.spbytes ∨ 12 ≤ r.split ∨
      (r.kind = 0 ∧ 4096 < r.gangs * r.width) ∨
      (r.kind ≠ 1 ∧ (r.cshape = 3 ∨ r.gx = 0 ∨ r.gy = 0 ∨ r.gz = 0 ∨ r.entry % 16 ≠ 0 ∨ pageOk s ctx r.entry .ex = false)) ∨
      (r.kind = 1 ∧ (r.poolN = 0 ∨ 2 ^ 24 < r.poolN ∨ r.poolA % 64 ≠ 0 ∨ ∃ e ∈ pageParts r.poolA (poolBytes r),
        pageOk s ctx (e.1 + e.2 - 1) .rd = false))) := by
  unfold recordMalformed recordUnreadable
  by_cases hk : r.kind = 1
  · simp only [hk, if_true, Bool.or_eq_true, Bool.and_eq_true, decide_eq_true_eq, List.any_eq_true, Bool.not_eq_true']
    grind
  · simp only [if_neg hk, Bool.or_eq_true, Bool.and_eq_true, decide_eq_true_eq, Bool.not_eq_true']
    grind

/-- The last row of the check: the collective binding. -/
def bindStatus : Except Unit (Option CollBind) → Option Nat
  | .error _ => some 4
  | .ok _ => none

section
variable (s : State) (ctx : Nat) (r : LaunchRec)

/-- The rows of R257 in their order. -/
theorem rejectStatus_eq : rejectStatus s ctx r = if recordMalformed r || recordUnreadable s ctx r then some 4
    else if r.snap && !(ctxRow s ctx).any (·.right) then some 6
    else if !recordBarriers s ctx r then some 7
    else if decide (r.kind = 1) && poolRefused s ctx r then some 5
    else bindStatus (bindingOf s ctx r.coll (recordBlocks s ctx r)) := by
  unfold rejectStatus
  cases ctxRow s ctx with
  | none => rfl
  | some c => rfl

/-- The record asks for a right that its context lacks. -/
theorem rightless_iff : (r.snap && !(ctxRow s ctx).any (·.right)) = true ↔ r.snap = true ∧ ∀ c, ctxRow s ctx = some c → c.right = false := by
  cases ctxRow s ctx with
  | none => simp
  | some c => simp

/-- The status of a record is that of R257's first row that fails. -/
theorem rejectStatus_rows {malformed : Prop} (hm : (recordMalformed r || recordUnreadable s ctx r) = true ↔ malformed) :
    let right := r.snap = true ∧ ∀ c, ctxRow s ctx = some c → c.right = false
    let barrier := recordBarriers s ctx r = false
    let pool := r.kind = 1 ∧ poolRefused s ctx r = true
    let refused := fun st : Nat => rejectStatus s ctx r = some st
    (malformed → refused 4) ∧ (¬malformed → right → refused 6) ∧ (¬malformed → ¬right → barrier → refused 7) ∧
      (¬malformed → ¬right → ¬barrier → pool → refused 5) ∧
      (¬malformed → ¬right → ¬barrier → ¬pool → (refused 4 ↔ bindingOf s ctx r.coll (recordBlocks s ctx r) = .error ()) ∧
        (r.coll = 0 → rejectStatus s ctx r = none)) := by
  intro right barrier pool refused
  obtain rfl := propext hm
  have hright : (r.snap && !(ctxRow s ctx).any (·.right)) = true ↔ right := rightless_iff s ctx r
  have hbarrier : (!recordBarriers s ctx r) = true ↔ barrier := by rw [Bool.not_eq_true']
  have hpool : (decide (r.kind = 1) && poolRefused s ctx r) = true ↔ pool := by simp [pool]
  simp only [refused, rejectStatus_eq, hright, hbarrier, hpool]
  refine ⟨fun h => if_pos h, fun h h6 => ?_, fun h h6 h7 => ?_, fun h h6 h7 h5 => ?_, fun h h6 h7 h5 => ?_⟩
  · rw [if_neg h, if_pos h6]
  · rw [if_neg h, if_neg h6, if_pos h7]
  · rw [if_neg h, if_neg h6, if_neg h7, if_pos h5]
  · rw [if_neg h, if_neg h6, if_neg h7, if_neg h5]
    refine ⟨?_, fun hc => by rw [hc]; rfl⟩
    cases bindingOf s ctx r.coll (recordBlocks s ctx r) with
    | error e => simp [bindStatus]
    | ok b => simp [bindStatus]

end

/-! ## HEAD advances -/

theorem frontSide_advanceHead (s : State) (q : QueueRow) (asis : Bool) : FrontSide s (advanceHead s q asis) := by
  unfold advanceHead
  extract_lets h s1
  have h1 : FrontSide s s1 := frontSide_setQueue _ _
  split
  · exact h1.trans (stored_ctxWrite (by assumption)).front
  · exact (h1.trans (frontSide_setQueue _ _)).trans (frontSide_tellHost _ _)

theorem advanceHead_row {s : State} {q q0 : QueueRow} (hq : queueOf s q.vf q.num = some q0) (asis : Bool) :
    ∃ y : QueueRow, queueOf (advanceHead s q asis) q.vf q.num = some y ∧ y.head = (q.head + 1) % 2 ^ 32 := by
  unfold advanceHead
  extract_lets h s1
  have h1 : queueOf s1 q.vf q.num = some { q with head := h, seen := none, asis := asis, plan := none } :=
    queueOf_setQueue (x := { q with head := h, seen := none, asis := asis, plan := none }) hq
  split
  · exact ⟨_, ((stored_ctxWrite (by assumption)).queueOf _ _).trans h1, rfl⟩
  · exact ⟨_, queueOf_setQueue (x := { q with head := h, seen := none, asis := asis, plan := none, qerr := 2 }) h1, rfl⟩

theorem frontSide_writeCompletion (s : State) (ctx launch cpla status code block pc : Nat) :
    FrontSide s (writeCompletion s ctx launch cpla status code block pc) := by
  unfold writeCompletion
  split
  · exact .refl s
  · split
    · exact (stored_ctxWrite (by assumption)).front
    · exact frontSide_tellHost _ _

theorem queueOf_writeCompletion (s : State) (ctx launch cpla status code block pc vf num : Nat) :
    queueOf (writeCompletion s ctx launch cpla status code block pc) vf num = queueOf s vf num := by
  unfold writeCompletion
  split
  · rfl
  · split
    · exact (stored_ctxWrite (by assumption)).queueOf _ _
    · rfl

theorem completionBytes_status (st : Nat) : completionBytes st 0 0 0 = leBytes st 4 ++ leBytes 0 4 ++ leBytes 0 8 := by
  simp [completionBytes]

/-! ## A record is taken -/

theorem refBarriers_bars (s : State) (wv : Bool) (wh : Word) (av : Bool) (ahb : Word) : ∃ bs, refBarriers s wv wh av ahb = { s with bars := bs } := by
  have hone : ∀ (s : State) (h : Word), ∃ bs, barRef s h = { s with bars := bs } := by
    intro s h
    unfold barRef
    split
    · exact ⟨_, rfl⟩
    · exact ⟨s.bars, rfl⟩
  have hopt : ∀ (s : State) (v : Bool) (h : Word), ∃ bs, (if v then barRef s h else s) = { s with bars := bs } := by
    intro s v h
    cases v with
    | true => exact hone s h
    | false => exact ⟨s.bars, rfl⟩
  obtain ⟨bs, hbs⟩ := hopt s wv wh
  obtain ⟨bs', hbs'⟩ := hopt { s with bars := bs } av ahb
  refine ⟨bs', ?_⟩
  unfold refBarriers
  dsimp only
  rw [hbs, hbs']

theorem takeRecord_rejected {s : State} {q : QueueRow} {r : LaunchRec} {st : Nat} (h : rejectStatus s q.ctx r = some st) (asis : Bool) :
    takeRecord s q r asis = advanceHead (writeCompletion s q.ctx 0 r.cpla st 0 0 0) q asis := by
  unfold takeRecord
  split
  · rename_i h'
    cases h.symm.trans h'
    rfl
  · rename_i h'
    cases h.symm.trans h'

/-- The state in which an accepted record's launch stands, before HEAD moves on. -/
def launchTaken (s : State) (q : QueueRow) (r : LaunchRec) : State :=
  refBarriers (addLaunch s (launchOfRec s q r (match bindingOf s q.ctx r.coll (recordBlocks s q.ctx r) with
    | .ok c => c
    | .error _ => none))) r.wv r.wh r.av r.ahb

theorem takeRecord_accepted {s : State} {q : QueueRow} {r : LaunchRec} (h : rejectStatus s q.ctx r = none) (asis : Bool) :
    takeRecord s q r asis = advanceHead (launchTaken s q r) q asis := by
  unfold takeRecord
  split
  · rename_i h'
    cases h.symm.trans h'
  · rfl

/-- A launch has been taken and nothing beside it but references on barriers. -/
theorem launchTaken_eq (s : State) (q : QueueRow) (r : LaunchRec) :
    ∃ coll bs, launchTaken s q r = { s with launches := s.launches ++ [launchOfRec s q r coll], fresh := s.fresh + 1, bars := bs } ∧
      (r.wv = false → r.av = false → bs = s.bars) := by
  unfold launchTaken
  generalize (match bindingOf s q.ctx r.coll (recordBlocks s q.ctx r) with
    | .ok c => c
    | .error _ => none) = coll
  obtain ⟨bs, hbs⟩ := refBarriers_bars (addLaunch s (launchOfRec s q r coll)) r.wv r.wh r.av r.ahb
  refine ⟨coll, bs, hbs, fun hw ha => ?_⟩
  rw [hw, ha] at hbs
  exact (congrArg State.bars hbs).symm

theorem takeRecord_row {s : State} {q q0 : QueueRow} (hq : queueOf s q.vf q.num = some q0) (r : LaunchRec) (asis : Bool) :
    ∃ y : QueueRow, queueOf (takeRecord s q r asis) q.vf q.num = some y ∧ y.head = (q.head + 1) % 2 ^ 32 := by
  cases hst : rejectStatus s q.ctx r with
  | some st =>
    rw [takeRecord_rejected hst]
    exact advanceHead_row ((queueOf_writeCompletion ..).trans hq) asis
  | none =>
    rw [takeRecord_accepted hst]
    obtain ⟨coll, bs, hbs, -⟩ := launchTaken_eq s q r
    refine advanceHead_row (q0 := q0) ?_ asis
    rw [hbs]
    exact hq

theorem takeRecord_gangs (s : State) (q : QueueRow) (r : LaunchRec) (asis : Bool) :
    (takeRecord s q r asis).gangs = s.gangs ∧ (takeRecord s q r asis).vrf = s.vrf := by
  cases hst : rejectStatus s q.ctx r with
  | some st =>
    rw [takeRecord_rejected hst]
    have h := (frontSide_writeCompletion s q.ctx 0 r.cpla st 0 0 0).trans (frontSide_advanceHead _ q asis)
    exact ⟨h.gangs, h.vrf⟩
  | none =>
    rw [takeRecord_accepted hst]
    obtain ⟨coll, bs, hbs, -⟩ := launchTaken_eq s q r
    have h := frontSide_advanceHead (launchTaken s q r) q asis
    exact ⟨h.gangs.trans (by rw [hbs]), h.vrf.trans (by rw [hbs])⟩

/-- An accepted record's launch stands last, and the dispatcher has given one name. -/
theorem takeRecord_launch {s : State} {q : QueueRow} {r : LaunchRec} (h : rejectStatus s q.ctx r = none) (asis : Bool) :
    ∃ coll, (takeRecord s q r asis).launches = s.launches ++ [launchOfRec s q r coll] ∧ (takeRecord s q r asis).fresh = s.fresh + 1 ∧
      (r.wv = false → r.av = false → (takeRecord s q r asis).bars = s.bars) := by
  rw [takeRecord_accepted h]
  obtain ⟨coll, bs, hbs, hnone⟩ := launchTaken_eq s q r
  have hf := frontSide_advanceHead (launchTaken s q r) q asis
  refine ⟨coll, hf.launches.trans (by rw [hbs]), hf.fresh.trans (by rw [hbs]), fun hw ha => ?_⟩
  rw [hf.bars, hbs]
  exact hnone hw ha

/-! ## The head record is decided -/

/-- The state in which an ordinary record is taken: a producer without a descriptor that can be read is counted as refused. -/
def takenFrom (s : State) (q : QueueRow) (r : LaunchRec) : State := if deafProducer s q r = true then countRefusal s q.ctx 0 else s

/-- What becomes of the head record once its wait barrier is noted. -/
def headDecided (s : State) (q : QueueRow) (r : LaunchRec) : State :=
  if headHeld s q then s
  else if r.kind = 3 then advanceHead s q false
  else if isProducer s q r then s
  else if (rejectStatus s q.ctx r).isNone && recordWaits s q r then s
  else takeRecord (takenFrom s q r) q r false

theorem decideHead_eq {s : State} {q x : QueueRow} (hx : queueOf (noteSeen s q) q.vf q.num = some x) (r : LaunchRec) :
    decideHead q r s = headDecided (noteSeen s q) x r := by
  unfold decideHead
  dsimp only
  rw [hx, Option.getD_some]
  rfl

theorem sameReads_takenFrom (s : State) (q : QueueRow) (r : LaunchRec) : SameReads s (takenFrom s q r) := by
  unfold takenFrom
  split
  · exact sameReads_countRefusal ..
  · exact .refl s

theorem takenFrom_fresh (s : State) (q : QueueRow) (r : LaunchRec) : (takenFrom s q r).fresh = s.fresh := by rw [(sameReads_takenFrom s q r).only]

section
variable {s : State} {q : QueueRow} {r : LaunchRec}

theorem headDecided_held (h : headHeld s q = true) : headDecided s q r = s := by
  unfold headDecided
  rw [if_pos h]

theorem headDecided_skipped (h : headHeld s q = false) (hk : r.kind = 3) : headDecided s q r = advanceHead s q false := by
  unfold headDecided
  rw [if_neg (by simp [h]), if_pos hk]

theorem headDecided_producer (hk : r.kind ≠ 3) (hp : isProducer s q r = true) : headDecided s q r = s := by
  unfold headDecided
  rw [if_neg hk, if_pos hp, ite_self]

theorem headDecided_waits (hk : r.kind ≠ 3) (hst : rejectStatus s q.ctx r = none) (hw : recordWaits s q r = true) : headDecided s q r = s := by
  have hboth : ((rejectStatus s q.ctx r).isNone && recordWaits s q r) = true := by simp [hst, hw]
  unfold headDecided
  rw [if_neg hk, if_pos hboth, ite_self, ite_self]

theorem headDecided_taken (h : headHeld s q = false) (hk : r.kind ≠ 3) (hp : isProducer s q r = false)
    (hno : rejectStatus s q.ctx r = none → recordWaits s q r = false) : headDecided s q r = takeRecord (takenFrom s q r) q r false := by
  unfold headDecided
  rw [if_neg (by simp [h]), if_neg hk, if_neg (by simp [hp]), if_neg]
  intro hboth
  rw [Bool.and_eq_true, Option.isNone_iff_eq_none] at hboth
  exact absurd hboth.2 (by simp [hno hboth.1])

theorem headDecided_cases (s : State) (q : QueueRow) (r : LaunchRec) : headDecided s q r = s ∨ headDecided s q r = advanceHead s q false ∨
    headDecided s q r = takeRecord (takenFrom s q r) q r false := by
  unfold headDecided
  split
  · exact .inl rfl
  · split
    · exact .inr (.inl rfl)
    · split
      · exact .inl rfl
      · split
        · exact .inl rfl
        · exact .inr (.inr rfl)

theorem headDecided_keeps (hq : queueOf s q.vf q.num = some q) :
    ∃ y : QueueRow, queueOf (headDecided s q r) q.vf q.num = some y ∧ (headDecided s q r).gangs = s.gangs ∧ (headDecided s q r).vrf = s.vrf := by
  rcases headDecided_cases s q r with h | h | h
  · rw [h]
    exact ⟨q, hq, rfl, rfl⟩
  · rw [h]
    obtain ⟨y, hy, -⟩ := advanceHead_row hq false
    exact ⟨y, hy, (frontSide_advanceHead ..).gangs, (frontSide_advanceHead ..).vrf⟩
  · rw [h]
    have hsame := sameReads_takenFrom s q r
    have hrow : queueOf (takenFrom s q r) q.vf q.num = some q := by rw [hsame.only]; exact hq
    obtain ⟨y, hy, -⟩ := takeRecord_row hrow r false
    obtain ⟨hgangs, hvrf⟩ := takeRecord_gangs (takenFrom s q r) q r false
    exact ⟨y, hy, hgangs.trans (by rw [hsame.only]), hvrf.trans (by rw [hsame.only])⟩

/-- A refused record: its completion record is written or dropped, and HEAD moves past it (R257, R258). -/
theorem takeRecord_refused {st : Nat} (hst : rejectStatus s q.ctx r = some st) :
    let t := takeRecord (takenFrom s q r) q r false
    t.launches = s.launches ∧ (r.cpla = 0 → t = advanceHead (takenFrom s q r) q false) ∧
      (r.cpla ≠ 0 → (∀ u, ctxWrite (takenFrom s q r) q.ctx r.cpla (leBytes st 4 ++ leBytes 0 4 ++ leBytes 0 8) = some u → t = advanceHead u q false) ∧
        (ctxWrite (takenFrom s q r) q.ctx r.cpla (leBytes st 4 ++ leBytes 0 4 ++ leBytes 0 8) = none →
          t = advanceHead (tellHost (takenFrom s q r) (.completionDropped 0 st)) q false)) := by
  intro t
  have hsame := sameReads_takenFrom s q r
  have ht : t = advanceHead (writeCompletion (takenFrom s q r) q.ctx 0 r.cpla st 0 0 0) q false :=
    takeRecord_rejected ((hsame.rejectStatus ..).trans hst) false
  rw [ht]
  refine ⟨?_, fun hc => by rw [hc, writeCompletion_nowhere], fun hc => ⟨fun u hu => ?_, fun hu => ?_⟩⟩
  · have hfront := (frontSide_writeCompletion (takenFrom s q r) q.ctx 0 r.cpla st 0 0 0).trans (frontSide_advanceHead _ q false)
    exact hfront.launches.trans (by rw [hsame.only])
  · rw [writeCompletion_written hc (by rw [completionBytes_status]; exact hu)]
  · rw [writeCompletion_dropped hc (by rw [completionBytes_status]; exact hu)]

/-- An accepted record: its launch stands last (R255). -/
theorem takeRecord_taken (hst : rejectStatus s q.ctx r = none) :
    let t := takeRecord (takenFrom s q r) q r false
    ∃ coll, t.launches = s.launches ++ [launchOfRec (takenFrom s q r) q r coll] ∧ t.fresh = s.fresh + 1 ∧
      (r.wv = false → r.av = false → t.bars = s.bars) := by
  intro t
  have hsame := sameReads_takenFrom s q r
  obtain ⟨coll, hl, hf, hb⟩ := takeRecord_launch ((hsame.rejectStatus ..).trans hst) false
  exact ⟨coll, hl.trans (by rw [hsame.only]), hf.trans (by rw [hsame.only]), fun hw ha => (hb hw ha).trans (by rw [hsame.only])⟩

theorem takeRecord_head (hq : queueOf s q.vf q.num = some q) : ∃ y : QueueRow, queueOf (takeRecord (takenFrom s q r) q r false) q.vf q.num = some y ∧
    y.head = (q.head + 1) % 2 ^ 32 := by
  have hrow : queueOf (takenFrom s q r) q.vf q.num = some q := by rw [(sameReads_takenFrom s q r).only]; exact hq
  exact takeRecord_row hrow r false

end

theorem headRecord_open {s : State} {q : QueueRow} {r : LaunchRec} (h : headRecord s q = some r) :
    ¬(!q.enabled || decide (q.qerr ≠ 0) || decide (pendingRecs q = 0)) = true := by
  unfold headRecord at h
  split at h
  · cases h
  · assumption

theorem acceptEvent_eq {s : State} {vf num : Nat} {q : QueueRow} {r : LaunchRec} (hq : queueOf s vf num = some q) (hr : headRecord s q = some r)
    (hslot : readGaps s q.ctx [(slotAt q q.head, 128)] = [])
    (hgaps : firstGaps [descGaps s q.ctx r, recordGaps s q.ctx r, ctxGaps s q.ctx true (takeWrites q r)] = [])
      (hroom : ctxRoom s q.ctx (takeWrites q r) = true) :
    acceptEvent vf num s = decideHead q r s := by
  unfold acceptEvent
  rw [hq]
  dsimp only
  rw [if_neg (headRecord_open hr), hslot, withLines_nil, hr]
  dsimp only
  rw [hgaps, withLines_nil, if_pos hroom]

/-- The head record is skipped, rejected, accepted as a launch, or waits (R255). -/
theorem recordAccept_serves {s : State} {vf num : Nat} {q x : QueueRow} {r : LaunchRec} (hq : queueOf s vf num = some q) (hr : headRecord s q = some r)
    (hslot : readGaps s q.ctx [(slotAt q q.head, 128)] = [])
    (hgaps : firstGaps [descGaps s q.ctx r, recordGaps s q.ctx r, ctxGaps s q.ctx true (takeWrites q r)] = [])
      (hroom : ctxRoom s q.ctx (takeWrites q r) = true) :
    let s1 := noteSeen s q
    queueOf s1 vf num = some x →
    let s2 := if deafProducer s1 x r = true then countRefusal s1 q.ctx 0 else s1
    let refused := fun st : Nat => rejectStatus s1 q.ctx r = some st
    let goes := headHeld s1 x = false ∧ r.kind ≠ 3 ∧ isProducer s1 x r = false
    ∃ (t : State) (y : QueueRow), exec (.recordAccept vf num) s = .next t ∧ queueOf t vf num = some y ∧ t.gangs = s.gangs ∧ t.vrf = s.vrf ∧
      (headHeld s1 x = true → t = s1) ∧
      (headHeld s1 x = false → r.kind = 3 → y.head = (q.head + 1) % 2 ^ 32 ∧ t.launches = s.launches) ∧
      (r.kind ≠ 3 → isProducer s1 x r = true → t = s1) ∧
      (∀ st, goes → refused st → y.head = (q.head + 1) % 2 ^ 32 ∧ t.launches = s.launches ∧ (r.cpla = 0 → t = advanceHead s2 x false) ∧
        (r.cpla ≠ 0 → (∀ u, ctxWrite s2 q.ctx r.cpla (leBytes st 4 ++ leBytes 0 4 ++ leBytes 0 8) = some u → t = advanceHead u x false) ∧
          (ctxWrite s2 q.ctx r.cpla (leBytes st 4 ++ leBytes 0 4 ++ leBytes 0 8) = none → t = advanceHead (tellHost s2 (.completionDropped 0 st)) x false))) ∧
      (r.kind ≠ 3 → rejectStatus s1 q.ctx r = none → recordWaits s1 x r = true → t = s1) ∧
      (goes → rejectStatus s1 q.ctx r = none → recordWaits s1 x r = false → y.head = (q.head + 1) % 2 ^ 32 ∧
        ∃ l : Launch, t.launches = s.launches ++ [l] ∧ l.id = s.fresh ∧ t.fresh = s.fresh + 1 ∧ l.ctx = q.ctx ∧ l.pool = (r.kind == 1) ∧ l.width = r.width ∧
          l.banks = r.banks ∧ l.gangs = r.gangs ∧ l.entry = BitVec.ofNat 64 r.entry ∧ l.param = r.param ∧ (l.gx, l.gy, l.gz) = (r.gx, r.gy, r.gz) ∧
          l.cpla = r.cpla ∧ l.next = 0 ∧ l.ended = 0 ∧ l.fatal = none ∧ l.fused = none ∧ (r.wv = false → r.av = false → t.bars = s.bars)) := by
  intro s1 hx
  obtain ⟨rfl, rfl⟩ := queueOf_name hq
  obtain ⟨seen, hx'⟩ := noteSeen_row hq
  cases hx.symm.trans hx'
  have hs1 : FrontSide s s1 := frontSide_noteSeen s q
  have hevent : acceptEvent q.vf q.num s = headDecided s1 { q with seen := seen } r :=
    (acceptEvent_eq hq hr hslot hgaps hroom).trans (decideHead_eq hx r)
  clear_value s1
  have hrow : queueOf s1 { q with seen := seen }.vf { q with seen := seen }.num = some { q with seen := seen } := hx
  obtain ⟨y, hy, hgangs, hvrf⟩ := headDecided_keeps (r := r) hrow
  intro s2 refused goes
  refine ⟨_, y, congrArg Host.Outcome.next hevent, hy, hgangs.trans hs1.gangs, hvrf.trans hs1.vrf, headDecided_held, fun hheld hk => ?_, headDecided_producer,
    fun st hgoes hst => ?_, headDecided_waits (q := { q with seen := seen }), fun hgoes hst hw => ?_⟩
  · rw [headDecided_skipped hheld hk] at hy ⊢
    obtain ⟨y', hy', hhead⟩ := advanceHead_row hrow false
    cases hy.symm.trans hy'
    exact ⟨hhead, (frontSide_advanceHead ..).launches.trans hs1.launches⟩
  · obtain ⟨hheld, hk, hp⟩ := hgoes
    rw [headDecided_taken hheld hk hp fun hnone => absurd (hnone.symm.trans hst) (by simp)] at hy ⊢
    obtain ⟨y', hy', hhead⟩ := takeRecord_head (r := r) hrow
    cases hy.symm.trans hy'
    obtain ⟨hlaunches, hrest⟩ := takeRecord_refused (q := { q with seen := seen }) hst
    exact ⟨hhead, hlaunches.trans hs1.launches, hrest⟩
  · obtain ⟨hheld, hk, hp⟩ := hgoes
    rw [headDecided_taken hheld hk hp fun _ => hw] at hy ⊢
    obtain ⟨y', hy', hhead⟩ := takeRecord_head (r := r) hrow
    cases hy.symm.trans hy'
    obtain ⟨coll, hlaunches, hfresh, hbars⟩ := takeRecord_taken (q := { q with seen := seen }) hst
    have hname : (takenFrom s1 { q with seen := seen } r).fresh = s.fresh := (takenFrom_fresh ..).trans hs1.fresh
    exact ⟨hhead, _, hlaunches.trans (by rw [hs1.launches]), hname, hfresh.trans (by rw [hs1.fresh]), rfl, rfl, rfl, rfl, rfl, rfl, rfl, rfl, rfl, rfl, rfl,
      rfl, rfl,
      fun h h' => (hbars h h').trans hs1.bars⟩

end Sys2Proof.Machine
end

section
/-! PROOFS. A splice pair is refused and counted, or becomes one fused launch (14_splicer R275, R276, R284). -/

namespace Sys2Proof.Machine

/-! ## Contexts' counts -/

theorem map_bareCtx_ctxRow (s : State) (ctx : Nat) : (ctxRow s ctx).map bareCtx = (s.ctxs.map bareCtx).find? (fun r => r.id == ctx) := by
  rw [List.find?_map]
  rfl

/-- Rows that differ in capture counts at most are found alike. -/
theorem ctxRow_of_bare {s t : State} (h : t.ctxs.map bareCtx = s.ctxs.map bareCtx) {ctx : Nat} {k : CtxRow} (hk : ctxRow s ctx = some k) :
    ∃ k2, ctxRow t ctx = some k2 ∧ bareCtx k2 = bareCtx k := by
  have hmap : (ctxRow t ctx).map bareCtx = some (bareCtx k) := by rw [map_bareCtx_ctxRow, h, ← map_bareCtx_ctxRow, hk]; rfl
  exact Option.map_eq_some_iff.mp hmap

theorem refusals_of_bare {k k2 : CtxRow} (h : bareCtx k2 = bareCtx k) : k2.refusals = k.refusals := by
  have href := congrArg CtxRow.refusals h
  exact href

theorem spliced_of_bare {k k2 : CtxRow} (h : bareCtx k2 = bareCtx k) : k2.spliced = k.spliced := by
  have hspl := congrArg CtxRow.spliced h
  exact hspl

theorem refusedOnce_getD (k : CtxRow) {e : Nat} (he : e < 6) : (refusedOnce e k).refusals.getD e 0 = k.refusals.getD e 0 + 1 := by
  unfold refusedOnce
  rw [List.getD_eq_getElem?_getD, List.getElem?_map, List.getElem?_range he]
  simp

/-- One more fusion in a context's row. -/
def splicedOnce (k : CtxRow) : CtxRow := { k with spliced := k.spliced + 1 }

/-! ## Gangs and registers stand -/

/-- Neither gangs nor registers have changed. -/
def SameExec (s t : State) : Prop := t.gangs = s.gangs ∧ t.vrf = s.vrf

theorem SameExec.refl (s : State) : SameExec s s := ⟨rfl, rfl⟩

theorem SameExec.trans {s t u : State} (h : SameExec s t) (h' : SameExec t u) : SameExec s u := ⟨h'.1.trans h.1, h'.2.trans h.2⟩

theorem FrontSide.sameExec {s t : State} (h : FrontSide s t) : SameExec s t := ⟨h.gangs, h.vrf⟩

theorem sameExec_withLines {gs : List (Bool × Nat)} {f : State → State} {s : State} (hf : SameExec s (f s)) : SameExec s (withLines gs f s) := by
  unfold withLines
  split
  · exact hf
  · exact (stored_awaitLines _ _).front.sameExec

/-- The row of a partner that has been refused as one. -/
def markAsis (s : State) (qc : QueueRow) : State :=
  match queueOf s qc.vf qc.num with
  | some x => setQueue s { x with asis := true }
  | none => s

theorem frontSide_markAsis (s : State) (qc : QueueRow) : FrontSide s (markAsis s qc) := by
  unfold markAsis
  split
  · exact frontSide_setQueue _ _
  · exact .refl s

theorem refusePair_eq (s : State) (q qc : QueueRow) (p : LaunchRec) (reason : Nat) : refusePair s q qc p reason =
    if q.num = qc.num then takeRecord (countRefusal s q.ctx reason) q p true else markAsis (takeRecord (countRefusal s q.ctx reason) q p false) qc := rfl

/-- A refused pair's producer is taken alone. -/
theorem refusePair_cases (s : State) (q qc : QueueRow) (p : LaunchRec) (reason : Nat) :
    ∃ asis, FrontSide (takeRecord (countRefusal s q.ctx reason) q p asis) (refusePair s q qc p reason) := by
  rw [refusePair_eq]
  split
  · exact ⟨true, .refl _⟩
  · exact ⟨false, frontSide_markAsis _ _⟩

theorem sameExec_refusePair (s : State) (q qc : QueueRow) (p : LaunchRec) (reason : Nat) : SameExec s (refusePair s q qc p reason) := by
  obtain ⟨asis, h⟩ := refusePair_cases s q qc p reason
  have htake : SameExec s (takeRecord (countRefusal s q.ctx reason) q p asis) := takeRecord_gangs (countRefusal s q.ctx reason) q p asis
  exact htake.trans h.sameExec

theorem sameExec_refuseEvent (q qc : QueueRow) (p : LaunchRec) (reason : Nat) (s : State) : SameExec s (refuseEvent q qc p reason s) := by
  refine sameExec_withLines ?_
  split
  · exact sameExec_refusePair ..
  · exact .refl s

theorem stored_writeArena (s : State) (ctx a : Nat) (us : List (List Byte)) : Stored s (writeArena s ctx a us) := by
  refine .foldl (fun s e => ?_) _ s
  split
  · exact stored_ctxWrite (by assumption)
  · exact .refl s

theorem refLaunch_bars (s : State) (l : Launch) : ∃ bs, refLaunch s l = { s with bars := bs } := by
  obtain ⟨bs, hbs⟩ := refBarriers_bars s l.wv l.wh l.av l.ahb
  unfold refLaunch
  dsimp only
  rw [hbs]
  split
  · rename_i f hf
    exact refBarriers_bars { s with bars := bs } f.wvC l.ahb f.avC f.ahbC
  · exact ⟨bs, rfl⟩

theorem frontSide_advancePair (s : State) (q qc : QueueRow) : FrontSide s (advancePair s q qc) := by
  unfold advancePair
  dsimp only
  have h := frontSide_advanceHead s q false
  split
  · exact h.trans (frontSide_advanceHead _ _ _)
  · exact h

/-! ## A pair fuses -/

/-- The arena holds the image and its map. -/
def arenaWritten (s : State) (ctx a : Nat) (us : List (List Byte)) : State := if arenaHolds s ctx a us = true then s else writeArena s ctx a us

theorem stored_arenaWritten (s : State) (ctx a : Nat) (us : List (List Byte)) : Stored s (arenaWritten s ctx a us) := .ite (.refl s) (stored_writeArena ..)

/-- The fused launch stands last, its references taken and counted. -/
def fusedTaken (s : State) (ctx : Nat) (l : Launch) : State :=
  modCtx (refLaunch (addLaunch s { l with id := s.fresh }) l) ctx (fun k => { k with spliced := k.spliced + 1 })

theorem fusedTaken_eq (s : State) (ctx : Nat) (l : Launch) : ∃ bs, fusedTaken s ctx l =
    modCtx { s with launches := s.launches ++ [{ l with id := s.fresh }], fresh := s.fresh + 1, bars := bs } ctx splicedOnce := by
  obtain ⟨bs, hbs⟩ := refLaunch_bars (addLaunch s { l with id := s.fresh }) l
  refine ⟨bs, ?_⟩
  unfold fusedTaken
  rw [hbs]
  rfl

/-- What a pair that is accepted leaves. -/
def pairFused (s : State) (q qd : QueueRow) (d : SplicePlan) : State :=
  advancePair (fusedTaken (arenaWritten s q.ctx d.arena d.units) q.ctx d.launch) q qd

theorem sameExec_pairFused (s : State) (q qd : QueueRow) (d : SplicePlan) : SameExec s (pairFused s q qd d) := by
  have hw := (stored_arenaWritten s q.ctx d.arena d.units).front.sameExec
  obtain ⟨bs, hbs⟩ := fusedTaken_eq (arenaWritten s q.ctx d.arena d.units) q.ctx d.launch
  have ht : SameExec s (fusedTaken (arenaWritten s q.ctx d.arena d.units) q.ctx d.launch) := by rw [hbs]; exact hw
  exact ht.trans (frontSide_advancePair ..).sameExec

theorem sameExec_fuse (q : QueueRow) (p : LaunchRec) (d : SplicePlan) (s : State) : SameExec s (fuse q p d s) := by
  unfold fuse
  split
  · exact .refl s
  · rename_i qd hqd
    split
    · exact sameExec_refuseEvent ..
    · refine sameExec_withLines ?_
      dsimp only
      split
      · exact .refl s
      · exact sameExec_pairFused s q qd d

theorem fuse_eq {q qd : QueueRow} {p : LaunchRec} {d : SplicePlan} {s : State} (hqd : partnerThere s q d = some qd)
    (hrefs : refsFit s (launchRefs d.launch) = true)
    (hgaps : ctxGaps s q.ctx true (planWrites d q qd) = []) (hserial : d.serialC = false) (harena : arenaInUse s q.ctx d.arena = false)
    (hroom : ctxRoom s q.ctx (planWrites d q qd) = true) : fuse q p d s = pairFused s q qd d := by
  unfold fuse
  rw [hqd]
  dsimp only
  rw [if_neg (by simp [hrefs]), hgaps, withLines_nil, if_neg (by simp [hserial, harena, hroom])]
  rfl

theorem sameExec_decidePair (q qc : QueueRow) (p c : LaunchRec) (s : State) : SameExec s (decidePair q p qc c s) := by
  unfold decidePair
  split
  · exact sameExec_refuseEvent ..
  · exact SameExec.trans (t := setQueue s _) ⟨rfl, rfl⟩ (sameExec_fuse ..)

theorem launches_setQueue (s : State) (q : QueueRow) : (setQueue s q).launches = s.launches := rfl

theorem ctxRow_setQueue (s : State) (q : QueueRow) (ctx : Nat) : ctxRow (setQueue s q) ctx = ctxRow s ctx := rfl

/-! ## The tests -/

theorem refsFit_setQueue (s : State) (q : QueueRow) (hs : List Word) : refsFit (setQueue s q) hs = refsFit s hs := rfl

theorem test1_refs {s : State} {ctx ctxC : Nat} {p c : LaunchRec} {d : KDesc × KDesc} (h : test1 s ctx ctxC p c = some d) :
    refsFit s (recordRefs p c) = true := by
  unfold test1 at h
  split at h
  · dsimp only at h
    split at h
    · rename_i hall
      exact hall.2.2.2.2.2.2.2
    · cases h
  · cases h

theorem shapesAgree_waits {s : State} {ctx : Nat} {p c : LaunchRec} {pd cd : KDesc} (h : shapesAgree s ctx p c pd cd = true) (hw : c.wv = true) :
    c.wh = p.ahb := by
  unfold shapesAgree at h
  simp only [hw, Bool.and_eq_true, Bool.or_eq_true, Bool.not_true, Bool.false_eq_true, false_or, decide_eq_true_eq] at h
  obtain ⟨⟨-, -, hwh⟩, -⟩ := h
  exact hwh

/-- A pair that passes the tests has room for its references, and its consumer waits, if at all, for the producer's arrival. -/
theorem planOf_refs {s : State} {ctx ctxC : Nat} {p c : LaunchRec} {pl : Plan} (h : planOf s ctx ctxC p c = .ok pl) :
    refsFit s (recordRefs p c) = true ∧ (c.wv = true → c.wh = p.ahb) := by
  unfold planOf at h
  split at h
  · cases h
  · rename_i ht1
    split at h
    · cases h
    · split at h
      · cases h
      · rename_i hshapes
        exact ⟨test1_refs ht1, shapesAgree_waits (by simpa using hshapes)⟩

/-- The references of the fused launch are those of the two records. -/
theorem launchRefs_decided {p c : LaunchRec} (hw : c.wv = true → c.wh = p.ahb) (s : State) (q qc : QueueRow) (pl : Plan) :
    launchRefs (decided s q qc p c pl).launch = recordRefs p c := by
  show pairRefs p.wv p.wh p.av p.ahb c.wv p.ahb c.av c.ahb = pairRefs p.wv p.wh p.av p.ahb c.wv c.wh c.av c.ahb
  cases hc : c.wv with
  | false => rfl
  | true => rw [hw hc]

/-! ## The decision -/

theorem spliceEvent_eq {s : State} {vf num : Nat} {q : QueueRow} {p : LaunchRec} (hq : queueOf s vf num = some q) (hp : headRecord s q = some p)
    (hslots : slotGaps s q = []) (hd : descGaps s q.ctx p = []) (hr : recordGaps s q.ctx p = []) : spliceEvent vf num s = splicePair q p s := by
  have hgaps : descGaps s q.ctx p ++ recordGaps s q.ctx p = [] := by rw [hd, hr, List.nil_append]
  unfold spliceEvent
  rw [hq]
  dsimp only
  rw [hslots, withLines_nil, hp]
  dsimp only
  rw [hgaps, withLines_nil]

theorem plan_of_notHeld {s : State} {q : QueueRow} (h : headHeld s q = false) : q.plan = none := by
  unfold headHeld at h
  rw [Bool.or_eq_false_iff] at h
  simpa using h.1

/-- A producer at the head whose partner is visible is decided, its lines being there. -/
theorem splicePairWith_decides {s : State} {q qc : QueueRow} {p c : LaunchRec} (hheld : headHeld s q = false) (hprod : isProducer s q p = true)
    (hw : recordWaits s q p = false)
    (hgaps : firstGaps [descGaps s qc.ctx c ++ recordGaps s qc.ctx c, kernGaps s q.ctx p ++ kernGaps s qc.ctx c] = []) :
    splicePairWith q p s (some (qc, c)) = decidePair q p qc c s := by
  rw [splicePairWith_none (plan_of_notHeld hheld), if_neg (by simp [hheld, hprod, hw])]
  dsimp only
  rw [hgaps, withLines_nil]

theorem spliceEvent_decides {s : State} {vf num : Nat} {q x qc : QueueRow} {p c : LaunchRec} (hq : queueOf s vf num = some q) (hp : headRecord s q = some p)
    (hslots : slotGaps s q = []) (hd : descGaps s q.ctx p = []) (hr : recordGaps s q.ctx p = []) (hx : queueOf (noteSeen s q) vf num = some x)
    (hheld : headHeld (noteSeen s q) x = false) (hprod : isProducer (noteSeen s q) x p = true) (hw : recordWaits (noteSeen s q) x p = false)
    (hpartner : partnerOf (noteSeen s q) x p = some (qc, c))
    (hgaps : firstGaps [descGaps (noteSeen s q) qc.ctx c ++ recordGaps (noteSeen s q) qc.ctx c,
      kernGaps (noteSeen s q) x.ctx p ++ kernGaps (noteSeen s q) qc.ctx c] = []) :
    spliceEvent vf num s = decidePair x p qc c (noteSeen s q) := by
  have hseen : seenRow q (noteSeen s q) = x := by
    obtain ⟨rfl, rfl⟩ := queueOf_name hq
    rw [seenRow, hx, Option.getD_some]
  rw [spliceEvent_eq hq hp hslots hd hr, splicePair_eq, splicePairOn, hseen, hpartner, splicePairWith_decides hheld hprod hw hgaps]

/-! ## A refused pair -/

theorem decidePair_refused {s : State} {q qc : QueueRow} {p c : LaunchRec} {e : Nat} (h : planOf s q.ctx qc.ctx p c = .error e)
    (hgaps : ctxGaps s q.ctx true (takeWrites q p) = []) (hroom : ctxRoom s q.ctx (takeWrites q p) = true) :
      decidePair q p qc c s = refusePair s q qc p e := by
  unfold decidePair
  split
  · rename_i e' h'
    cases h.symm.trans h'
    rw [refuseEvent, hgaps, withLines_nil, if_pos hroom]
  · rename_i pl h'
    cases h.symm.trans h'

theorem ctxs_takeRecord {s : State} {q : QueueRow} {r : LaunchRec} (h : rejectStatus s q.ctx r = none) (asis : Bool) :
    (takeRecord s q r asis).ctxs.map bareCtx = s.ctxs.map bareCtx := by
  rw [takeRecord_accepted h]
  obtain ⟨coll, bs, hbs, -⟩ := launchTaken_eq s q r
  rw [(frontSide_advanceHead (launchTaken s q r) q asis).bare, hbs]

/-- A refused pair's producer becomes a launch of its own, and its context counts the reason (R276). -/
theorem refusePair_launch {s : State} {q : QueueRow} {p : LaunchRec} (hst : rejectStatus s q.ctx p = none) (qc : QueueRow) (e : Nat) :
    ∃ l : Launch, (refusePair s q qc p e).launches = s.launches ++ [l] ∧ l.fused = none ∧ l.kid = p.kid ∧
      ∀ k : CtxRow, ctxRow s q.ctx = some k → e < 6 →
        ∃ k2 : CtxRow, ctxRow (refusePair s q qc p e) q.ctx = some k2 ∧ k2.refusals.getD e 0 = k.refusals.getD e 0 + 1 := by
  obtain ⟨asis, hfront⟩ := refusePair_cases s q qc p e
  have hst' : rejectStatus (countRefusal s q.ctx e) q.ctx p = none := ((sameReads_countRefusal ..).rejectStatus ..).trans hst
  obtain ⟨coll, hlaunches, -⟩ := takeRecord_launch hst' asis
  refine ⟨_, hfront.launches.trans hlaunches, rfl, rfl, fun k hk he => ?_⟩
  have hcount : ctxRow (countRefusal s q.ctx e) q.ctx = some (refusedOnce e k) := by rw [ctxRow_countRefusal, if_pos rfl, hk]; rfl
  obtain ⟨k2, hk2, hbare⟩ := ctxRow_of_bare (hfront.bare.trans (ctxs_takeRecord hst' asis)) hcount
  exact ⟨k2, hk2, by rw [refusals_of_bare hbare, refusedOnce_getD k he]⟩

/-! ## A fused pair -/

theorem decidePair_fused {s : State} {q qc qd : QueueRow} {p c : LaunchRec} {pl : Plan} (h : planOf s q.ctx qc.ctx p c = .ok pl) (hserial : c.serial = false)
    (hqd : partnerThere (setQueue s { q with plan := some (decided s q qc p c pl) }) q (decided s q qc p c pl) = some qd)
    (harena : arenaInUse (setQueue s { q with plan := some (decided s q qc p c pl) }) q.ctx pl.pd.arena = false)
    (hgaps : ctxGaps (setQueue s { q with plan := some (decided s q qc p c pl) }) q.ctx true (planWrites (decided s q qc p c pl) q qd) = [])
    (hroom : ctxRoom (setQueue s { q with plan := some (decided s q qc p c pl) }) q.ctx (planWrites (decided s q qc p c pl) q qd) = true) :
    decidePair q p qc c s = pairFused (setQueue s { q with plan := some (decided s q qc p c pl) }) q qd (decided s q qc p c pl) := by
  obtain ⟨hrefs, hwaits⟩ := planOf_refs h
  have hfit : refsFit (setQueue s { q with plan := some (decided s q qc p c pl) }) (launchRefs (decided s q qc p c pl).launch) = true := by
    rw [launchRefs_decided hwaits, refsFit_setQueue, hrefs]
  unfold decidePair
  split
  · rename_i e h'
    cases h.symm.trans h'
  · rename_i pl' h'
    cases h.symm.trans h'
    exact fuse_eq hqd hfit hgaps hserial harena hroom

/-- A pair that fuses becomes one launch, and its context counts it (R284). -/
theorem pairFused_launch (s : State) (q qd : QueueRow) (d : SplicePlan) :
    (∃ id, (pairFused s q qd d).launches = s.launches ++ [{ d.launch with id := id }]) ∧
      ∀ k : CtxRow, ctxRow s q.ctx = some k → ∃ k2 : CtxRow, ctxRow (pairFused s q qd d) q.ctx = some k2 ∧ k2.spliced = k.spliced + 1 := by
  have hw := stored_arenaWritten s q.ctx d.arena d.units
  have hadv := frontSide_advancePair (fusedTaken (arenaWritten s q.ctx d.arena d.units) q.ctx d.launch) q qd
  obtain ⟨bs, hbs⟩ := fusedTaken_eq (arenaWritten s q.ctx d.arena d.units) q.ctx d.launch
  refine ⟨⟨(arenaWritten s q.ctx d.arena d.units).fresh, ?_⟩, fun k hk => ?_⟩
  · rw [show (pairFused s q qd d).launches = _ from hadv.launches, hbs]
    exact congrArg (· ++ _) hw.launches
  · obtain ⟨k1, hk1, hbare1⟩ := ctxRow_of_bare hw.2 hk
    have hrow : ctxRow (fusedTaken (arenaWritten s q.ctx d.arena d.units) q.ctx d.launch) q.ctx = some (splicedOnce k1) := by
      rw [hbs, ctxRow_modCtx _ _ _ splicedOnce fun _ h => h, if_pos rfl]
      exact congrArg (Option.map splicedOnce) hk1
    obtain ⟨k2, hk2, hbare2⟩ := ctxRow_of_bare hadv.bare hrow
    refine ⟨k2, hk2, (spliced_of_bare hbare2).trans ?_⟩
    exact congrArg (· + 1) (spliced_of_bare hbare1)

/-- A splice pair is refused and counted, or becomes one fused launch (R275, R276, R284). -/
theorem spliceDecide_serves {s : State} {vf num : Nat} {q x qc : QueueRow} {p c : LaunchRec} (hq : queueOf s vf num = some q) (hp : headRecord s q = some p)
    (hslots : slotGaps s q = []) (hd : descGaps s q.ctx p = []) (hr : recordGaps s q.ctx p = []) :
    let s1 := noteSeen s q
    queueOf s1 vf num = some x → headHeld s1 x = false → isProducer s1 x p = true → rejectStatus s1 x.ctx p = none → recordWaits s1 x p = false →
    partnerOf s1 x p = some (qc, c) → firstGaps [descGaps s1 qc.ctx c ++ recordGaps s1 qc.ctx c, kernGaps s1 x.ctx p ++ kernGaps s1 qc.ctx c] = [] →
    ∃ t : State, exec (.spliceDecide vf num) s = .next t ∧ t.gangs = s.gangs ∧ t.vrf = s.vrf ∧
      (∀ e : Nat, planOf s1 x.ctx qc.ctx p c = .error e → ctxGaps s1 x.ctx true (takeWrites x p) = [] → ctxRoom s1 x.ctx (takeWrites x p) = true →
        ∃ l : Launch, t.launches = s.launches ++ [l] ∧ l.fused = none ∧ l.kid = p.kid ∧
          ∀ k : CtxRow, ctxRow s x.ctx = some k → e < 6 → ∃ k2 : CtxRow, ctxRow t x.ctx = some k2 ∧ k2.refusals.getD e 0 = k.refusals.getD e 0 + 1) ∧
      (∀ (pl : Plan) (qd : QueueRow), planOf s1 x.ctx qc.ctx p c = .ok pl → c.serial = false →
        let d := decided s1 x qc p c pl
        let s2 := setQueue s1 { x with plan := some d }
        partnerThere s2 x d = some qd → arenaInUse s2 x.ctx pl.pd.arena = false → ctxGaps s2 x.ctx true (planWrites d x qd) = [] →
        ctxRoom s2 x.ctx (planWrites d x qd) = true →
        let s3 := if arenaHolds s2 x.ctx pl.pd.arena (arenaUnits pl) = true then s2 else writeArena s2 x.ctx pl.pd.arena (arenaUnits pl)
        t = advancePair (modCtx (refLaunch (addLaunch s3 { d.launch with id := s3.fresh }) d.launch) x.ctx
          (fun k => { k with spliced := k.spliced + 1 })) x qd ∧
        ∃ (l : Launch) (f : Fused), t.launches = s.launches ++ [l] ∧ l.fused = some f ∧ l.entry = BitVec.ofNat 64 pl.pd.arena ∧
          l.banks = (pl.np + pl.cd.regs) / 16 ∧ l.kid = p.kid ∧ f.kidC = c.kid ∧ f.queueC = qc.num ∧ f.np = pl.np ∧ f.up = pl.up ∧ f.arena = pl.pd.arena ∧
          f.npkt = pl.p.pks.length + pl.c.pks.length ∧
          ∀ k : CtxRow, ctxRow s x.ctx = some k → ∃ k2 : CtxRow, ctxRow t x.ctx = some k2 ∧ k2.spliced = k.spliced + 1) := by
  intro s1 hx hheld hprod hst hw hpartner hgaps
  have hevent : spliceEvent vf num s = decidePair x p qc c s1 := spliceEvent_decides hq hp hslots hd hr hx hheld hprod hw hpartner hgaps
  obtain ⟨qs, hqs⟩ := noteSeen_queues s q
  have hs1 : s1 = { s with queues := qs } := hqs
  clear_value s1
  have hrows : ∀ k, ctxRow s x.ctx = some k → ctxRow s1 x.ctx = some k := fun k hk => by rw [hs1]; exact hk
  have hlaunches : s1.launches = s.launches := by rw [hs1]
  obtain ⟨hgangs, hvrf⟩ := sameExec_decidePair x qc p c s1
  refine ⟨_, congrArg Host.Outcome.next hevent, hgangs.trans (by rw [hs1]), hvrf.trans (by rw [hs1]), fun e he hgap hroom => ?_,
    fun pl qd hpl hserial => ?_⟩
  · rw [decidePair_refused he hgap hroom]
    obtain ⟨l, hl, hfused, hkid, hcount⟩ := refusePair_launch hst qc e
    exact ⟨l, hl.trans (by rw [hlaunches]), hfused, hkid, fun k hk => hcount k (hrows k hk)⟩
  · intro d s2 hqd harena hgap hroom s3
    have hfused : decidePair x p qc c s1 = pairFused s2 x qd d := decidePair_fused hpl hserial hqd harena hgap hroom
    obtain ⟨⟨id, hl⟩, hcount⟩ := pairFused_launch s2 x qd d
    rw [hfused]
    have hbefore : s2.launches = s.launches := (launches_setQueue s1 _).trans hlaunches
    have hkept : ∀ k, ctxRow s x.ctx = some k → ctxRow s2 x.ctx = some k := fun k hk => (ctxRow_setQueue s1 _ _).trans (hrows k hk)
    exact ⟨rfl, _, _, hl.trans (congrArg (· ++ _) hbefore), rfl, rfl, rfl, rfl, rfl, rfl, rfl, rfl, rfl, rfl, fun k hk => hcount k (hkept k hk)⟩

end Sys2Proof.Machine
end

section
/-! PROOFS. The dispatcher (13_queues, 14_splicer). -/

namespace Sys2Proof.Machine

/-- Settles O50: a scan, a record, a splice pair, a placement and a launch's end are each the step that the lemmas about them name; the fused image is
its own lemma about every plan. -/
theorem dispatcherServes : Obligations.DispatcherServes := by
  refine ⟨fun s vf num n q hq he h0 => queueScan_serves hq he h0, ?_, ?_, fusedImage_laidOut, fun s l p hl hturn hok => placeBlock_serves hl hturn hok,
    fun s l hl hd hf hw ha h1 h2 => launchEnd_serves hl hd hf hw ha h1 h2⟩
  · intro s vf num q x r hq hr hslot hgaps hroom s1 hx s2 malformed right barrier pool refused goes
    obtain ⟨h4, h6, h7, h5, hbinding⟩ := rejectStatus_rows s1 q.ctx r (malformed_iff s1 q.ctx r)
    exact ⟨h4, h6, h7, h5, hbinding, recordAccept_serves hq hr hslot hgaps hroom hx⟩
  · intro s vf num q x qc p c hq hp hslots hd hr s1 hx hheld hprod hst hw hpartner hgaps
    exact spliceDecide_serves hq hp hslots hd hr hx hheld hprod hst hw hpartner hgaps

end Sys2Proof.Machine
end
